-- ==== Sys2Proof/Word.lean ====
section
/-! DEFINITION. The word types of the Porith X4 and the plain table type that State is built from. -/

namespace Sys2Proof

/-- A byte of pool, Cellar, host or peer memory (R3). -/
abbrev Byte := BitVec 8

/-- A 64-bit register, CSR or constant word (R31, R33, R41). -/
abbrev Word := BitVec 64

/-- A 32-bit instruction word (R59). -/
abbrev Word32 := BitVec 32

/-- A 48-bit virtual address or program counter (R31, R263). -/
abbrev VAddr := BitVec 48

/-- A 1024-bit vector register or landing value (R33, R38). -/
abbrev Vec := BitVec 1024

/-- A 128-bit mask register (R33). -/
abbrev Mask := BitVec 128

/-- Sparse data by key: pairs of a key and its record, keys strictly rising. -/
abbrev Tbl (α : Type) := List (Nat × α)

end Sys2Proof
end

