-- ==== Sys2Proof/Config.lean ====
section
/-! DEFINITION. What one implementation fixes, and the free values of the spec: constants without a body, so that no
proof can see a value of them. -/

namespace Sys2Proof.Config

/-- Which of the values that R115 admits an approximated special function returns, counted from the lowest: the same
for every run and part for one operation, formats and input pattern; the rounding mode has no say in it (R115). DESIGN
CHOICE: a free value, log 10. -/
opaque approxPick : Nat → Nat → Nat → Nat

/-- Where the fuse map placed the core of a device core index. Free, log 3. -/
opaque fuseMap : Nat → Nat

/-- Physical core number of a device core index on its die, 0 to 152 (R41, c227): 17 x physical row + physical column. -/
def physCore (core : Nat) : BitVec 8 := BitVec.ofNat 8 (fuseMap core % 153)

/-- The error-correcting code over bits 39:0 of a packet header (R333). Free, log 4. -/
opaque headerEcc : Nat → BitVec 8

/-- Fused worst-case power in watts of a row at a state and an operating point (R390). Free, log 4. -/
opaque rowPower : Nat → Nat → Nat → Nat

/-- The byte the vault controller stores for a plaintext byte under a key at an address (R266, AES-XTS). Free, log 4. -/
opaque cipher : BitVec 256 → Nat → BitVec 8 → BitVec 8

/-- What a reader without the key reads for a byte stored as given (R266, R340). Free, log 4. -/
opaque decipher : BitVec 256 → Nat → BitVec 8 → BitVec 8

/-- The key that the key unit unwraps from a wrapped key of a length, none where the unwrapping fails (R387). Free, log 4. -/
opaque unwrapKey : List (BitVec 8) → Option (BitVec 256)

/-- SHAKE256 of a list of bytes, 512 bits of it (R384). Free, log 4. -/
opaque shake256 : List (BitVec 8) → BitVec 512

/-- Measurement register of a boot stage at State.reset, after the first bring-up (R384). Free, log 4. -/
opaque measurement : Nat → BitVec 512

/-- Word 0x140 of the attestation report beside the fused ceiling: the firmware version, and bits that R385 does not assign. Free,
log 4. -/
opaque firmwareWord : BitVec 64

/-- The bytes of a context's key-slot assignment and confidential bit that the report digests (R385): function and context, its
slots, the bit. Free, log 4. -/
opaque slotBytes : Nat → Nat → List Nat → Bool → List (BitVec 8)

/-- The signature of a report under the device identity key (R385): its length, and its byte at a place. Free, log 4. -/
opaque signatureLen : List (BitVec 8) → Nat
/-- See signatureLen. -/
opaque signatureByte : List (BitVec 8) → Nat → BitVec 8

/-- Whether a peer device accepts a request of this device, by peer, address and write (R348). Free, log 8. -/
opaque peerAdmits : Nat → Nat → Bool → Bool

/-- Whether a peer is reached through at most one Gararo switch (R336). Free, log 8. -/
opaque oneSwitch : Nat → Bool

/-- A free value applied to the counter of State: the value the spec calls undefined (log 5). -/
opaque freeValue : Nat → BitVec 64

end Sys2Proof.Config
end

