-- ==== Sys2Proof/Syntax.lean ====
section
/-! DEFINITION. The instructions and events of the Porith X4: one constructor for each row of the opcode table. -/

namespace Sys2Proof

/-- The source that a west bit marks (R64): wa for operand a, wb for operand b. -/
inductive West | no | a | b
  deriving DecidableEq, Repr

/-- The access sizes of format M (R62): 1, 2, 4, 8 bytes. -/
inductive Sz | b | h | w | d
  deriving DecidableEq, Repr

/-- The orderings of an AMO or CAS (R62). -/
inductive Ord4 | plain | acq | rel | ar
  deriving DecidableEq, Repr

/-- The GVOTE modifiers (R141). -/
inductive VoteOp | all | any | sum | min | max
  deriving DecidableEq, Repr

/-- The AMO operations (R77); SWAP is no RED operation. -/
inductive AmoOp | add | and | or | xor | min | max | minn | maxn | swap | fadd
  deriving DecidableEq, Repr

/-- The VCMP conditions (R78, R193). -/
inductive CmpCond | eq | ne | lt | le | gt | ge | uo
  deriving DecidableEq, Repr

/-- The operations of VRED and CRED (R78, R79). -/
inductive RedOp | add | min | max
  deriving DecidableEq, Repr

/-- The MMA semirings (R79): .pt, .mp, .xp, .xt, .oa. -/
inductive Semiring | pt | mp | xp | xt | oa
  deriving DecidableEq, Repr

/-- The MMA operand formats (R79). -/
inductive PressFmt | d8 | d8s | z8 | i8 | bf16 | f16 | b1
  deriving DecidableEq, Repr

/-- The source kinds of a COPY (R228): own pool, global, remote pool. -/
inductive CopySrc | pool | global | remote
  deriving DecidableEq, Repr

/-- The destination kinds of a COPY (R228). -/
inductive CopyDst | pool | global | remote | ring | multicast
  deriving DecidableEq, Repr

/-- The element formats of a CRED (R79). -/
inductive CredFmt | f32 | bf16 | i32
  deriving DecidableEq, Repr

/-- The strand CSRs (R146). -/
inductive Csr | sst | tvec | tcause | tval | tpc | regpc | mstatus | bka0 | bka1 | bka2 | bka3 | loopc | loops | loope
  | rloopc | rloops | rloope | cycle | hsave0 | hsave1
  deriving DecidableEq, Repr

/-- The fields of a PX word (R61, R66). -/
structure Px where
  msk : BitVec 3
  mz  : Bool
  rm  : BitVec 3
  fa  : BitVec 4
  fb  : BitVec 4
  fd  : BitVec 4
  ea  : Bool
  eb  : Bool
  c   : BitVec 5
  deriving DecidableEq, Repr

/-- The fields when no PX precedes (R66). -/
def Px.none : Px := ⟨0, false, 0, 0, 0, 0, false, false, 0⟩

/-- The directions of the channels that leave a router: the four compass links and the skip channels (R331). -/
inductive Dir | east | west | north | south | skipEast | skipWest
  deriving DecidableEq, Repr

/-- A link of the fabric: the channel that leaves a router of a die's 17 by 9 mesh (R331), the bridge from one die to a
neighbour (R335), a Gararo link (R346). -/
inductive Chan
  | mesh (die x y : Nat) (dir : Dir)
  | bridge (die peer : Nat)
  | gararo (l : Nat)
  deriving DecidableEq, Repr

/-- What becomes of a packet at a router or bridge (R334, R335): forwarded, forwarded with a corrected header, dropped
for an uncorrectable header. -/
inductive HopFate | forward (link : Chan) | corrected (link : Chan) | dropped (link : Chan)
  deriving DecidableEq, Repr

/-- What an inbound peer request asks (R348): a read, a write, or an operation of the vault's reduction unit with its source core
and port, sequence number and generation (R312): AMO, CAS with its expected value, RED, or a granule of a CRED from a copy channel. AMO
and CAS return the old value. -/
inductive PeerKind
  | read | write
  | amo (op : AmoOp) (core : Nat) (seq : BitVec 16) (gen : BitVec 8)
  | cas (expect : BitVec 64) (core : Nat) (seq : BitVec 16) (gen : BitVec 8)
  | red (op : AmoOp) (core : Nat) (seq : BitVec 16) (gen : BitVec 8)
  | cred (op : RedOp) (fmt : CredFmt) (core chan : Nat) (seq : BitVec 16) (gen : BitVec 8)
  deriving DecidableEq, Repr

/-- Where an inbound peer request comes from (R348): the Gararo link that it arrives on and the peer. -/
structure PeerSource where
  link : Nat
  peer : Nat
  deriving DecidableEq, Repr

/-- What bring-up finds (R256, R384, R393): the Loft frame count, the digests of the boot images in their order, each with
whether its signature holds, and whether the other steps pass. -/
structure Bringup where
  loftF : Nat
  images : List (BitVec 512 × Bool)
  passed : Bool
  deriving DecidableEq, Repr

/-- What a Gararo switch reports (R347): a route to a peer over a link, or none. -/
structure RouteReport where
  peer : Nat
  link : Nat
  up : Bool
  deriving DecidableEq, Repr

/-- The register block that a host write names (R340, R349, R379): BAR0 of a virtual function, BAR0 of the physical
function, the debug block. -/
inductive RegSpace | vf (n : Nat) | pf | debug
  deriving DecidableEq, Repr

/-- The state that an uncorrectable error strikes (R259, R260, R364). -/
inductive ErrTarget
  | g (core slot num : Nat) | m (core slot num : Nat) | h (row slot num : Nat) | csr (row slot num : Nat)
  | pool (core granule : Nat) | cellar (granule : Nat) | control (row : Nat)
  deriving DecidableEq, Repr

/-- One row of the opcode table: an instruction, or one of the part's events. -/
inductive Instr
  /-- PX (R66): Prefix word that supplies mask, zeroing, rounding, formats, trap-empty bits and a fourth operand or scope to the lane instruction at the next word address. -/
  | px (p : Px)
  /-- ADD_HEAD (R121): Head register add modulo 2^64. -/
  | addHead (d : BitVec 4) (a : BitVec 4) (b : BitVec 4)
  /-- SUB_HEAD (R121): Head register subtract modulo 2^64. -/
  | subHead (d : BitVec 4) (a : BitVec 4) (b : BitVec 4)
  /-- AND_HEAD (R121): Head register bitwise AND. -/
  | andHead (d : BitVec 4) (a : BitVec 4) (b : BitVec 4)
  /-- OR_HEAD (R121): Head register bitwise OR. -/
  | orHead (d : BitVec 4) (a : BitVec 4) (b : BitVec 4)
  /-- XOR_HEAD (R121): Head register bitwise XOR. -/
  | xorHead (d : BitVec 4) (a : BitVec 4) (b : BitVec 4)
  /-- SHL_HEAD (R121): Head register logical shift left by b[5:0]. -/
  | shlHead (d : BitVec 4) (a : BitVec 4) (b : BitVec 4)
  /-- SHR_HEAD (R121): Head register logical shift right by b[5:0]. -/
  | shrHead (d : BitVec 4) (a : BitVec 4) (b : BitVec 4)
  /-- SAR_HEAD (R121): Head register arithmetic shift right by b[5:0]. -/
  | sarHead (d : BitVec 4) (a : BitVec 4) (b : BitVec 4)
  /-- MUL_HEAD (R121): Head register signed multiply, low 64 bits. -/
  | mulHead (d : BitVec 4) (a : BitVec 4) (b : BitVec 4)
  /-- SLT_HEAD (R121): Head register signed set-less-than. -/
  | sltHead (d : BitVec 4) (a : BitVec 4) (b : BitVec 4)
  /-- SLTN_HEAD (R121): Head register natural set-less-than. -/
  | sltnHead (d : BitVec 4) (a : BitVec 4) (b : BitVec 4)
  /-- MIN_HEAD (R121): Head register signed minimum. -/
  | minHead (d : BitVec 4) (a : BitVec 4) (b : BitVec 4)
  /-- MAX_HEAD (R121): Head register signed maximum. -/
  | maxHead (d : BitVec 4) (a : BitVec 4) (b : BitVec 4)
  /-- ADDI_HEAD (R122): Head add of sign-extended immediate. -/
  | addiHead (d : BitVec 4) (a : BitVec 4) (imm : BitVec 16)
  /-- ANDI_HEAD (R122): Head AND with sign-extended immediate. -/
  | andiHead (d : BitVec 4) (a : BitVec 4) (imm : BitVec 16)
  /-- ORI_HEAD (R122): Head OR with sign-extended immediate. -/
  | oriHead (d : BitVec 4) (a : BitVec 4) (imm : BitVec 16)
  /-- XORI_HEAD (R122): Head XOR with sign-extended immediate. -/
  | xoriHead (d : BitVec 4) (a : BitVec 4) (imm : BitVec 16)
  /-- SHLI_HEAD (R122): Head shift left by immediate count. -/
  | shliHead (d : BitVec 4) (a : BitVec 4) (n : BitVec 6)
  /-- SHRI_HEAD (R122): Head logical shift right by immediate count. -/
  | shriHead (d : BitVec 4) (a : BitVec 4) (n : BitVec 6)
  /-- SARI_HEAD (R122): Head arithmetic shift right by immediate count. -/
  | sariHead (d : BitVec 4) (a : BitVec 4) (n : BitVec 6)
  /-- LI_HEAD (R122): Head load of sign-extended 16-bit immediate. -/
  | liHead (d : BitVec 4) (imm : BitVec 16)
  /-- LUI_HEAD (R122): Head shift of ha left 16 and OR of the zero-extended immediate. -/
  | luiHead (d : BitVec 4) (a : BitVec 4) (imm : BitVec 16)
  /-- BEQ (R123): Branch if head registers are equal. -/
  | beq (a : BitVec 4) (b : BitVec 4) (off : BitVec 12)
  /-- BNE (R123): Branch if head registers differ. -/
  | bne (a : BitVec 4) (b : BitVec 4) (off : BitVec 12)
  /-- BLT (R123): Branch if signed less than. -/
  | blt (a : BitVec 4) (b : BitVec 4) (off : BitVec 12)
  /-- BGE (R123): Branch if signed greater or equal. -/
  | bge (a : BitVec 4) (b : BitVec 4) (off : BitVec 12)
  /-- BLTN (R123): Branch if natural less than. -/
  | bltn (a : BitVec 4) (b : BitVec 4) (off : BitVec 12)
  /-- BGEN (R123): Branch if natural greater or equal. -/
  | bgen (a : BitVec 4) (b : BitVec 4) (off : BitVec 12)
  /-- JMP (R124): Relative jump by a 26-bit word offset. -/
  | jmp (off : BitVec 26)
  /-- CALL (R124): Relative jump that writes the return address to h14. -/
  | call (off : BitVec 26)
  /-- JR (R124): Register jump to ha, writing the link to hb. -/
  | jr (a : BitVec 4) (b : BitVec 4)
  /-- LOOP (R125): Sets up a counted head loop over the following body, or skips it for a zero count. -/
  | loop (a : BitVec 4) (off : BitVec 12)
  /-- LD_D (R128): Head 8-byte load, holding the strand until the value returns. -/
  | ldD (d : BitVec 4) (a : BitVec 4) (off : BitVec 12) (acq : Bool)
  /-- ST_D (R128): Head 8-byte store, posted after its translation check. -/
  | stD (d : BitVec 4) (a : BitVec 4) (off : BitVec 12) (rel : Bool)
  /-- DRAIN (R131): Waits until every earlier lane instruction of the strand has executed at all cores. -/
  | drain
  /-- YIELD (R132): Removes the strand from issue selection until other able strands have issued once or 8 cycles pass. -/
  | yield
  /-- EXIT (R133): Ends the task with an exit code after draining its work and checking store-fault records. -/
  | exit (a : BitVec 4)
  /-- REGION (R134): Sets REGPC to the next instruction and takes the loop snapshot. -/
  | region
  /-- PAUSE (R135): Keeps the head from issuing the strand for a number of cycles. -/
  | pause (a : BitVec 4)
  /-- TWAIT (R30): Removes the oldest tail-queue entry into hd, waiting while the queue is empty. -/
  | twait (d : BitVec 4)
  /-- TILEGET (R136): Takes the next tile from a die dispenser, committing on grant. -/
  | tileget (d : BitVec 4) (a : BitVec 4)
  /-- PUBLISH (R137): Waits for host-window writes to be acknowledged and then atomically increments a host counter with system-scope release. -/
  | publish (a : BitVec 4)
  /-- SVC (R138): Raises the precise trap SVC with TVAL = n. -/
  | svc (n : BitVec 10)
  /-- TRET (R139): Ends handler level, restores loop state from the snapshot and rewinds to REGPC. -/
  | tret
  /-- TRET_AT (R139): Ends handler level and resumes at ha, applying a saved prefix when PP is set and ha = TPC. -/
  | tretAt (a : BitVec 4)
  /-- GBAR (R141): Arrives at the current generation of a group barrier after a device-scope release. -/
  | gbar (a : BitVec 4)
  /-- GVOTE (R141): Arrives at a group generation with a value and receives the all, any, sum, min or max of the arrivals. -/
  | gvote (op : VoteOp) (d : BitVec 4) (a : BitVec 4) (b : BitVec 4)
  /-- GLEAVE (R142): Removes the issuing task from a group. -/
  | gleave (a : BitVec 4)
  /-- GKILL (R142): Handler-level termination of every other member of a group. -/
  | gkill (a : BitVec 4)
  /-- MSEND (R143): Sends a 64-bit token to a task after a device-scope release and sets MSTATUS.CODE. -/
  | msend (a : BitVec 4) (b : BitVec 4)
  /-- MRECV (R144): Waits for and removes the oldest mailbox token, then acts as a device-scope acquire. -/
  | mrecv (d : BitVec 4)
  /-- MPROBE (R144): Returns the number of mailbox tokens without removing any. -/
  | mprobe (d : BitVec 4)
  /-- CSRR (R145): Reads a strand CSR into an h register. -/
  | csrr (d : BitVec 4) (csr : Csr)
  /-- CSRW (R145): Writes an h register to a strand CSR under the access of its level. -/
  | csrw (csr : Csr) (a : BitVec 4)
  /-- BKPT (R145): Head breakpoint raising the precise trap BKPT with TVAL = n. -/
  | bkpt (n : BitVec 12)
  /-- ADD (R152): Lane 64-bit add, either source possibly a west operand. -/
  | add (d : BitVec 5) (a : BitVec 5) (b : BitVec 5) (w : West)
  /-- SUB (R152): Lane subtract. -/
  | sub (d : BitVec 5) (a : BitVec 5) (b : BitVec 5) (w : West)
  /-- AND (R152): Lane bitwise AND. -/
  | and (d : BitVec 5) (a : BitVec 5) (b : BitVec 5) (w : West)
  /-- OR (R152): Lane bitwise OR. -/
  | or (d : BitVec 5) (a : BitVec 5) (b : BitVec 5) (w : West)
  /-- XOR (R152): Lane bitwise XOR. -/
  | xor (d : BitVec 5) (a : BitVec 5) (b : BitVec 5) (w : West)
  /-- SHL (R152): Lane logical shift left. -/
  | shl (d : BitVec 5) (a : BitVec 5) (b : BitVec 5) (w : West)
  /-- SHR (R152): Lane logical shift right. -/
  | shr (d : BitVec 5) (a : BitVec 5) (b : BitVec 5) (w : West)
  /-- SAR (R152): Lane arithmetic shift right. -/
  | sar (d : BitVec 5) (a : BitVec 5) (b : BitVec 5) (w : West)
  /-- MUL (R152): Lane signed multiply, low 64 bits. -/
  | mul (d : BitVec 5) (a : BitVec 5) (b : BitVec 5) (w : West)
  /-- SLT (R152): Lane signed set-less-than. -/
  | slt (d : BitVec 5) (a : BitVec 5) (b : BitVec 5) (w : West)
  /-- SLTN (R152): Lane natural set-less-than. -/
  | sltn (d : BitVec 5) (a : BitVec 5) (b : BitVec 5) (w : West)
  /-- MIN (R152): Lane signed minimum. -/
  | min (d : BitVec 5) (a : BitVec 5) (b : BitVec 5) (w : West)
  /-- MAX (R152): Lane signed maximum. -/
  | max (d : BitVec 5) (a : BitVec 5) (b : BitVec 5) (w : West)
  /-- MINN (R152): Lane natural minimum. -/
  | minn (d : BitVec 5) (a : BitVec 5) (b : BitVec 5) (w : West)
  /-- MAXN (R152): Lane natural maximum. -/
  | maxn (d : BitVec 5) (a : BitVec 5) (b : BitVec 5) (w : West)
  /-- MULH (R152): Lane signed multiply, high 64 bits. -/
  | mulh (d : BitVec 5) (a : BitVec 5) (b : BitVec 5) (w : West)
  /-- MULHN (R152): Lane natural multiply, high 64 bits. -/
  | mulhn (d : BitVec 5) (a : BitVec 5) (b : BitVec 5) (w : West)
  /-- DIV (R152): Lane signed division truncating toward zero; all ones for division by zero. -/
  | div (d : BitVec 5) (a : BitVec 5) (b : BitVec 5) (w : West)
  /-- DIVN (R152): Lane natural division. -/
  | divn (d : BitVec 5) (a : BitVec 5) (b : BitVec 5) (w : West)
  /-- REM (R152): Lane signed remainder. -/
  | rem (d : BitVec 5) (a : BitVec 5) (b : BitVec 5) (w : West)
  /-- REMN (R152): Lane natural remainder. -/
  | remn (d : BitVec 5) (a : BitVec 5) (b : BitVec 5) (w : West)
  /-- CLZ (R152): Lane count of leading zero bits. -/
  | clz (d : BitVec 5) (a : BitVec 5) (w : Bool)
  /-- CTZ (R152): Lane count of trailing zero bits. -/
  | ctz (d : BitVec 5) (a : BitVec 5) (w : Bool)
  /-- POPC (R152): Lane population count. -/
  | popc (d : BitVec 5) (a : BitVec 5) (w : Bool)
  /-- ADD_CONST (R151): Lane add with constant word ck. -/
  | addConst (d : BitVec 5) (a : BitVec 5) (k : BitVec 8)
  /-- SUB_CONST (R151): Lane subtract of constant word ck. -/
  | subConst (d : BitVec 5) (a : BitVec 5) (k : BitVec 8)
  /-- AND_CONST (R151): Lane AND with constant word. -/
  | andConst (d : BitVec 5) (a : BitVec 5) (k : BitVec 8)
  /-- OR_CONST (R151): Lane OR with constant word. -/
  | orConst (d : BitVec 5) (a : BitVec 5) (k : BitVec 8)
  /-- XOR_CONST (R151): Lane XOR with constant word. -/
  | xorConst (d : BitVec 5) (a : BitVec 5) (k : BitVec 8)
  /-- SHL_CONST (R151): Lane shift left by constant word. -/
  | shlConst (d : BitVec 5) (a : BitVec 5) (k : BitVec 8)
  /-- SHR_CONST (R151): Lane logical shift right by constant word. -/
  | shrConst (d : BitVec 5) (a : BitVec 5) (k : BitVec 8)
  /-- SAR_CONST (R151): Lane arithmetic shift right by constant word. -/
  | sarConst (d : BitVec 5) (a : BitVec 5) (k : BitVec 8)
  /-- MUL_CONST (R151): Lane multiply by constant word. -/
  | mulConst (d : BitVec 5) (a : BitVec 5) (k : BitVec 8)
  /-- SLT_CONST (R151): Lane signed less-than against constant word. -/
  | sltConst (d : BitVec 5) (a : BitVec 5) (k : BitVec 8)
  /-- SLTN_CONST (R151): Lane natural less-than against constant word. -/
  | sltnConst (d : BitVec 5) (a : BitVec 5) (k : BitVec 8)
  /-- MIN_CONST (R151): Lane signed minimum with constant word. -/
  | minConst (d : BitVec 5) (a : BitVec 5) (k : BitVec 8)
  /-- MAX_CONST (R151): Lane signed maximum with constant word. -/
  | maxConst (d : BitVec 5) (a : BitVec 5) (k : BitVec 8)
  /-- MINN_CONST (R151): Lane natural minimum with constant word. -/
  | minnConst (d : BitVec 5) (a : BitVec 5) (k : BitVec 8)
  /-- MAXN_CONST (R151): Lane natural maximum with constant word. -/
  | maxnConst (d : BitVec 5) (a : BitVec 5) (k : BitVec 8)
  /-- MULH_CONST (R151): Lane signed high multiply by constant word. -/
  | mulhConst (d : BitVec 5) (a : BitVec 5) (k : BitVec 8)
  /-- MULHN_CONST (R151): Lane natural high multiply by constant word. -/
  | mulhnConst (d : BitVec 5) (a : BitVec 5) (k : BitVec 8)
  /-- DIV_CONST (R151): Lane signed division by constant word. -/
  | divConst (d : BitVec 5) (a : BitVec 5) (k : BitVec 8)
  /-- DIVN_CONST (R151): Lane natural division by constant word. -/
  | divnConst (d : BitVec 5) (a : BitVec 5) (k : BitVec 8)
  /-- REM_CONST (R151): Lane signed remainder by constant word. -/
  | remConst (d : BitVec 5) (a : BitVec 5) (k : BitVec 8)
  /-- REMN_CONST (R151): Lane natural remainder by constant word. -/
  | remnConst (d : BitVec 5) (a : BitVec 5) (k : BitVec 8)
  /-- ADDI (R153): Lane add of sign-extended immediate. -/
  | addi (d : BitVec 5) (a : BitVec 5) (imm : BitVec 16)
  /-- ANDI (R153): Lane AND with immediate. -/
  | andi (d : BitVec 5) (a : BitVec 5) (imm : BitVec 16)
  /-- ORI (R153): Lane OR with immediate. -/
  | ori (d : BitVec 5) (a : BitVec 5) (imm : BitVec 16)
  /-- XORI (R153): Lane XOR with immediate. -/
  | xori (d : BitVec 5) (a : BitVec 5) (imm : BitVec 16)
  /-- SHLI (R153): Lane shift left by immediate. -/
  | shli (d : BitVec 5) (a : BitVec 5) (n : BitVec 6)
  /-- SHRI (R153): Lane logical shift right by immediate. -/
  | shri (d : BitVec 5) (a : BitVec 5) (n : BitVec 6)
  /-- SARI (R153): Lane arithmetic shift right by immediate. -/
  | sari (d : BitVec 5) (a : BitVec 5) (n : BitVec 6)
  /-- LI (R153): Lane load of sign-extended immediate. -/
  | li (d : BitVec 5) (imm : BitVec 16)
  /-- LUI (R153): Lane shift left 16 and OR of immediate. -/
  | lui (d : BitVec 5) (a : BitVec 5) (imm : BitVec 16)
  /-- FADD (R154): Scalar floating add with one rounding. -/
  | fadd (d : BitVec 5) (a : BitVec 5) (b : BitVec 5) (w : West)
  /-- FSUB (R154): Scalar floating subtract. -/
  | fsub (d : BitVec 5) (a : BitVec 5) (b : BitVec 5) (w : West)
  /-- FMUL (R154): Scalar floating multiply. -/
  | fmul (d : BitVec 5) (a : BitVec 5) (b : BitVec 5) (w : West)
  /-- FDIV (R154): Scalar floating divide. -/
  | fdiv (d : BitVec 5) (a : BitVec 5) (b : BitVec 5) (w : West)
  /-- FMA (R154): Scalar fused multiply-add with the addend in PX c. -/
  | fma (d : BitVec 5) (a : BitVec 5) (b : BitVec 5) (w : West)
  /-- FMIN (R154): Scalar floating minimum. -/
  | fmin (d : BitVec 5) (a : BitVec 5) (b : BitVec 5) (w : West)
  /-- FMAX (R154): Scalar floating maximum. -/
  | fmax (d : BitVec 5) (a : BitVec 5) (b : BitVec 5) (w : West)
  /-- FEQ (R154): Scalar floating equality compare. -/
  | feq (d : BitVec 5) (a : BitVec 5) (b : BitVec 5) (w : West)
  /-- FLT (R154): Scalar floating less-than compare. -/
  | flt (d : BitVec 5) (a : BitVec 5) (b : BitVec 5) (w : West)
  /-- FLE (R154): Scalar floating less-or-equal compare. -/
  | fle (d : BitVec 5) (a : BitVec 5) (b : BitVec 5) (w : West)
  /-- FABS (R154): Scalar clear of the sign bit. -/
  | fabs (d : BitVec 5) (a : BitVec 5) (w : Bool)
  /-- FNEG (R154): Scalar inversion of the sign bit. -/
  | fneg (d : BitVec 5) (a : BitVec 5) (w : Bool)
  /-- FCVTI (R154): Scalar conversion from floating to integer format. -/
  | fcvti (d : BitVec 5) (a : BitVec 5) (w : Bool)
  /-- ICVTF (R154): Scalar conversion from integer to floating format. -/
  | icvtf (d : BitVec 5) (a : BitVec 5) (w : Bool)
  /-- HGET (R156): Writes to gd the value of an h register attached at issue. -/
  | hget (d : BitVec 5) (a : BitVec 4)
  /-- TAIL (R30): At core 15 appends ga to the tail queue, waiting while it is full. -/
  | tail (a : BitVec 5)
  /-- CMOV (R156): Moves ga to gd when bit 0 of the mask is set. -/
  | cmov (d : BitVec 5) (a : BitVec 5) (m : BitVec 3)
  /-- MOVMG (R156): Moves one 64-bit half of a mask to a g register. -/
  | movmg (d : BitVec 5) (m : BitVec 3) (half : Bool)
  /-- MOVGM (R156): Moves a g register into one 64-bit half of a mask. -/
  | movgm (m : BitVec 3) (a : BitVec 5) (half : Bool)
  /-- LD (R158): Lane load of 1 to 8 bytes, sign-extended, leaving the destination empty until arrival. -/
  | ld (d : BitVec 5) (a : BitVec 5) (off : BitVec 12) (sz : Sz) (acq : Bool)
  /-- LDN (R158): PX-prefixed lane load that zero-extends. -/
  | ldn (d : BitVec 5) (a : BitVec 5) (off : BitVec 12) (sz : Sz) (acq : Bool)
  /-- ST (R159): Lane store checked for alignment and posted. -/
  | st (d : BitVec 5) (a : BitVec 5) (off : BitVec 12) (sz : Sz) (rel : Bool)
  /-- LDV (R161): Lane masked 128-byte vector load. -/
  | ldv (d : BitVec 5) (a : BitVec 5) (off : BitVec 11) (acq : Bool)
  /-- STV (R161): Lane masked 128-byte vector store. -/
  | stv (d : BitVec 5) (a : BitVec 5) (off : BitVec 11) (rel : Bool)
  /-- LDP (R163): Pool load at a scratch offset, complete at execution. -/
  | ldp (d : BitVec 5) (a : BitVec 5) (off : BitVec 12) (sz : Sz)
  /-- STP (R163): Pool store at a scratch offset. -/
  | stp (d : BitVec 5) (a : BitVec 5) (off : BitVec 12) (sz : Sz)
  /-- LDPV (R163): Pool masked 128-byte vector load. -/
  | ldpv (d : BitVec 5) (a : BitVec 5) (off : BitVec 12)
  /-- STPV (R163): Pool masked 128-byte vector store. -/
  | stpv (d : BitVec 5) (a : BitVec 5) (off : BitVec 12)
  /-- LDL (R166): Tagged scalar load into a landing set slot, waiting for a slot. -/
  | ldl (t : BitVec 5) (a : BitVec 5) (off : BitVec 11) (sz : Sz) (set : BitVec 2)
  /-- LDLV (R166): Tagged 128-byte load into a landing set slot. -/
  | ldlv (t : BitVec 5) (a : BitVec 5) (off : BitVec 11) (set : BitVec 2)
  /-- LANDING_SLOT_GRANT (R38): A freed physical slot is granted to the landing load that came to wait earliest. -/
  | landingSlotGrant (core : Nat)
  /-- TAKE (R167): Makes an open claim on the oldest arrival of a landing set, or returns tag -1. -/
  | take (d : BitVec 5) (t : BitVec 5) (set : BitVec 2)
  /-- TAKEO (R167): Claims the unclaimed landing slot with the oldest issue order. -/
  | takeo (d : BitVec 5) (t : BitVec 5) (set : BitVec 2)
  /-- TAKEV (R167): Take-any into a vector register. -/
  | takev (d : BitVec 5) (t : BitVec 5) (set : BitVec 2)
  /-- LCNT (R170): Returns the pending, arrived, poisoned and claim counts of a landing set. -/
  | lcnt (d : BitVec 5) (set : BitVec 2)
  /-- LDROP (R170): Waits for claims to bind and frees every slot of a landing set. -/
  | ldrop (set : BitVec 2)
  /-- AMO (R172): Committing atomic read-modify-write at the home vault returning the old value. -/
  | amo (op : AmoOp) (dbl : Bool) (ord : Ord4) (d : BitVec 5) (a : BitVec 5) (b : BitVec 5)
  /-- CAS (R173): Committing compare-and-swap against the expected value in gd. -/
  | cas (dbl : Bool) (ord : Ord4) (d : BitVec 5) (a : BitVec 5) (b : BitVec 5)
  /-- RED (R174): Committing posted reduction applied at the home reduction unit. -/
  | red (op : AmoOp) (dbl : Bool) (rel : Bool) (a : BitVec 5) (b : BitVec 5)
  /-- FENCE (R176): Waits at the core until every earlier access of the strand has been performed at the chosen scope. -/
  | fence
  /-- DRAINST (R177): Waits until every earlier store of the strand at the core is acknowledged or recorded. -/
  | drainst
  /-- BAR (R178): Arrives at a named barrier and waits for its generation to complete. -/
  | bar (n : BitVec 5)
  /-- BARI (R178): Sets the count of a named barrier, possibly completing its generation. -/
  | bari (n : BitVec 5) (a : BitVec 5)
  /-- BARA (R178): Arrives at a named barrier without waiting. -/
  | bara (n : BitVec 5)
  /-- BARW (R178): Waits for the generation of the strand's last arrival to complete. -/
  | barw (n : BitVec 5)
  /-- VADD (R189): Vector element add. -/
  | vadd (d : BitVec 5) (a : BitVec 5) (b : BitVec 5) (w : West)
  /-- VSUB (R189): Vector element subtract. -/
  | vsub (d : BitVec 5) (a : BitVec 5) (b : BitVec 5) (w : West)
  /-- VMUL (R189): Vector element multiply. -/
  | vmul (d : BitVec 5) (a : BitVec 5) (b : BitVec 5) (w : West)
  /-- VFMA (R189): Vector fused multiply-add with addend in PX c. -/
  | vfma (d : BitVec 5) (a : BitVec 5) (b : BitVec 5) (w : West)
  /-- VMIN (R189): Vector element minimum. -/
  | vmin (d : BitVec 5) (a : BitVec 5) (b : BitVec 5) (w : West)
  /-- VMAX (R189): Vector element maximum. -/
  | vmax (d : BitVec 5) (a : BitVec 5) (b : BitVec 5) (w : West)
  /-- VABS (R189): Vector element absolute value. -/
  | vabs (d : BitVec 5) (a : BitVec 5) (w : Bool)
  /-- VNEG (R189): Vector element negation. -/
  | vneg (d : BitVec 5) (a : BitVec 5) (w : Bool)
  /-- VAND (R191): Vector bitwise AND on 32-bit elements. -/
  | vand (d : BitVec 5) (a : BitVec 5) (b : BitVec 5) (w : West)
  /-- VOR (R191): Vector bitwise OR. -/
  | vor (d : BitVec 5) (a : BitVec 5) (b : BitVec 5) (w : West)
  /-- VXOR (R191): Vector bitwise XOR. -/
  | vxor (d : BitVec 5) (a : BitVec 5) (b : BitVec 5) (w : West)
  /-- VNOT (R191): Vector bitwise NOT. -/
  | vnot (d : BitVec 5) (a : BitVec 5) (w : Bool)
  /-- VSHL (R192): Vector element shift left. -/
  | vshl (d : BitVec 5) (a : BitVec 5) (b : BitVec 5) (w : West)
  /-- VSHR (R192): Vector element logical shift right. -/
  | vshr (d : BitVec 5) (a : BitVec 5) (b : BitVec 5) (w : West)
  /-- VSAR (R192): Vector element arithmetic shift right. -/
  | vsar (d : BitVec 5) (a : BitVec 5) (b : BitVec 5) (w : West)
  /-- VCMP (R193): Vector floating compare under a condition into a mask register. -/
  | vcmp (c : CmpCond) (d : BitVec 3) (a : BitVec 5) (b : BitVec 5) (w : West)
  /-- VSEL (R194): Vector select of elements by a mask. -/
  | vsel (d : BitVec 5) (a : BitVec 5) (b : BitVec 5) (w : West)
  /-- MAND (R195): Mask AND. -/
  | mand (d : BitVec 3) (a : BitVec 3) (b : BitVec 3)
  /-- MOR (R195): Mask OR. -/
  | mor (d : BitVec 3) (a : BitVec 3) (b : BitVec 3)
  /-- MXOR (R195): Mask XOR. -/
  | mxor (d : BitVec 3) (a : BitVec 3) (b : BitVec 3)
  /-- MNOT (R195): Mask NOT. -/
  | mnot (d : BitVec 3) (a : BitVec 3)
  /-- MSET (R195): Sets the low ga bits of a mask. -/
  | mset (d : BitVec 3) (a : BitVec 5)
  /-- VCVT (R196): Vector element format conversion. -/
  | vcvt (d : BitVec 5) (a : BitVec 5) (w : Bool)
  /-- VQUANT (R197): Vector block quantisation to D8, I8 or N8 by per-block scales. -/
  | vquant (d : BitVec 5) (a : BitVec 5) (b : BitVec 5) (w : West)
  /-- VDEQ (R197): Vector block dequantisation from D8, I8 or N8. -/
  | vdeq (d : BitVec 5) (a : BitVec 5) (b : BitVec 5) (w : West)
  /-- VRCP (R199): Vector reciprocal. -/
  | vrcp (d : BitVec 5) (a : BitVec 5) (w : Bool)
  /-- VRSQ (R199): Vector reciprocal square root. -/
  | vrsq (d : BitVec 5) (a : BitVec 5) (w : Bool)
  /-- VSQRT (R199): Vector square root. -/
  | vsqrt (d : BitVec 5) (a : BitVec 5) (w : Bool)
  /-- VDIV (R199): Vector division. -/
  | vdiv (d : BitVec 5) (a : BitVec 5) (b : BitVec 5) (w : West)
  /-- VEXP2 (R199): Vector base-2 exponential. -/
  | vexp2 (d : BitVec 5) (a : BitVec 5) (w : Bool)
  /-- VLOG2 (R199): Vector base-2 logarithm. -/
  | vlog2 (d : BitVec 5) (a : BitVec 5) (w : Bool)
  /-- VSIN (R199): Vector sine. -/
  | vsin (d : BitVec 5) (a : BitVec 5) (w : Bool)
  /-- VCOS (R199): Vector cosine. -/
  | vcos (d : BitVec 5) (a : BitVec 5) (w : Bool)
  /-- VTANH (R199): Vector hyperbolic tangent. -/
  | vtanh (d : BitVec 5) (a : BitVec 5) (w : Bool)
  /-- VBCAST (R202): Broadcasts ga into every active element. -/
  | vbcast (d : BitVec 5) (a : BitVec 5)
  /-- VEXT (R202): Extracts one element to a g register. -/
  | vext (d : BitVec 5) (a : BitVec 5) (b : BitVec 5)
  /-- VINS (R202): Inserts ga into one element. -/
  | vins (d : BitVec 5) (a : BitVec 5) (b : BitVec 5)
  /-- VPERM (R202): Permutes elements by indices. -/
  | vperm (d : BitVec 5) (a : BitVec 5) (b : BitVec 5)
  /-- VROT (R202): Rotates elements by gb positions. -/
  | vrot (d : BitVec 5) (a : BitVec 5) (b : BitVec 5)
  /-- VIOTA (R202): Writes each active element with its index. -/
  | viota (d : BitVec 5)
  /-- VPOP (R202): Counts set mask bits. -/
  | vpop (d : BitVec 5) (m : BitVec 3)
  /-- VRED (R201): Reduces a vector by add, min or max in a fixed pairwise tree. -/
  | vred (op : RedOp) (d : BitVec 5) (a : BitVec 5)
  /-- VADD_CONST (R190): Vector add of a replicated constant word. -/
  | vaddConst (d : BitVec 5) (a : BitVec 5) (k : BitVec 8)
  /-- VSUB_CONST (R190): Vector subtract of a constant word. -/
  | vsubConst (d : BitVec 5) (a : BitVec 5) (k : BitVec 8)
  /-- VMUL_CONST (R190): Vector multiply by a constant word. -/
  | vmulConst (d : BitVec 5) (a : BitVec 5) (k : BitVec 8)
  /-- VMIN_CONST (R190): Vector minimum with a constant word. -/
  | vminConst (d : BitVec 5) (a : BitVec 5) (k : BitVec 8)
  /-- VMAX_CONST (R190): Vector maximum with a constant word. -/
  | vmaxConst (d : BitVec 5) (a : BitVec 5) (k : BitVec 8)
  /-- VAND_CONST (R190): Vector AND with a constant word. -/
  | vandConst (d : BitVec 5) (a : BitVec 5) (k : BitVec 8)
  /-- VOR_CONST (R190): Vector OR with a constant word. -/
  | vorConst (d : BitVec 5) (a : BitVec 5) (k : BitVec 8)
  /-- VXOR_CONST (R190): Vector XOR with a constant word. -/
  | vxorConst (d : BitVec 5) (a : BitVec 5) (k : BitVec 8)
  /-- VSHL_CONST (R190): Vector shift left by a constant word. -/
  | vshlConst (d : BitVec 5) (a : BitVec 5) (k : BitVec 8)
  /-- VSHR_CONST (R190): Vector logical shift right by a constant word. -/
  | vshrConst (d : BitVec 5) (a : BitVec 5) (k : BitVec 8)
  /-- VSAR_CONST (R190): Vector arithmetic shift right by a constant word. -/
  | vsarConst (d : BitVec 5) (a : BitVec 5) (k : BitVec 8)
  /-- MMA (R211): Queues a Press command of rep steps consuming ring head stages into an accumulator tile. -/
  | mma (sr : Semiring) (fmt : PressFmt) (t : BitVec 6) (qa : BitVec 3) (qb : BitVec 3) (rep : BitVec 4)
  /-- MZERO (R214): Queues a Press command that clears a tile. -/
  | mzero (t : BitVec 6)
  /-- MLOAD (R214): Queues a Press command that writes one tile row from two vector registers. -/
  | mload (t : BitVec 6) (a : BitVec 5) (b : BitVec 5)
  /-- MDRAIN (R215): Marks two vector registers empty pending a read of one tile row. -/
  | mdrain (d : BitVec 5) (t : BitVec 6) (b : BitVec 5)
  /-- MWAIT (R216): Waits until the strand's earlier Press commands retire and MDRAINs write. -/
  | mwait
  /-- MSTAT (R217): Returns the Press queue state at the core. -/
  | mstat (d : BitVec 5)
  /-- RCFG (R206): Configures or unconfigures a ring after its transfers drain. -/
  | rcfg (q : BitVec 3) (a : BitVec 5) (b : BitVec 5)
  /-- RPUSH (R207): Committing push of 128 vector bytes into a ring's stream. -/
  | rpush (q : BitVec 3) (a : BitVec 5)
  /-- RSTAT (R208): Returns a ring descriptor. -/
  | rstat (d : BitVec 5) (q : BitVec 3)
  /-- HOPEN (R221): Opens a Cellar row of the core's vault into a Hatch slot, optionally forcing out the previous row. -/
  | hopen (force : Bool) (s : BitVec 2) (a : BitVec 5)
  /-- HTAKE (R222): Committing transfer of a READY slot's row into 2,048 bytes of a ring. -/
  | htake (s : BitVec 2) (q : BitVec 3)
  /-- HPUT (R223): Posts a write of 2,048 pool bytes into a Cellar row. -/
  | hput (a : BitVec 5) (b : BitVec 5)
  /-- HSHUT (R224): Closes and frees a Hatch slot. -/
  | hshut (s : BitVec 2)
  /-- HWAIT (R225): Waits until earlier HPUTs at the core have completed. -/
  | hwait
  /-- HSTAT (R226): Returns the Hatch slot states and pending HPUT count. -/
  | hstat (d : BitVec 5)
  /-- COPY (R229): Checks operands and enters a copy into a channel, committing for a ring destination. -/
  | copy (src : CopySrc) (dst : CopyDst) (ch : BitVec 2) (d : BitVec 5) (a : BitVec 5) (b : BitVec 5)
  /-- CRED (R233): Committing reducing copy of pool elements into a global or remote destination. -/
  | cred (op : RedOp) (fmt : CredFmt) (toPool : Bool) (ch : BitVec 2) (d : BitVec 5) (a : BitVec 5) (b : BitVec 5)
  /-- CSEAL (R234): Closes the open copies into a new batch. -/
  | cseal
  /-- CWAIT (R234): Waits until at most n sealed batches are unfinished. -/
  | cwait (n : BitVec 4)
  /-- CPTR (R235): Returns the channel's pool byte count at the core, as a core-scope acquire. -/
  | cptr (d : BitVec 5) (ch : BitVec 2)
  /-- CJOIN (R236): Subscribes the core to a multicast tag and waits for acknowledgement. -/
  | cjoin (a : BitVec 5) (b : BitVec 5)
  /-- CLEAVE (R236): Removes a multicast tag and waits for the prune acknowledgement. -/
  | cleave (a : BitVec 5)
  /-- BKPT_LANE (R238): Lane breakpoint taken at the head as a precise BKPT trap. -/
  | bkptLane (n : BitVec 10)
  /-- TRAP (R238): Software trap taken at the head with TVAL = n. -/
  | trap (n : BitVec 10)
  /-- ESTAT (R239): Returns the flags and clears and sets ESTAT bits. -/
  | estat (d : BitVec 5) (a : BitVec 5) (b : BitVec 5)
  /-- DBGR (R240): Handler-level read of another strand's lane state by selector. -/
  | dbgr (d : BitVec 5) (a : BitVec 5)
  /-- DBGW (R240): Handler-level write of another strand's lane state by selector. -/
  | dbgw (a : BitVec 5) (b : BitVec 5)
  /-- STEP (R375): After a stepped instruction drains, the head raises the precise trap STEP at the next address. -/
  | step (row : Nat) (slot : Nat)
  /-- LOAD_ARRIVAL (R36): Data of a pending fill reaches the core, writes the register and makes it full unless a later write cancelled it. -/
  | loadArrival (id : Nat)
  /-- STORE_ACK (R159): A store acknowledgement reaches the core and retires the store. -/
  | storeAck (id : Nat)
  /-- STORE_FAULT_RETURN (R177): A later store fault reaches the core and fills a store-fault record, or sets the overflow count when the queue is full. -/
  | storeFaultReturn (id : Nat)
  /-- LANDING_ARRIVAL (R166): A landing load's data or fault reaches the core, marking the slot arrived or poisoned with its arrival order. -/
  | landingArrival (id : Nat)
  /-- WALK_COMPLETE (R270): A page walk finishes, filling the TLB or reporting a failure to every joined miss. -/
  | walkComplete (id : Nat)
  /-- VAULT_ACCESS (R248): A plain access reaches its home vault controller, is placed in the location order and answered. -/
  | vaultAccess (id : Nat)
  /-- CROSS_DIE_WRITE (R322): An incoming cross-die write is applied once every write named in its vector stamp has been applied. -/
  | crossDieWrite (id : Nat)
  /-- REDUCTION_APPLY (R312): An AMO, CAS, RED or CRED packet reaches its reduction unit and is applied once, or acknowledged again as a duplicate. -/
  | reductionApply (id : Nat)
  /-- RELEASE_PROBE (R324): A probe reaches a vault group, which answers once every earlier write from that core to it is performed. -/
  | releaseProbe (id : Nat)
  /-- PROBE_ANSWER (R324): A probe answer or fence-marker acknowledgement reaches the core, letting a held release write leave once all have arrived. -/
  | probeAnswer (id : Nat) (group : Nat)
  /-- HATCH_OPEN_ACCEPT (R220): A delayed HOPEN or HPUT open is accepted at the vault under the row-cycle, four-open and refresh limits. -/
  | hatchOpenAccept (core : Nat)
  /-- HATCH_READY (R220): A slot becomes READY 24 cycles after its open was accepted. -/
  | hatchReady (core : Nat) (slot : Nat)
  /-- HATCH_FORCED_CLOSE (R220): 14,000 cycles after acceptance the slot is force-closed to CLOSED once no transfer holds it. -/
  | hatchForcedClose (core : Nat) (slot : Nat)
  /-- HTAKE_TRANSFER (R253): An HTAKE transfer starts when the slot is READY with ring room, reading the row at one instant and writing it over 4 cycles. -/
  | htakeTransfer (core : Nat)
  /-- HPUT_COMPLETE (R255): An HPUT completes 36 cycles after its open is accepted, performing its row write. -/
  | hputComplete (core : Nat)
  /-- REFRESH_START (R251): Every 1,700 cycles the vault starts refresh of the next bank in rotation, passing over banks held open. -/
  | refreshStart (vault : Nat)
  /-- REFRESH_END (R251): A bank refresh ends after 180 cycles, releasing opens delayed on it. -/
  | refreshEnd (vault : Nat)
  /-- SCRUB (R259): The controller scrubs every row once per 24 hours. -/
  | scrub (granule : Nat) (corrected : Bool)
  /-- PRESS_STEP_START (R211): The front Press command starts its next step, or runs MZERO or MLOAD, once its head stages are complete. -/
  | pressStepStart (core : Nat)
  /-- PRESS_STEP_RETIRE (R211): A step retires after 64 cycles, pops its stages and ORs its flags into ESTAT. -/
  | pressStepRetire (core : Nat)
  /-- MDRAIN_READ (R215): Once the strand's earlier commands have retired, the tile row is read into the two registers over 2 cycles. -/
  | mdrainRead (core : Nat) (slot : Nat)
  /-- COPY_INJECT (R303): The copy engine reads source bytes and injects up to 64 bytes per cycle over its channels. -/
  | copyInject (core : Nat) (ch : Nat)
  /-- COPY_DELIVER (R304): A copy granule is written into the destination pool of the resident team, raising the channel count. -/
  | copyDeliver (id : Nat)
  /-- MULTICAST_REPLICATE (R307): A multicast copy passing a router is replicated onto every port whose bit is set. -/
  | multicastReplicate (id : Nat)
  /-- MULTICAST_JOIN (R307): A join packet sets its port bit at each router up to the first already subscribed, which acknowledges. -/
  | multicastJoin (core : Nat) (tag : Nat)
  /-- MULTICAST_PRUNE (R307): A prune clears its port bit and continues upstream while the bitmap becomes zero. -/
  | multicastPrune (core : Nat) (tag : Nat)
  /-- ROUTER_HOP (R332): A packet crosses a mesh router by dimension order, with its header ECC checked. -/
  | routerHop (id : Nat) (fate : HopFate)
  /-- LINK_REPLAY (R335): A flit failing its CRC on a bridge or Gararo link is replayed from the buffer. -/
  | linkReplay (link : Chan)
  /-- LINK_RETRAIN (R335): A link that fails 8 replays retrains, and is taken down or retired if it fails. -/
  | linkRetrain (link : Chan) (ok : Bool)
  /-- PEER_REQUEST (R348): An inbound peer request is checked against the import table and performed or refused. -/
  | peerRequest (src : PeerSource) (pa : Nat) (size : Nat) (kind : PeerKind) (data : BitVec 1024)
  /-- DEVICE_HOST_WRITE (R344): A device write to a host window is handed by its service core to the port in order and acknowledged. -/
  | deviceHostWrite (id : Nat)
  /-- DEVICE_HOST_READ (R344): A device read of a host window is issued by its service core, waiting while 256 reads are outstanding. -/
  | deviceHostRead (id : Nat)
  /-- DELIVERY_BOUND_EXPIRY (R337): A request whose delivery bound expires is charged to its requester. -/
  | deliveryBoundExpiry (id : Nat)
  /-- SHOOTDOWN_COMPLETE (R342): A translation shootdown completes once every TLB dropped the leaves and earlier walks finished, clearing BUSY. -/
  | shootdownComplete (vf : Nat)
  /-- LQTAIL_WRITE (R274): The doorbell write posts launch records, or is refused with OVF. -/
  | lqtailWrite (vf : Nat) (q : Nat) (v : BitVec 64)
  /-- LAUNCH_FETCH (R275): An idle partition root polls the queues round-robin and fetches one launch record. -/
  | launchFetch (part : Nat)
  /-- LAUNCH_MESSAGE (R278): A launch message reaches a die root or row head, which loads its cores and acknowledges. -/
  | launchMessage (row : Nat)
  /-- LAUNCH_ACK (R278): An acknowledgement reaches the root, which sends go once all have arrived. -/
  | launchAck (row : Nat)
  /-- GO_MESSAGE (R278): The go message reaches a row head, which places its first team. -/
  | goMessage (row : Nat)
  /-- SLICE_END (R286): The time slice of a row with several teams runs out and the next team is chosen. -/
  | sliceEnd (row : Nat)
  /-- SLICE_IDLE_END (R286): A slice ends early when every resident strand has waited 100 µs in GBAR or MRECV. -/
  | sliceIdleEnd (row : Nat)
  /-- TEAM_SAVE (R369): After bounded completions the team image is saved to the lowest free save place. -/
  | teamSave (row : Nat)
  /-- TEAM_RESTORE (R369): The next team's image is restored, slots reopened, subscriptions joined and outstanding operations performed. -/
  | teamRestore (row : Nat)
  /-- GROUP_ARRIVAL (R291): A GBAR or GVOTE arrival message reaches the group's home and may complete the generation. -/
  | groupArrival (msg : Nat)
  /-- GROUP_COMPLETION (R141): A completion message reaches an arriving task, delivering the vote result and acquiring. -/
  | groupCompletion (msg : Nat)
  /-- MEMBER_LOWER (R291): A leave, exit or kill message lowers the group's member count at its home. -/
  | memberLower (msg : Nat)
  /-- MAILBOX_TOKEN (R293): A token reaches the receiving row head and is placed according to the task's state. -/
  | mailboxToken (msg : Nat)
  /-- DISPENSER_REQUEST (R292): A tile dispenser serves one request per cycle in arrival order. -/
  | dispenserRequest (msg : Nat)
  /-- ROW_REPORT (R297): A combined status word reaches a die root or the root, which writes the completion record when COUNT equals SIZE. -/
  | rowReport (row : Nat)
  /-- JCTL_KILL (R341): Ends every task of the partition's job with HALTED. -/
  | jctlKill (vf : Nat)
  /-- JCTL_PRE (R341): Pre-empts and saves every resident team. -/
  | jctlPre (vf : Nat)
  /-- JCTL_RES (R341): Restores the saved teams and continues. -/
  | jctlRes (vf : Nat)
  /-- XSHOOT_WRITE (R342): Starts a translation shootdown for one page or a whole context. -/
  | xshootWrite (vf : Nat) (v : BitVec 64)
  /-- BAR2_READ (R340): A host read through the Cellar aperture, refused for Loft rows or unregistered context. -/
  | bar2Read (vf : Nat) (off : Nat) (size : Nat)
  /-- BAR2_WRITE (R340): A host write through the Cellar aperture. -/
  | bar2Write (vf : Nat) (off : Nat) (size : Nat) (data : Nat)
  /-- PART_WRITE (R350): A partition register write, refused with REF on overlap, unavailable rows or a loaded job. -/
  | partWrite (p : Nat) (v : BitVec 64)
  /-- VFMAP_WRITE (R350): A virtual-function mapping write, refused with REF when not allowed. -/
  | vfmapWrite (f : Nat) (v : BitVec 64)
  /-- ATTEST (R385): Renwyn returns a signed attestation report for a nonce. -/
  | attest (vf : Nat) (ctx : Nat)
  /-- KEYLOAD (R387): Renwyn unwraps a key into a slot assigned to a function and context. -/
  | keyload (vf : Nat) (ctx : Nat)
  /-- KEYDROP (R352): Zeroes every key slot of a context and ends its confidentiality. -/
  | keydrop (vf : Nat) (ctx : Nat)
  /-- VAULTERR (R352): Returns the 512 vault corrected-error counts. -/
  | vaulterr (vf : Nat) (ctx : Nat)
  /-- ROWPWR_RUN (R389): Commands a row to RUN, subject to the power limit and thermal state. -/
  | rowpwrRun (row : Nat) (opp : Nat)
  /-- ROWPWR_IDLE (R389): Commands a row to IDLE, keeping its state. -/
  | rowpwrIdle (row : Nat) (opp : Nat)
  /-- ROWPWR_OFF (R391): Commands a row OFF, refused while its partition has a loaded job. -/
  | rowpwrOff (row : Nat) (opp : Nat)
  /-- ROWPWR_OPP (R389): Commands a row operating point, refused if the power limit would be exceeded. -/
  | rowpwrOpp (row : Nat) (opp : Nat)
  /-- OPP_SWITCH_DONE (R389): A row's operating point change takes effect within 10 µs and the row issues again. -/
  | oppSwitchDone (row : Nat)
  /-- PLIMIT_WRITE (R390): Sets the host power limit, ignored above the fused ceiling. -/
  | plimitWrite (v : BitVec 64)
  /-- THERMAL_TRIP (R392): A die over 115 °C turns every row off and ends every job with HALTED. -/
  | thermalTrip (die : Nat)
  /-- DEVICE_RESET (R393): Reset starts bring-up: signed boot, self-test, fuse map, Cellar training, numbering and enumeration. -/
  | deviceReset (avail : Nat) (boot : Bringup)
  /-- XTCTL_HALT (R380): Halts a row at once. -/
  | xtctlHalt (row : Nat)
  /-- XTCTL_RELEASE (R380): Ends a row halt. -/
  | xtctlRelease (row : Nat)
  /-- TRCTL_PULSE (R381): A sampling pulse latches every placed strand's PC and wait reason and writes a trace record. -/
  | trctlPulse
  /-- SAMPLING_PERIOD (R381): A sampling pulse raised every PERIOD µs. -/
  | samplingPeriod
  /-- DUMPCTL_GO (R383): Starts a consistent dump: halts rows, writes images and sends markers. -/
  | dumpctlGo (id : Nat)
  /-- DUMP_MARKER (R383): A dump marker arrives on a link, starting a dump or closing that link's channel record. -/
  | dumpMarker (link : Nat) (id : Nat)
  /-- WATCH_UPDATE (R378): A change of watch filter or WCTL takes effect at the core within 64 cycles. -/
  | watchUpdate (core : Nat) (word : Nat) (v : BitVec 64)
  /-- REGISTER_WRITE (R273): A write to a host-visible register without a row of its own, under its access codes. -/
  | registerWrite (space : RegSpace) (off : Nat) (v : BitVec 64)
  /-- PAUSE_END (R135): The pause count of a PAUSE runs out and the head may issue the strand again. -/
  | pauseEnd (row : Nat) (slot : Nat)
  /-- YIELD_HOLD_END (R132): Eight cycles after YIELD the strand returns to the head's issue selection if the other strands have not all issued first. -/
  | yieldHoldEnd (row : Nat) (slot : Nat)
  /-- LOAD_PHASE_START (R278): The root starts the load phase of a fetched launch once the previous job's longest reduction delivery bound has passed since its completion. -/
  | loadPhaseStart (part : Nat)
  /-- LINK_UP (R346): A Gararo link enabled by LINKl.EN finishes training and enters state UP. -/
  | linkUp (link : Nat)
  /-- ROUTE_CHANGE (R347): A Gararo switch reports a changed route or a link or switch failure, so unsent packets are re-routed and releases switch to fence markers. -/
  | routeChange (report : RouteReport)
  /-- UNCORRECTABLE_ERROR (R364): An uncorrectable error arises in a register, CSR or control state, poisoning the register or ending every task of the team as stopped. -/
  | uncorrectableError (t : ErrTarget)
  deriving DecidableEq, Repr

end Sys2Proof
end

