-- ==== Sys2Proof/WellFormed.lean ====
section
/-! DEFINITION. What the constructors of Instr leave to be checked: field values that no word of R61 to R79 holds, or that
the head refuses as ILLEGAL whatever the state (R80). -/

namespace Sys2Proof

/-- The combinations of R79 that MMA accepts: .oa and B1, the semirings' formats, even rings for D8S and Z8. -/
def mmaOk (sr : Semiring) (f : PressFmt) (qa qb : BitVec 3) : Bool :=
  (match sr with
   | .oa => f == .b1
   | .pt => true
   | .mp | .xp | .xt => f == .d8 || f == .bf16 || f == .f16)
  && (match f with
      | .d8s | .z8 => !qa.getLsbD 0 && !qb.getLsbD 0
      | _ => true)

/-- The names of the checks, so that a refusal says which one failed. -/
inductive IllFormed
  /-- PX with rm above 5 or a format code above 13 (R66) -/
  | pxField
  /-- LOOP distance outside 2 to 2047 (R75) -/
  | loopOffset
  /-- TILEGET destination outside h1 to h14 (R76) -/
  | tilegetRegister
  /-- a mask destination of m0 (R34) -/
  | maskZero
  /-- TAKE or TAKEO with one register as value and tag destination, other than g0 (R167) -/
  | takeSame
  /-- an AMO or RED operation or size that R77 refuses -/
  | atomic
  /-- an odd register of MLOAD or MDRAIN (R214, R215) -/
  | oddPair
  /-- an MMA combination that R79 refuses -/
  | mma
  /-- a ring number above 7 in a COPY to a ring (R229) -/
  | ringNumber
  deriving DecidableEq, Repr

/-- The first check that an instruction fails, none for a well-formed one. -/
def Instr.illFormed : Instr → Option IllFormed
  | .px p => if p.rm.toNat < 6 && p.fa.toNat < 14 && p.fb.toNat < 14 && p.fd.toNat < 14 then none else some .pxField
  | .loop _ off => if 2 ≤ off.toNat && off.toNat ≤ 2047 then none else some .loopOffset
  | .tileget d _ => if 1 ≤ d.toNat && d.toNat ≤ 14 then none else some .tilegetRegister
  | .movgm m _ _ => if m = 0 then some .maskZero else none
  | .vcmp _ d _ _ _ => if d = 0 then some .maskZero else none
  | .mand d _ _ | .mor d _ _ | .mxor d _ _ => if d = 0 then some .maskZero else none
  | .mnot d _ => if d = 0 then some .maskZero else none
  | .mset d _ => if d = 0 then some .maskZero else none
  | .take d t _ | .takeo d t _ => if d = t && d != 0 then some .takeSame else none
  | .amo op dbl _ _ _ _ => if op == .fadd && dbl then some .atomic else none
  | .red op dbl _ _ _ =>
    if (op == .minn || op == .maxn || op == .swap) || (op == .fadd && dbl) then some .atomic else none
  | .mload _ a _ => if a.getLsbD 0 then some .oddPair else none
  | .mdrain d _ _ => if d.getLsbD 0 then some .oddPair else none
  | .mma sr f _ qa qb _ => if mmaOk sr f qa qb then none else some .mma
  | .copy _ dst _ d _ _ => if dst == .ring && 8 ≤ d.toNat then some .ringNumber else none
  | _ => none

/-- The static checks of R80 that do not depend on the machine's state. -/
def Instr.wellFormed (i : Instr) : Bool := i.illFormed.isNone

/-- The rows of the opcode table that are events of the part and have no instruction word. -/
def Instr.isEvent : Instr → Bool
  | .landingSlotGrant _
  | .step _ _
  | .loadArrival _
  | .storeAck _
  | .storeFaultReturn _
  | .landingArrival _
  | .walkComplete _
  | .vaultAccess _
  | .crossDieWrite _
  | .reductionApply _
  | .releaseProbe _
  | .probeAnswer _ _
  | .hatchOpenAccept _
  | .hatchReady _ _
  | .hatchForcedClose _ _
  | .htakeTransfer _
  | .hputComplete _
  | .refreshStart _
  | .refreshEnd _
  | .scrub _ _
  | .pressStepStart _
  | .pressStepRetire _
  | .mdrainRead _ _
  | .copyInject _ _
  | .copyDeliver _
  | .multicastReplicate _
  | .multicastJoin _ _
  | .multicastPrune _ _
  | .routerHop _ _
  | .linkReplay _
  | .linkRetrain _ _
  | .peerRequest _ _ _ _ _
  | .deviceHostWrite _
  | .deviceHostRead _
  | .deliveryBoundExpiry _
  | .shootdownComplete _
  | .lqtailWrite _ _ _
  | .launchFetch _
  | .launchMessage _
  | .launchAck _
  | .goMessage _
  | .sliceEnd _
  | .sliceIdleEnd _
  | .teamSave _
  | .teamRestore _
  | .groupArrival _
  | .groupCompletion _
  | .memberLower _
  | .mailboxToken _
  | .dispenserRequest _
  | .rowReport _
  | .jctlKill _
  | .jctlPre _
  | .jctlRes _
  | .xshootWrite _ _
  | .bar2Read _ _ _
  | .bar2Write _ _ _ _
  | .partWrite _ _
  | .vfmapWrite _ _
  | .attest _ _
  | .keyload _ _
  | .keydrop _ _
  | .vaulterr _ _
  | .rowpwrRun _ _
  | .rowpwrIdle _ _
  | .rowpwrOff _ _
  | .rowpwrOpp _ _
  | .oppSwitchDone _
  | .plimitWrite _
  | .thermalTrip _
  | .deviceReset _ _
  | .xtctlHalt _
  | .xtctlRelease _
  | .trctlPulse
  | .samplingPeriod
  | .dumpctlGo _
  | .dumpMarker _ _
  | .watchUpdate _ _ _
  | .registerWrite _ _ _
  | .pauseEnd _ _
  | .yieldHoldEnd _ _
  | .loadPhaseStart _
  | .linkUp _
  | .routeChange _
  | .uncorrectableError _ => true
  | _ => false

/-- Is it a head-class instruction (R19)? -/
def Instr.isHead : Instr → Bool
  | .addHead _ _ _
  | .subHead _ _ _
  | .andHead _ _ _
  | .orHead _ _ _
  | .xorHead _ _ _
  | .shlHead _ _ _
  | .shrHead _ _ _
  | .sarHead _ _ _
  | .mulHead _ _ _
  | .sltHead _ _ _
  | .sltnHead _ _ _
  | .minHead _ _ _
  | .maxHead _ _ _
  | .addiHead _ _ _
  | .andiHead _ _ _
  | .oriHead _ _ _
  | .xoriHead _ _ _
  | .shliHead _ _ _
  | .shriHead _ _ _
  | .sariHead _ _ _
  | .liHead _ _
  | .luiHead _ _ _
  | .beq _ _ _
  | .bne _ _ _
  | .blt _ _ _
  | .bge _ _ _
  | .bltn _ _ _
  | .bgen _ _ _
  | .jmp _
  | .call _
  | .jr _ _
  | .loop _ _
  | .ldD _ _ _ _
  | .stD _ _ _ _
  | .drain
  | .yield
  | .exit _
  | .region
  | .pause _
  | .twait _
  | .tileget _ _
  | .publish _
  | .svc _
  | .tret
  | .tretAt _
  | .gbar _
  | .gvote _ _ _ _
  | .gleave _
  | .gkill _
  | .msend _ _
  | .mrecv _
  | .mprobe _
  | .csrr _ _
  | .csrw _ _
  | .bkpt _ => true
  | _ => false

/-- Is it a lane committing instruction whatever its operands (R165, R204)? A COPY to a ring is one too. -/
def Instr.isCommit : Instr → Bool
  | .amo _ _ _ _ _ _
  | .cas _ _ _ _ _
  | .red _ _ _ _ _
  | .mma _ _ _ _ _ _
  | .mzero _
  | .mload _ _ _
  | .rpush _ _
  | .htake _ _
  | .cred _ _ _ _ _ _ _ => true
  | .copy _ dst _ _ _ _ => dst == .ring
  | _ => false

/-- Is it a lane-class instruction (R19)? BKPT.lane and TRAP are lane class but taken at the head (R238). -/
def Instr.isLane (i : Instr) : Bool := !i.isEvent && !i.isHead && (match i with | .px _ => false | _ => true)

/-- The instruction that a PX and the word after it give: an LD whose fd holds the natural code of its size is LDN (R69). -/
def Instr.withPx (p : Px) (i : Instr) : Instr :=
  match i with
  | .ld d a off sz acq =>
    if p.fd = (match sz with | .b => 7 | .h => 8 | .w => 10 | .d => 13) then .ldn d a off sz acq else i
  | _ => i

end Sys2Proof
end

