-- ==== Sys2Proof/Decode.lean ====
section
/-! DEFINITION. Decoding of instruction words (R59 to R80), total, rejecting by name, and the encoder written from the
same tables. Words are natural numbers below 2^32; bytes are little-endian (R3). -/

namespace Sys2Proof

/-- Why a word is no instruction (R80): every one raises ILLEGAL. -/
inductive DecodeErr
  /-- the major opcode is unassigned (R72) -/
  | major
  /-- fn, cond, selector or engine sub-code is unassigned (R73 to R79) -/
  | sub
  /-- a field marked reserved is nonzero, or a field holds a value its entry does not allow -/
  | field
  /-- a register field is out of range (R59, R34) -/
  | register
  /-- a west bit is set against R64 -/
  | west
  /-- fewer than four bytes -/
  | short
  deriving DecidableEq, Repr

/-- The n bits of w from bit k up (R3). -/
def fld (w k n : Nat) : Nat := w / 2 ^ k % 2 ^ n

/-- Result of decoding one word. -/
abbrev Dec := Except DecodeErr Instr

/-- Keep the instruction where the condition holds, else refuse the word with the given name. -/
def need (c : Bool) (x : DecodeErr) (i : Dec) : Dec := if c then i else .error x

/-- A one-bit field as a truth value. -/
def bit1 (w k : Nat) : Bool := fld w k 1 == 1

/-- An h register field (R59): 16 or more is refused by the callers' checks. -/
def hr (w k : Nat) : BitVec 4 := BitVec.ofNat 4 (fld w k 5)

/-- Is the h register field below 16 (R59)? -/
def hOk (w k : Nat) : Bool := fld w k 5 < 16

/-- A g, v, barrier or tile register field. -/
def gr (w k : Nat) : BitVec 5 := BitVec.ofNat 5 (fld w k 5)

/-- Format R or I with three h registers. -/
def decH3 (w : Nat) (f : BitVec 4 → BitVec 4 → BitVec 4 → Instr) : Dec :=
  need (hOk w 21 && hOk w 16 && hOk w 11) .register (.ok (f (hr w 21) (hr w 16) (hr w 11)))

/-- Format I with two h registers and a 16-bit immediate. -/
def decHI (w : Nat) (f : BitVec 4 → BitVec 4 → BitVec 16 → Instr) : Dec :=
  need (hOk w 21 && hOk w 16) .register (.ok (f (hr w 21) (hr w 16) (BitVec.ofNat 16 (fld w 0 16))))

/-- Format I with two h registers and a shift count (R74). -/
def decHS (w : Nat) (f : BitVec 4 → BitVec 4 → BitVec 6 → Instr) : Dec :=
  need (hOk w 21 && hOk w 16) .register (need (fld w 6 2 == 0) .field (.ok (f (hr w 21) (hr w 16) (BitVec.ofNat 6 (fld w 0 6)))))

/-- Format B with two h registers (R75). -/
def decHB (w : Nat) (f : BitVec 4 → BitVec 4 → BitVec 12 → Instr) : Dec :=
  need (hOk w 17 && hOk w 12) .register (.ok (f (hr w 17) (hr w 12) (BitVec.ofNat 12 (fld w 0 12))))

/-- Format R, three g or v registers and at most one west bit (R64). -/
def decG3 (w : Nat) (f : BitVec 5 → BitVec 5 → BitVec 5 → West → Instr) : Dec :=
  need (!(bit1 w 10 && bit1 w 9)) .west (.ok (f (gr w 21) (gr w 16) (gr w 11)
    (if bit1 w 10 then .a else if bit1 w 9 then .b else .no)))

/-- Format R, unary: b and wb zero, wa allowed (R73, R78). -/
def decG2 (w : Nat) (f : BitVec 5 → BitVec 5 → Bool → Instr) : Dec :=
  need (fld w 11 5 == 0) .field (need (fld w 9 1 == 0) .west (.ok (f (gr w 21) (gr w 16) (bit1 w 10))))

/-- Format R, three registers and no west bit. -/
def decG3n (w : Nat) (f : BitVec 5 → BitVec 5 → BitVec 5 → Instr) : Dec :=
  need (fld w 9 2 == 0) .west (.ok (f (gr w 21) (gr w 16) (gr w 11)))

/-- Format K (R61). -/
def decGK (w : Nat) (f : BitVec 5 → BitVec 5 → BitVec 8 → Instr) : Dec :=
  .ok (f (gr w 21) (gr w 16) (BitVec.ofNat 8 (fld w 8 8)))

/-- Format I on g registers. -/
def decGI (w : Nat) (f : BitVec 5 → BitVec 5 → BitVec 16 → Instr) : Dec :=
  .ok (f (gr w 21) (gr w 16) (BitVec.ofNat 16 (fld w 0 16)))

/-- Format I, lane shift (R74). -/
def decGS (w : Nat) (f : BitVec 5 → BitVec 5 → BitVec 6 → Instr) : Dec :=
  need (fld w 6 2 == 0) .field (.ok (f (gr w 21) (gr w 16) (BitVec.ofNat 6 (fld w 0 6))))

/-- The size field (R62). -/
def szOf (n : Nat) : Sz := if n = 0 then .b else if n = 1 then .h else if n = 2 then .w else .d

/-- The code of a size (R62). -/
def Sz.code : Sz → Nat
  | .b => 0 | .h => 1 | .w => 2 | .d => 3

/-- The ordering field of an AMO or CAS (R62). -/
def ordOf (n : Nat) : Ord4 := if n = 0 then .plain else if n = 1 then .acq else if n = 2 then .rel else .ar

/-- The code of an ordering (R62). -/
def Ord4.code : Ord4 → Nat
  | .plain => 0 | .acq => 1 | .rel => 2 | .ar => 3

/-- AMO operation by code (R77). -/
def amoOf : Nat → Option AmoOp
  | 0 => some .add | 1 => some .and | 2 => some .or | 3 => some .xor | 4 => some .min | 5 => some .max
  | 6 => some .minn | 7 => some .maxn | 8 => some .swap | 9 => some .fadd | _ => none

/-- The code of an AMO operation (R77). -/
def AmoOp.code : AmoOp → Nat
  | .add => 0 | .and => 1 | .or => 2 | .xor => 3 | .min => 4 | .max => 5 | .minn => 6 | .maxn => 7 | .swap => 8 | .fadd => 9

/-- GVOTE modifier by fn (R76). -/
def voteOf : Nat → Option VoteOp
  | 1 => some .all | 2 => some .any | 3 => some .sum | 4 => some .min | 5 => some .max | _ => none

/-- The fn of a GVOTE modifier (R76). -/
def VoteOp.code : VoteOp → Nat
  | .all => 1 | .any => 2 | .sum => 3 | .min => 4 | .max => 5

/-- VCMP condition by fn (R78). -/
def condOf : Nat → Option CmpCond
  | 0 => some .eq | 1 => some .ne | 2 => some .lt | 3 => some .le | 4 => some .gt | 5 => some .ge | 6 => some .uo | _ => none

/-- The fn of a VCMP condition (R78). -/
def CmpCond.code : CmpCond → Nat
  | .eq => 0 | .ne => 1 | .lt => 2 | .le => 3 | .gt => 4 | .ge => 5 | .uo => 6

/-- VRED or CRED operation by code (R78, R79). -/
def redOf : Nat → Option RedOp
  | 0 => some .add | 1 => some .min | 2 => some .max | _ => none

/-- The code of a VRED or CRED operation. -/
def RedOp.code : RedOp → Nat
  | .add => 0 | .min => 1 | .max => 2

/-- MMA semiring by code (R79). -/
def srOf : Nat → Option Semiring
  | 0 => some .pt | 1 => some .mp | 2 => some .xp | 3 => some .xt | 4 => some .oa | _ => none

/-- The code of a semiring (R79). -/
def Semiring.code : Semiring → Nat
  | .pt => 0 | .mp => 1 | .xp => 2 | .xt => 3 | .oa => 4

/-- MMA format by code (R79). -/
def pfOf : Nat → Option PressFmt
  | 0 => some .d8 | 1 => some .d8s | 2 => some .z8 | 3 => some .i8 | 4 => some .bf16 | 5 => some .f16 | 6 => some .b1 | _ => none

/-- The code of an MMA format (R79). -/
def PressFmt.code : PressFmt → Nat
  | .d8 => 0 | .d8s => 1 | .z8 => 2 | .i8 => 3 | .bf16 => 4 | .f16 => 5 | .b1 => 6

/-- COPY source kind by code (R79); q is ILLEGAL as a source. -/
def copySrcOf : Nat → Option CopySrc
  | 0 => some .pool | 1 => some .global | 2 => some .remote | _ => none

/-- The code of a COPY source kind (R79). -/
def CopySrc.code : CopySrc → Nat
  | .pool => 0 | .global => 1 | .remote => 2

/-- COPY destination by kind code and multicast bit (R79). -/
def copyDstOf (kind : Nat) (mc : Bool) : Option CopyDst :=
  if mc then (if kind = 0 then some .multicast else none)
  else if kind = 0 then some .pool else if kind = 1 then some .global else if kind = 2 then some .remote else some .ring

/-- The kind code of a COPY destination (R79). -/
def CopyDst.code : CopyDst → Nat
  | .pool => 0 | .global => 1 | .remote => 2 | .ring => 3 | .multicast => 0

/-- CRED format by code (R79). -/
def credFmtOf : Nat → Option CredFmt
  | 0 => some .f32 | 1 => some .bf16 | 2 => some .i32 | _ => none

/-- The code of a CRED format (R79). -/
def CredFmt.code : CredFmt → Nat
  | .f32 => 0 | .bf16 => 1 | .i32 => 2

/-- CSR by number (R146). -/
def csrOf : Nat → Option Csr
  | 0x000 => some .sst | 0x001 => some .tvec | 0x002 => some .tcause | 0x003 => some .tval | 0x004 => some .tpc
  | 0x005 => some .regpc | 0x006 => some .mstatus | 0x008 => some .bka0 | 0x009 => some .bka1 | 0x00A => some .bka2
  | 0x00B => some .bka3 | 0x010 => some .loopc | 0x011 => some .loops | 0x012 => some .loope | 0x013 => some .rloopc
  | 0x014 => some .rloops | 0x015 => some .rloope | 0x020 => some .cycle | 0x030 => some .hsave0 | 0x031 => some .hsave1
  | _ => none

/-- The number of a CSR (R146). -/
def Csr.code : Csr → Nat
  | .sst => 0x000 | .tvec => 0x001 | .tcause => 0x002 | .tval => 0x003 | .tpc => 0x004 | .regpc => 0x005
  | .mstatus => 0x006 | .bka0 => 0x008 | .bka1 => 0x009 | .bka2 => 0x00A | .bka3 => 0x00B | .loopc => 0x010
  | .loops => 0x011 | .loope => 0x012 | .rloopc => 0x013 | .rloops => 0x014 | .rloope => 0x015 | .cycle => 0x020
  | .hsave0 => 0x030 | .hsave1 => 0x031

/-- An optional sub-code: none is an unassigned one. -/
def sub (x : Option α) (f : α → Dec) : Dec :=
  match x with
  | some y => f y
  | none => .error .sub

/-- The fields of a PX word; rm 6 and 7 and format codes 14 and 15 are refused (R66). -/
def decPx (w : Nat) : Dec :=
  need (fld w 19 3 < 6 && fld w 15 4 < 14 && fld w 11 4 < 14 && fld w 7 4 < 14) .field
    (.ok (.px ⟨BitVec.ofNat 3 (fld w 23 3), bit1 w 22, BitVec.ofNat 3 (fld w 19 3), BitVec.ofNat 4 (fld w 15 4),
      BitVec.ofNat 4 (fld w 11 4), BitVec.ofNat 4 (fld w 7 4), bit1 w 6, bit1 w 5, BitVec.ofNat 5 (fld w 0 5)⟩))

/-- Major 0x00: head register operations; wa and wb are zero (R73). -/
def decHeadAlu (w : Nat) : Dec :=
  match fld w 0 11 with
  | 0 => decH3 w .addHead
  | 1 => decH3 w .subHead
  | 2 => decH3 w .andHead
  | 3 => decH3 w .orHead
  | 4 => decH3 w .xorHead
  | 5 => decH3 w .shlHead
  | 6 => decH3 w .shrHead
  | 7 => decH3 w .sarHead
  | 8 => decH3 w .mulHead
  | 9 => decH3 w .sltHead
  | 10 => decH3 w .sltnHead
  | 11 => decH3 w .minHead
  | 12 => decH3 w .maxHead
  | _ => .error .sub

/-- Major 0x05: head shifts by an immediate (R74). -/
def decHeadShift (w : Nat) : Dec :=
  match fld w 8 8 with
  | 0 => decHS w .shliHead
  | 1 => decHS w .shriHead
  | 2 => decHS w .sariHead
  | _ => .error .sub

/-- Major 0x08: conditional branches (R75). -/
def decBranch (w : Nat) : Dec :=
  match fld w 22 4 with
  | 0 => decHB w .beq
  | 1 => decHB w .bne
  | 2 => decHB w .blt
  | 3 => decHB w .bge
  | 4 => decHB w .bltn
  | 5 => decHB w .bgen
  | _ => .error .sub

/-- Major 0x0B: JR and LOOP (R75). -/
def decJrLoop (w : Nat) : Dec :=
  match fld w 22 4 with
  | 0 => need (hOk w 17 && hOk w 12) .register (need (fld w 0 12 == 0) .field (.ok (.jr (hr w 17) (hr w 12))))
  | 1 => need (hOk w 17) .register (need (fld w 12 5 == 0 && 2 ≤ fld w 0 12 && fld w 0 12 ≤ 2047) .field
      (.ok (.loop (hr w 17) (BitVec.ofNat 12 (fld w 0 12)))))
  | _ => .error .sub

/-- Major 0x0C: head LD.d and ST.d (R63). -/
def decHeadMem (w : Nat) : Dec :=
  match fld w 0 4 with
  | 0 => need (hOk w 21 && hOk w 16) .register (.ok (.ldD (hr w 21) (hr w 16) (BitVec.ofNat 12 (fld w 4 12)) false))
  | 1 => need (hOk w 21 && hOk w 16) .register (.ok (.ldD (hr w 21) (hr w 16) (BitVec.ofNat 12 (fld w 4 12)) true))
  | 4 => need (hOk w 21 && hOk w 16) .register (.ok (.stD (hr w 21) (hr w 16) (BitVec.ofNat 12 (fld w 4 12)) false))
  | 6 => need (hOk w 21 && hOk w 16) .register (.ok (.stD (hr w 21) (hr w 16) (BitVec.ofNat 12 (fld w 4 12)) true))
  | _ => .error .sub

/-- Major 0x0D: strand control (R76). -/
def decControl (w : Nat) : Dec :=
  match fld w 0 11 with
  | 0 => need (fld w 11 15 == 0) .field (.ok .drain)
  | 1 => need (fld w 11 15 == 0) .field (.ok .yield)
  | 2 => need (hOk w 16) .register (need (fld w 21 5 == 0 && fld w 11 5 == 0) .field (.ok (.exit (hr w 16))))
  | 3 => need (fld w 11 15 == 0) .field (.ok .region)
  | 4 => need (hOk w 16) .register (need (fld w 21 5 == 0 && fld w 11 5 == 0) .field (.ok (.pause (hr w 16))))
  | 5 => need (hOk w 21) .register (need (fld w 16 5 == 0 && fld w 11 5 == 0) .field (.ok (.twait (hr w 21))))
  | 6 => need (hOk w 16 && 1 ≤ fld w 21 5 && fld w 21 5 ≤ 14) .register
      (need (fld w 11 5 == 0) .field (.ok (.tileget (hr w 21) (hr w 16))))
  | 7 => need (hOk w 16) .register (need (fld w 21 5 == 0 && fld w 11 5 == 0) .field (.ok (.publish (hr w 16))))
  | 8 => need (fld w 21 5 == 0) .field (.ok (.svc (BitVec.ofNat 10 (fld w 11 10))))
  | 9 => need (fld w 11 15 == 0) .field (.ok .tret)
  | 10 => need (hOk w 16) .register (need (fld w 21 5 == 0 && fld w 11 5 == 0) .field (.ok (.tretAt (hr w 16))))
  | _ => .error .sub

/-- Major 0x0E: groups and messages (R76). -/
def decGroup (w : Nat) : Dec :=
  match fld w 0 11 with
  | 0 => need (hOk w 16) .register (need (fld w 21 5 == 0 && fld w 11 5 == 0) .field (.ok (.gbar (hr w 16))))
  | 1 => decH3 w (.gvote .all)
  | 2 => decH3 w (.gvote .any)
  | 3 => decH3 w (.gvote .sum)
  | 4 => decH3 w (.gvote .min)
  | 5 => decH3 w (.gvote .max)
  | 6 => need (hOk w 16) .register (need (fld w 21 5 == 0 && fld w 11 5 == 0) .field (.ok (.gleave (hr w 16))))
  | 7 => need (hOk w 16) .register (need (fld w 21 5 == 0 && fld w 11 5 == 0) .field (.ok (.gkill (hr w 16))))
  | 8 => need (hOk w 16 && hOk w 11) .register (need (fld w 21 5 == 0) .field (.ok (.msend (hr w 16) (hr w 11))))
  | 9 => need (hOk w 21) .register (need (fld w 16 5 == 0 && fld w 11 5 == 0) .field (.ok (.mrecv (hr w 21))))
  | 10 => need (hOk w 21) .register (need (fld w 16 5 == 0 && fld w 11 5 == 0) .field (.ok (.mprobe (hr w 21))))
  | _ => .error .sub

/-- Major 0x0F: CSRR, CSRW, BKPT (R76). -/
def decCsr (w : Nat) : Dec :=
  match fld w 12 4 with
  | 0 => need (hOk w 21) .register (need (fld w 16 5 == 0) .field (sub (csrOf (fld w 0 12)) fun c => .ok (.csrr (hr w 21) c)))
  | 1 => need (hOk w 16) .register (need (fld w 21 5 == 0) .field (sub (csrOf (fld w 0 12)) fun c => .ok (.csrw c (hr w 16))))
  | 2 => need (fld w 16 10 == 0) .field (.ok (.bkpt (BitVec.ofNat 12 (fld w 0 12))))
  | _ => .error .sub

/-- Major 0x10: lane integer operations (R73). -/
def decLaneAlu (w : Nat) : Dec :=
  match fld w 0 9 with
  | 0 => decG3 w .add
  | 1 => decG3 w .sub
  | 2 => decG3 w .and
  | 3 => decG3 w .or
  | 4 => decG3 w .xor
  | 5 => decG3 w .shl
  | 6 => decG3 w .shr
  | 7 => decG3 w .sar
  | 8 => decG3 w .mul
  | 9 => decG3 w .slt
  | 10 => decG3 w .sltn
  | 11 => decG3 w .min
  | 12 => decG3 w .max
  | 13 => decG3 w .minn
  | 14 => decG3 w .maxn
  | 15 => decG3 w .mulh
  | 16 => decG3 w .mulhn
  | 17 => decG3 w .div
  | 18 => decG3 w .divn
  | 19 => decG3 w .rem
  | 20 => decG3 w .remn
  | 21 => decG2 w .clz
  | 22 => decG2 w .ctz
  | 23 => decG2 w .popc
  | _ => .error .sub

/-- Major 0x11: lane integer operations with a constant (R73). -/
def decLaneK (w : Nat) : Dec :=
  match fld w 0 8 with
  | 0 => decGK w .addConst
  | 1 => decGK w .subConst
  | 2 => decGK w .andConst
  | 3 => decGK w .orConst
  | 4 => decGK w .xorConst
  | 5 => decGK w .shlConst
  | 6 => decGK w .shrConst
  | 7 => decGK w .sarConst
  | 8 => decGK w .mulConst
  | 9 => decGK w .sltConst
  | 10 => decGK w .sltnConst
  | 11 => decGK w .minConst
  | 12 => decGK w .maxConst
  | 13 => decGK w .minnConst
  | 14 => decGK w .maxnConst
  | 15 => decGK w .mulhConst
  | 16 => decGK w .mulhnConst
  | 17 => decGK w .divConst
  | 18 => decGK w .divnConst
  | 19 => decGK w .remConst
  | 20 => decGK w .remnConst
  | _ => .error .sub

/-- Major 0x16: lane shifts by an immediate (R74). -/
def decLaneShift (w : Nat) : Dec :=
  match fld w 8 8 with
  | 0 => decGS w .shli
  | 1 => decGS w .shri
  | 2 => decGS w .sari
  | _ => .error .sub

/-- Major 0x19: scalar floating point (R78). -/
def decFloat (w : Nat) : Dec :=
  match fld w 0 9 with
  | 0 => decG3 w .fadd
  | 1 => decG3 w .fsub
  | 2 => decG3 w .fmul
  | 3 => decG3 w .fdiv
  | 4 => decG3 w .fma
  | 5 => decG3 w .fmin
  | 6 => decG3 w .fmax
  | 7 => decG3 w .feq
  | 8 => decG3 w .flt
  | 9 => decG3 w .fle
  | 10 => decG2 w .fabs
  | 11 => decG2 w .fneg
  | 12 => decG2 w .fcvti
  | 13 => decG2 w .icvtf
  | _ => .error .sub

/-- Major 0x1A: moves between classes (R77); no west bit. -/
def decMove (w : Nat) : Dec :=
  match fld w 0 11 with
  | 0 => need (hOk w 16) .register (need (fld w 11 5 == 0) .field (.ok (.hget (gr w 21) (hr w 16))))
  | 1 => need (fld w 21 5 == 0 && fld w 11 5 == 0) .field (.ok (.tail (gr w 16)))
  | 2 => need (fld w 14 2 == 0) .register (.ok (.cmov (gr w 21) (gr w 16) (BitVec.ofNat 3 (fld w 11 3))))
  | 3 => need (fld w 19 2 == 0) .register (need (fld w 12 4 == 0) .field
      (.ok (.movmg (gr w 21) (BitVec.ofNat 3 (fld w 16 3)) (bit1 w 11))))
  | 4 => need (1 ≤ fld w 21 5 && fld w 21 5 ≤ 7) .register (need (fld w 12 4 == 0) .field
      (.ok (.movgm (BitVec.ofNat 3 (fld w 21 3)) (gr w 16) (bit1 w 11))))
  | _ => .error .sub

/-- Major 0x1B: LD (R63). -/
def decLd (w : Nat) : Dec :=
  need (fld w 0 2 < 2) .field (.ok (.ld (gr w 21) (gr w 16) (BitVec.ofNat 12 (fld w 4 12)) (szOf (fld w 2 2)) (bit1 w 0)))

/-- Major 0x1C: ST (R63). -/
def decSt (w : Nat) : Dec :=
  need (fld w 0 1 == 0) .field (.ok (.st (gr w 21) (gr w 16) (BitVec.ofNat 12 (fld w 4 12)) (szOf (fld w 2 2)) (bit1 w 1)))

/-- Major 0x1D: LDV and STV (R63). -/
def decVecMem (w : Nat) : Dec :=
  match fld w 0 5 with
  | 0 => .ok (.ldv (gr w 21) (gr w 16) (BitVec.ofNat 11 (fld w 5 11)) false)
  | 1 => .ok (.ldv (gr w 21) (gr w 16) (BitVec.ofNat 11 (fld w 5 11)) true)
  | 16 => .ok (.stv (gr w 21) (gr w 16) (BitVec.ofNat 11 (fld w 5 11)) false)
  | 18 => .ok (.stv (gr w 21) (gr w 16) (BitVec.ofNat 11 (fld w 5 11)) true)
  | _ => .error .sub

/-- Major 0x1E: pool accesses (R63, R163); the vector forms need sz 3. -/
def decPool (w : Nat) : Dec :=
  match fld w 0 2 with
  | 0 => .ok (.ldp (gr w 21) (gr w 16) (BitVec.ofNat 12 (fld w 4 12)) (szOf (fld w 2 2)))
  | 1 => .ok (.stp (gr w 21) (gr w 16) (BitVec.ofNat 12 (fld w 4 12)) (szOf (fld w 2 2)))
  | 2 => need (fld w 2 2 == 3) .field (.ok (.ldpv (gr w 21) (gr w 16) (BitVec.ofNat 12 (fld w 4 12))))
  | 3 => need (fld w 2 2 == 3) .field (.ok (.stpv (gr w 21) (gr w 16) (BitVec.ofNat 12 (fld w 4 12))))
  | _ => .error .sub

/-- Major 0x1F: LDL and LDLV (R63, R166). -/
def decLandLoad (w : Nat) : Dec :=
  match fld w 4 1 with
  | 0 => .ok (.ldl (gr w 21) (gr w 16) (BitVec.ofNat 11 (fld w 5 11)) (szOf (fld w 2 2)) (BitVec.ofNat 2 (fld w 0 2)))
  | 1 => need (fld w 2 2 == 3) .field
      (.ok (.ldlv (gr w 21) (gr w 16) (BitVec.ofNat 11 (fld w 5 11)) (BitVec.ofNat 2 (fld w 0 2))))
  | _ => .error .sub

/-- Major 0x20: takes, LCNT, LDROP (R77); no west bit; TAKE and TAKEO refuse d = a other than 0 (R167). -/
def decLanding (w : Nat) : Dec :=
  match fld w 0 11 with
  | 0 => need (fld w 13 3 == 0) .field (need (fld w 21 5 != fld w 16 5 || fld w 21 5 == 0) .register
      (.ok (.take (gr w 21) (gr w 16) (BitVec.ofNat 2 (fld w 11 2)))))
  | 1 => need (fld w 13 3 == 0) .field (need (fld w 21 5 != fld w 16 5 || fld w 21 5 == 0) .register
      (.ok (.takeo (gr w 21) (gr w 16) (BitVec.ofNat 2 (fld w 11 2)))))
  | 2 => need (fld w 13 3 == 0) .field (.ok (.takev (gr w 21) (gr w 16) (BitVec.ofNat 2 (fld w 11 2))))
  | 3 => need (fld w 13 3 == 0 && fld w 16 5 == 0) .field (.ok (.lcnt (gr w 21) (BitVec.ofNat 2 (fld w 11 2))))
  | 4 => need (fld w 13 3 == 0 && fld w 16 10 == 0) .field (.ok (.ldrop (BitVec.ofNat 2 (fld w 11 2))))
  | _ => .error .sub

/-- Major 0x21: AMO and CAS (R77): sizes .w and .d, FADD only .w, fn[8], wa and wb zero. -/
def decAmo (w : Nat) : Dec :=
  need (fld w 9 2 == 0) .west (need (fld w 8 1 == 0 && 2 ≤ fld w 4 2) .field
    (if fld w 0 4 = 15 then .ok (.cas (bit1 w 4) (ordOf (fld w 6 2)) (gr w 21) (gr w 16) (gr w 11))
     else sub (amoOf (fld w 0 4)) fun op => need (op != .fadd || !bit1 w 4) .field
       (.ok (.amo op (bit1 w 4) (ordOf (fld w 6 2)) (gr w 21) (gr w 16) (gr w 11)))))

/-- Is it a RED operation (R77): codes 0 to 5 and 9? -/
def AmoOp.isRed : AmoOp → Bool
  | .minn | .maxn | .swap => false
  | _ => true

/-- Major 0x22: RED (R77): ord plain or rel. -/
def decRed (w : Nat) : Dec :=
  need (fld w 9 2 == 0) .west (need (fld w 21 5 == 0 && fld w 8 1 == 0 && 2 ≤ fld w 4 2 && fld w 6 1 == 0) .field
    (sub (amoOf (fld w 0 4)) fun op => need op.isRed .sub (need (op != .fadd || !bit1 w 4) .field
      (.ok (.red op (bit1 w 4) (bit1 w 7) (gr w 16) (gr w 11))))))

/-- Major 0x23: FENCE, DRAINST, barriers (R77); no west bit. -/
def decOrder (w : Nat) : Dec :=
  match fld w 0 11 with
  | 0 => need (fld w 11 15 == 0) .field (.ok .fence)
  | 1 => need (fld w 11 15 == 0) .field (.ok .drainst)
  | 2 => need (fld w 16 10 == 0) .field (.ok (.bar (gr w 11)))
  | 3 => need (fld w 21 5 == 0) .field (.ok (.bari (gr w 11) (gr w 16)))
  | 4 => need (fld w 16 10 == 0) .field (.ok (.bara (gr w 11)))
  | 5 => need (fld w 16 10 == 0) .field (.ok (.barw (gr w 11)))
  | _ => .error .sub

/-- Major 0x24: vector arithmetic (R78). -/
def decVecArith (w : Nat) : Dec :=
  match fld w 0 9 with
  | 0 => decG3 w .vadd
  | 1 => decG3 w .vsub
  | 2 => decG3 w .vmul
  | 3 => decG3 w .vfma
  | 4 => decG3 w .vmin
  | 5 => decG3 w .vmax
  | 6 => decG2 w .vabs
  | 7 => decG2 w .vneg
  | _ => .error .sub

/-- Major 0x25: vector logic and shifts (R78). -/
def decVecLogic (w : Nat) : Dec :=
  match fld w 0 9 with
  | 0 => decG3 w .vand
  | 1 => decG3 w .vor
  | 2 => decG3 w .vxor
  | 3 => decG2 w .vnot
  | 4 => decG3 w .vshl
  | 5 => decG3 w .vshr
  | 6 => decG3 w .vsar
  | _ => .error .sub

/-- VCMP: the destination mask is 1 to 7 (R34, R59). -/
def decVcmp (w : Nat) (c : CmpCond) : Dec :=
  need (1 ≤ fld w 21 5 && fld w 21 5 ≤ 7) .register
    (decG3 w fun _ a b x => .vcmp c (BitVec.ofNat 3 (fld w 21 3)) a b x)

/-- Mask operations: three mask fields, no west bit, destination 1 to 7 (R34, R195). -/
def decM3 (w : Nat) (f : BitVec 3 → BitVec 3 → BitVec 3 → Instr) : Dec :=
  need (fld w 9 2 == 0) .west (need (1 ≤ fld w 21 5 && fld w 21 5 ≤ 7 && fld w 19 2 == 0 && fld w 14 2 == 0) .register
    (.ok (f (BitVec.ofNat 3 (fld w 21 3)) (BitVec.ofNat 3 (fld w 16 3)) (BitVec.ofNat 3 (fld w 11 3)))))

/-- Major 0x26: VCMP, VSEL, mask operations (R78). -/
def decMask (w : Nat) : Dec :=
  match fld w 0 9 with
  | 0 => decVcmp w .eq
  | 1 => decVcmp w .ne
  | 2 => decVcmp w .lt
  | 3 => decVcmp w .le
  | 4 => decVcmp w .gt
  | 5 => decVcmp w .ge
  | 6 => decVcmp w .uo
  | 16 => decG3 w .vsel
  | 32 => decM3 w .mand
  | 33 => decM3 w .mor
  | 34 => decM3 w .mxor
  | 35 => need (fld w 11 5 == 0) .field (decM3 w fun d a _ => .mnot d a)
  | 36 => need (fld w 9 2 == 0) .west (need (1 ≤ fld w 21 5 && fld w 21 5 ≤ 7) .register (need (fld w 11 5 == 0) .field
      (.ok (.mset (BitVec.ofNat 3 (fld w 21 3)) (gr w 16)))))
  | _ => .error .sub

/-- Major 0x27: conversion and quantisation (R78, R196). -/
def decVecCvt (w : Nat) : Dec :=
  match fld w 0 9 with
  | 0 => decG2 w .vcvt
  | 1 => decG3 w .vquant
  | 2 => decG3 w .vdeq
  | _ => .error .sub

/-- Major 0x28: special functions (R78). -/
def decVecSpecial (w : Nat) : Dec :=
  match fld w 0 9 with
  | 0 => decG2 w .vrcp
  | 1 => decG2 w .vrsq
  | 2 => decG2 w .vsqrt
  | 3 => decG3 w .vdiv
  | 4 => decG2 w .vexp2
  | 5 => decG2 w .vlog2
  | 6 => decG2 w .vsin
  | 7 => decG2 w .vcos
  | 8 => decG2 w .vtanh
  | _ => .error .sub

/-- Major 0x29: lane operations; no west bit (R78). -/
def decVecLane (w : Nat) : Dec :=
  match fld w 0 11 with
  | 0 => need (fld w 11 5 == 0) .field (.ok (.vbcast (gr w 21) (gr w 16)))
  | 1 => .ok (.vext (gr w 21) (gr w 16) (gr w 11))
  | 2 => .ok (.vins (gr w 21) (gr w 16) (gr w 11))
  | 3 => .ok (.vperm (gr w 21) (gr w 16) (gr w 11))
  | 4 => .ok (.vrot (gr w 21) (gr w 16) (gr w 11))
  | 5 => need (fld w 11 10 == 0) .field (.ok (.viota (gr w 21)))
  | 6 => need (fld w 19 2 == 0) .register (need (fld w 11 5 == 0) .field (.ok (.vpop (gr w 21) (BitVec.ofNat 3 (fld w 16 3)))))
  | _ => .error .sub

/-- Major 0x2A: VRED (R78). -/
def decVred (w : Nat) : Dec :=
  match fld w 0 11 with
  | 0 => need (fld w 11 5 == 0) .field (.ok (.vred .add (gr w 21) (gr w 16)))
  | 1 => need (fld w 11 5 == 0) .field (.ok (.vred .min (gr w 21) (gr w 16)))
  | 2 => need (fld w 11 5 == 0) .field (.ok (.vred .max (gr w 21) (gr w 16)))
  | _ => .error .sub

/-- Major 0x2B: vector operations with a constant (R78). -/
def decVecK (w : Nat) : Dec :=
  match fld w 0 8 with
  | 0 => decGK w .vaddConst
  | 1 => decGK w .vsubConst
  | 2 => decGK w .vmulConst
  | 4 => decGK w .vminConst
  | 5 => decGK w .vmaxConst
  | 16 => decGK w .vandConst
  | 17 => decGK w .vorConst
  | 18 => decGK w .vxorConst
  | 20 => decGK w .vshlConst
  | 21 => decGK w .vshrConst
  | 22 => decGK w .vsarConst
  | _ => .error .sub

/-- MMA (R79, R211): reserved bits and the combinations of R79. -/
def decMma (w : Nat) : Dec :=
  need (fld w 20 1 == 0 && fld w 14 2 == 0) .field (sub (srOf (fld w 7 3)) fun sr => sub (pfOf (fld w 4 3)) fun f =>
    need (mmaOk sr f (BitVec.ofNat 3 (fld w 16 3)) (BitVec.ofNat 3 (fld w 11 3))) .sub
      (.ok (.mma sr f (BitVec.ofNat 6 (fld w 19 1 * 32 + fld w 21 5)) (BitVec.ofNat 3 (fld w 16 3))
        (BitVec.ofNat 3 (fld w 11 3)) (BitVec.ofNat 4 (fld w 0 4)))))

/-- Major 0x2C with e[10] = 0 (R79): sub-code in e[9:7]. -/
def decPressQ (w : Nat) : Dec :=
  match fld w 7 3 with
  | 0 => need (fld w 11 15 == 0 && fld w 6 1 == 0) .field (.ok (.mzero (BitVec.ofNat 6 (fld w 0 6))))
  | 1 => need (fld w 21 5 == 0 && fld w 6 1 == 0) .field (need (fld w 16 1 == 0) .register (.ok (.mload (BitVec.ofNat 6 (fld w 0 6)) (gr w 16) (gr w 11))))
  | 2 => need (fld w 16 5 == 0 && fld w 6 1 == 0) .field (need (fld w 21 1 == 0) .register (.ok (.mdrain (gr w 21) (BitVec.ofNat 6 (fld w 0 6)) (gr w 11))))
  | 3 => need (fld w 11 15 == 0 && fld w 0 7 == 0) .field (.ok .mwait)
  | 4 => need (fld w 11 10 == 0 && fld w 0 7 == 0) .field (.ok (.mstat (gr w 21)))
  | _ => .error .sub

/-- Major 0x2D: rings (R79). -/
def decRing (w : Nat) : Dec :=
  match fld w 8 3 with
  | 0 => need (fld w 21 5 == 0 && fld w 3 5 == 0) .field (.ok (.rcfg (BitVec.ofNat 3 (fld w 0 3)) (gr w 16) (gr w 11)))
  | 1 => need (fld w 21 5 == 0 && fld w 11 5 == 0 && fld w 3 5 == 0) .field (.ok (.rpush (BitVec.ofNat 3 (fld w 0 3)) (gr w 16)))
  | 2 => need (fld w 11 10 == 0 && fld w 3 5 == 0) .field (.ok (.rstat (gr w 21) (BitVec.ofNat 3 (fld w 0 3))))
  | _ => .error .sub

/-- Major 0x2E: Hatch (R79). -/
def decHatch (w : Nat) : Dec :=
  match fld w 8 3 with
  | 0 => need (fld w 21 5 == 0 && fld w 11 5 == 0 && fld w 3 5 == 0) .field (.ok (.hopen (bit1 w 2) (BitVec.ofNat 2 (fld w 0 2)) (gr w 16)))
  | 1 => need (fld w 11 15 == 0 && fld w 6 2 == 0 && fld w 2 1 == 0) .field (.ok (.htake (BitVec.ofNat 2 (fld w 0 2)) (BitVec.ofNat 3 (fld w 3 3))))
  | 2 => need (fld w 21 5 == 0 && fld w 0 8 == 0) .field (.ok (.hput (gr w 16) (gr w 11)))
  | 3 => need (fld w 11 15 == 0 && fld w 2 6 == 0) .field (.ok (.hshut (BitVec.ofNat 2 (fld w 0 2))))
  | 4 => need (fld w 11 15 == 0 && fld w 0 8 == 0) .field (.ok .hwait)
  | 5 => need (fld w 11 10 == 0 && fld w 0 8 == 0) .field (.ok (.hstat (gr w 21)))
  | _ => .error .sub

/-- COPY (R79, R229): source q is ILLEGAL, multicast needs destination kind 0, a ring number holds 3 bits. -/
def decCopy (w : Nat) : Dec :=
  need (fld w 2 1 == 0) .field (sub (copySrcOf (fld w 6 2)) fun s => sub (copyDstOf (fld w 4 2) (bit1 w 3)) fun t =>
    need (t != .ring || fld w 24 2 == 0) .field (.ok (.copy s t (BitVec.ofNat 2 (fld w 0 2)) (gr w 21) (gr w 16) (gr w 11))))

/-- CRED (R79, R233): destination kind 1 (g) or 2 (r). -/
def decCred (w : Nat) : Dec :=
  sub (redOf (fld w 6 2)) fun op => sub (credFmtOf (fld w 4 2)) fun f =>
    need (fld w 2 2 == 1 || fld w 2 2 == 2) .sub
      (.ok (.cred op f (bit1 w 3) (BitVec.ofNat 2 (fld w 0 2)) (gr w 21) (gr w 16) (gr w 11)))

/-- Major 0x2F: copy engine (R79). -/
def decCopyEng (w : Nat) : Dec :=
  match fld w 8 3 with
  | 0 => decCopy w
  | 1 => decCred w
  | 2 => need (fld w 11 15 == 0 && fld w 0 8 == 0) .field (.ok .cseal)
  | 3 => need (fld w 11 15 == 0 && fld w 4 4 == 0) .field (.ok (.cwait (BitVec.ofNat 4 (fld w 0 4))))
  | 4 => need (fld w 11 10 == 0 && fld w 2 6 == 0) .field (.ok (.cptr (gr w 21) (BitVec.ofNat 2 (fld w 0 2))))
  | 5 => need (fld w 21 5 == 0 && fld w 0 8 == 0) .field (.ok (.cjoin (gr w 16) (gr w 11)))
  | 6 => need (fld w 21 5 == 0 && fld w 11 5 == 0 && fld w 0 8 == 0) .field (.ok (.cleave (gr w 16)))
  | _ => .error .sub

/-- Major 0x30: lane system instructions (R78): n of BKPT and TRAP in bits 20:11, wa and wb zero. -/
def decSystem (w : Nat) : Dec :=
  need (fld w 9 2 == 0) .west (match fld w 0 9 with
  | 0 => need (fld w 21 5 == 0) .field (.ok (.bkptLane (BitVec.ofNat 10 (fld w 11 10))))
  | 1 => need (fld w 21 5 == 0) .field (.ok (.trap (BitVec.ofNat 10 (fld w 11 10))))
  | 2 => .ok (.estat (gr w 21) (gr w 16) (gr w 11))
  | 3 => need (fld w 11 5 == 0) .field (.ok (.dbgr (gr w 21) (gr w 16)))
  | 4 => need (fld w 21 5 == 0) .field (.ok (.dbgw (gr w 16) (gr w 11)))
  | _ => .error .sub)

/-- The instruction of one 32-bit word (R72), or the name of the reason why it is none. -/
def decode (w : Nat) : Dec :=
  match fld w 26 6 with
  | 0x00 => decHeadAlu w
  | 0x01 => decHI w .addiHead
  | 0x02 => decHI w .andiHead
  | 0x03 => decHI w .oriHead
  | 0x04 => decHI w .xoriHead
  | 0x05 => decHeadShift w
  | 0x06 => need (hOk w 21) .register (need (fld w 16 5 == 0) .field (.ok (.liHead (hr w 21) (BitVec.ofNat 16 (fld w 0 16)))))
  | 0x07 => decHI w .luiHead
  | 0x08 => decBranch w
  | 0x09 => .ok (.jmp (BitVec.ofNat 26 (fld w 0 26)))
  | 0x0A => .ok (.call (BitVec.ofNat 26 (fld w 0 26)))
  | 0x0B => decJrLoop w
  | 0x0C => decHeadMem w
  | 0x0D => decControl w
  | 0x0E => decGroup w
  | 0x0F => decCsr w
  | 0x10 => decLaneAlu w
  | 0x11 => decLaneK w
  | 0x12 => decGI w .addi
  | 0x13 => decGI w .andi
  | 0x14 => decGI w .ori
  | 0x15 => decGI w .xori
  | 0x16 => decLaneShift w
  | 0x17 => need (fld w 16 5 == 0) .field (.ok (.li (gr w 21) (BitVec.ofNat 16 (fld w 0 16))))
  | 0x18 => decGI w .lui
  | 0x19 => decFloat w
  | 0x1A => decMove w
  | 0x1B => decLd w
  | 0x1C => decSt w
  | 0x1D => decVecMem w
  | 0x1E => decPool w
  | 0x1F => decLandLoad w
  | 0x20 => decLanding w
  | 0x21 => decAmo w
  | 0x22 => decRed w
  | 0x23 => decOrder w
  | 0x24 => decVecArith w
  | 0x25 => decVecLogic w
  | 0x26 => decMask w
  | 0x27 => decVecCvt w
  | 0x28 => decVecSpecial w
  | 0x29 => decVecLane w
  | 0x2A => decVred w
  | 0x2B => decVecK w
  | 0x2C => if bit1 w 10 then decMma w else decPressQ w
  | 0x2D => decRing w
  | 0x2E => decHatch w
  | 0x2F => decCopyEng w
  | 0x30 => decSystem w
  | 0x3F => decPx w
  | _ => .error .major

/-- The word whose four bytes stand first, little-endian (R3), and the rest. -/
def wordOfBytes : List Byte → Option (Nat × List Byte)
  | b0 :: b1 :: b2 :: b3 :: rest => some (b0.toNat + 256 * b1.toNat + 65536 * b2.toNat + 16777216 * b3.toNat, rest)
  | _ => none

/-- The instruction that a list of bytes begins with, and the bytes after it. -/
def decodeBytes (bs : List Byte) : Except DecodeErr (Instr × List Byte) :=
  match wordOfBytes bs with
  | none => .error .short
  | some (w, rest) =>
    match decode w with
    | .ok i => .ok (i, rest)
    | .error x => .error x

/-- Little-endian bytes of a word (R3). -/
def bytesOfWord (w : Nat) : List Byte :=
  [BitVec.ofNat 8 w, BitVec.ofNat 8 (w / 256), BitVec.ofNat 8 (w / 65536), BitVec.ofNat 8 (w / 16777216)]

/-- The instruction that the decoder reads from an instruction of nbits bits, laid out as the hardware stores it: one word
for 32 bits; for 64 bits a PX and its LD, read as LDN where fd holds the natural code of the size (R69). -/
def decodeTableWord (nbits w : Nat) : Option Instr :=
  if nbits ≤ 32 then
    match decodeBytes (bytesOfWord w) with
    | .ok (i, _) => some i
    | .error _ => none
  else
    match decodeBytes (bytesOfWord (w % 2 ^ 32)), decodeBytes (bytesOfWord (w / 2 ^ 32)) with
    | .ok (.px p, _), .ok (i, _) => some (i.withPx p)
    | _, _ => none

/-! The encoder: the same fields put together as sums. -/

/-- One-bit field of a truth value. -/
def b2n (b : Bool) : Nat := if b then 1 else 0

/-- Format R without west bits: op, d, a, b, fn. -/
def fmtR (op d a b fn : Nat) : Nat := op * 67108864 + d * 2097152 + a * 65536 + b * 2048 + fn

/-- The west bits as a number to add (R61). -/
def West.bits : West → Nat
  | .no => 0 | .a => 1024 | .b => 512

/-- Format I. -/
def fmtI (op d a imm : Nat) : Nat := op * 67108864 + d * 2097152 + a * 65536 + imm

/-- Format B. -/
def fmtB (op cond a b off : Nat) : Nat := op * 67108864 + cond * 4194304 + a * 131072 + b * 4096 + off

/-- Format M: off12, sz, ord. -/
def fmtM (op d a off sz ord : Nat) : Nat := op * 67108864 + d * 2097152 + a * 65536 + off * 16 + sz * 4 + ord

/-- Format PX. -/
def fmtPx (p : Px) : Nat :=
  0x3F * 67108864 + p.msk.toNat * 8388608 + b2n p.mz * 4194304 + p.rm.toNat * 524288 + p.fa.toNat * 32768
    + p.fb.toNat * 2048 + p.fd.toNat * 128 + b2n p.ea * 64 + b2n p.eb * 32 + p.c.toNat

/-- The natural format code of a load size (R69). -/
def Sz.natCode : Sz → BitVec 4
  | .b => 7 | .h => 8 | .w => 10 | .d => 13

/-- The word of an instruction; LDN gives its LD word, the events have no word and give 0. -/
def encodeWord : Instr → Nat
  | .px p => fmtPx p
  | .addHead d a b => fmtR 0 d.toNat a.toNat b.toNat 0
  | .subHead d a b => fmtR 0 d.toNat a.toNat b.toNat 1
  | .andHead d a b => fmtR 0 d.toNat a.toNat b.toNat 2
  | .orHead d a b => fmtR 0 d.toNat a.toNat b.toNat 3
  | .xorHead d a b => fmtR 0 d.toNat a.toNat b.toNat 4
  | .shlHead d a b => fmtR 0 d.toNat a.toNat b.toNat 5
  | .shrHead d a b => fmtR 0 d.toNat a.toNat b.toNat 6
  | .sarHead d a b => fmtR 0 d.toNat a.toNat b.toNat 7
  | .mulHead d a b => fmtR 0 d.toNat a.toNat b.toNat 8
  | .sltHead d a b => fmtR 0 d.toNat a.toNat b.toNat 9
  | .sltnHead d a b => fmtR 0 d.toNat a.toNat b.toNat 10
  | .minHead d a b => fmtR 0 d.toNat a.toNat b.toNat 11
  | .maxHead d a b => fmtR 0 d.toNat a.toNat b.toNat 12
  | .addiHead d a imm => fmtI 1 d.toNat a.toNat imm.toNat
  | .andiHead d a imm => fmtI 2 d.toNat a.toNat imm.toNat
  | .oriHead d a imm => fmtI 3 d.toNat a.toNat imm.toNat
  | .xoriHead d a imm => fmtI 4 d.toNat a.toNat imm.toNat
  | .shliHead d a n => fmtI 5 d.toNat a.toNat (0 + n.toNat)
  | .shriHead d a n => fmtI 5 d.toNat a.toNat (256 + n.toNat)
  | .sariHead d a n => fmtI 5 d.toNat a.toNat (512 + n.toNat)
  | .liHead d imm => fmtI 6 d.toNat 0 imm.toNat
  | .luiHead d a imm => fmtI 7 d.toNat a.toNat imm.toNat
  | .beq a b off => fmtB 8 0 a.toNat b.toNat off.toNat
  | .bne a b off => fmtB 8 1 a.toNat b.toNat off.toNat
  | .blt a b off => fmtB 8 2 a.toNat b.toNat off.toNat
  | .bge a b off => fmtB 8 3 a.toNat b.toNat off.toNat
  | .bltn a b off => fmtB 8 4 a.toNat b.toNat off.toNat
  | .bgen a b off => fmtB 8 5 a.toNat b.toNat off.toNat
  | .jmp off => 9 * 67108864 + off.toNat
  | .call off => 10 * 67108864 + off.toNat
  | .jr a b => fmtB 11 0 a.toNat b.toNat 0
  | .loop a off => fmtB 11 1 a.toNat 0 off.toNat
  | .ldD d a off acq => fmtM 12 d.toNat a.toNat off.toNat 0 (b2n acq)
  | .stD d a off rel => fmtM 12 d.toNat a.toNat off.toNat 1 (2 * b2n rel)
  | .drain => fmtR 13 0 0 0 0
  | .yield => fmtR 13 0 0 0 1
  | .exit a => fmtR 13 0 a.toNat 0 2
  | .region => fmtR 13 0 0 0 3
  | .pause a => fmtR 13 0 a.toNat 0 4
  | .twait d => fmtR 13 d.toNat 0 0 5
  | .tileget d a => fmtR 13 d.toNat a.toNat 0 6
  | .publish a => fmtR 13 0 a.toNat 0 7
  | .svc n => fmtR 13 0 0 0 8 + n.toNat * 2048
  | .tret => fmtR 13 0 0 0 9
  | .tretAt a => fmtR 13 0 a.toNat 0 10
  | .gbar a => fmtR 14 0 a.toNat 0 0
  | .gvote op d a b => fmtR 14 d.toNat a.toNat b.toNat op.code
  | .gleave a => fmtR 14 0 a.toNat 0 6
  | .gkill a => fmtR 14 0 a.toNat 0 7
  | .msend a b => fmtR 14 0 a.toNat b.toNat 8
  | .mrecv d => fmtR 14 d.toNat 0 0 9
  | .mprobe d => fmtR 14 d.toNat 0 0 10
  | .csrr d csr => fmtI 15 d.toNat 0 csr.code
  | .csrw csr a => fmtI 15 0 a.toNat (4096 + csr.code)
  | .bkpt n => fmtI 15 0 0 (8192 + n.toNat)
  | .add d a b w => fmtR 16 d.toNat a.toNat b.toNat 0 + w.bits
  | .sub d a b w => fmtR 16 d.toNat a.toNat b.toNat 1 + w.bits
  | .and d a b w => fmtR 16 d.toNat a.toNat b.toNat 2 + w.bits
  | .or d a b w => fmtR 16 d.toNat a.toNat b.toNat 3 + w.bits
  | .xor d a b w => fmtR 16 d.toNat a.toNat b.toNat 4 + w.bits
  | .shl d a b w => fmtR 16 d.toNat a.toNat b.toNat 5 + w.bits
  | .shr d a b w => fmtR 16 d.toNat a.toNat b.toNat 6 + w.bits
  | .sar d a b w => fmtR 16 d.toNat a.toNat b.toNat 7 + w.bits
  | .mul d a b w => fmtR 16 d.toNat a.toNat b.toNat 8 + w.bits
  | .slt d a b w => fmtR 16 d.toNat a.toNat b.toNat 9 + w.bits
  | .sltn d a b w => fmtR 16 d.toNat a.toNat b.toNat 10 + w.bits
  | .min d a b w => fmtR 16 d.toNat a.toNat b.toNat 11 + w.bits
  | .max d a b w => fmtR 16 d.toNat a.toNat b.toNat 12 + w.bits
  | .minn d a b w => fmtR 16 d.toNat a.toNat b.toNat 13 + w.bits
  | .maxn d a b w => fmtR 16 d.toNat a.toNat b.toNat 14 + w.bits
  | .mulh d a b w => fmtR 16 d.toNat a.toNat b.toNat 15 + w.bits
  | .mulhn d a b w => fmtR 16 d.toNat a.toNat b.toNat 16 + w.bits
  | .div d a b w => fmtR 16 d.toNat a.toNat b.toNat 17 + w.bits
  | .divn d a b w => fmtR 16 d.toNat a.toNat b.toNat 18 + w.bits
  | .rem d a b w => fmtR 16 d.toNat a.toNat b.toNat 19 + w.bits
  | .remn d a b w => fmtR 16 d.toNat a.toNat b.toNat 20 + w.bits
  | .clz d a w => fmtR 16 d.toNat a.toNat 0 21 + 1024 * b2n w
  | .ctz d a w => fmtR 16 d.toNat a.toNat 0 22 + 1024 * b2n w
  | .popc d a w => fmtR 16 d.toNat a.toNat 0 23 + 1024 * b2n w
  | .addConst d a k => fmtI 17 d.toNat a.toNat (k.toNat * 256 + 0)
  | .subConst d a k => fmtI 17 d.toNat a.toNat (k.toNat * 256 + 1)
  | .andConst d a k => fmtI 17 d.toNat a.toNat (k.toNat * 256 + 2)
  | .orConst d a k => fmtI 17 d.toNat a.toNat (k.toNat * 256 + 3)
  | .xorConst d a k => fmtI 17 d.toNat a.toNat (k.toNat * 256 + 4)
  | .shlConst d a k => fmtI 17 d.toNat a.toNat (k.toNat * 256 + 5)
  | .shrConst d a k => fmtI 17 d.toNat a.toNat (k.toNat * 256 + 6)
  | .sarConst d a k => fmtI 17 d.toNat a.toNat (k.toNat * 256 + 7)
  | .mulConst d a k => fmtI 17 d.toNat a.toNat (k.toNat * 256 + 8)
  | .sltConst d a k => fmtI 17 d.toNat a.toNat (k.toNat * 256 + 9)
  | .sltnConst d a k => fmtI 17 d.toNat a.toNat (k.toNat * 256 + 10)
  | .minConst d a k => fmtI 17 d.toNat a.toNat (k.toNat * 256 + 11)
  | .maxConst d a k => fmtI 17 d.toNat a.toNat (k.toNat * 256 + 12)
  | .minnConst d a k => fmtI 17 d.toNat a.toNat (k.toNat * 256 + 13)
  | .maxnConst d a k => fmtI 17 d.toNat a.toNat (k.toNat * 256 + 14)
  | .mulhConst d a k => fmtI 17 d.toNat a.toNat (k.toNat * 256 + 15)
  | .mulhnConst d a k => fmtI 17 d.toNat a.toNat (k.toNat * 256 + 16)
  | .divConst d a k => fmtI 17 d.toNat a.toNat (k.toNat * 256 + 17)
  | .divnConst d a k => fmtI 17 d.toNat a.toNat (k.toNat * 256 + 18)
  | .remConst d a k => fmtI 17 d.toNat a.toNat (k.toNat * 256 + 19)
  | .remnConst d a k => fmtI 17 d.toNat a.toNat (k.toNat * 256 + 20)
  | .addi d a imm => fmtI 18 d.toNat a.toNat imm.toNat
  | .andi d a imm => fmtI 19 d.toNat a.toNat imm.toNat
  | .ori d a imm => fmtI 20 d.toNat a.toNat imm.toNat
  | .xori d a imm => fmtI 21 d.toNat a.toNat imm.toNat
  | .shli d a n => fmtI 22 d.toNat a.toNat (0 + n.toNat)
  | .shri d a n => fmtI 22 d.toNat a.toNat (256 + n.toNat)
  | .sari d a n => fmtI 22 d.toNat a.toNat (512 + n.toNat)
  | .li d imm => fmtI 23 d.toNat 0 imm.toNat
  | .lui d a imm => fmtI 24 d.toNat a.toNat imm.toNat
  | .fadd d a b w => fmtR 25 d.toNat a.toNat b.toNat 0 + w.bits
  | .fsub d a b w => fmtR 25 d.toNat a.toNat b.toNat 1 + w.bits
  | .fmul d a b w => fmtR 25 d.toNat a.toNat b.toNat 2 + w.bits
  | .fdiv d a b w => fmtR 25 d.toNat a.toNat b.toNat 3 + w.bits
  | .fma d a b w => fmtR 25 d.toNat a.toNat b.toNat 4 + w.bits
  | .fmin d a b w => fmtR 25 d.toNat a.toNat b.toNat 5 + w.bits
  | .fmax d a b w => fmtR 25 d.toNat a.toNat b.toNat 6 + w.bits
  | .feq d a b w => fmtR 25 d.toNat a.toNat b.toNat 7 + w.bits
  | .flt d a b w => fmtR 25 d.toNat a.toNat b.toNat 8 + w.bits
  | .fle d a b w => fmtR 25 d.toNat a.toNat b.toNat 9 + w.bits
  | .fabs d a w => fmtR 25 d.toNat a.toNat 0 10 + 1024 * b2n w
  | .fneg d a w => fmtR 25 d.toNat a.toNat 0 11 + 1024 * b2n w
  | .fcvti d a w => fmtR 25 d.toNat a.toNat 0 12 + 1024 * b2n w
  | .icvtf d a w => fmtR 25 d.toNat a.toNat 0 13 + 1024 * b2n w
  | .hget d a => fmtR 26 d.toNat a.toNat 0 0
  | .tail a => fmtR 26 0 a.toNat 0 1
  | .cmov d a m => fmtR 26 d.toNat a.toNat m.toNat 2
  | .movmg d m half => fmtR 26 d.toNat m.toNat (b2n half) 3
  | .movgm m a half => fmtR 26 m.toNat a.toNat (b2n half) 4
  | .ld d a off sz acq => fmtM 27 d.toNat a.toNat off.toNat sz.code (b2n acq)
  | .ldn d a off sz acq => fmtM 27 d.toNat a.toNat off.toNat sz.code (b2n acq)
  | .st d a off sz rel => fmtM 28 d.toNat a.toNat off.toNat sz.code (2 * b2n rel)
  | .ldv d a off acq => fmtI 29 d.toNat a.toNat (off.toNat * 32 + b2n acq)
  | .stv d a off rel => fmtI 29 d.toNat a.toNat (off.toNat * 32 + 16 + 2 * b2n rel)
  | .ldp d a off sz => fmtM 30 d.toNat a.toNat off.toNat sz.code 0
  | .stp d a off sz => fmtM 30 d.toNat a.toNat off.toNat sz.code 1
  | .ldpv d a off => fmtM 30 d.toNat a.toNat off.toNat 3 2
  | .stpv d a off => fmtM 30 d.toNat a.toNat off.toNat 3 3
  | .ldl t a off sz set => fmtI 31 t.toNat a.toNat (off.toNat * 32 + sz.code * 4 + set.toNat)
  | .ldlv t a off set => fmtI 31 t.toNat a.toNat (off.toNat * 32 + 28 + set.toNat)
  | .landingSlotGrant _ => 0
  | .take d t set => fmtR 32 d.toNat t.toNat set.toNat 0
  | .takeo d t set => fmtR 32 d.toNat t.toNat set.toNat 1
  | .takev d t set => fmtR 32 d.toNat t.toNat set.toNat 2
  | .lcnt d set => fmtR 32 d.toNat 0 set.toNat 3
  | .ldrop set => fmtR 32 0 0 set.toNat 4
  | .amo op dbl ord d a b => fmtR 33 d.toNat a.toNat b.toNat (ord.code * 64 + 32 + 16 * b2n dbl + op.code)
  | .cas dbl ord d a b => fmtR 33 d.toNat a.toNat b.toNat (ord.code * 64 + 32 + 16 * b2n dbl + 15)
  | .red op dbl rel a b => fmtR 34 0 a.toNat b.toNat (128 * b2n rel + 32 + 16 * b2n dbl + op.code)
  | .fence => fmtR 35 0 0 0 0
  | .drainst => fmtR 35 0 0 0 1
  | .bar n => fmtR 35 0 0 n.toNat 2
  | .bari n a => fmtR 35 0 a.toNat n.toNat 3
  | .bara n => fmtR 35 0 0 n.toNat 4
  | .barw n => fmtR 35 0 0 n.toNat 5
  | .vadd d a b w => fmtR 36 d.toNat a.toNat b.toNat 0 + w.bits
  | .vsub d a b w => fmtR 36 d.toNat a.toNat b.toNat 1 + w.bits
  | .vmul d a b w => fmtR 36 d.toNat a.toNat b.toNat 2 + w.bits
  | .vfma d a b w => fmtR 36 d.toNat a.toNat b.toNat 3 + w.bits
  | .vmin d a b w => fmtR 36 d.toNat a.toNat b.toNat 4 + w.bits
  | .vmax d a b w => fmtR 36 d.toNat a.toNat b.toNat 5 + w.bits
  | .vabs d a w => fmtR 36 d.toNat a.toNat 0 6 + 1024 * b2n w
  | .vneg d a w => fmtR 36 d.toNat a.toNat 0 7 + 1024 * b2n w
  | .vand d a b w => fmtR 37 d.toNat a.toNat b.toNat 0 + w.bits
  | .vor d a b w => fmtR 37 d.toNat a.toNat b.toNat 1 + w.bits
  | .vxor d a b w => fmtR 37 d.toNat a.toNat b.toNat 2 + w.bits
  | .vnot d a w => fmtR 37 d.toNat a.toNat 0 3 + 1024 * b2n w
  | .vshl d a b w => fmtR 37 d.toNat a.toNat b.toNat 4 + w.bits
  | .vshr d a b w => fmtR 37 d.toNat a.toNat b.toNat 5 + w.bits
  | .vsar d a b w => fmtR 37 d.toNat a.toNat b.toNat 6 + w.bits
  | .vcmp c d a b w => fmtR 38 d.toNat a.toNat b.toNat c.code + w.bits
  | .vsel d a b w => fmtR 38 d.toNat a.toNat b.toNat 16 + w.bits
  | .mand d a b => fmtR 38 d.toNat a.toNat b.toNat 32
  | .mor d a b => fmtR 38 d.toNat a.toNat b.toNat 33
  | .mxor d a b => fmtR 38 d.toNat a.toNat b.toNat 34
  | .mnot d a => fmtR 38 d.toNat a.toNat 0 35
  | .mset d a => fmtR 38 d.toNat a.toNat 0 36
  | .vcvt d a w => fmtR 39 d.toNat a.toNat 0 0 + 1024 * b2n w
  | .vquant d a b w => fmtR 39 d.toNat a.toNat b.toNat 1 + w.bits
  | .vdeq d a b w => fmtR 39 d.toNat a.toNat b.toNat 2 + w.bits
  | .vrcp d a w => fmtR 40 d.toNat a.toNat 0 0 + 1024 * b2n w
  | .vrsq d a w => fmtR 40 d.toNat a.toNat 0 1 + 1024 * b2n w
  | .vsqrt d a w => fmtR 40 d.toNat a.toNat 0 2 + 1024 * b2n w
  | .vdiv d a b w => fmtR 40 d.toNat a.toNat b.toNat 3 + w.bits
  | .vexp2 d a w => fmtR 40 d.toNat a.toNat 0 4 + 1024 * b2n w
  | .vlog2 d a w => fmtR 40 d.toNat a.toNat 0 5 + 1024 * b2n w
  | .vsin d a w => fmtR 40 d.toNat a.toNat 0 6 + 1024 * b2n w
  | .vcos d a w => fmtR 40 d.toNat a.toNat 0 7 + 1024 * b2n w
  | .vtanh d a w => fmtR 40 d.toNat a.toNat 0 8 + 1024 * b2n w
  | .vbcast d a => fmtR 41 d.toNat a.toNat 0 0
  | .vext d a b => fmtR 41 d.toNat a.toNat b.toNat 1
  | .vins d a b => fmtR 41 d.toNat a.toNat b.toNat 2
  | .vperm d a b => fmtR 41 d.toNat a.toNat b.toNat 3
  | .vrot d a b => fmtR 41 d.toNat a.toNat b.toNat 4
  | .viota d => fmtR 41 d.toNat 0 0 5
  | .vpop d m => fmtR 41 d.toNat m.toNat 0 6
  | .vred op d a => fmtR 42 d.toNat a.toNat 0 op.code
  | .vaddConst d a k => fmtI 43 d.toNat a.toNat (k.toNat * 256 + 0)
  | .vsubConst d a k => fmtI 43 d.toNat a.toNat (k.toNat * 256 + 1)
  | .vmulConst d a k => fmtI 43 d.toNat a.toNat (k.toNat * 256 + 2)
  | .vminConst d a k => fmtI 43 d.toNat a.toNat (k.toNat * 256 + 4)
  | .vmaxConst d a k => fmtI 43 d.toNat a.toNat (k.toNat * 256 + 5)
  | .vandConst d a k => fmtI 43 d.toNat a.toNat (k.toNat * 256 + 16)
  | .vorConst d a k => fmtI 43 d.toNat a.toNat (k.toNat * 256 + 17)
  | .vxorConst d a k => fmtI 43 d.toNat a.toNat (k.toNat * 256 + 18)
  | .vshlConst d a k => fmtI 43 d.toNat a.toNat (k.toNat * 256 + 20)
  | .vshrConst d a k => fmtI 43 d.toNat a.toNat (k.toNat * 256 + 21)
  | .vsarConst d a k => fmtI 43 d.toNat a.toNat (k.toNat * 256 + 22)
  | .mma sr fmt t qa qb rep => fmtR 44 (t.toNat % 32) (t.toNat / 32 * 8 + qa.toNat) qb.toNat (1024 + sr.code * 128 + fmt.code * 16 + rep.toNat)
  | .mzero t => fmtR 44 0 0 0 t.toNat
  | .mload t a b => fmtR 44 0 a.toNat b.toNat (128 + t.toNat)
  | .mdrain d t b => fmtR 44 d.toNat 0 b.toNat (256 + t.toNat)
  | .mwait => fmtR 44 0 0 0 384
  | .mstat d => fmtR 44 d.toNat 0 0 512
  | .rcfg q a b => fmtR 45 0 a.toNat b.toNat q.toNat
  | .rpush q a => fmtR 45 0 a.toNat 0 (256 + q.toNat)
  | .rstat d q => fmtR 45 d.toNat 0 0 (512 + q.toNat)
  | .hopen force s a => fmtR 46 0 a.toNat 0 (4 * b2n force + s.toNat)
  | .htake s q => fmtR 46 0 0 0 (256 + q.toNat * 8 + s.toNat)
  | .hput a b => fmtR 46 0 a.toNat b.toNat 512
  | .hshut s => fmtR 46 0 0 0 (768 + s.toNat)
  | .hwait => fmtR 46 0 0 0 1024
  | .hstat d => fmtR 46 d.toNat 0 0 1280
  | .copy src dst ch d a b => fmtR 47 d.toNat a.toNat b.toNat (src.code * 64 + dst.code * 16 + 8 * b2n (dst == .multicast) + ch.toNat)
  | .cred op fmt toPool ch d a b => fmtR 47 d.toNat a.toNat b.toNat (256 + op.code * 64 + fmt.code * 16 + 4 + 4 * b2n toPool + ch.toNat)
  | .cseal => fmtR 47 0 0 0 512
  | .cwait n => fmtR 47 0 0 0 (768 + n.toNat)
  | .cptr d ch => fmtR 47 d.toNat 0 0 (1024 + ch.toNat)
  | .cjoin a b => fmtR 47 0 a.toNat b.toNat 1280
  | .cleave a => fmtR 47 0 a.toNat 0 1536
  | .bkptLane n => fmtR 48 0 0 0 0 + n.toNat * 2048
  | .trap n => fmtR 48 0 0 0 1 + n.toNat * 2048
  | .estat d a b => fmtR 48 d.toNat a.toNat b.toNat 2
  | .dbgr d a => fmtR 48 d.toNat a.toNat 0 3
  | .dbgw a b => fmtR 48 0 a.toNat b.toNat 4
  | .step _ _ => 0
  | .loadArrival _ => 0
  | .storeAck _ => 0
  | .storeFaultReturn _ => 0
  | .landingArrival _ => 0
  | .walkComplete _ => 0
  | .vaultAccess _ => 0
  | .crossDieWrite _ => 0
  | .reductionApply _ => 0
  | .releaseProbe _ => 0
  | .probeAnswer _ _ => 0
  | .hatchOpenAccept _ => 0
  | .hatchReady _ _ => 0
  | .hatchForcedClose _ _ => 0
  | .htakeTransfer _ => 0
  | .hputComplete _ => 0
  | .refreshStart _ => 0
  | .refreshEnd _ => 0
  | .scrub _ _ => 0
  | .pressStepStart _ => 0
  | .pressStepRetire _ => 0
  | .mdrainRead _ _ => 0
  | .copyInject _ _ => 0
  | .copyDeliver _ => 0
  | .multicastReplicate _ => 0
  | .multicastJoin _ _ => 0
  | .multicastPrune _ _ => 0
  | .routerHop _ _ => 0
  | .linkReplay _ => 0
  | .linkRetrain _ _ => 0
  | .peerRequest _ _ _ _ _ => 0
  | .deviceHostWrite _ => 0
  | .deviceHostRead _ => 0
  | .deliveryBoundExpiry _ => 0
  | .shootdownComplete _ => 0
  | .lqtailWrite _ _ _ => 0
  | .launchFetch _ => 0
  | .launchMessage _ => 0
  | .launchAck _ => 0
  | .goMessage _ => 0
  | .sliceEnd _ => 0
  | .sliceIdleEnd _ => 0
  | .teamSave _ => 0
  | .teamRestore _ => 0
  | .groupArrival _ => 0
  | .groupCompletion _ => 0
  | .memberLower _ => 0
  | .mailboxToken _ => 0
  | .dispenserRequest _ => 0
  | .rowReport _ => 0
  | .jctlKill _ => 0
  | .jctlPre _ => 0
  | .jctlRes _ => 0
  | .xshootWrite _ _ => 0
  | .bar2Read _ _ _ => 0
  | .bar2Write _ _ _ _ => 0
  | .partWrite _ _ => 0
  | .vfmapWrite _ _ => 0
  | .attest _ _ => 0
  | .keyload _ _ => 0
  | .keydrop _ _ => 0
  | .vaulterr _ _ => 0
  | .rowpwrRun _ _ => 0
  | .rowpwrIdle _ _ => 0
  | .rowpwrOff _ _ => 0
  | .rowpwrOpp _ _ => 0
  | .oppSwitchDone _ => 0
  | .plimitWrite _ => 0
  | .thermalTrip _ => 0
  | .deviceReset _ _ => 0
  | .xtctlHalt _ => 0
  | .xtctlRelease _ => 0
  | .trctlPulse => 0
  | .samplingPeriod => 0
  | .dumpctlGo _ => 0
  | .dumpMarker _ _ => 0
  | .watchUpdate _ _ _ => 0
  | .registerWrite _ _ _ => 0
  | .pauseEnd _ _ => 0
  | .yieldHoldEnd _ _ => 0
  | .loadPhaseStart _ => 0
  | .linkUp _ => 0
  | .routeChange _ => 0
  | .uncorrectableError _ => 0

/-- The words of a well-formed instruction: one, for LDN the PX and the LD (R69), none for an event. -/
def encode (i : Instr) : List Nat :=
  match i with
  | .ldn _ _ _ sz _ => [fmtPx { Px.none with fd := sz.natCode }, encodeWord i]
  | _ => if i.isEvent then [] else [encodeWord i]

end Sys2Proof
end

