-- ==== Sys2Proof/Machine/Tbl.lean ====
section
/-! DEFINITION. Reading and writing of the plain tables that State is built from, and small list helpers. -/

namespace Sys2Proof.Machine

/-- The record at key k, or d where none is listed. -/
def tget (t : Tbl α) (k : Nat) (d : α) : α :=
  match t with
  | [] => d
  | (j, x) :: r => if j = k then x else tget r k d

/-- The table with record x at key k; keys stay rising. -/
def tput (t : Tbl α) (k : Nat) (x : α) : Tbl α :=
  match t with
  | [] => [(k, x)]
  | (j, y) :: r => if k < j then (k, x) :: (j, y) :: r else if j = k then (k, x) :: r else (j, y) :: tput r k x

/-- The table without key k. -/
def tdel (t : Tbl α) (k : Nat) : Tbl α := t.filter fun p => p.1 != k

/-- The element of a list at a position, or d. -/
def nth (l : List α) (n : Nat) (d : α) : α :=
  match l, n with
  | [], _ => d
  | x :: _, 0 => x
  | _ :: r, n + 1 => nth r n d

/-- Does a value occur in a list? -/
def isIn [BEq α] (x : α) (l : List α) : Bool := l.any fun y => y == x

/-- The numbers 0 to n - 1. -/
def upTo (n : Nat) : List Nat := List.range n

/-- The signed value of the low n bits of x (R9, SExt). -/
def sext (x n : Nat) : Int :=
  let y := x % 2 ^ n
  if 2 ^ n ≤ 2 * y then (y : Int) - 2 ^ n else y

/-- An integer kept to n bits (R9). -/
def wrap (x : Int) (n : Nat) : Nat := (x % (2 ^ n : Int)).toNat

/-- The 64-bit register value of an integer. -/
def word (x : Int) : Word := BitVec.ofInt 64 x

/-- Bits lo to lo + n - 1 of a vector as a number (R9). -/
def vbits (v : Vec) (lo n : Nat) : Nat := v.toNat / 2 ^ lo % 2 ^ n

/-- Element j of n bits (R182). -/
def elem (v : Vec) (n j : Nat) : Nat := vbits v (n * j) n

/-- The vector whose elements of n bits, from element 0 up, are the given ones; missing ones are 0. -/
def ofElems (n : Nat) (l : List Nat) : Vec :=
  BitVec.ofNat 1024 (l.foldr (fun x acc => x % 2 ^ n + 2 ^ n * acc) 0)

end Sys2Proof.Machine
end

