-- ==== Sys2Proof/Machine/Flags.lean ====
section
/-! DEFINITION. The number formats, rounding, and the arithmetic flags that each operation raises (R90 to R103, R96). -/

namespace Sys2Proof.Machine

/-- The flags IV, DZ, OF, UF, NX in bits 0 to 4, as in ESTAT (R37). -/
abbrev Fl := BitVec 5

/-- IV: invalid operation. -/
def Fl.iv : Fl := 1
/-- DZ: division by zero. -/
def Fl.dz : Fl := 2
/-- OF: overflow. -/
def Fl.of : Fl := 4
/-- UF: underflow. -/
def Fl.uf : Fl := 8
/-- NX: inexact. -/
def Fl.nx : Fl := 16

/-- A flag where a condition holds. -/
def Fl.when (c : Bool) (f : Fl) : Fl := if c then f else 0

/-- The rounding modes (R94). -/
inductive Rm | rne | rtz | rdn | rup | sat
  deriving DecidableEq, Repr

/-- The mode of a code 1 to 5; other codes do not occur (R66, R147). -/
def rmOf (n : Nat) : Rm :=
  if n = 2 then .rtz else if n = 3 then .rdn else if n = 4 then .rup else if n = 5 then .sat else .rne

/-- The mode of an instruction: the PX field, or the strand's default where it is 0 (R66). -/
def rmx (rm drm : BitVec 3) : Rm := if rm = 0 then rmOf drm.toNat else rmOf rm.toNat

/-- An exact signed rational: sign, numerator, denominator (positive), binary exponent. -/
structure Q where
  neg : Bool
  n : Nat
  d : Nat
  e : Int
  deriving DecidableEq, Repr

/-- The value of a bit pattern (R98): a NaN, quiet or signalling, an infinity, or an exact number with a signed zero. -/
inductive Val
  | nan (signalling : Bool)
  | inf (neg : Bool)
  | num (q : Q)
  deriving DecidableEq, Repr

/-- An integer as an exact value. -/
def Val.ofInt (x : Int) : Val := .num ⟨x < 0, x.natAbs, 1, 0⟩

/-- A number with sign: a magnitude times a power of two. -/
def Val.dyadic (neg : Bool) (n : Nat) (e : Int) : Val := .num ⟨neg, n, 1, e⟩

/-- Is it a NaN? -/
def Val.isNan : Val → Bool
  | .nan _ => true
  | _ => false

/-- Is it a signalling NaN? -/
def Val.isSnan : Val → Bool
  | .nan s => s
  | _ => false

/-- Is it a zero of either sign? -/
def Val.isZero : Val → Bool
  | .num q => q.n == 0
  | _ => false

/-- The sign of a value; a NaN counts as positive. -/
def Val.neg : Val → Bool
  | .nan _ => false
  | .inf s => s
  | .num q => q.neg

/-- The flag that signalling inputs raise (R91). -/
def snanFl (l : List Val) : Fl := Fl.when (l.any Val.isSnan) Fl.iv

/-- The signed numerator of q at exponent e, not above q's own. -/
def Q.at (q : Q) (e : Int) : Int :=
  let m : Int := q.n * 2 ^ (q.e - e).toNat
  if q.neg then -m else m

/-- Exact sum of two numbers; a zero sum has the sign of R93 (rdn: round toward minus infinity). -/
def Q.add (rdn : Bool) (a b : Q) : Q :=
  let e := min a.e b.e
  let x := a.at e * b.d + b.at e * a.d
  if x = 0 then
    if a.n = 0 && b.n = 0 && a.neg == b.neg then ⟨a.neg, 0, 1, 0⟩ else ⟨rdn, 0, 1, 0⟩
  else ⟨x < 0, x.natAbs, a.d * b.d, e⟩

/-- Exact product (R93). -/
def Q.mul (a b : Q) : Q := ⟨a.neg != b.neg, a.n * b.n, a.d * b.d, a.e + b.e⟩

/-- Exact quotient of nonzero divisor (R93). -/
def Q.div (a b : Q) : Q := ⟨a.neg != b.neg, a.n * b.d, a.d * b.n, a.e - b.e⟩

/-- Is a below b as real numbers (the zeros are equal)? -/
def Q.lt (a b : Q) : Bool :=
  let e := min a.e b.e
  decide (a.at e * b.d < b.at e * a.d)

/-- Are a and b equal as real numbers? -/
def Q.eq (a b : Q) : Bool :=
  let e := min a.e b.e
  decide (a.at e * b.d = b.at e * a.d)

/-- Sum with infinities and NaNs: infinity minus infinity is NaN with IV (R96). -/
def vadd (rdn : Bool) (a b : Val) : Val × Fl :=
  match a, b with
  | .nan _, _ | _, .nan _ => (.nan false, snanFl [a, b])
  | .inf s, .inf t => if s = t then (.inf s, 0) else (.nan false, Fl.iv)
  | .inf s, .num _ => (.inf s, 0)
  | .num _, .inf t => (.inf t, 0)
  | .num x, .num y => (.num (x.add rdn y), 0)

/-- The negative of a value. -/
def Val.negate : Val → Val
  | .nan s => .nan s
  | .inf s => .inf (!s)
  | .num q => .num { q with neg := !q.neg }

/-- Product; zero times infinity is NaN with IV (R96). -/
def vmul (a b : Val) : Val × Fl :=
  match a, b with
  | .nan _, _ | _, .nan _ => (.nan false, snanFl [a, b])
  | .inf s, .inf t => (.inf (s != t), 0)
  | .inf s, .num y => if y.n = 0 then (.nan false, Fl.iv) else (.inf (s != y.neg), 0)
  | .num x, .inf t => if x.n = 0 then (.nan false, Fl.iv) else (.inf (x.neg != t), 0)
  | .num x, .num y => (.num (x.mul y), 0)

/-- Quotient: 0/0 and inf/inf are NaN with IV, a finite nonzero over zero is infinity with DZ (R96). -/
def vdiv (a b : Val) : Val × Fl :=
  match a, b with
  | .nan _, _ | _, .nan _ => (.nan false, snanFl [a, b])
  | .inf _, .inf _ => (.nan false, Fl.iv)
  | .inf s, .num y => (.inf (s != y.neg), 0)
  | .num x, .inf t => (.num ⟨x.neg != t, 0, 1, 0⟩, 0)
  | .num x, .num y =>
    if y.n = 0 then (if x.n = 0 then (.nan false, Fl.iv) else (.inf (x.neg != y.neg), Fl.dz))
    else (.num (x.div y), 0)

/-- Is a below b, both numbers or infinities? -/
def Val.lt (a b : Val) : Bool :=
  match a, b with
  | .inf s, .inf t => s && !t
  | .inf s, .num _ => s
  | .num _, .inf t => !t
  | .num x, .num y => x.lt y
  | _, _ => false

/-- Are a and b equal (R98: the zeros are equal, a NaN equals nothing)? -/
def Val.eq (a b : Val) : Bool :=
  match a, b with
  | .inf s, .inf t => s == t
  | .num x, .num y => x.eq y
  | _, _ => false

/-- Below for minimum and maximum: minus zero counts as less than plus zero (R98). -/
def Val.ltz (a b : Val) : Bool := a.lt b || (a.isZero && b.isZero && a.neg && !b.neg)

/-- FMIN, VMIN, VRED.min: a single NaN operand loses, two give the default NaN (R98). -/
def vmin (a b : Val) : Val × Fl :=
  (match a, b with
   | .nan _, .nan _ => .nan false
   | .nan _, _ => b
   | _, .nan _ => a
   | _, _ => if b.ltz a then b else a, snanFl [a, b])

/-- FMAX, VMAX, VRED.max (R98). -/
def vmax (a b : Val) : Val × Fl :=
  (match a, b with
   | .nan _, .nan _ => .nan false
   | .nan _, _ => b
   | _, .nan _ => a
   | _, _ => if a.ltz b then b else a, snanFl [a, b])

/-- The exponent and fraction widths of a binary floating-point format (R90). -/
structure Fmt where
  eb : Nat
  fb : Nat
  deriving DecidableEq, Repr

/-- F32 (R90). -/
def Fmt.f32 : Fmt := ⟨8, 23⟩
/-- BF16 (R90). -/
def Fmt.bf16 : Fmt := ⟨8, 7⟩
/-- F16 (R90). -/
def Fmt.f16 : Fmt := ⟨5, 10⟩

/-- Width in bits. -/
def Fmt.width (f : Fmt) : Nat := f.eb + f.fb + 1

/-- Exponent bias. -/
def Fmt.bias (f : Fmt) : Nat := 2 ^ (f.eb - 1) - 1

/-- Pattern of an infinity. -/
def Fmt.infPat (f : Fmt) (neg : Bool) : Nat := (if neg then 2 ^ (f.eb + f.fb) else 0) + (2 ^ f.eb - 1) * 2 ^ f.fb

/-- The default NaN (R90). -/
def Fmt.nanPat (f : Fmt) : Nat := (2 ^ f.eb - 1) * 2 ^ f.fb + 2 ^ (f.fb - 1)

/-- Pattern of the largest finite number. -/
def Fmt.maxPat (f : Fmt) (neg : Bool) : Nat := f.infPat neg - 1

/-- Value of a pattern of a binary floating-point format (R90, R91). -/
def Fmt.decode (f : Fmt) (x : Nat) : Val :=
  let neg := x / 2 ^ (f.eb + f.fb) % 2 == 1
  let ex := x / 2 ^ f.fb % 2 ^ f.eb
  let fr := x % 2 ^ f.fb
  if ex = 2 ^ f.eb - 1 then
    if fr = 0 then .inf neg else .nan (fr < 2 ^ (f.fb - 1))
  else if ex = 0 then .dyadic neg fr (1 - (f.bias : Int) - f.fb)
  else .dyadic neg (fr + 2 ^ f.fb) ((ex : Int) - f.bias - f.fb)

/-- Floor of the binary logarithm of n/d, both positive. -/
def ilog (n d : Nat) : Int :=
  let l : Int := (n.log2 : Int) - d.log2
  if n * 2 ^ (-l).toNat < d * 2 ^ l.toNat then l - 1 else l

/-- Floor and remainder of a positive n/d times 2^e, scaled: the quotient, the remainder and the divisor. -/
def scaled (n d : Nat) (e : Int) : Nat × Nat × Nat :=
  let a := n * 2 ^ e.toNat
  let b := d * 2 ^ (-e).toNat
  (a / b, a % b, b)

/-- Does the magnitude round up (R94, R95): lo is the truncated multiple, r/b the rest? -/
def roundsUp (rm : Rm) (neg : Bool) (lo r b : Nat) : Bool :=
  match rm with
  | .rne | .sat => decide (b < 2 * r) || (2 * r == b && lo % 2 == 1)
  | .rtz => false
  | .rdn => neg && r != 0
  | .rup => !neg && r != 0

/-- The overflow result of R94. -/
def Fmt.overflow (f : Fmt) (rm : Rm) (neg : Bool) : Nat :=
  match rm with
  | .rne => f.infPat neg
  | .rtz | .sat => f.maxPat neg
  | .rdn => if neg then f.infPat true else f.maxPat false
  | .rup => if neg then f.maxPat true else f.infPat false

/-- RoundFmt of a nonzero number (R95): pattern and flags. -/
def Fmt.roundNum (f : Fmt) (rm : Rm) (q : Q) : Nat × Fl :=
  let emin : Int := 1 - (f.bias : Int)
  let lg := ilog q.n q.d + q.e
  let e := max lg emin
  let (lo, r, b) := scaled q.n q.d (q.e - e + f.fb)
  let m := if roundsUp rm q.neg lo r b then lo + 1 else lo
  let (m, e) := if m = 2 ^ (f.fb + 1) then (2 ^ f.fb, e + 1) else (m, e)
  let sgn := if q.neg then 2 ^ (f.eb + f.fb) else 0
  if (f.bias : Int) < e then (f.overflow rm q.neg, Fl.of ||| Fl.nx)
  else
    let pat := if m < 2 ^ f.fb then m else (e + f.bias).toNat * 2 ^ f.fb + (m - 2 ^ f.fb)
    (sgn + pat, Fl.when (r != 0) Fl.nx ||| Fl.when (r != 0 && decide (lg < emin)) Fl.uf)

/-- RoundFmt (R95): pattern of the rounded value, and flags. -/
def Fmt.round (f : Fmt) (rm : Rm) (v : Val) : Nat × Fl :=
  match v with
  | .nan _ => (f.nanPat, 0)
  | .inf s => (f.infPat s, 0)
  | .num q => if q.n = 0 then (if q.neg then 2 ^ (f.eb + f.fb) else 0, 0) else f.roundNum rm q

/-! D8 (R99 to R103). -/

/-- Length of the run of bits equal to bit 6 of a body, counted down from bit 6 (R99). -/
def d8Run (body : Nat) : Nat :=
  let t := body / 64
  let rec go : Nat → Nat → Nat
    | 0, k => k
    | n + 1, k => if body / 2 ^ n % 2 = t then go n (k + 1) else k
  go 7 0

/-- The exact value of a body other than 0 and 0x7F, as numerator and denominator (R99). -/
def d8Exact (body : Nat) : Nat × Nat :=
  let m := d8Run body
  let w := 6 - m
  let f := body % 2 ^ w
  let n := 2 ^ w + 9 * f
  if body / 64 = 1 then (n * 10 ^ (m - 1), 2 ^ w) else (n, 2 ^ w * 10 ^ m)

/-- The decoded magnitude of a body: the exact value rounded to 12 significant bits, ties to even (R101). -/
def d8Mag (body : Nat) : Q :=
  let (n, d) := d8Exact body
  let e := ilog n d
  let (lo, r, b) := scaled n d (11 - e)
  ⟨false, if roundsUp .rne false lo r b then lo + 1 else lo, 1, e - 11⟩

/-- Value of a D8 code (R99, R101); its NaN counts as quiet for every instruction. R198 says so of VQUANT and VDEQ. DESIGN CHOICE
for the others (such as VCVT from D8): R91 speaks of the NaNs of the wider formats only, log 70. -/
def d8Decode (x : Nat) : Val :=
  let s := x / 128 % 2 == 1
  let body := x % 128
  if body = 0 then (if s then .nan false else .dyadic false 0 0)
  else if body = 127 then .inf s
  else .num { d8Mag body with neg := s }

/-- Does a body count as even (R103): w = 0, or bit 0 of the fraction 0? -/
def d8Even (body : Nat) : Bool := d8Run body == 6 || body % 2 == 0

/-- Greatest body from 1 to n whose decoded value is at most a, 0 if none. -/
def d8Below (a : Q) : Nat → Nat
  | 0 => 0
  | n + 1 => if a.lt (d8Mag (n + 1)) then d8Below a n else n + 1

/-- Code of a value in D8 (R103): code and flags. -/
def d8Encode (rm : Rm) (v : Val) : Nat × Fl :=
  match v with
  | .nan s => (0x80, Fl.when s Fl.iv)
  | .inf s => (if s then 0xFF else 0x7F, 0)
  | .num q =>
    if q.n = 0 then (0, 0) else
    let a : Q := { q with neg := false }
    let sg := if q.neg then 128 else 0
    let lo1 := d8Mag 1
    if (⟨false, 100000, 1, 0⟩ : Q).lt a then (sg + 0x7E, Fl.of ||| Fl.nx)
    else if a.lt lo1 then
      let up := match rm with
        | .rne | .sat => !(a.lt { lo1 with e := lo1.e - 1 })
        | .rtz => false
        | .rup => !q.neg
        | .rdn => q.neg
      (if up then sg + 1 else 0, Fl.nx ||| Fl.uf)
    else
      let blo := d8Below a 126
      if (d8Mag blo).eq a then (sg + blo, 0)
      else
        let bhi := blo + 1
        let dl := a.add false { d8Mag blo with neg := true }
        let dh := (d8Mag bhi).add false { a with neg := true }
        let near := if dl.lt dh then blo else if dh.lt dl then bhi
          else if d8Even blo && d8Even bhi then (if d8Run blo == 6 then bhi else blo)
          else if d8Even blo then blo else bhi
        let body := match rm with
          | .rne | .sat => near
          | .rtz => blo
          | .rup => if q.neg then blo else bhi
          | .rdn => if q.neg then bhi else blo
        (sg + body, Fl.nx)

/-! The format codes of PX (R66, R182). -/

/-- Width in bits of a format code (R66). -/
def codeWidth (c : Nat) : Nat :=
  if c = 0 || c = 9 || c = 10 then 32 else if c = 1 || c = 2 || c = 8 then 16
  else if c = 11 || c = 13 then 64 else if c = 12 then 1 else 8

/-- The floating-point format of codes 0 to 2; others do not occur there. -/
def fmtOf (c : Nat) : Fmt := if c = 1 then .bf16 else if c = 2 then .f16 else .f32

/-- Is the integer format signed: I8, I32, I64 (code 8 is natural in conversions, R154, R196)? -/
def codeSigned (c : Nat) : Bool := c == 6 || c == 9 || c == 11

/-- Is it an integer format code? -/
def codeInt (c : Nat) : Bool := (6 ≤ c && c ≤ 11) || c == 13

/-- Decode of a format code (R98). -/
def decodeVal (c x : Nat) : Val :=
  if c ≤ 2 then (fmtOf c).decode x else if c = 3 then d8Decode x
  else .ofInt (if codeSigned c then sext x (codeWidth c) else (x % 2 ^ codeWidth c : Nat))

/-- Least and greatest value of an integer format. -/
def intRange (signed : Bool) (n : Nat) : Int × Int :=
  if signed then (-(2 ^ (n - 1)), 2 ^ (n - 1) - 1) else (0, 2 ^ n - 1)

/-- An exact number rounded to an integer under a mode, and whether it was inexact (R98). -/
def roundInt (rm : Rm) (q : Q) : Int × Bool :=
  let (lo, r, b) := scaled q.n q.d q.e
  let m := if roundsUp rm q.neg lo r b then lo + 1 else lo
  (if q.neg then -(m : Int) else m, r != 0)

/-- Encode into an integer format from a floating-point value (R98). -/
def encodeInt (signed : Bool) (n : Nat) (rm : Rm) (v : Val) : Nat × Fl :=
  let (lo, hi) := intRange signed n
  match v with
  | .nan _ => (0, Fl.iv)
  | .inf s => (wrap (if s then lo else hi) n, Fl.iv)
  | .num q =>
    let (x, nx) := roundInt rm q
    if x < lo then (wrap lo n, Fl.iv) else if hi < x then (wrap hi n, Fl.iv) else (wrap x n, Fl.when nx Fl.nx)

/-- Encode into an integer format from an integer value: out of range becomes the limit and sets OF (R98). -/
def clampInt (signed : Bool) (n : Nat) (x : Int) : Nat × Fl :=
  let (lo, hi) := intRange signed n
  if x < lo then (wrap lo n, Fl.of) else if hi < x then (wrap hi n, Fl.of) else (wrap x n, 0)

/-- Encode (R98) into format code c of a value that came from format code src. -/
def encodeVal (src c : Nat) (rm : Rm) (v : Val) : Nat × Fl :=
  if c ≤ 2 then
    let (p, f) := (fmtOf c).round rm v
    (p, f ||| Fl.when v.isSnan Fl.iv)
  else if c = 3 then d8Encode rm v
  else if codeInt src then
    match v with
    | .num q => clampInt (codeSigned c) (codeWidth c) (roundInt rm q).1
    | _ => (0, 0)
  else encodeInt (codeSigned c) (codeWidth c) rm v

/-- ESTAT with flags ORed in (R96). -/
def estatOr (e : Word) (f : Fl) : Word := e ||| (f.setWidth 64)

/-- Would the IV trap be taken (R97): IVE set and IV raised? -/
def ivTraps (e : Word) (f : Fl) : Bool := e.getLsbD 8 && f.getLsbD 0

/-- The comparison relations of VCMP with the IV rule of R98. -/
def cmpVal (c : CmpCond) (x y : Val) : Bool × Fl :=
  let un := x.isNan || y.isNan
  match c with
  | .eq => (x.eq y, snanFl [x, y])
  | .ne => (un || !x.eq y, snanFl [x, y])
  | .uo => (un, snanFl [x, y])
  | .lt => (x.lt y, Fl.when un Fl.iv)
  | .le => (!un && (x.lt y || x.eq y), Fl.when un Fl.iv)
  | .gt => (y.lt x, Fl.when un Fl.iv)
  | .ge => (!un && (y.lt x || x.eq y), Fl.when un Fl.iv)

end Sys2Proof.Machine
end

