-- ==== Sys2Proof/Machine/State.lean ====
section
/-! DEFINITION. The state of a Porith X4 as plain data, its outcomes, and the state right after reset. -/

namespace Sys2Proof.Machine

/-- Why a step stops. -/
inductive Fault
  /-- the model would have to touch a system physical address of a reserved region (R264); raised by the byte operations
  of Ops.lean on a request that a check let through. Safe: the walk refuses such frames as XLATE.BAD first -/
  | reservedPhysical (pa : Nat)
  deriving DecidableEq, Repr

/-- Why a step is refused. -/
inductive Refusal
  /-- raised by Dispatch for an instruction without a meaning. Safe -/
  | notModelled (mnemonic : String)
  deriving DecidableEq, Repr

/-- The trap causes (R354). -/
inductive Cause
  | illegal | fetchTarget | bkpt | break | step | svc | trap | tileNone | publishHost | groupMember | groupMixed
  | memAlign | xlateRange | xlateAbsent | xlateBad | xlatePerm
  | empty | iv | poolBound | hatchAlign | hatchVault | hatchOwner | hatchBusy | hatchBank | hatchNorow | hatchClosed
  | ringCfg | ringBusy | pressRow | copyArg | copyTable | barCount | detAmo | watch
  | landFault | storeFault | poison | delivery | hstoreFault | copyMcast
  deriving DecidableEq, Repr

/-- The ordering scopes (R68, R314). -/
inductive Scope | core | die | dev | sys
  deriving DecidableEq, Repr

/-- A packet of the fabric (R332 to R334). -/
structure Pkt where
  /-- its number SEQ at its source (R333) -/
  num : BitVec 8
  /-- the links that it has crossed -/
  hops : Nat
  /-- the link that it is inside -/
  inside : Option Chan
  /-- dropped on the way (R334) -/
  lost : Bool
  deriving DecidableEq, Repr

/-- A packet that has not left. -/
def Pkt.new : Pkt := ⟨0, 0, none, false⟩

/-- A lane instruction on its way through the row (R21 to R26). -/
structure Flight where
  /-- the instruction -/
  instr : Instr
  /-- its PX fields -/
  px : Px
  /-- its address (R70) -/
  pc : VAddr
  /-- the row cycle in which the head issued it: the strand's program order (R357) -/
  issue : Nat
  /-- h15 as attached at issue (R21) -/
  feed : Word
  /-- the head operand of HGET as attached at issue (R21) -/
  hval : Word
  /-- SST.DRM at issue (R147) -/
  drm : BitVec 3
  /-- issued at handler level -/
  handler : Bool
  /-- the region it belongs to (R180) -/
  region : Nat
  /-- the column that executes it next -/
  col : Nat
  /-- what it read when it came to wait at col; empty before that (R22) -/
  begun : List Nat
  /-- the west word captured at col - 1 (R25) -/
  west : Vec
  /-- executed at col, held until the named register is full (R25) -/
  capture : Bool
  /-- the WHY of its wait at col (R381): 1 while a source is empty, another once it has come to wait there (R22); none where it does
  not wait -/
  waits : Option Nat
  /-- the row cycle in which it became ready at col, while it is ready and passed over; none otherwise (R283) -/
  age : Option Nat
  deriving DecidableEq, Repr

/-- A lane committing instruction in its check pass or perform step (R165). -/
structure Commit where
  /-- the instruction, with col the next column of the check pass -/
  flight : Flight
  /-- operands read in the check pass, by column -/
  ops : Tbl (List Nat)
  /-- columns whose target has not accepted yet, once every column has passed -/
  left : List Nat
  deriving DecidableEq, Repr

/-- What a row head waits for beyond re-trying its instruction (R282). -/
inductive HeadWait
  | no
  /-- LD.d until request id returns (R128) -/
  | load (id : Nat)
  /-- PAUSE until the row cycle (R135) -/
  | pause (until_ : Nat)
  /-- YIELD: the strands still to issue once, and the last cycle (R132) -/
  | yield (slots : List Nat) (until_ : Nat)
  /-- PUBLISH until the increment id is acknowledged (R137) -/
  | publish (id : Nat)
  /-- TILEGET until the dispenser answers message msg (R136) -/
  | tile (msg : Nat)
  /-- GBAR or GVOTE with its arrival on the way or registered at group g, the result going to h register d (R141) -/
  | group (g d : Nat)
  /-- MSEND until message msg is placed (R143) -/
  | send (msg : Nat)
  /-- EXIT from its step 2 on (R133) -/
  | exit
  deriving DecidableEq, Repr

/-- The head state of one strand (R31, R32, R146, R147). -/
structure Head where
  /-- the placed task, none for an empty slot (R14) -/
  task : Option Nat
  pc : VAddr
  h : Vector Word 16
  tailQ : List Word
  mailbox : List Word
  /-- SST.LVL: handler level -/
  handler : Bool
  /-- SST.STEP -/
  stepMode : Bool
  /-- SST.PP -/
  pp : Bool
  /-- SST.DRM -/
  drm : BitVec 3
  /-- SST.FSUM: IV, DZ, OF, UF, NX in bits 0 to 4 -/
  fsum : BitVec 5
  /-- SST.PXS -/
  pxs : BitVec 32
  tvec : Word
  tcause : Word
  tval : Word
  tpc : Word
  regpc : Word
  mstatus : Word
  bka : Vector Word 4
  loopc : Word
  loops : Word
  loope : Word
  rloopc : Word
  rloops : Word
  rloope : Word
  hsave0 : Word
  hsave1 : Word
  /-- CYCLE up to the last placement (R146) -/
  cycles : Nat
  /-- the row cycle of the last placement -/
  placedAt : Nat
  /-- a PX already read, with its word; its instruction comes next (R66) -/
  pend : Option Px
  /-- address whose breakpoint match is suppressed once (R139) -/
  skipBreak : Option VAddr
  /-- an instruction has issued in step mode and STEP is due (R375) -/
  stepDue : Bool
  /-- lane instructions issued and not executed at every core, oldest first -/
  flights : List Flight
  /-- the lane committing instruction under way (R165) -/
  commit : Option Commit
  wait : HeadWait
  /-- the WHY code of the head's wait (R381) -/
  why : Nat
  /-- time in ns at which that wait began (R286) -/
  since : Nat
  /-- number of the current region -/
  region : Nat
  /-- DET reductions executed by the task (R372) -/
  detSeq : Nat
  /-- poisoned head registers: number, or 0x800 + CSR number (R364) -/
  poison : List Nat
  /-- pending machine events of head accesses: cause, TVAL, handler level (R353, R357) -/
  events : List (Cause × Word × Bool)
  /-- cross-die writes performed or observed by the head, by die (R323) -/
  stamp : Vector Nat 4
  /-- what its acquires returned: it holds its later reads (R323) -/
  hold : Vector Nat 4
  /-- MODEL: columns that the schedule holds back -/
  stall : List Nat
  deriving DecidableEq, Repr

/-- The state of an occupied landing slot (R38). -/
inductive LandState | pending | arrived | poisoned
  deriving DecidableEq, Repr

/-- An occupied landing slot (R38, R242 class 5). -/
structure LandSlot where
  set : Nat
  pos : Nat
  st : LandState
  tag : BitVec 16
  value : Vec
  addr : BitVec 48
  /-- the underlying cause of a poisoned slot -/
  cause : Cause
  arr : BitVec 16
  iss : BitVec 16
  /-- held by a take (R167) -/
  claimed : Bool
  /-- loaded from a DET page (R169) -/
  det : Bool
  deriving DecidableEq, Repr

/-- A claim of a take that has not been bound (R167). -/
structure Claim where
  set : Nat
  /-- the slot position of a TAKEO claim, or of a claim bound to a poisoned slot; none for an open claim -/
  pos : Option Nat
  /-- the fill ticket of its destinations -/
  ticket : Nat
  /-- TAKEV -/
  vec : Bool
  d : Nat
  t : Nat
  /-- the address of the take -/
  pc : VAddr
  /-- the row cycle in which the take was issued (R357) -/
  issue : Nat
  /-- bound to a poisoned slot, its trap raised (R358) -/
  raised : Bool
  deriving DecidableEq, Repr

/-- A ring (R39, R205): HEAD, TAIL, FILL and FCNT follow from popped, reserved and holes. -/
structure Ring where
  base : Nat
  ssz : Bool
  scnt : Nat
  /-- stages consumed, modulo which HEAD is counted -/
  popped : Nat
  /-- stream bytes reserved -/
  reserved : Nat
  /-- reserved ranges not yet written: position and length -/
  holes : List (Nat × Nat)
  /-- D8S and Z8 steps that consumed it since RCFG (R245) -/
  paired : Nat
  deriving DecidableEq, Repr

/-- The kinds of a store-fault record (R360). -/
inductive RecKind | st | stv | red | copy
  deriving DecidableEq, Repr

/-- A store-fault record (R360). -/
structure StoreRec where
  /-- number of the access, rising with age -/
  id : Nat
  kind : RecKind
  /-- the store's address -/
  va : Word
  /-- the lowest failing address, that TVAL reports (R271, R272) -/
  fail : Word
  sz : Nat
  rel : Bool
  scope : Scope
  data : Vec
  mask : BitVec 32
  op : AmoOp
  cause : Cause
  handler : Bool
  /-- DET sequence number of a RED (R372) -/
  detSeq : Nat
  deriving DecidableEq, Repr

/-- A strand's record at a named barrier (R178, R180). -/
structure Arrival where
  /-- generation of the last arrival -/
  gen : Nat
  /-- the region of the arriving instruction; none once the mark is cleared -/
  region : Option Nat
  /-- a rewind has happened since, with no BARA after it -/
  rewound : Bool
  deriving DecidableEq, Repr

/-- An MDRAIN that has not written (R215). -/
structure MDrain where
  d : Nat
  tile : Nat
  row : Nat
  ticket : Nat
  region : Nat
  /-- Press commands of the strand it waits for, by command number -/
  after : List Nat
  /-- the row cycle in which its read began, none while it waits -/
  begun : Option Nat
  deriving DecidableEq, Repr

/-- The instruction that a trap of class L or D belongs to (R353, R357): its address, the row cycle in which it was issued, and the
region. -/
structure TrapAt where
  pc : VAddr
  issue : Nat
  region : Nat
  deriving DecidableEq, Repr

/-- A pending trap at a core (R357). -/
structure MEvent where
  cause : Cause
  tval : Word
  handler : Bool
  /-- the instruction of a landing trap (R168) or of a refused access (R348); none for a machine event: the instruction reached -/
  at_ : Option TrapAt
  deriving DecidableEq, Repr

/-- The state of one strand at one core (R33). -/
structure Lane where
  g : Vector Word 32
  /-- 0: full; else the ticket of the fill the register awaits (R36) -/
  gFill : Vector Nat 32
  v : Vector Vec 32
  vFill : Vector Nat 32
  m : Vector Mask 8
  estat : Word
  land : List LandSlot
  claims : List Claim
  rings : Vector Ring 8
  recs : List StoreRec
  /-- faults dropped since the last STORE.FAULT entry (R177) -/
  dropped : Nat
  retry : List StoreRec
  /-- identifiers of the copies not yet sealed (R234) -/
  openCopies : List Nat
  /-- sealed batches, oldest first -/
  batches : List (List Nat)
  /-- touched-group mask (Memory Ordering, Holding a release) -/
  touched : Word
  /-- pass granule of WATCH (R377) -/
  pass : Option Nat
  /-- requests of other strands that a completed barrier orders before the strand's later accesses (R325) -/
  after : List Nat
  arrivals : Tbl Arrival
  drains : List MDrain
  pressDone : BitVec 32
  events : List MEvent
  /-- row cycle from which the core's vector unit is free of the strand's last instruction there that takes it for several (R188) -/
  vecUntil : Nat
  /-- cross-die writes performed or observed, by die (R323) -/
  stamp : Vector Nat 4
  /-- what the writes named that the strand's acquires of device scope returned: it holds its later reads (R323) -/
  hold : Vector Nat 4
  /-- poisoned registers, by DBGR selector (R364) -/
  poison : List Nat
  deriving DecidableEq, Repr

/-- A named barrier of a core (R178). -/
structure Barrier where
  count : Nat
  tally : Nat
  gen : Nat
  /-- accesses outstanding at their strand's arrival: generation and request (R325) -/
  pend : List (Nat × Nat)
  deriving DecidableEq, Repr

/-- The states of a Hatch slot (R42). -/
inductive HatchState | free | opening | ready | closed
  deriving DecidableEq, Repr

/-- A Hatch slot (R42, R250). -/
structure HatchSlot where
  st : HatchState
  owner : Nat
  /-- Cellar physical address of its row -/
  row : Nat
  /-- key of its page (R266) -/
  key : Option (BitVec 256)
  /-- the row cycle of acceptance; none while the open waits -/
  accepted : Option Nat
  /-- HSHUT has freed it while a transfer was under way: it becomes FREE as that ends (R224) -/
  shut : Bool
  deriving DecidableEq, Repr

/-- An open that has executed and not been accepted (R220). -/
inductive OpenReq
  | slot (s : Nat)
  | put (id : Nat)
  deriving DecidableEq, Repr

/-- A posted HPUT (R223). -/
structure HPut where
  id : Nat
  slot : Nat
  row : Nat
  key : Option (BitVec 256)
  off : Nat
  va : Word
  handler : Bool
  accepted : Option Nat
  issued : Nat
  deriving DecidableEq, Repr

/-- An HTAKE transfer accepted and not finished (R222). -/
structure Transfer where
  id : Nat
  strand : Nat
  hatch : Nat
  row : Nat
  key : Option (BitVec 256)
  ring : Nat
  /-- stream position -/
  at_ : Nat
  /-- the row cycle of its start, that of acceptance while it waits for an earlier transfer -/
  since : Nat
  /-- the row's bytes as they stood at the start, with the poisoned granules among them (R253); none before the start -/
  data : Option (Nat × List Nat)
  deriving DecidableEq, Repr

/-- What a Press command does (R210). -/
inductive PressOp
  | mma (sr : Semiring) (fmt : PressFmt) (qa qb : Nat) (rep : Nat)
  | mzero
  | mload (row : Nat) (lo hi : Vec)
  deriving DecidableEq, Repr

/-- A Press command (R210): number, strand slot, operation, tile, level. -/
structure PressCmd where
  num : Nat
  strand : Nat
  op : PressOp
  tile : Nat
  handler : Bool
  deriving DecidableEq, Repr

/-- What the running MMA step has read of its stages (R300): rows of A and of B, scales or zero points of both by row. -/
structure StepRead where
  a : List Nat
  b : List Nat
  sa : List (List Nat)
  sb : List (List Nat)
  deriving DecidableEq, Repr

/-- A copy or CRED that has entered a channel (R229, R303). -/
structure Copy where
  id : Nat
  strand : Nat
  chan : Nat
  src : CopySrc
  srcVal : Word
  dst : CopyDst
  dstVal : Word
  count : Nat
  /-- bytes injected -/
  done : Nat
  scope : Scope
  handler : Bool
  /-- ring stream position -/
  ringAt : Nat
  /-- the reduction of a CRED -/
  red : Option (RedOp × CredFmt)
  /-- granules injected and not acknowledged -/
  flying : Nat
  /-- DET sequence number of a CRED (R372) -/
  detSeq : Nat
  task : Nat
  /-- a fault has stopped it: the rest of its ring range is written as zero (R231) -/
  zero : Bool
  /-- cores that a multicast's first granule has reached, with the offset registered there, none where it is not delivered
  (R232, R308) -/
  subs : List (Nat × Option Nat)
  /-- the ports that a multicast's first granule took at each router (R307, R308) -/
  ports : List (Nat × List Nat)
  /-- the strand's acquires, outstanding as it entered, that order its source read (R326) -/
  after : List Nat
  /-- the read of its next source granule that has left: when, ns (R336, R344), and its packet -/
  ask : Option (Nat × Pkt)
  deriving DecidableEq, Repr

/-- Attributes of a translated address (R266, R267). -/
structure Attr where
  det : Bool
  enc : Bool
  kid : Nat
  host : Bool
  deriving DecidableEq, Repr

/-- A cached leaf (R268): function and context, page, size, frame, permissions, attributes. -/
structure TlbEntry where
  vf : Nat
  ctx : Nat
  /-- virtual base of the page -/
  page : Nat
  size : Nat
  frame : Nat
  r : Bool
  w : Bool
  x : Bool
  loft : Bool
  attr : Attr
  deriving DecidableEq, Repr

/-- The source of a reduction operation (R311): device number, core, port 0 to 3 a channel, 4 the atomic port. -/
structure Source where
  dev : Nat
  core : Nat
  port : Nat
  deriving DecidableEq, Repr

/-- A reduction unit's window for one source (R312): generation, newest sequence numbers with old values. -/
structure Window where
  src : Source
  gen : BitVec 8
  seen : List (BitVec 16 × Word)
  deriving DecidableEq, Repr

/-- An element held for a DET page (R372). -/
structure Held where
  addr : Nat
  task : Nat
  seq : Nat
  col : Nat
  /-- bytes of the element -/
  size : Nat
  /-- RED operation, or a CRED operation and format -/
  op : AmoOp ⊕ (RedOp × CredFmt)
  data : Word
  part : Nat
  /-- key of the page (R266) -/
  key : Option (BitVec 256)
  deriving DecidableEq, Repr

/-- A landing load that waits for a slot (R38). -/
structure SlotWait where
  /-- cycle at which it came to wait -/
  cycle : Nat
  strand : Nat
  set : Nat
  deriving DecidableEq, Repr

/-- The state of one core and its vault that all strands share (R40, R246, R248). -/
structure Core where
  pool : List Host.Cell
  /-- poisoned 64-byte granules of the pool (R260) -/
  poolPoison : List Nat
  bars : Vector Barrier 32
  hatch : Vector HatchSlot 4
  /-- opens not yet accepted, in execution order -/
  opens : List OpenReq
  /-- accepted opens: bank and row cycle, newest first (R220) -/
  accepts : List (Nat × Nat)
  hputs : List HPut
  transfers : List Transfer
  press : List PressCmd
  /-- row cycle at which the running step or command began, none when idle -/
  running : Option Nat
  /-- what the running step has read -/
  stepRead : StepRead
  /-- number of the next Press command -/
  pressNum : Nat
  /-- copies in each channel, in order (R303) -/
  chans : Vector (List Copy) 4
  /-- issued copies with granules not yet acknowledged -/
  issued : List Copy
  /-- the channel served last (R303) -/
  lastChan : Nat
  /-- bytes written into the pool by channel number (R235) -/
  cptr : Vector Word 4
  /-- multicast match table: tag and offset (R236) -/
  match_ : List (BitVec 16 × Nat)
  issueCtr : BitVec 16
  arriveCtr : BitVec 16
  slotQ : List SlotWait
  tlb : List TlbEntry
  filter : BitVec 4096
  wctl : Word
  launchGen : BitVec 8
  atomSeq : BitVec 16
  chanSeq : Vector (BitVec 16) 4
  /-- windows of the pool reduction unit -/
  poolWin : List Window
  /-- windows of the vault reduction unit -/
  vaultWin : List Window
  /-- hold store of the vault (R372) -/
  hold : List Held
  /-- corrected errors of the vault (R259) -/
  errors : Nat
  /-- refresh: the bank next in rotation, row cycle of the last start, banks passed over (R251) -/
  refreshNext : Nat
  refreshLast : Nat
  refreshDue : List Nat
  /-- the bank under refresh and the cycle it began -/
  refreshing : Option (Nat × Nat)
  /-- copy granules held while a clearing, save or restore is under way (R281, R305) -/
  heldGranules : List Nat
  deriving DecidableEq, Repr

/-- The accesses and packets that the fabric carries (R128, R157 to R175, R230, R337). -/
inductive ReqKind
  | load | store | landing | headLoad | headStore | amo | cas | red | granule | publish
  deriving DecidableEq, Repr

/-- How far a request has got. -/
inductive ReqState
  /-- its translation is under way (R270) -/
  | walking
  /-- a release held at its core (R324) -/
  | held
  /-- a release whose probes are out: groups still to answer -/
  | probing (groups : List Nat)
  /-- on its way to its home -/
  | sent
  /-- performed at its home -/
  | performed
  /-- failed with a cause at an address -/
  | failed (cause : Cause) (va : Word)
  /-- dropped in the fabric (R334) -/
  | lost
  deriving DecidableEq, Repr

/-- Where the answer of a request goes. -/
inductive Dest
  | no
  | g (n ticket : Nat) | v (n ticket : Nat)
  | slot (set pos : Nat)
  | h (n : Nat)
  deriving DecidableEq, Repr

/-- One outstanding request (R336): who, what, where. -/
structure Req where
  id : Nat
  kind : ReqKind
  row : Nat
  /-- issuing column; 16 is the head -/
  col : Nat
  strand : Nat
  part : Nat
  vf : Nat
  ctx : Nat
  /-- address of the lane instruction that issued it (R70), 0 for a request of another kind -/
  pc : VAddr
  va : Word
  /-- pieces of the access: physical address and length, in order -/
  segs : List (Nat × Nat)
  /-- attributes of the first piece, and of the second (R272) -/
  attr : Attr
  attr2 : Attr
  size : Nat
  /-- active 4-byte elements of a vector access, or all ones -/
  mask : BitVec 32
  data : Vec
  /-- sign-extend the value (R158) -/
  signed : Bool
  acq : Bool
  rel : Bool
  scope : Scope
  op : AmoOp
  /-- expected value of a CAS -/
  expect : Word
  dest : Dest
  handler : Bool
  region : Nat
  st : ReqState
  /-- poisoned data (R261): address of the first poisoned granule -/
  bad : Option Nat
  /-- time of acceptance at the source interface in ns, and delivery bound (R336) -/
  since : Nat
  bound : Nat
  /-- number of a cross-die write on its source die, 0 for another access, and its vector stamp (R323) -/
  xnum : Nat
  stamp : Vector Nat 4
  /-- requests that a named barrier orders before it (R325) -/
  after : List Nat
  /-- its packet, and its answer's (R333) -/
  out : Pkt
  back : Pkt
  /-- the probes or fence markers of a release, by vault group (R324) -/
  probes : Tbl Pkt
  /-- the router at which a multicast's packet was replicated last; none for its source (R307) -/
  from_ : Option Nat
  /-- the row cycle in which its instruction was issued (R357) -/
  issue : Nat
  /-- sequence number and generation of a reduction (R311) -/
  seq : BitVec 16
  gen : BitVec 8
  port : Nat
  /-- DET sort key (R372) -/
  task : Nat
  detSeq : Nat
  /-- for a copy granule: the copy, its offset there, the destination core (512: a multicast not yet replicated) and pool
  address, the ring and its position -/
  copy : Nat
  at_ : Nat
  dstCore : Nat
  dstOff : Nat
  ring : Option (Nat × Nat)
  mcast : Option (BitVec 16)
  /-- the router where a multicast granule is, none before the rendezvous (R307) -/
  router : Option Nat
  red : Option (RedOp × CredFmt)
  deriving DecidableEq, Repr

/-- Messages of the job services (R291 to R293). -/
inductive Msg
  /-- arrival of a task at a group: kind 0 is GBAR, else the GVOTE code -/
  | arrive (part g task row slot kind : Nat) (value : Word)
  /-- completion to an arriving task: result, mixed -/
  | done (part g task : Nat) (result : Word) (mixed : Bool) (vote : Bool)
  | lower (part g task : Nat)
  | token (part row slot : Nat) (fromTask : Nat) (toTask : Word) (value : Word)
  | tile (part row slot die num d : Nat)
  deriving DecidableEq, Repr

/-- Which miss waits for a walk (R270): of an access of a strand at a core, of a copy by its identifier and strand slot, of a head
access, of a fetch. -/
inductive WalkPlace
  | core (row col slot : Nat) | copy (row col slot id : Nat) | head (row slot : Nat) | fetch (row slot : Nat)
  deriving DecidableEq, Repr

/-- A miss that waits for the walk of its page (R270). -/
structure WalkWait where
  /-- rising with arrival -/
  id : Nat
  place : WalkPlace
  vf : Nat
  ctx : Nat
  /-- virtual address div 64 KiB -/
  page : Nat
  va : Word
  /-- KIND of its access (R368), and its level -/
  kind : Nat
  handler : Bool
  /-- when it arrived, ns: the wait counts toward the access's bound -/
  since : Nat
  /-- its access is gone (R270): the walk finishes and may fill the TLB -/
  gone : Bool
  /-- the walk has finished: with a leaf, or with the cause of its failure -/
  done : Option (Option Cause)
  deriving DecidableEq, Repr

/-- A group of the running job at its home (R141, R291). -/
structure Group where
  members : List Nat
  gen : Nat
  /-- arrivals of the generation: task, kind, value -/
  arrived : List (Nat × Nat × Word)
  deriving DecidableEq, Repr

/-- A tile dispenser of the running job (R292). -/
structure Dispenser where
  /-- partition of the job -/
  part : Nat
  die : Nat
  num : Nat
  x0 : Nat
  y0 : Nat
  w : Nat
  h : Nat
  tw : Nat
  th : Nat
  /-- tiles granted -/
  next : Nat
  deriving DecidableEq, Repr

/-- A launch record (R276). -/
structure Launch where
  seqOk : Bool
  irq : Bool
  vec : Nat
  pc : Word
  arg : Word
  pword : Word
  size : Nat
  gridx : Nat
  ctx : Nat
  cimg : Word
  rimg : Word
  gtab : Word
  dtab : Word
  mbox : Word
  spillOff : Nat
  spillN : Nat
  done : Word
  jobid : Word
  slice : Nat
  vbase : Word
  deriving DecidableEq, Repr

/-- The phases of a job (R278). -/
inductive JobPhase | fetched | load | go
  deriving DecidableEq, Repr

/-- The job of a partition (R275 to R297). -/
structure Job where
  vf : Nat
  queue : Nat
  launch : Launch
  consts : List Word
  rowImgs : List (List Word)
  groups : Tbl Group
  phase : JobPhase
  /-- time of the fetch of the launch record, ns -/
  since : Nat
  /-- partition rows that the load message has not reached, not acknowledged, not reported -/
  toLoad : List Nat
  toAck : List Nat
  toGo : List Nat
  toReport : List Nat
  /-- combined status of the reported rows (R297) -/
  status : Word
  /-- ended tasks with their status words (R296) -/
  ended : Tbl Word
  deriving DecidableEq, Repr

/-- The states of JCTL.STATE (R341). -/
inductive JobState | idle | running | moving | saved
  deriving DecidableEq, Repr

/-- A partition (R339, R341, R350). -/
structure Part where
  en : Bool
  first : Nat
  size : Nat
  refused : Bool
  job : Option Job
  jstate : JobState
  /-- JCTL asked for a save (true) or a restore (false) -/
  saving : Bool
  killDue : Bool
  pref : Bool
  /-- round-robin pointer over (function, queue) (R275) -/
  rr : Nat
  /-- time before which the next load phase may not start (R278) -/
  quiet : Nat
  /-- longest delivery bound, in ns, of the reductions the current job issued (R278) -/
  redBound : Nat
  deriving DecidableEq, Repr

/-- A launch queue (R273). -/
structure Queue where
  base : Word
  en : Bool
  log : Nat
  ovf : Bool
  busy : Bool
  derr : Bool
  lcode : Nat
  head : Nat
  tail : Nat
  deriving DecidableEq, Repr

/-- A context register CROOT (R343). -/
structure Croot where
  v : Bool
  root : Nat
  deriving DecidableEq, Repr

/-- A virtual function (R340 to R343, R350). -/
structure Vf where
  en : Bool
  part : Nat
  refused : Bool
  errors : Nat
  queues : Vector Queue 4
  jctx : Nat
  xbusy : Bool
  xall : Bool
  xctx : Nat
  xva : Nat
  /-- walks that began before the shootdown, by request (R342) -/
  xwalks : List Nat
  croots : Vector Croot 16
  /-- MSI-X table, 16 vectors of 16 bytes, and pending bits -/
  msix : Vector (BitVec 128) 16
  msixPend : BitVec 16
  /-- the completion of the last BAR2 read: its bytes, or none for a Completer Abort (R337) -/
  answer : Option (List Byte)
  deriving DecidableEq, Repr

/-- The phase of a row in the life of its teams (R278 to R288). -/
inductive RowPhase | idle | loaded | placed | save | restore
  deriving DecidableEq, Repr

/-- What the image of a swapped team holds (R257): head state by slot, strand state by 8 * column + slot, shared core
state by column. -/
structure Image where
  team : Nat
  /-- save place: a Loft frame below F, else F + spill image -/
  place : Nat
  heads : Tbl Head
  lanes : Tbl Lane
  cores : Tbl Core
  /-- releases held for want of the retry of a record (R324, R361) -/
  reqs : List Req
  /-- the pools, by column, with their poisoned granules and whether their firmware rows are broken, read before the team that
  left took the place (R289); empty while they stand in the place -/
  ahead : Tbl (List Host.Cell × List Nat × Bool)
  deriving DecidableEq, Repr

/-- The states a row can be commanded to (R389). -/
inductive Power | run | idle | off
  deriving DecidableEq, Repr

/-- A device row (R18, R282, R286, R380, R389). -/
structure Row where
  /-- ROWPWR.STATE and CUR -/
  want : Power
  cur : Power
  /-- ROWPWR.OPP commanded, and the operating point in effect -/
  oppWant : Nat
  opp : Nat
  refused : Bool
  /-- row cycles since reset, and fifths of a cycle -/
  cycle : Nat
  frac : Nat
  /-- fifths of a cycle that the row's issues are ahead of the time that has passed -/
  ahead : Nat
  /-- the slot the head issued last (R282) -/
  last : Nat
  halted : Bool
  /-- the strand whose handler entry halted the row (R380) -/
  haltBy : Option Nat
  arm : Bool
  auto_ : Bool
  causes : BitVec 5
  /-- the partition whose job loaded it -/
  part : Option Nat
  /-- function and context of the job that last loaded it, whose data its cores still hold (R388) -/
  owner : Option (Nat × Nat)
  /-- and its partition word (R44, R244) -/
  pword : Word
  phase : RowPhase
  resident : Option Nat
  started : List Nat
  ended : List Nat
  images : List Image
  /-- time at which the slice began, ns -/
  sliceAt : Nat
  /-- the next team of a swap under way -/
  next : Option Nat
  itlb : List TlbEntry
  deriving DecidableEq, Repr

/-- A Gararo link (R346, R351). -/
inductive LinkSt | up | train | down | retired
  deriving DecidableEq, Repr

/-- The link registers (R351). -/
structure Link where
  st : LinkSt
  en : Bool
  corr : Nat
  uncor : Nat
  trains : Nat
  /-- replays of the flit at its head that have failed (R346) -/
  replays : Nat
  deriving DecidableEq, Repr

/-- A link that has seen header errors (R334): times of the last second's errors in ns, newest first, failed replays of the
flit at its head (R335), in training, retired. -/
structure MeshLink where
  corr : List Nat
  uncor : List Nat
  replays : Nat
  train : Bool
  retired : Bool
  deriving DecidableEq, Repr

/-- A join or prune under way (R236, R307): identifier, core and strand slot, tag, join, time it left in ns. -/
structure Join where
  id : Nat
  core : Nat
  slot : Nat
  tag : BitVec 16
  join : Bool
  since : Nat
  handler : Bool
  /-- its packet (R333) -/
  pkt : Pkt
  deriving DecidableEq, Repr

/-- The answer to an inbound peer request (R348): the peer, and what was refused, found poisoned, or returned. -/
inductive PeerAnswer
  | refused (peer : Nat) | poison (peer : Nat) | done (peer : Nat) (data : Vec)
  deriving DecidableEq, Repr

/-- An import entry (R351). -/
structure Import where
  v : Bool
  r : Bool
  w : Bool
  part : Nat
  peer : Nat
  base : Nat
  limit : Nat
  deriving DecidableEq, Repr

/-- A key slot (R387): key and owning function and context. -/
structure KeySlot where
  key : BitVec 256
  vf : Nat
  ctx : Nat
  deriving DecidableEq, Repr

/-- The trace and dump units of the debug block (R379, R381, R383). -/
structure Debug where
  trbase : Word
  trsize : Word
  trptr : Nat
  tren : Bool
  traps : Bool
  wrap : Bool
  period : Nat
  /-- time of the last periodic pulse, ns -/
  lastPulse : Nat
  dumpId : Nat
  dumpDone : Bool
  dumpBase : Word
  /-- links whose marker is still to come; none when no dump runs -/
  dumpLinks : Option (List Nat)
  /-- packets recorded: link, kind, address, size, data (R383) -/
  dumpLog : List (Nat × Nat × Nat × Nat × Vec)
  /-- markers sent: link and ID (R383) -/
  dumpSent : List (Nat × Nat)
  /-- trace records to come that will miss their bound (R382) -/
  drops : Nat
  deriving DecidableEq, Repr

/-- MODEL: the schedule: what happens next, chosen outside the machine. -/
inductive Move
  /-- an event of the opcode table happens -/
  | event (i : Instr)
  /-- the row's head gets its cycle -/
  | row (r : Nat)
  /-- time passes, ns -/
  | time (ns : Nat)
  /-- the columns of a strand that execute nothing until told otherwise (R26) -/
  | stall (row slot : Nat) (cols : List Nat)
  /-- the host writes its own memory: host address and bytes (R327) -/
  | hostMem (addr : Nat) (bytes : List Byte)
  /-- the host's IOMMU maps a 4 KiB page of bus addresses of a requester, 32 the physical function, to a page of host memory (R338) -/
  | iommu (rid page target : Nat)
  /-- a peer device's memory changes, by the peer itself or by another device: peer address and bytes (R329, R347) -/
  | peerMem (addr : Nat) (bytes : List Byte)
  /-- a die falls to 105 degrees or below (R392) -/
  | cool (die : Nat)
  /-- the host reads a register by its block and offset (R6, R340, R349, R379) -/
  | regRead (space : RegSpace) (off : Nat)
  /-- a BAR2 read or write of a function misses its bound in the fabric (R337) -/
  | hostLost (vf : Nat) (write : Bool)
  /-- the next trace records will miss their bound (R382) -/
  | traceLost (n : Nat)
  /-- messages reach their homes in one cycle (R291, R292) -/
  | reach (msgs : List Nat)
  /-- from now on the walks of misses take time, or end in the step of the miss (R270) -/
  | slowWalks (on : Bool)
  deriving DecidableEq, Repr

/-- The whole machine. -/
structure State where
  /-- Cellar, host windows and peer memory by 52-bit system physical address (R264) -/
  mem : List Host.Cell
  /-- poisoned Cellar granules: physical address div 64 (R259) -/
  memPoison : List Nat
  /-- the keys under which Cellar bytes were written (R266), by physical address; such a byte is listed in mem as plain text -/
  memKeys : Tbl (BitVec 256)
  /-- strand head state, by 8 * row + slot -/
  heads : Tbl Head
  /-- strand state at cores, by (16 * row + column) * 8 + slot -/
  lanes : Tbl Lane
  /-- cores and vaults, by device core index -/
  cores : Tbl Core
  rows : Tbl Row
  parts : Tbl Part
  vfs : Tbl Vf
  reqs : List Req
  msgs : Tbl Msg
  /-- when each message left, ns (R336) -/
  msgAt : Tbl Nat
  /-- the packets of the messages (R333) -/
  msgPkt : Tbl Pkt
  /-- messages that have reached their homes: message, number of the cycle (R291, R292) -/
  reached : Tbl Nat
  dispensers : List Dispenser
  /-- multicast subscriptions acknowledged by the routers: partition, tag, core (R307) -/
  subs : List (Nat × BitVec 16 × Nat)
  /-- joins and prunes under way -/
  joins : List Join
  /-- the bits set in the routers' bitmaps: partition, tag, router, port (R307) -/
  tree : List (Nat × BitVec 16 × Nat × Nat)
  /-- cross-die writes sent, by source die (R323) -/
  sentX : Vector Nat 4
  links : Tbl Link
  mesh : List (Chan × MeshLink)
  /-- Gararo links whose switch reports no route to a peer: link, peer (R347) -/
  noRoute : List (Nat × Nat)
  /-- packets sent, by source: die and physical core (R333) -/
  pkts : Tbl Nat
  /-- windows of the peers' reduction units, by peer (R312) -/
  peerWin : List (Nat × Window)
  /-- the stamp of the write that stands at an 8-byte word of memory (R323), by address div 8; none is the zero stamp -/
  memStamp : Tbl (Vector Nat 4)
  /-- the host's IOMMU: page of host memory by 2^52 x requester + page of its bus address; an unlisted page maps to itself (R338) -/
  iommu : Tbl Nat
  /-- misses that wait for walks, oldest first (R270) -/
  walks : List WalkWait
  /-- a link retrained or a route changed: releases use fence markers (Memory Ordering) -/
  markers : Bool
  imports : Tbl Import
  peerId : Nat
  /-- the answer to the last inbound peer request (R348) -/
  peerAnswer : Option PeerAnswer
  availRows : BitVec 32
  plimit : Nat
  trip : Bool
  /-- dies above 105 degrees (R392) -/
  hot : List Nat
  rwcmd : Word
  rwbuf : Word
  rwbusy : Bool
  rwcode : Nat
  pfMsix : Vector (BitVec 128) 16
  pfPend : BitVec 16
  /-- measurement registers: boot ROM, Renwyn firmware, service-core firmware, fuse map (R384) -/
  measured : Vector (BitVec 512) 4
  /-- bring-up has passed and the device stands on PCI Express (R384, R393) -/
  enumerated : Bool
  /-- what the last read of a register returned -/
  regAnswer : Word
  keys : Tbl KeySlot
  /-- confidential contexts: function and context (R387) -/
  confidential : List (Nat × Nat)
  dbg : Debug
  /-- Loft frames per vault (R256) -/
  loftF : Nat
  /-- time since reset, ns -/
  now : Nat
  /-- MODEL: next identifier of a request, message, ticket or copy -/
  fresh : Nat
  /-- MODEL: number of free values taken -/
  free : Nat
  /-- MODEL: the schedule -/
  agenda : List Move
  /-- MODEL: the walks of misses take time (R270) -/
  slowWalks : Bool
  /-- MODEL: the row that issues when the schedule is empty -/
  turn : Nat
  /-- MODEL: the strand whose instruction exec runs -/
  curRow : Nat
  curSlot : Nat
  deriving DecidableEq, Repr

/-- A strand slot before any placement; the CSRs at the reset values of R146 and R147. -/
def Head.reset : Head :=
  { task := none, pc := 0, h := Vector.replicate 16 0, tailQ := [], mailbox := [], handler := false, stepMode := false,
    pp := false, drm := 1, fsum := 0, pxs := 0, tvec := 0, tcause := 0, tval := 0, tpc := 0, regpc := 0, mstatus := 0,
    bka := Vector.replicate 4 0, loopc := 0, loops := 0, loope := 0, rloopc := 0, rloops := 0, rloope := 0, hsave0 := 0,
    hsave1 := 0, cycles := 0, placedAt := 0, pend := none, skipBreak := none, stepDue := false, flights := [],
    commit := none, wait := .no, why := 0, since := 0, region := 0, detSeq := 0, poison := [], events := [],
    stamp := Vector.replicate 4 0, hold := Vector.replicate 4 0, stall := [] }

/-- An unconfigured ring (R17). -/
def Ring.reset : Ring := ⟨0, false, 0, 0, 0, [], 0⟩

/-- A strand's state at a core as R17 gives it at first placement. -/
def Lane.reset : Lane :=
  { g := Vector.replicate 32 0, gFill := Vector.replicate 32 0, v := Vector.replicate 32 0,
    vFill := Vector.replicate 32 0, m := Vector.replicate 8 0, estat := 0, land := [], claims := [],
    rings := Vector.replicate 8 Ring.reset, recs := [], dropped := 0, retry := [], openCopies := [], batches := [],
    touched := 0, pass := none, after := [], arrivals := [], drains := [], pressDone := 0, events := [], vecUntil := 0,
    stamp := Vector.replicate 4 0, hold := Vector.replicate 4 0, poison := [] }

/-- A core before any launch. -/
def Core.reset : Core :=
  { pool := [], poolPoison := [], bars := Vector.replicate 32 ⟨0, 0, 0, []⟩,
    hatch := Vector.replicate 4 ⟨.free, 0, 0, none, none, false⟩, opens := [], accepts := [], hputs := [], transfers := [],
    press := [], running := none, stepRead := ⟨[], [], [], []⟩, pressNum := 0, chans := Vector.replicate 4 [], issued := [], lastChan := 3,
    cptr := Vector.replicate 4 0, match_ := [], issueCtr := 0, arriveCtr := 0, slotQ := [], tlb := [], filter := 0,
    wctl := 0, launchGen := 0, atomSeq := 0, chanSeq := Vector.replicate 4 0, poolWin := [], vaultWin := [], hold := [],
    errors := 0, refreshNext := 0, refreshLast := 0, refreshDue := [], refreshing := none, heldGranules := [] }

/-- A row after bring-up: IDLE at OPP 6 (R389, R393). -/
def Row.reset : Row :=
  { want := .idle, cur := .idle, oppWant := 6, opp := 6, refused := false, cycle := 0, frac := 0, ahead := 0, last := 7,
    halted := false, haltBy := none, arm := false, auto_ := false, causes := 0, part := none, owner := none, pword := 0, phase := .idle,
    resident := none, started := [], ended := [], images := [], sliceAt := 0, next := none, itlb := [] }

/-- A partition register at reset (R350). -/
def Part.reset : Part :=
  { en := false, first := 0, size := 0, refused := false, job := none, jstate := .idle, saving := false,
    killDue := false, pref := false, rr := 0, quiet := 0, redBound := 0 }

/-- A launch queue at reset (R273). -/
def Queue.reset : Queue := ⟨0, false, 4, false, false, false, 0, 0, 0⟩

/-- A virtual function at reset (R340 to R343, R350). -/
def Vf.reset : Vf :=
  { en := false, part := 0, refused := false, errors := 0, queues := Vector.replicate 4 Queue.reset, jctx := 0,
    xbusy := false, xall := false, xctx := 0, xva := 0, xwalks := [], croots := Vector.replicate 16 ⟨false, 0⟩,
    msix := Vector.replicate 16 0, msixPend := 0, answer := some [] }

/-- A link at reset: DOWN (R351). -/
def Link.reset : Link := ⟨.down, false, 0, 0, 0, 0⟩

/-- The debug block at reset (R379). -/
def Debug.reset : Debug :=
  { trbase := 0, trsize := 0, trptr := 0, tren := false, traps := false, wrap := false, period := 0, lastPulse := 0,
    dumpId := 0, dumpDone := false, dumpBase := 0, dumpLinks := none, dumpLog := [], dumpSent := [], drops := 0 }

/-- The machine right after reset (R393): every row IDLE at OPP 6, memory with nothing listed, every register at the value
its map gives, no job. -/
def State.reset : State :=
  { mem := [], memPoison := [], memKeys := [], heads := [], lanes := [], cores := [], rows := [], parts := [], vfs := [],
    reqs := [], msgs := [], msgAt := [], msgPkt := [], reached := [], walks := [], dispensers := [], subs := [], joins := [], tree := [],
    sentX := Vector.replicate 4 0, links := [], mesh := [], noRoute := [], pkts := [],
    peerWin := [], memStamp := [], iommu := [], markers := false, imports := [], peerId := 0, peerAnswer := none,
    availRows := BitVec.allOnes 32, plimit := 2200, trip := false, hot := [], rwcmd := 0, rwbuf := 0, rwbusy := false,
    rwcode := 0, pfMsix := Vector.replicate 16 0, pfPend := 0, measured := Vector.ofFn fun i => Config.measurement i.val, enumerated := true, regAnswer := 0,
    keys := [], confidential := [], dbg := Debug.reset,
    loftF := 4, now := 0, fresh := 1, free := 0, agenda := [], slowWalks := false, turn := 0, curRow := 0, curSlot := 0 }

end Sys2Proof.Machine
end

