-- ==== Sys2Proof/Machine/Access.lean ====
section
/-! DEFINITION. The shared operations over the tables of State, registers, pool and physical memory, and translation. -/

namespace Sys2Proof.Machine

/-! Tables of State. -/

/-- Device core index of R18. -/
def coreIx (r c : Nat) : Nat := 16 * r + c

/-- Die of a device core index or vault (R18, R246). -/
def dieOf (k : Nat) : Nat := k / 128

/-- Die of a device row (R18). -/
def dieOfRow (r : Nat) : Nat := r / 8

/-- The head state of a strand slot. -/
def getHead (s : State) (r sl : Nat) : Head := tget s.heads (8 * r + sl) Head.reset

/-- Set the head state of a strand slot. -/
def setHead (s : State) (r sl : Nat) (h : Head) : State := { s with heads := tput s.heads (8 * r + sl) h }

/-- Change the head state of a strand slot. -/
def modHead (s : State) (r sl : Nat) (f : Head → Head) : State := setHead s r sl (f (getHead s r sl))

/-- The state of a strand at a core. -/
def getLane (s : State) (r c sl : Nat) : Lane := tget s.lanes (coreIx r c * 8 + sl) Lane.reset

/-- Set the state of a strand at a core. -/
def setLane (s : State) (r c sl : Nat) (l : Lane) : State := { s with lanes := tput s.lanes (coreIx r c * 8 + sl) l }

/-- Change the state of a strand at a core. -/
def modLane (s : State) (r c sl : Nat) (f : Lane → Lane) : State := setLane s r c sl (f (getLane s r c sl))

/-- The state of a core. -/
def getCore (s : State) (k : Nat) : Core := tget s.cores k Core.reset

/-- Change the state of a core. -/
def modCore (s : State) (k : Nat) (f : Core → Core) : State := { s with cores := tput s.cores k (f (getCore s k)) }

/-- A device row. -/
def getRow (s : State) (r : Nat) : Row := tget s.rows r Row.reset

/-- Change a device row. -/
def modRow (s : State) (r : Nat) (f : Row → Row) : State := { s with rows := tput s.rows r (f (getRow s r)) }

/-- A partition. -/
def getPart (s : State) (p : Nat) : Part := tget s.parts p Part.reset

/-- Change a partition. -/
def modPart (s : State) (p : Nat) (f : Part → Part) : State := { s with parts := tput s.parts p (f (getPart s p)) }

/-- A virtual function. -/
def getVf (s : State) (n : Nat) : Vf := tget s.vfs n Vf.reset

/-- Change a virtual function. -/
def modVf (s : State) (n : Nat) (f : Vf → Vf) : State := { s with vfs := tput s.vfs n (f (getVf s n)) }

/-- Change the running job of a partition. -/
def modJob (s : State) (p : Nat) (f : Job → Job) : State := modPart s p fun x => { x with job := x.job.map f }

/-- Apply a change at every column of a row. -/
def forCols (f : State → Nat → State) (s : State) : State := (upTo 16).foldl f s

/-- Apply a change at every strand slot. -/
def forSlots (f : State → Nat → State) (s : State) : State := (upTo 8).foldl f s

/-! The partition word (R44) and the sizes that follow from it. -/

/-- The partition of a row's job, and the job. -/
def rowJob (s : State) (r : Nat) : Option (Nat × Job) :=
  match (getRow s r).part with
  | none => none
  | some p => (getPart s p).job.map fun j => (p, j)

/-- The partition word of the row's job, 0 with none. -/
def pwordOf (s : State) (r : Nat) : Word :=
  match rowJob s r with
  | some (_, j) => j.launch.pword
  | none => 0

/-- Bits lo to lo + n - 1 of a word as a number (R9). -/
def bits (w : Word) (lo n : Nat) : Nat := w.toNat / 2 ^ lo % 2 ^ n

/-- REGK x 8 KiB. -/
def regBytes (pw : Word) : Nat := 8192 * bits pw 0 8

/-- Accumulator tiles (R44). -/
def tileCount (pw : Word) : Nat := bits pw 8 8

/-- Vector registers per strand (R44). -/
def vregCount (pw : Word) : Nat := 8 * 2 ^ bits pw 16 2

/-- Strands per row (R44). -/
def strandCount (pw : Word) : Nat := bits pw 18 3 + 1

/-- The scratch size S (R163). -/
def scratchSize (pw : Word) : Nat := 2097152 - regBytes pw - 16384 * tileCount pw

/-- Pool address of vector register n of the strand in slot sl (R244). -/
def vregAddr (pw : Word) (sl n : Nat) : Nat :=
  scratchSize pw + 16384 * tileCount pw + 128 * (sl * vregCount pw + n)

/-- Pool address of tile n (R244). -/
def tileAddr (pw : Word) (n : Nat) : Nat := scratchSize pw + 16384 * n

/-! Bytes: a list of cells in one canonical form; an unlisted byte reads 0. -/

/-- The byte at an address. -/
def memRd (m : List Host.Cell) (a : Nat) : Byte :=
  match m with
  | [] => 0
  | (b, x) :: r => if b = a then x else memRd r a

/-- The memory with a listed byte at an address, addresses kept rising. -/
def memIns (m : List Host.Cell) (a : Nat) (x : Byte) : List Host.Cell :=
  match m with
  | [] => [(a, x)]
  | (b, y) :: r => if a < b then (a, x) :: (b, y) :: r else if b = a then (a, x) :: r else (b, y) :: memIns r a x

/-- The memory with byte x at an address, in canonical form: a 0 is not listed. -/
def memWr (m : List Host.Cell) (a : Nat) (x : Byte) : List Host.Cell :=
  if x = 0 then m.filter (fun c => c.1 != a) else memIns m a x

/-- n bytes from an address as a little-endian number (R3). -/
def memRdN (m : List Host.Cell) (a : Nat) : Nat → Nat
  | 0 => 0
  | n + 1 => (memRd m a).toNat + 256 * memRdN m (a + 1) n

/-- Write the low n bytes of x at an address, little-endian (R3). -/
def memWrN (m : List Host.Cell) (a : Nat) : Nat → Nat → List Host.Cell
  | 0, _ => m
  | n + 1, x => memWrN (memWr m a (BitVec.ofNat 8 x)) (a + 1) n (x / 256)

/-- The cells with every listed byte of a range removed: the range reads 0. -/
def memClear (m : List Host.Cell) (lo hi : Nat) : List Host.Cell := m.filter fun c => c.1 < lo || hi ≤ c.1

/-- The canonical form: addresses strictly rising, no listed 0. -/
def memWf : List Host.Cell → Bool
  | [] => true
  | [(_, x)] => x != 0
  | (a, x) :: (b, y) :: r => x != 0 && decide (a < b) && memWf ((b, y) :: r)

/-- The 64-byte granules that a range of n bytes touches. -/
def granules (a n : Nat) : List Nat := if n = 0 then [] else (upTo ((a + n - 1) / 64 - a / 64 + 1)).map fun i => a / 64 + i

/-- The 64-byte granules that a range of n bytes covers whole. -/
def wholeGranules (a n : Nat) : List Nat := (granules a n).filter fun g => a ≤ 64 * g && 64 * g + 64 ≤ a + n

/-! Registers of a strand at a core. -/

/-- The value of a g register; g0 reads 0 (R33). -/
def rdG (l : Lane) (n : BitVec 5) : Word := if n = 0 then 0 else l.g[n.toNat]

/-- Write a g register and make it full; g0 discards (R33, R36). A write ends the register's poison. -/
def wrG (l : Lane) (n : BitVec 5) (x : Word) : Lane :=
  if n = 0 then l
  else { l with g := l.g.set n.toNat x, gFill := l.gFill.set n.toNat 0, poison := l.poison.filter (· != n.toNat) }

/-- Is the g register empty (R36)? g0 is always full. -/
def gEmpty (l : Lane) (n : BitVec 5) : Bool := n != 0 && l.gFill[n.toNat] != 0

/-- Mark a g register empty, awaiting a fill ticket (R36). -/
def emptyG (l : Lane) (n : BitVec 5) (t : Nat) : Lane :=
  if n = 0 then l else { l with gFill := l.gFill.set n.toNat t }

/-- Write a g register if it still awaits the ticket (R36). -/
def fillG (l : Lane) (n : BitVec 5) (t : Nat) (x : Word) : Lane :=
  if n != 0 && l.gFill[n.toNat] == t then wrG l n x else l

/-- Make a g register full with the value it keeps, if it awaits the ticket (R36). -/
def keepG (l : Lane) (n : BitVec 5) (t : Nat) : Lane :=
  if l.gFill[n.toNat] == t then { l with gFill := l.gFill.set n.toNat 0 } else l

/-- The value of a v register. -/
def rdV (l : Lane) (n : BitVec 5) : Vec := l.v[n.toNat]

/-- Write a v register and make it full (R36, R183). -/
def wrV (l : Lane) (n : BitVec 5) (x : Vec) : Lane :=
  { l with v := l.v.set n.toNat x, vFill := l.vFill.set n.toNat 0 }

/-- Is the v register empty? -/
def vEmpty (l : Lane) (n : BitVec 5) : Bool := l.vFill[n.toNat] != 0

/-- Mark a v register empty, awaiting a fill ticket. -/
def emptyV (l : Lane) (n : BitVec 5) (t : Nat) : Lane := { l with vFill := l.vFill.set n.toNat t }

/-- Write a v register if it still awaits the ticket. -/
def fillV (l : Lane) (n : BitVec 5) (t : Nat) (x : Vec) : Lane := if l.vFill[n.toNat] == t then wrV l n x else l

/-- Make a v register full with the value it keeps, if it awaits the ticket. -/
def keepV (l : Lane) (n : BitVec 5) (t : Nat) : Lane :=
  if l.vFill[n.toNat] == t then { l with vFill := l.vFill.set n.toNat 0 } else l

/-- The value of a mask register; m0 reads all ones (R33). -/
def rdM (l : Lane) (n : BitVec 3) : Mask := if n = 0 then BitVec.allOnes 128 else l.m[n.toNat]

/-- Write a mask register; m0 is never written (R34). -/
def wrM (l : Lane) (n : BitVec 3) (x : Mask) : Lane :=
  if n = 0 then l else { l with m := l.m.set n.toNat x, poison := l.poison.filter (· != 0x200 + n.toNat) }

/-- OR flags into ESTAT (R96). -/
def orFlags (l : Lane) (f : Fl) : Lane := { l with estat := estatOr l.estat f }

/-- The value of an h register; h0 reads 0 (R31). -/
def rdH (h : Head) (n : BitVec 4) : Word := if n = 0 then 0 else h.h[n.toNat]

/-- Write an h register; h0 discards (R31). -/
def wrH (h : Head) (n : BitVec 4) (x : Word) : Head :=
  if n = 0 then h else { h with h := h.h.set n.toNat x, poison := h.poison.filter (· != n.toNat) }

/-! Pool of a core (R163, R243, R260, R262). -/

/-- n bytes of a pool as a number. -/
def poolRdN (k : Core) (a n : Nat) : Nat := memRdN k.pool a n

/-- Write n bytes of a pool; a whole granule written loses its poison (R262). -/
def poolWrN (k : Core) (a n x : Nat) : Core :=
  let w := wholeGranules a n
  { k with pool := memWrN k.pool a n x, poolPoison := k.poolPoison.filter fun g => !isIn g w }

/-- The first poisoned granule that a pool range touches, as a pool address (R261). -/
def poolBad (k : Core) (a n : Nat) : Option Nat := ((granules a n).find? fun g => isIn g k.poolPoison).map (64 * ·)

/-- Mark granules of a pool poisoned. -/
def poolPoisonAdd (k : Core) (gs : List Nat) : Core :=
  { k with poolPoison := k.poolPoison ++ gs.filter fun g => !isIn g k.poolPoison }

/-- The strand's state at a core after fills; the pool granules of v registers that a fill wrote whole lose their poison
(R244, R262). -/
def setFilled (s : State) (r c sl : Nat) (l : Lane) : State :=
  let old := getLane s r c sl
  let s := setLane s r c sl l
  let k := getCore s (coreIx r c)
  if k.poolPoison.isEmpty then s
  else
    let pw := pwordOf s r
    let gs := ((upTo 32).filter fun n => old.vFill.toList.getD n 0 != 0 && l.vFill.toList.getD n 0 == 0).flatMap fun n =>
      wholeGranules (vregAddr pw sl n) 128
    modCore s (coreIx r c) fun k => { k with poolPoison := k.poolPoison.filter fun g => !isIn g gs }

/-- Constant word n of a core's window (R41, R50). -/
def constWord (k : Core) (n : Nat) : Word := BitVec.ofNat 64 (poolRdN k (8 * n) 8)

/-! System physical memory (R264). -/

/-- The regions of the system physical space (R264). -/
inductive Region | cellar | host | peer | reserved
  deriving DecidableEq, Repr

/-- The region of a physical address (R264). -/
def regionOf (pa : Nat) : Region :=
  if pa / 2 ^ 50 = 0 then .cellar else if pa / 2 ^ 50 = 1 then .host else if pa / 2 ^ 50 = 2 then .peer else .reserved

/-- The vault of a Cellar address (R247). -/
def vaultOf (pa : Nat) : Nat := pa / 2 ^ 29 % 512

/-- The bank of R220 of a Cellar address: 16 x LAYER + BANK (R247). -/
def bankOf (pa : Nat) : Nat := pa / 2 ^ 23 % 64

/-- ROW of a Cellar address (R247). -/
def rowField (pa : Nat) : Nat := pa / 2 ^ 11 % 4096

/-- Does a Cellar address lie in a Loft row (R256)? -/
def inLoft (s : State) (pa : Nat) : Bool := 4096 - 17 * s.loftF ≤ rowField pa

/-- Where mem lists a byte of a host address (R264, R344); host memory beyond the windows stands above the physical space. -/
def hostPa (bus : Nat) : Nat := if bus / 2 ^ 50 = 0 then 2 ^ 50 + bus else 2 ^ 52 + bus

/-- Where mem lists a byte of a bus address as the host's IOMMU translates it for a requester, 32 the physical function (R338).
DESIGN CHOICE: a page that the host has not mapped maps to itself, log 77. -/
def busAt (s : State) (rid bus : Nat) : Nat :=
  hostPa (tget s.iommu (2 ^ 52 * rid + bus / 4096) (bus / 4096) * 4096 + bus % 4096)

/-- Where mem lists a physical byte that a function's access names: a host window goes through the host's IOMMU (R338, R339). -/
def hostAt (s : State) (rid pa : Nat) : Nat := if regionOf pa = .host then busAt s rid (pa - 2 ^ 50) else pa

/-- The key of a key slot, if loaded. -/
def keyOf (s : State) (kid : Nat) : Option (BitVec 256) := (s.keys.find? (·.1 == kid)).map (·.2.key)

/-- Key of an access: that of its key slot where the page is ENC (R266). -/
def attrKey (s : State) (a : Attr) : Option (BitVec 256) := if a.enc then keyOf s a.kid else none

/-- The byte at a physical address as an access under an optional key reads it (R266, R340). -/
def physRd (s : State) (key : Option (BitVec 256)) (pa : Nat) : Byte :=
  let x := memRd s.mem pa
  let own := (s.memKeys.find? (·.1 == pa)).map (·.2)
  if own = key then x
  else
    let raw := match own with
      | some k => Config.cipher k pa x
      | none => x
    match key with
    | some k => Config.decipher k pa raw
    | none => raw

/-- Write a byte under an optional key. -/
def physWr (s : State) (key : Option (BitVec 256)) (pa : Nat) (x : Byte) : State :=
  { s with mem := memWr s.mem pa x,
           memKeys := match key with
             | some k => tput s.memKeys pa k
             | none => tdel s.memKeys pa }

/-- n bytes under a key as a number. -/
def physRdN (s : State) (key : Option (BitVec 256)) (pa : Nat) : Nat → Nat
  | 0 => 0
  | n + 1 => (physRd s key pa).toNat + 256 * physRdN s key (pa + 1) n

/-- Write n bytes under a key. -/
def physWrN (s : State) (key : Option (BitVec 256)) (pa : Nat) : Nat → Nat → State
  | 0, _ => s
  | n + 1, x => physWrN (physWr s key pa (BitVec.ofNat 8 x)) key (pa + 1) n (x / 256)

/-- The first poisoned granule that a physical range touches, as an address (R259, R261). -/
def physBad (s : State) (pa n : Nat) : Option Nat := ((granules pa n).find? fun g => isIn g s.memPoison).map (64 * ·)

/-- Remove the poison of granules written whole (R262). -/
def physHeal (s : State) (gs : List Nat) : State := { s with memPoison := s.memPoison.filter fun g => !isIn g gs }

/-- Poison granules (R259, R260). -/
def physPoison (s : State) (gs : List Nat) : State :=
  { s with memPoison := s.memPoison ++ gs.filter fun g => !isIn g s.memPoison }

/-! Translation (R263 to R272). -/

/-- The kinds of access a walk checks (R267). -/
structure Acc where
  r : Bool
  w : Bool
  x : Bool
  deriving DecidableEq, Repr

/-- A read. -/
def Acc.read : Acc := ⟨true, false, false⟩
/-- A write. -/
def Acc.write : Acc := ⟨false, true, false⟩
/-- A fetch. -/
def Acc.fetch : Acc := ⟨false, false, true⟩
/-- An AMO or CAS: both (R267). -/
def Acc.both : Acc := ⟨true, true, false⟩

/-- Lowest virtual-address bit that a level indexes, and its number of index bits (R265). -/
def levelBits (level : Nat) : Nat × Nat :=
  if level = 1 then (38, 10) else if level = 2 then (29, 9) else if level = 3 then (21, 8) else (16, 5)

/-- Is key slot kid loaded for a context (R387)? -/
def kidOk (s : State) (vf ctx kid : Nat) : Bool := s.keys.any fun p => p.1 == kid && p.2.vf == vf && p.2.ctx == ctx

/-- Is an entry malformed at a level (R265, R266, R267, R387)? -/
def pteBad (s : State) (vf ctx level pte : Nat) : Bool :=
  let b (i : Nat) : Bool := pte / 2 ^ i % 2 == 1
  let addr := pte / 2 ^ 8 % 2 ^ 44 * 256
  let leaf := b 1
  let kid := pte / 2 ^ 52 % 128
  let size := 2 ^ (levelBits level).1
  pte / 2 ^ 60 != 0 || b 59 ||
  (if leaf then
    level == 1 || addr % size != 0 || regionOf addr == .reserved ||
    (regionOf addr == .cellar && addr / 2 ^ 38 != 0) || (regionOf addr == .peer && addr / 2 ^ 38 % 4 != 0) ||
    (b 3 && !b 2) || (level == 2 && regionOf addr != .cellar) || (b 7 != (regionOf addr == .host)) ||
    ((b 6 || b 5) && regionOf addr != .cellar) || (!b 6 && kid != 0) || (b 6 && !kidOk s vf ctx kid) ||
    (isIn (vf, ctx) s.confidential && !b 6 && regionOf addr == .cellar)
  else
    let next := levelBits (level + 1)
    level == 4 || pte / 4 % 64 != 0 || kid != 0 || addr / 2 ^ 38 != 0 || addr % (8 * 2 ^ next.2) != 0)

/-- The four-level walk (R267): the leaf, or the cause of the failure. An entry in a poisoned granule fails the access with
cause POISON (R259: every later reader sees the poison; DESIGN CHOICE, log 68). An entry is read without a key: one written under
a key reads as its ciphertext (R266). Fuel is the number of levels left. -/
def walkFrom (s : State) (vf ctx va : Nat) : Nat → Nat → Nat → Except Cause TlbEntry
  | 0, _, _ => .error .xlateBad
  | n + 1, level, base =>
    let (lo, nb) := levelBits level
    let at_ := base + 8 * (va / 2 ^ lo % 2 ^ nb)
    let pte := physRdN s none at_ 8
    if (physBad s at_ 8).isSome then .error .poison
    else if pte % 2 = 0 then .error .xlateAbsent
    else if pteBad s vf ctx level pte then .error .xlateBad
    else
      let addr := pte / 2 ^ 8 % 2 ^ 44 * 256
      let b (i : Nat) : Bool := pte / 2 ^ i % 2 == 1
      if b 1 then
        .ok { vf := vf, ctx := ctx, page := va / 2 ^ lo * 2 ^ lo, size := 2 ^ lo, frame := addr, r := b 2, w := b 3,
              x := b 4, loft := b 59, attr := ⟨b 5, b 6, pte / 2 ^ 52 % 128, b 7⟩ }
      else walkFrom s vf ctx va n (level + 1) addr

/-- The physical address of the level-1 table of a context (R265, R343). -/
def rootOf (s : State) (vf ctx : Nat) : Nat := if h : ctx < 16 then (getVf s vf).croots[ctx].root * 8192 else 0

/-- Walk from a context's root. -/
def walk (s : State) (vf ctx va : Nat) : Except Cause TlbEntry := walkFrom s vf ctx va 4 1 (rootOf s vf ctx)

/-- A cached leaf of a TLB for an address (R268). -/
def tlbFind (tlb : List TlbEntry) (vf ctx va : Nat) : Option TlbEntry :=
  tlb.find? fun e => e.vf == vf && e.ctx == ctx && e.page ≤ va && va < e.page + e.size

/-- Permission and Loft checks of a leaf (R267): physical address and attributes, or the cause. -/
def leafCheck (s : State) (e : TlbEntry) (k : Acc) (va : Nat) : Except Cause (Nat × Attr) :=
  let pa := e.frame + (va - e.page)
  if (k.r && !e.r) || (k.w && !e.w) || (k.x && !e.x) then .error .xlatePerm
  else if regionOf pa == .cellar && inLoft s pa && !e.loft then .error .xlateAbsent
  else .ok (pa, e.attr)

/-- May a cached leaf still be used: its key slot is its context's, and a confidential context has no leaf of the Cellar without ENC
(R387)? -/
def leafKeyOk (s : State) (e : TlbEntry) : Bool :=
  (!e.attr.enc || kidOk s e.vf e.ctx e.attr.kid) &&
  !(isIn (e.vf, e.ctx) s.confidential && !e.attr.enc && regionOf e.frame == .cellar)

/-- The leaf of an address (R268, R270): cached, or as the walk that its access has joined found it to fail, or by a walk. fails: the
64 KiB pages of walks that the access waited for and that failed. -/
def leafOf (s : State) (fails : List (Nat × Cause)) (tlb : List TlbEntry) (vf ctx va : Nat) : Except Cause TlbEntry :=
  match tlbFind tlb vf ctx va with
  | some e => if leafKeyOk s e then .ok e else .error .xlateBad
  | none =>
    match fails.find? fun f => f.1 == va / 65536 with
    | some f => .error f.2
    | none => walk s vf ctx va

/-- Translate a 64-bit address (R263, R267, R268, R270): the leaf used, or the cause. -/
def xlateWith (s : State) (fails : List (Nat × Cause)) (tlb : List TlbEntry) (vf ctx : Nat) (k : Acc) (va : Word) :
    Except Cause (Nat × Attr × TlbEntry) :=
  if va.toNat / 2 ^ 48 != 0 then .error .xlateRange
  else
    match leafOf s fails tlb vf ctx va.toNat with
    | .error c => .error c
    | .ok e =>
      match leafCheck s e k va.toNat with
      | .error c => .error c
      | .ok (pa, a) => .ok (pa, a, e)

/-- Translate a 64-bit address through a TLB or a walk (R263, R267, R268). -/
def xlate (s : State) (tlb : List TlbEntry) (vf ctx : Nat) (k : Acc) (va : Word) : Except Cause (Nat × Attr × TlbEntry) :=
  xlateWith s [] tlb vf ctx k va

/-- A TLB with a leaf added, at most n entries (R268). -/
def tlbAdd (n : Nat) (e : TlbEntry) (tlb : List TlbEntry) : List TlbEntry := if isIn e tlb then tlb else (e :: tlb).take n

/-- Function and context of a row's job. -/
def ctxOf (s : State) (r : Nat) : Nat × Nat :=
  match rowJob s r with
  | some (_, j) => (j.vf, j.launch.ctx)
  | none => (0, 0)

/-- Translate at a core for the job of its row (R268), with the walks that the access waited for and that failed. -/
def laneXlateWith (s : State) (fails : List (Nat × Cause)) (r c : Nat) (k : Acc) (va : Word) : Except Cause (Nat × Attr × TlbEntry) :=
  let (vf, ctx) := ctxOf s r
  xlateWith s fails (getCore s (coreIx r c)).tlb vf ctx k va

/-- Translate at a core for the job of its row (R268). -/
def laneXlate (s : State) (r c : Nat) (k : Acc) (va : Word) : Except Cause (Nat × Attr × TlbEntry) := laneXlateWith s [] r c k va

/-- Translate at a row head (R268), with the walks that the access waited for and that failed. -/
def headXlateWith (s : State) (fails : List (Nat × Cause)) (r : Nat) (k : Acc) (va : Word) : Except Cause (Nat × Attr × TlbEntry) :=
  let (vf, ctx) := ctxOf s r
  xlateWith s fails (getRow s r).itlb vf ctx k va

/-- Translate at a row head (R268). -/
def headXlate (s : State) (r : Nat) (k : Acc) (va : Word) : Except Cause (Nat × Attr × TlbEntry) := headXlateWith s [] r k va

/-- The offset, below size, of the first byte of an access that lies on the page after its first page. -/
def pageSplit (va size : Nat) : Nat := if va / 65536 = (va + size - 1) / 65536 then size else 65536 - va % 65536

/-- The offsets of the active 4-byte elements among bytes lo to hi - 1 of a vector access (R161). -/
def activeOffs (mask : BitVec 32) (lo hi : Nat) : List Nat :=
  ((upTo 32).filter fun j => mask.getLsbD j && lo ≤ 4 * j && 4 * j < hi).map (4 * ·)

/-- Translate the bytes lo to hi - 1 of a vector access, on one page: the leaf is found at the first active element, and the checks of
R267 are made at each, since the last rows of a frame may be Loft rows; the lowest failing address is reported (R272). A piece
without an active element is not translated. -/
def pieceXlate (s : State) (fails : List (Nat × Cause)) (r c : Nat) (k : Acc) (va : Word) (mask : BitVec 32) (lo hi : Nat) :
    Except (Cause × Word) (List (Nat × Nat) × Option Attr × List TlbEntry) :=
  if lo = hi then .ok ([], none, [])
  else
    match activeOffs mask lo hi with
    | [] => .ok ([(0, hi - lo)], none, [])
    | o :: os =>
      match laneXlateWith s fails r c k (va + BitVec.ofNat 64 o) with
      | .error x => .error (x, va + BitVec.ofNat 64 o)
      | .ok (pa, a, e) =>
        let bad := os.findSome? fun o => match leafCheck s e k (va + BitVec.ofNat 64 o).toNat with
          | .error x => some (x, va + BitVec.ofNat 64 o)
          | .ok _ => none
        match bad with
        | some x => .error x
        | none => .ok ([(pa - (o - lo), hi - lo)], some a, [e])

/-- Translate the bytes of an access, page by page (R272): the pieces in order, the attributes of the first and of the second,
the leaves; or the cause and the lowest failing address. -/
def spanXlateWith (s : State) (fails : List (Nat × Cause)) (r c : Nat) (k : Acc) (va : Word) (size : Nat) (mask : BitVec 32) :
    Except (Cause × Word) (List (Nat × Nat) × Attr × Attr × List TlbEntry) :=
  if size ≤ 8 then
    match laneXlateWith s fails r c k va with
    | .error x => .error (x, va)
    | .ok (pa, a, e) => .ok ([(pa, size)], a, a, [e])
  else
    let n := pageSplit va.toNat size
    match pieceXlate s fails r c k va mask 0 n, pieceXlate s fails r c k va mask n size with
    | .error x, _ => .error x
    | _, .error x => .error x
    | .ok (p, a, e), .ok (q, b, f) =>
      let none_ : Attr := ⟨false, false, 0, false⟩
      .ok (p ++ q, a.getD (b.getD none_), b.getD (a.getD none_), e ++ f)

/-- Translate the bytes of an access that has waited for no walk (R272). -/
def spanXlate (s : State) (r c : Nat) (k : Acc) (va : Word) (size : Nat) (mask : BitVec 32) :
    Except (Cause × Word) (List (Nat × Nat) × Attr × Attr × List TlbEntry) :=
  spanXlateWith s [] r c k va size mask

/-- Physical address of byte o of an access. -/
def segPa (segs : List (Nat × Nat)) (o : Nat) : Nat :=
  match segs with
  | [] => 0
  | (pa, n) :: r => if o < n then pa + o else segPa r (o - n)

end Sys2Proof.Machine
end

