-- ==== Sys2Proof/Machine/Rings.lean ====
section
/-! DEFINITION. Rings as byte streams over pool stages (R39, R205, R245). -/

namespace Sys2Proof.Machine

/-- Stage size (R205). -/
def Ring.z (q : Ring) : Nat := if q.ssz then 512 else 16384

/-- Is the ring configured? -/
def Ring.on (q : Ring) : Bool := q.scnt != 0

/-- Bytes of the stream written without a gap. -/
def Ring.written (q : Ring) : Nat := q.holes.foldl (fun m h => min m h.1) q.reserved

/-- FCNT: complete stages that follow HEAD without a gap (R205). -/
def Ring.fcnt (q : Ring) : Nat := if q.on then min (q.written / q.z - q.popped) q.scnt else 0

/-- HEAD (R39). -/
def Ring.head (q : Ring) : Nat := if q.on then q.popped % q.scnt else 0

/-- TAIL: the stage of the reservation cursor (R39, R205). -/
def Ring.tail (q : Ring) : Nat := if q.on then q.reserved / q.z % q.scnt else 0

/-- FILL: byte of the reservation cursor in its stage. -/
def Ring.fill (q : Ring) : Nat := if q.on then q.reserved % q.z else 0

/-- The descriptor in the layout of R39. -/
def Ring.word (q : Ring) : Word :=
  BitVec.ofNat 64 (q.base % 2 ^ 21 + (if q.ssz then 2 ^ 21 else 0) + 2 ^ 22 * q.scnt + 2 ^ 27 * q.head + 2 ^ 31 * q.tail +
    2 ^ 35 * q.fill + 2 ^ 49 * q.fcnt)

/-- Is there room for n more bytes (R205 step 2)? -/
def Ring.room (q : Ring) (n : Nat) : Bool := q.reserved + n ≤ (q.popped + q.scnt) * q.z

/-- Reserve the next n bytes of the stream (R205 step 1): the ring and the position. -/
def Ring.reserve (q : Ring) (n : Nat) : Ring × Nat :=
  ({ q with holes := if n = 0 then q.holes else q.holes ++ [(q.reserved, n)], reserved := q.reserved + n }, q.reserved)

/-- The holes with a written range taken out. -/
def holesCut (lo n : Nat) (hs : List (Nat × Nat)) : List (Nat × Nat) :=
  hs.flatMap fun h =>
    let a := if h.1 < lo then [(h.1, min h.2 (lo - h.1))] else []
    let b := if lo + n < h.1 + h.2 then [(max h.1 (lo + n), h.1 + h.2 - max h.1 (lo + n))] else []
    a ++ b

/-- The ring with a range of its stream written. -/
def Ring.wrote (q : Ring) (x n : Nat) : Ring := { q with holes := holesCut x n q.holes }

/-- Pool address of a stream position (R205). -/
def Ring.addr (q : Ring) (x : Nat) : Nat := q.base + q.z * (if q.on then x / q.z % q.scnt else 0) + x % q.z

/-- The pieces of n stream bytes from a position that lie in one stage each (R205): pool address, offset in the bytes, length. n is at
most the stage size. -/
def Ring.pieces (q : Ring) (x n : Nat) : List (Nat × Nat × Nat) :=
  let m := min n (q.z - x % q.z)
  [(q.addr x, 0, m)] ++ if m < n then [(q.addr (x + m), m, n - m)] else []

/-- Write n bytes at a stream position into the stages of the ring (R205). -/
def ringPut (k : Core) (q : Ring) (x n v : Nat) : Core :=
  (q.pieces x n).foldl (fun k p => poolWrN k p.1 p.2.2 (v / 2 ^ (8 * p.2.1))) k

/-- n bytes at a stream position that a poisoned source leaves poisoned (R261). -/
def ringSpoil (k : Core) (q : Ring) (x n : Nat) : Core :=
  (q.pieces x n).foldl (fun k p =>
    poolPoisonAdd { k with pool := memWrN k.pool p.1 p.2.2 0 } (granules p.1 p.2.2)) k

/-- May the byte at a stream position be written now (R205 step 2)? -/
def Ring.open (q : Ring) (x n : Nat) : Bool := x + n ≤ (q.popped + q.scnt) * q.z

/-- The ring with its head stage popped (R205 step 4). -/
def Ring.pop (q : Ring) : Ring := { q with popped := q.popped + 1 }

/-- Pool address of the head stage. -/
def Ring.headAddr (q : Ring) : Nat := q.base + q.z * q.head

/-- A ring of a strand at a core. -/
def ringOf (l : Lane) (n : Nat) : Ring := if h : n < 8 then l.rings[n] else Ring.reset

/-- Set a ring. -/
def setRing (l : Lane) (n : Nat) (q : Ring) : Lane := { l with rings := l.rings.setIfInBounds n q }

/-- Does an MMA of a format pair its rings with scale or zero-point rings (R245)? -/
def pairs : PressFmt → Bool
  | .d8s | .z8 => true
  | _ => false

/-- Does a Press command of a strand name a ring as operand, scale or zero-point ring (R206)? -/
def cmdUses (c : PressCmd) (n : Nat) : Bool :=
  match c.op with
  | .mma _ fmt qa qb _ => qa == n || qb == n || (pairs fmt && (qa + 1 == n || qb + 1 == n))
  | _ => false

end Sys2Proof.Machine
end

