-- ==== Sys2Proof/Machine/Press.lean ====
section
/-! DEFINITION. The arithmetic of a Press step (R104 to R112) and the effect of a step or command that retires (R211, R214). -/

namespace Sys2Proof.Machine

/-! Operand rows (R104, R107, R211). -/

/-- Element values of a 256-byte operand row of a floating format (R101, R107). -/
def rowVals (fmt : PressFmt) (row : Nat) : List Val :=
  match fmt with
  | .bf16 => (upTo 128).map fun k => Fmt.bf16.decode (row / 2 ^ (16 * k) % 2 ^ 16)
  | .f16 => (upTo 128).map fun k => Fmt.f16.decode (row / 2 ^ (16 * k) % 2 ^ 16)
  | _ => (upTo 256).map fun k => d8Decode (row / 2 ^ (8 * k) % 256)

/-- Element values of a row of an integer format; Z8 takes the zero points of its blocks off (R106). -/
def rowInts (fmt : PressFmt) (row : Nat) (zs : List Nat) : List Int :=
  (upTo 256).map fun k =>
    let e : Nat := row / 2 ^ (8 * k) % 256
    match fmt with
    | .z8 => (e : Int) - zs.getD (k / 32) 0
    | _ => sext e 8

/-- Elements of a block (R107). -/
def blockLen (fmt : PressFmt) : Nat :=
  match fmt with
  | .bf16 | .f16 => 16
  | .b1 => 256
  | _ => 32

/-- A block of a list. -/
def blockOf (n b : Nat) (l : List α) : List α := (l.drop (n * b)).take n

/-! One step on one element (R105, R108 to R111). -/

/-- Exact sum of the products of a block; a NaN sum sets IV once (R108). -/
def blockSum : List Val → List Val → Val → Val
  | a :: as, b :: bs, acc => blockSum as bs (vadd false acc (vmul a b).1).1
  | _, _, acc => acc

/-- Is a value finite? -/
def Val.finite : Val → Bool
  | .num _ => true
  | _ => false

/-- The exact product of a block sum and two finite scales; a zero is +0 (R105). -/
def scaleSum (x sa sb : Val) : Val :=
  let y := (vmul (vmul x sa).1 sb).1
  if y.isZero then .dyadic false 0 0 else y

/-- The block result of D8S (R105). -/
def blockScaled (as bs : List Val) (sa sb : Val) : Val :=
  let x := blockSum as bs (.dyadic false 0 0)
  let sign := sa.neg != (sb.neg != x.neg)
  if sa.isNan || sb.isNan then .nan false
  else if sa.isZero || sb.isZero then (if (as ++ bs).all Val.finite then .dyadic false 0 0 else .nan false)
  else if !sa.finite || !sb.finite then (if x.isNan || x.isZero then .nan false else .inf sign)
  else scaleSum x sa sb

/-- acc := RoundF32(acc + block, RNE), the block's NaN setting IV (R108). -/
def accumF (acc : Nat) (block : Val) : Nat × Fl :=
  let (v, f) := vadd false (Fmt.f32.decode acc) block
  let (p, g) := Fmt.f32.round .rne v
  (p, f ||| g ||| Fl.when block.isNan Fl.iv)

/-- One element of PressStepPt on a floating format (R108). -/
def stepPtF (fmt : PressFmt) (c : Nat) (as bs : List Val) (sa sb : List Nat) : Nat × Fl :=
  let n := blockLen fmt
  (upTo 8).foldl (fun (st : Nat × Fl) b =>
    let x := blockOf n b as
    let y := blockOf n b bs
    let block := match fmt with
      | .d8s => blockScaled x y (d8Decode (sa.getD b 0)) (d8Decode (sb.getD b 0))
      | _ => blockSum x y (.dyadic false 0 0)
    let (p, f) := accumF st.1 block
    (p, st.2 ||| f)) (c, 0)

/-- acc := acc + sum modulo 2^32, OF outside the I32 range (R109). -/
def accumI (acc : Nat) (sum : Int) : Nat × Fl :=
  let x := sext acc 32 + sum
  (wrap x 32, Fl.when (decide (x < -2147483648) || decide (2147483647 < x)) Fl.of)

/-- One element of MMA.pt on an integer format (R109). -/
def stepPtI (c : Nat) (as bs : List Int) : Nat × Fl :=
  (upTo 8).foldl (fun (st : Nat × Fl) b =>
    let sum := (List.zipWith (· * ·) (blockOf 32 b as) (blockOf 32 b bs)).foldl (· + ·) 0
    let (p, f) := accumI st.1 sum
    (p, st.2 ||| f)) (c, 0)

/-- Count of ones of the low n bits. -/
def onesOf (x n : Nat) : Nat := (upTo n).countP fun i => x / 2 ^ i % 2 == 1

/-- One element of MMA.pt on B1 (R110). -/
def stepPtB (c a b : Nat) : Nat × Fl :=
  (upTo 8).foldl (fun (st : Nat × Fl) k =>
    let (p, f) := accumI st.1 (onesOf ((a &&& b) / 2 ^ (256 * k) % 2 ^ 256) 256)
    (p, st.2 ||| f)) (c, 0)

/-- One element of MMA.oa (R110). -/
def stepOa (c a b : Nat) : Nat := if c != 0 || (a &&& b) != 0 then 1 else 0

/-- One element of the tropical semirings (R111): every term rounded, its flags kept, then applied exactly; a NaN sticks
with IV. -/
def stepTrop (sr : Semiring) (c : Nat) (as bs : List Val) : Nat × Fl :=
  (List.zip as bs).foldl (fun (st : Nat × Fl) ab =>
    let (v, _) := match sr with
      | .xt => vmul ab.1 ab.2
      | _ => vadd false ab.1 ab.2
    let acc := Fmt.f32.decode st.1
    let (t, f) := Fmt.f32.round .rne v
    if v.isNan || acc.isNan then (Fmt.f32.nanPat, st.2 ||| f ||| Fl.iv)
    else
      let tv := Fmt.f32.decode t
      let keep := match sr with
        | .mp => !(tv.ltz acc)
        | _ => !(acc.ltz tv)
      (if keep then st.1 else t, st.2 ||| f)) (c, 0)

/-! One step on a tile. -/

/-- The 8 scales or zero points of an operand row (R104). -/
def stageScales (k : Core) (a i : Nat) : List Nat := (upTo 8).map fun b => poolRdN k (a + 8 * i + b) 1

/-- New elements of a tile row, from its 64 old ones, and the flags. -/
def tileRow (f : Nat → Nat → Nat × Fl) (old : List Nat) : List Nat × Fl :=
  let r := (old.zipIdx).map fun p => f p.2 p.1
  (r.map (·.1), r.foldl (fun fl p => fl ||| p.2) 0)

/-- The step of MMA on tile element (i, j), with the operand rows and scales of i and j. -/
def pressElem (sr : Semiring) (fmt : PressFmt) (av bv : List (List Val)) (ai bi : List (List Int)) (ar br : List Nat)
    (sa sb : List (List Nat)) (i j c : Nat) : Nat × Fl :=
  match sr with
  | .oa => (stepOa c (ar.getD i 0) (br.getD j 0), 0)
  | .pt =>
    match fmt with
    | .b1 => stepPtB c (ar.getD i 0) (br.getD j 0)
    | .i8 | .z8 => stepPtI c (ai.getD i []) (bi.getD j [])
    | _ => stepPtF fmt c (av.getD i []) (bv.getD j []) (sa.getD i []) (sb.getD j [])
  | _ => stepTrop sr c (av.getD i []) (bv.getD j [])

/-- What a step reads in its first cycle: the scale stages at sa and sb (R300). -/
def readScales (k : Core) (fmt : PressFmt) (sa sb : Nat) : StepRead :=
  let zs (p : Nat) : List (List Nat) := if pairs fmt then (upTo 64).map (stageScales k p) else []
  ⟨[], [], zs sa, zs sb⟩

/-- Rows i of the stages at a and b read, up to row n - 1: in cycle i of the step (R300). Fuel: the rows. -/
def readRows (k : Core) (a b n : Nat) : Nat → StepRead → StepRead
  | 0, x => x
  | m + 1, x =>
    let i := x.a.length
    if n ≤ i then x
    else readRows k a b n m { x with a := x.a ++ [poolRdN k (a + 256 * i) 256], b := x.b ++ [poolRdN k (b + 256 * i) 256] }

/-- One MMA step on the tile at pool address t, with the rows and scales that it has read: the core and the flags (R211). -/
def pressStep (k : Core) (sr : Semiring) (fmt : PressFmt) (t : Nat) (x : StepRead) : Core × Fl :=
  let ar := x.a
  let br := x.b
  let za := x.sa
  let zb := x.sb
  let flt := fmt != .b1 && fmt != .i8 && fmt != .z8
  let int := fmt == .i8 || fmt == .z8
  let vals (r : List Nat) : List (List Val) := if flt then r.map (rowVals fmt) else []
  let ints (r : List Nat) (z : List (List Nat)) : List (List Int) :=
    if int then (r.zipIdx).map fun p => rowInts fmt p.1 (z.getD p.2 []) else []
  let av := vals ar
  let bv := vals br
  let ai := ints ar za
  let bi := ints br zb
  (upTo 64).foldl (fun (st : Core × Fl) i =>
    let row := poolRdN k (t + 256 * i) 256
    let old := (upTo 64).map fun j => row / 2 ^ (32 * j) % 2 ^ 32
    let (new, f) := tileRow (fun j c => pressElem sr fmt av bv ai bi ar br za zb i j c) old
    (poolWrN st.1 (t + 256 * i) 256 (new.foldr (fun x acc => x % 2 ^ 32 + 2 ^ 32 * acc) 0), st.2 ||| f)) (k, 0)

/-! Steps in the queue. -/

/-- The first poisoned granule that a command's next step reads: its stages, then its tile (R218, R261). -/
def pressPoison (s : State) (r c : Nat) (cmd : PressCmd) : Option Nat :=
  let k := getCore s (coreIx r c)
  if k.poolPoison.isEmpty then none
  else
    match cmd.op with
    | .mma _ fmt qa qb _ =>
      let l := getLane s r c cmd.strand
      let stage (n : Nat) : Option Nat := poolBad k (ringOf l n).headAddr (ringOf l n).z
      let scale (n : Nat) : Option Nat := if pairs fmt then stage (n + 1) else none
      ((stage qa).orElse fun _ => (stage qb).orElse fun _ => (scale qa).orElse fun _ => scale qb).orElse fun _ =>
        poolBad k (tileAddr (pwordOf s r) cmd.tile) 16384
    | _ => none

/-- The rings of a strand after a step has consumed their head stages (R205 step 4, R211, R245). -/
def popRings (l : Lane) (fmt : PressFmt) (qa qb : Nat) : Lane :=
  let one (n : Nat) (l : Lane) : Lane :=
    let l := setRing l n { (ringOf l n).pop with paired := (ringOf l n).paired + if pairs fmt then 1 else 0 }
    if pairs fmt then setRing l (n + 1) (ringOf l (n + 1)).pop else l
  if qa = qb then one qa l else one qb (one qa l)

/-- The rows of the running step that its core has read by a cycle of the step (R300). -/
def pressReads (s : State) (r c n : Nat) : State :=
  let k := getCore s (coreIx r c)
  match k.press, k.running with
  | cmd :: _, some _ =>
    match cmd.op with
    | .mma _ _ qa qb _ =>
      let l := getLane s r c cmd.strand
      let x := readRows k (ringOf l qa).headAddr (ringOf l qb).headAddr (min n 64) 64 k.stepRead
      if x.a.length = k.stepRead.a.length then s else modCore s (coreIx r c) fun k => { k with stepRead := x }
    | _ => s
  | _, _ => s

/-- The reads of MDRAINs begin whose commands have all retired (R215). -/
def startDrains (s : State) (r c sl : Nat) : State :=
  let k := getCore s (coreIx r c)
  let l := getLane s r c sl
  if l.drains.isEmpty then s
  else setLane s r c sl { l with drains := l.drains.map fun d =>
    if d.begun.isNone && d.after.all fun n => !(k.press.any fun q => q.num == n) then
      { d with begun := some (getRow s r).cycle } else d }

/-- A command whose step has run to its end, at the front of the queue: its effect, its flags, its stages popped (R211, R214). A
step that met a poisoned granule has no effect. -/
def pressApply (s : State) (r c : Nat) (cmd : PressCmd) (rest : List PressCmd) : State :=
  let core := coreIx r c
  let tile := tileAddr (pwordOf s r) cmd.tile
  let l := getLane s r c cmd.strand
  match cmd.op with
  | .mzero => startDrains (modCore s core fun k => { poolWrN k tile 16384 0 with press := rest, running := none }) r c cmd.strand
  | .mload i lo hi =>
    startDrains (modCore s core fun k =>
      { poolWrN (poolWrN k (tile + 256 * i) 128 lo.toNat) (tile + 256 * i + 128) 128 hi.toNat with
        press := rest, running := none }) r c cmd.strand
  | .mma sr fmt qa qb rep =>
    let s := pressReads s r c 64
    let (k, f) := pressStep (getCore s core) sr fmt tile (getCore s core).stepRead
    let press := if rep ≤ 1 then rest else { cmd with op := .mma sr fmt qa qb (rep - 1) } :: rest
    let s := modCore s core fun _ => { k with press := press, running := none, stepRead := ⟨[], [], [], []⟩ }
    startDrains (setLane s r c cmd.strand (orFlags { popRings l fmt qa qb with pressDone := l.pressDone + 1 } f)) r c cmd.strand

/-- Let the running step of a core retire now where it belongs to a strand of the list, which has been stopped (R301). DESIGN CHOICE: the
rows that it has not read yet are read in that instant, not each in its cycle of R300, log 78; a pre-emption waits for the step instead
(R302). -/
def pressSettle (s : State) (r c : Nat) (slots : List Nat) : State :=
  let k := getCore s (coreIx r c)
  match k.press, k.running with
  | cmd :: rest, some _ => if isIn cmd.strand slots && (pressPoison s r c cmd).isNone then pressApply s r c cmd rest else s
  | _, _ => s

end Sys2Proof.Machine
end

