-- ==== Sys2Proof/Machine/Atomic.lean ====
section
/-! DEFINITION. The values of the reductions (R172, R174, R233) and the hold store of DET pages (R372). -/

namespace Sys2Proof.Machine

/-- The new value of an AMO or RED operation on n-byte patterns (R172). -/
def amoNew (op : AmoOp) (n old b : Nat) : Nat :=
  let w := 8 * n
  match op with
  | .add => (old + b) % 2 ^ w
  | .and => old &&& b
  | .or => old ||| b
  | .xor => old ^^^ b
  | .min => if sext old w ≤ sext b w then old else b
  | .max => if sext b w ≤ sext old w then old else b
  | .minn => if old ≤ b then old else b
  | .maxn => if b ≤ old then old else b
  | .swap => b
  | .fadd => (Fmt.f32.round .rne (vadd false (Fmt.f32.decode old) (Fmt.f32.decode b)).1).1

/-- Element size of a CRED format (R233). -/
def credSize : CredFmt → Nat
  | .bf16 => 2
  | _ => 4

/-- The new element of a CRED (R233). -/
def credNew (op : RedOp) (fmt : CredFmt) (old y : Nat) : Nat :=
  let flt (f : Fmt) : Nat :=
    let z := match op with
      | .add => (vadd false (f.decode old) (f.decode y)).1
      | .min => (vmin (f.decode old) (f.decode y)).1
      | .max => (vmax (f.decode old) (f.decode y)).1
    (f.round .rne z).1
  match fmt with
  | .f32 => flt .f32
  | .bf16 => flt .bf16
  | .i32 =>
    match op with
    | .add => (old + y) % 2 ^ 32
    | .min => if sext old 32 ≤ sext y 32 then old else y
    | .max => if sext y 32 ≤ sext old 32 then old else y

/-- Is the key (address, task, sequence, column) of a held element before another's (R372)? -/
def heldBefore (a b : Held) : Bool :=
  a.addr < b.addr || (a.addr == b.addr && (a.task < b.task || (a.task == b.task && (a.seq < b.seq ||
    (a.seq == b.seq && a.col < b.col)))))

/-- Insert a held element in key order. -/
def heldIns (h : Held) : List Held → List Held
  | [] => [h]
  | g :: r => if heldBefore h g then h :: g :: r else g :: heldIns h r

/-- Apply one held element: a single step at its location; a poisoned granule is left as it is (R262). -/
def heldStep (s : State) (h : Held) : State :=
  if (physBad s h.addr h.size).isSome then s
  else
    let old := physRdN s h.key h.addr h.size
    let b := h.data.toNat % 2 ^ (8 * h.size)
    physWrN s h.key h.addr h.size (match h.op with
      | .inl op => amoNew op h.size old b
      | .inr (op, fmt) => credNew op fmt old b)

/-- Apply the held elements of the tasks of a partition in key order, and remove them (R372). -/
def applyHeld (s : State) (part : Nat) (tasks : List Nat) : State :=
  let mine (h : Held) : Bool := h.part == part && isIn h.task tasks
  let all := s.cores.foldl (fun l p => (p.2.hold.filter mine).foldl (fun l h => heldIns h l) l) []
  if all.isEmpty then s
  else
    let s := { s with cores := s.cores.map fun p => (p.1, { p.2 with hold := p.2.hold.filter fun h => !mine h }) }
    all.foldl heldStep s

end Sys2Proof.Machine
end

