-- ==== Sys2Proof/Machine/Tree.lean ====
section
/-! DEFINITION. The mesh and the bridges (R331, R332, R335): routers and their links, the path of a packet, and the tree of a
multicast tag (R307). A router is numbered by the code of R333, die in bits 9:8 and physical core in bits 7:0. -/

namespace Sys2Proof.Machine

/-! Routers and links (R331, R335). -/

/-- The router of a physical column and row of a die: 17 columns, 9 rows (R331, R41). -/
def routerAt (die x y : Nat) : Nat := 256 * die + 17 * y + x

/-- The router of a device core. -/
def routerOf (core : Nat) : Nat := 256 * dieOf core + (Config.physCore core).toNat

/-- Physical column of a router. -/
def routerX (r : Nat) : Nat := r % 256 % 17

/-- Physical row of a router. -/
def routerY (r : Nat) : Nat := r % 256 / 17

/-- The link that a channel belongs to, by one name for its two directions (R331, R335): neighbours share a link, two dies a bridge; the
skip channels are one-way. -/
def linkOf : Chan → Chan
  | .mesh die x y .west => if x = 0 then .mesh die x y .west else .mesh die (x - 1) y .east
  | .mesh die x y .north => if y = 0 then .mesh die x y .north else .mesh die x (y - 1) .south
  | .bridge a b => .bridge (min a b) (max a b)
  | c => c

/-- The errors of a link; none at first (R334). -/
def getMesh (s : State) (c : Chan) : MeshLink :=
  match s.mesh.find? (·.1 == linkOf c) with
  | some p => p.2
  | none => ⟨[], [], 0, false, false⟩

/-- Set what is known of a link. -/
def setMesh (s : State) (c : Chan) (m : MeshLink) : State := { s with mesh := (linkOf c, m) :: s.mesh.filter (·.1 != linkOf c) }

/-- The channels that leave a router within its die, each with the router behind it (R331). -/
def outLinks (r : Nat) : List (Chan × Nat) :=
  let die := r / 256
  let x := routerX r
  let y := routerY r
  (if x + 1 < 17 then [(.mesh die x y .east, routerAt die (x + 1) y)] else []) ++
  (if 0 < x then [(.mesh die x y .west, routerAt die (x - 1) y)] else []) ++
  (if y + 1 < 9 then [(.mesh die x y .south, routerAt die x (y + 1))] else []) ++
  (if 0 < y then [(.mesh die x y .north, routerAt die x (y - 1))] else []) ++
  (if x + 4 < 17 then [(.mesh die x y .skipEast, routerAt die (x + 4) y)] else []) ++
  (if 4 ≤ x then [(.mesh die x y .skipWest, routerAt die (x - 4) y)] else [])

/-- Has a router lost every link that leaves it, so that it is retired (R334)? -/
def routerRetired (s : State) (r : Nat) : Bool := !s.mesh.isEmpty && (outLinks r).all fun h => (getMesh s h.1).retired

/-- The neighbour of a die across its east-west bridge, and across its north-south bridge (R335). -/
def dieEw (die : Nat) : Nat := die / 2 * 2 + (1 - die % 2)
/-- See dieEw. -/
def dieNs (die : Nat) : Nat := (die + 2) % 4

/-- The router at which a die's bridge to a neighbour stands. DESIGN CHOICE: in the middle of the edge that faces it, log 76. -/
def bridgeRouter (die peer : Nat) : Nat :=
  if peer = dieEw die then routerAt die (if die % 2 = 0 then 16 else 0) 4 else routerAt die 8 (if die < 2 then 8 else 0)

/-! Paths (R332, R335). -/

/-- The row leg from column x to column tx: a skip channel while 4 or more columns are to go, where skips are used; fuel is the
number of columns. -/
def rowLeg (skip : Bool) (die y : Nat) : Nat → Nat → Nat → List (Chan × Nat)
  | 0, _, _ => []
  | n + 1, x, tx =>
    if x = tx then []
    else if x < tx then
      if skip && x + 4 ≤ tx then (.mesh die x y .skipEast, routerAt die (x + 4) y) :: rowLeg skip die y n (x + 4) tx
      else (.mesh die x y .east, routerAt die (x + 1) y) :: rowLeg skip die y n (x + 1) tx
    else if skip && tx + 4 ≤ x then (.mesh die x y .skipWest, routerAt die (x - 4) y) :: rowLeg skip die y n (x - 4) tx
    else (.mesh die x y .west, routerAt die (x - 1) y) :: rowLeg skip die y n (x - 1) tx

/-- The column leg from row y to row ty. -/
def colLeg (die x : Nat) : Nat → Nat → Nat → List (Chan × Nat)
  | 0, _, _ => []
  | n + 1, y, ty =>
    if y = ty then []
    else if y < ty then (.mesh die x y .south, routerAt die x (y + 1)) :: colLeg die x n (y + 1) ty
    else (.mesh die x y .north, routerAt die x (y - 1)) :: colLeg die x n (y - 1) ty

/-- Is no link of a path retired? -/
def pathUp (s : State) (p : List (Chan × Nat)) : Bool := p.all fun h => !(getMesh s h.1).retired

/-- A step of the search for a way around retired links: the ways, last hop first, that go one hop further to a router not seen yet. -/
def wider (s : State) : List (List (Chan × Nat)) → List Nat → List (List (Chan × Nat)) → List (List (Chan × Nat)) × List Nat
  | [], seen, acc => (acc, seen)
  | w :: ws, seen, acc =>
    let from_ := (w.headD (.gararo 0, 0)).2
    let fresh := (outLinks from_).filter fun h => !(getMesh s h.1).retired && !isIn h.2 seen
    wider s ws (seen ++ fresh.map (·.2)) (acc ++ fresh.map fun h => h :: w)

/-- A shortest way around retired links to a router of a die, where there is one; fuel is the number of its hops. -/
def around (s : State) (b : Nat) : Nat → List (List (Chan × Nat)) → List Nat → Option (List (Chan × Nat))
  | 0, _, _ => none
  | n + 1, ways, seen =>
    let (ways, seen) := wider s ways seen []
    match ways.find? fun w => (w.headD (.gararo 0, 0)).2 == b with
    | some w => some w.reverse
    | none => around s b n ways seen

/-- The path between two routers of a die: by dimension order; where a link of it is retired, a shortest way around.
DESIGN CHOICE: the detour, log 76. -/
def dieLeg (s : State) (a b : Nat) : List (Chan × Nat) :=
  let die := a / 256
  let first := rowLeg true die (routerY a) 17 (routerX a) (routerX b) ++ colLeg die (routerX b) 9 (routerY a) (routerY b)
  if pathUp s first then first else ((around s b 153 [[(.gararo 0, a)]] [a]).map (·.drop 1)).getD first

/-- The dies that a packet passes after its source: over the bridge that joins the two, or, to the diagonal die, the east-west
bridge first; then the other way round the square (R335). -/
def diePaths (a b : Nat) : List (List Nat) :=
  if a = b then [[]]
  else if b = dieEw a then [[b], [dieNs a, dieNs b, b]]
  else if b = dieNs a then [[b], [dieEw a, dieEw b, b]]
  else [[dieEw a, b], [dieNs a, b]]

/-- Are the bridges of a way over dies not retired? -/
def bridgesUp (s : State) : Nat → List Nat → Bool
  | _, [] => true
  | a, b :: r => !(getMesh s (.bridge a b)).retired && bridgesUp s b r

/-- The path from a router over dies to a router. -/
def dieRoute (s : State) (a b : Nat) : List Nat → List (Chan × Nat)
  | [] => dieLeg s a b
  | d :: r =>
    let die := a / 256
    dieLeg s a (bridgeRouter die d) ++ (.bridge die d, bridgeRouter d die) :: dieRoute s (bridgeRouter d die) b r

/-- The links that a packet from one router to another crosses, each with the router behind it (R332, R335). -/
def pathOf (s : State) (a b : Nat) : List (Chan × Nat) :=
  let ways := diePaths (a / 256) (b / 256)
  dieRoute s a b ((ways.find? (bridgesUp s (a / 256))).getD (ways.headD []))

/-! Partitions. -/

/-- Rows of a partition from its SIZE code (R350). -/
def partRows (p : Part) : Nat := 4 * 2 ^ p.size

/-! The tree of a multicast tag (R307). -/

/-- The port of a router that leads to its own core; the other ports are numbered by the router behind them. -/
def corePort (core : Nat) : Nat := 1024 + core

/-- Dies of a partition: the first, and their number (R291). -/
def partDies (s : State) (p : Nat) : Nat × Nat :=
  let x := getPart s p
  (dieOfRow x.first, (x.first + partRows x - 1) / 8 - x.first / 8 + 1)

/-- The router of the die root of a die for a partition: that of its first row there, at column 0 (R278, R291). -/
def rootRouter (s : State) (p die : Nat) : Nat := routerOf (coreIx (max (getPart s p).first (8 * die)) 0)

/-- The router of the home of a number in a partition: of the die root of die n mod d of its d dies (R291, R307). -/
def homeRoot (s : State) (p n : Nat) : Nat := let (d0, d) := partDies s p; rootRouter s p (d0 + n % d)

/-- The rendezvous router of a tag in a partition (R307). -/
def rendezvous (s : State) (p : Nat) (tag : BitVec 16) : Nat := homeRoot s p tag.toNat

/-- The router at which a row head's packets enter and leave: that of column 0 of its row. DESIGN CHOICE, log 76. -/
def headRouter (row : Nat) : Nat := routerOf (coreIx row 0)

/-- The ports whose bit is set in a router's bitmap for a tag. -/
def portsOf (s : State) (p : Nat) (tag : BitVec 16) (router : Nat) : List Nat :=
  (s.tree.filter fun t => t.1 == p && t.2.1 == tag && t.2.2.1 == router).map (·.2.2.2)

/-- Can packets cross a way now: no link of it is retired or in training (R334, R335)? -/
def wayOpen (s : State) (p : List (Chan × Nat)) : Bool := p.all fun h => !(getMesh s h.1).retired && !(getMesh s h.1).train

/-- Can a packet reach one router from another now (R334, R335)? -/
def routeOpen (s : State) (a b : Nat) : Bool :=
  s.mesh.isEmpty || (!routerRetired s a && !routerRetired s b && wayOpen s (pathOf s a b))

/-- The routers from a core's to the rendezvous, each with the port at which a packet from the core arrives. DESIGN CHOICE: R307 does not say
what becomes of a tag's tree when a link of a branch is retired: the bits stay, a replica goes around the link (R334), and a later prune
clears the bits along the path of its own time, log 95. -/
def branchOf (s : State) (p : Nat) (tag : BitVec 16) (core : Nat) : List (Nat × Nat) :=
  let path := pathOf s (routerOf core) (rendezvous s p tag)
  let routers := routerOf core :: path.map (·.2)
  routers.zip (corePort core :: routers)

/-- A join sets its bit at each router up to the first that had one set. -/
def joinTree (s : State) (p : Nat) (tag : BitVec 16) : List (Nat × Nat) → State
  | [] => s
  | (router, port) :: r =>
    let old := portsOf s p tag router
    let s := if isIn port old then s else { s with tree := s.tree ++ [(p, tag, router, port)] }
    if old.isEmpty then joinTree s p tag r else s

/-- A prune clears its bit and goes on upstream while the bitmap that it leaves is zero. -/
def pruneTree (s : State) (p : Nat) (tag : BitVec 16) : List (Nat × Nat) → State
  | [] => s
  | (router, port) :: r =>
    let s := { s with tree := s.tree.filter (· != (p, tag, router, port)) }
    if (portsOf s p tag router).isEmpty then pruneTree s p tag r else s

/-- A source's next packet number (R333). -/
def numberAt (s : State) (code : Nat) : State × BitVec 8 :=
  let n := tget s.pkts code 0
  ({ s with pkts := tput s.pkts code (n + 1) }, BitVec.ofNat 8 n)

/-- A packet leaves a source (R333). -/
def newPkt (s : State) (code : Nat) : State × Pkt :=
  let (s, n) := numberAt s code
  (s, { Pkt.new with num := n })

/-- A core's subscription to a tag is entered in the routers. -/
def subscribe (s : State) (p core : Nat) (tag : BitVec 16) : State :=
  let s := joinTree s p tag (branchOf s p tag core)
  { s with subs := if isIn (p, tag, core) s.subs then s.subs else s.subs ++ [(p, tag, core)] }

/-- A core's subscription to a tag is taken out of the routers. -/
def unsubscribe (s : State) (p core : Nat) (tag : BitVec 16) : State :=
  if isIn (p, tag, core) s.subs then
    { pruneTree s p tag (branchOf s p tag core) with subs := s.subs.filter (· != (p, tag, core)) }
  else s

/-- Partition of a core's row. -/
def corePart (s : State) (core : Nat) : Nat := (getRow s (core / 16)).part.getD 0

/-- The way of a join or prune (R307): from its core toward the rendezvous, and the acknowledgement back. -/
def joinWay (s : State) (j : Join) : List (Chan × Nat) :=
  let a := routerOf j.core
  let b := rendezvous s (corePart s j.core) j.tag
  pathOf s a b ++ pathOf s b a

/-- The first join or prune of a core and tag under way, where it can be acknowledged: it has not been dropped (R334), its way is open,
and its bound has not run out (R336). -/
def joinTurn (s : State) (core : Nat) (tag : BitVec 16) (join : Bool) : Option Join :=
  (s.joins.find? fun j => j.core == core && j.tag == tag).filter fun j =>
    j.join == join && !j.pkt.lost && s.now < j.since + 4000 && routeOpen s (routerOf core) (rendezvous s (corePart s core) tag)

/-- A join reaches the first router already subscribed, which acknowledges (R307). -/
def joinDone (s : State) (core : Nat) (tag : BitVec 16) : State :=
  match joinTurn s core tag true with
  | some j => subscribe { s with joins := s.joins.filter fun k => k.id != j.id } (corePart s core) core tag
  | none => s

/-- A prune has cleared the branch (R307). -/
def pruneDone (s : State) (core : Nat) (tag : BitVec 16) : State :=
  match joinTurn s core tag false with
  | some j => unsubscribe { s with joins := s.joins.filter fun k => k.id != j.id } (corePart s core) core tag
  | none => s

/-- Every subscription of a row's cores ends with its team, acknowledged or under way (R309). -/
def leaveTags (s : State) (r : Nat) : State :=
  let s := { s with joins := s.joins.filter fun j => j.core / 16 != r }
  (s.subs.filter fun t => t.2.2 / 16 == r).foldl (fun s t => unsubscribe s t.1 t.2.2 t.2.1) s

end Sys2Proof.Machine
end

