-- ==== Sys2Proof/Machine/Teams.lean ====
section
/-! DEFINITION. Teams of a row: their tasks, the choice of the next team and the first placement (R16, R17, R279 to R281, R286
to R288, R294). -/

namespace Sys2Proof.Machine

/-- Partition row of a device row (R18). -/
def partRow (s : State) (r : Nat) : Nat :=
  match (getRow s r).part with
  | some p => r - (getPart s p).first
  | none => r

/-- Teams of a job (R279). -/
def teamCount (l : Launch) : Nat := (l.size + strandCount l.pword - 1) / strandCount l.pword

/-- Tasks of a team (R279). -/
def teamSize (l : Launch) (t : Nat) : Nat := min (strandCount l.pword * t + strandCount l.pword) l.size - strandCount l.pword * t

/-- The team range of a row (R280). -/
def rowTeams (s : State) (r : Nat) : List Nat :=
  match rowJob s r with
  | none => []
  | some (p, j) =>
    let n := partRows (getPart s p)
    let k := partRow s r
    (upTo ((teamCount j.launch + n - 1 - k) / n)).map fun i => k + n * i

/-- The save places of a row taken by images (R287). -/
def placesUsed (s : State) (r : Nat) : List Nat := (getRow s r).images.map (·.place)

/-- The lowest free save place of a row: Loft frames, then spill images (R287). -/
def freePlace (s : State) (r : Nat) : Option Nat :=
  let n := s.loftF + match rowJob s r with
    | some (_, j) => j.launch.spillN
    | none => 0
  (upTo n).find? fun i => !isIn i (placesUsed s r)

/-- May a team be made resident next: it has not ended, and under SEQ it has started, or the resident team has ended, or a save
place is free (R286, R288)? -/
def mayAdmit (s : State) (r t : Nat) : Bool :=
  let x := getRow s r
  let seq := match rowJob s r with
    | some (_, j) => j.launch.seqOk
    | none => false
  !isIn t x.ended && (!seq || isIn t x.started || x.resident.isNone || (freePlace s r).isSome)

/-- The next team of a row, in cyclic order after a team (R286). -/
def nextTeam (s : State) (r : Nat) (after : Option Nat) : Option Nat :=
  let ts := rowTeams s r
  let later := match after with
    | some a => ts.filter (a < ·) ++ ts.filter (· ≤ a)
    | none => ts
  later.find? (mayAdmit s r)

/-- The virtual address of a task's pending mailbox record (R294). -/
def mboxVa (j : Job) (n : Nat) : Word := j.launch.mbox + BitVec.ofNat 64 (128 * n)

/-- The physical place of a task's pending mailbox record (R294). -/
def mboxPlace (s : State) (j : Job) (n : Nat) : Option (Nat × Attr) :=
  if j.launch.mbox = 0 then none
  else
    match xlate s [] j.vf j.launch.ctx .both (mboxVa j n) with
    | .ok (pa, a, _) => some (hostAt s j.vf pa, a)
    | .error _ => none

/-- Does a task's pending record lie in a poisoned granule (R259)? -/
def mboxBad (s : State) (j : Job) (n : Nat) : Bool :=
  match mboxPlace s j n with
  | none => false
  | some (pa, _) => (physBad s pa 128).isSome

/-- The tokens of a task's pending record, oldest first (R294). -/
def mboxTokens (s : State) (j : Job) (n : Nat) : List Word :=
  match mboxPlace s j n with
  | none => []
  | some (pa, a) =>
    let k := attrKey s a
    (upTo (min (physRdN s k pa 8) 8)).map fun i => BitVec.ofNat 64 (physRdN s k (pa + 8 + 8 * i) 8)

/-- Write a task's pending record (R294). -/
def mboxPut (s : State) (j : Job) (n : Nat) (tokens : List Word) : State :=
  match mboxPlace s j n with
  | none => s
  | some (pa, a) =>
    let k := attrKey s a
    let s := physHeal (physWrN s k pa 8 tokens.length) [pa / 64, pa / 64 + 1]
    (upTo 15).foldl (fun s i => physWrN s k (pa + 8 + 8 * i) 8 ((tokens.getD i 0).toNat)) s

/-- The tokens that a task finds at its first placement, and the event of a poisoned record (R259, R261, R294). DESIGN CHOICE, log 83:
its tokens are lost, and the task takes POISON at its first instruction. -/
def firstMail (s : State) (j : Job) (n : Nat) : List Word × List (Cause × Word × Bool) :=
  if mboxBad s j n then ([], [(.poison, mboxVa j n, false)]) else (mboxTokens s j n, [])

/-- The head state of a task placed for the first time (R17, R281). -/
def firstHead (l : Launch) (n cycle : Nat) (mail : List Word) : Head :=
  let w (x : Nat) : Word := BitVec.ofNat 64 x
  { Head.reset with
    task := some n, pc := l.pc.setWidth 48,
    h := (Vector.replicate 16 0).set 1 (w n) |>.set 2 (w (n % l.gridx)) |>.set 3 (w (n / l.gridx)) |>.set 4 l.arg
      |>.set 5 (w l.size),
    mailbox := mail, regpc := l.pc &&& 0x0000FFFFFFFFFFFC, placedAt := cycle }

/-- Write one granule of an HPUT into its row (R255, R261). -/
def hputGranule (p : HPut) (k : Core) (s : State) (i : Nat) : State :=
  let a := p.off + 64 * i
  let pa := p.row + 64 * i
  if (poolBad k a 64).isSome then physPoison s [pa / 64]
  else physHeal (physWrN s p.key pa 64 (poolRdN k a 64)) [pa / 64]

/-- Write the row of an HPUT from the pool as it stands (R255). -/
def hputWrite (core : Nat) (s : State) (p : HPut) : State := (upTo 32).foldl (hputGranule p (getCore s core)) s

/-- Complete what a stopped team has posted at a core before its pool goes to the next team (R223, R356). -/
def settleHputs (s : State) (core : Nat) : State :=
  modCore ((getCore s core).hputs.foldl (hputWrite core) s) core fun k =>
    { k with hputs := [], transfers := [], opens := k.opens.filter fun
      | .slot _ => true
      | .put _ => false }

/-- A core at the first placement of a team (R281): barriers at the team's count, the pool from 0x800 up cleared with its
poison. -/
def firstCore (tasks : Nat) (k : Core) : Core :=
  let n := min (constWord k 230).toNat tasks
  { k with pool := memClear k.pool 0x800 (2 ^ 21), poolPoison := k.poolPoison.filter (· < 32), match_ := [],
           bars := Vector.replicate 32 ⟨n, 0, 0, []⟩ }

/-- Place a team for the first time (R281): every task that has not been ended (R142) in its slot, the other slots empty; a new
slice starts. -/
def placeTeam (s : State) (r t : Nat) : State :=
  match rowJob s r with
  | none => s
  | some (_, j) =>
    let n := teamSize j.launch t
    let s := forCols (fun s c =>
      forSlots (fun s sl => setLane s r c sl Lane.reset) (modCore (settleHputs s (coreIx r c)) (coreIx r c) (firstCore n))) s
    let s := forSlots (fun s sl =>
      let task := strandCount j.launch.pword * t + sl
      if sl < n && !(j.ended.any fun p => p.1 == task) then
        let (mail, events) := firstMail s j task
        setHead (if mail.isEmpty && events.isEmpty then s else mboxPut s j task []) r sl
          { firstHead j.launch task (getRow s r).cycle mail with events := events }
      else setHead s r sl Head.reset) s
    modRow s r fun x =>
      { x with phase := .placed, resident := some t, started := if isIn t x.started then x.started else x.started ++ [t],
               sliceAt := s.now, next := none }

/-- Make a team resident on a free row: placed at once, or restored by TEAM_RESTORE (R286). -/
def admitTeam (s : State) (r t : Nat) : State :=
  if isIn t (getRow s r).started then modRow s r fun x => { x with phase := .restore, next := some t }
  else placeTeam s r t

/-- Are the slots of a row all empty? -/
def rowEmpty (s : State) (r : Nat) : Bool := (upTo 8).all fun sl => (getHead s r sl).task.isNone

/-- When the last task of the resident team has ended, the team has ended and the next one follows at once (R286). -/
def teamCheck (s : State) (r : Nat) : State :=
  let x := getRow s r
  if x.phase == .placed && rowEmpty s r then
    match x.resident with
    | none => s
    | some t =>
      let s := modRow (leaveTags s r) r fun x => { x with ended := x.ended ++ [t], resident := none, phase := .loaded }
      match nextTeam s r (some t) with
      | some u => admitTeam s r u
      | none => s
  else s

end Sys2Proof.Machine
end

