-- ==== Sys2Proof/Machine/Ops.lean ====
section
/-! DEFINITION. Regions and the program counter, the rewind, the end of a task, taking a trap and returning from one. -/

namespace Sys2Proof.Machine

/-! Regions, loop state and the program counter. -/

/-- The address of the strand's next instruction, that of its PX where one has been read (R70). -/
def instrAddr (h : Head) : VAddr := if h.pend.isSome then h.pc - 4 else h.pc

/-- A 48-bit address as a register value. -/
def wordOfAddr (a : VAddr) : Word := a.setWidth 64

/-- The address part of a CSR that holds one (R146). -/
def addrOfWord (w : Word) : VAddr := w.setWidth 48

/-- An address CSR value: bits 1:0 and 63:48 read as 0 (R146). -/
def csrAddr (w : Word) : Word := w &&& 0x0000FFFFFFFFFFFC

/-- The loop ends: LOOPC is written with 0, and its poison is gone (R125, R364). -/
def endLoop (h : Head) : Head := { h with loopc := 0, poison := h.poison.filter (· != 0x810) }

/-- Go on to the sequential successor, with the loop-back of R125. -/
def seqNext (h : Head) : Head :=
  let nx := h.pc + 4
  if !h.handler && h.loopc != 0 && wordOfAddr nx == h.loope then
    if 1 < h.loopc.toNat then { h with pc := addrOfWord h.loops, loopc := h.loopc - 1, pend := none, skipBreak := none }
    else { endLoop h with pc := nx, pend := none, skipBreak := none }
  else { h with pc := nx, pend := none, skipBreak := none }

/-- Go on at a jump target; a target outside the loop body ends the loop (R125). -/
def jumpTo (h : Head) (t : VAddr) : Head :=
  if !h.handler && h.loopc != 0 && !(h.loops.toNat ≤ t.toNat && t.toNat < h.loope.toNat) then
    { endLoop h with pc := t, pend := none, skipBreak := none }
  else { h with pc := t, pend := none, skipBreak := none }

/-- The poisoned head registers once a region has opened (R364): REGPC is written, and each register of the loop snapshot is
poisoned as the one that it copies is. DESIGN CHOICE, log 79. -/
def snapPoison (l : List Nat) : List Nat :=
  l.filter (fun n => !(n == 0x805 || n == 0x813 || n == 0x814 || n == 0x815)) ++
    (l.filter fun n => n == 0x810 || n == 0x811 || n == 0x812).map (· + 3)

/-- The poisoned head registers once the loop state has been written from the snapshot (R29, R364): each is poisoned as the register
that it copies is. DESIGN CHOICE, log 79. -/
def unsnapPoison (l : List Nat) : List Nat :=
  l.filter (fun n => !(n == 0x810 || n == 0x811 || n == 0x812)) ++
    (l.filter fun n => n == 0x813 || n == 0x814 || n == 0x815).map (· - 3)

/-- Open a region at the next instruction: REGPC and the loop snapshot (R119, R127, R134). -/
def openRegion (h : Head) : Head :=
  { h with region := h.region + 1, regpc := wordOfAddr h.pc, rloopc := h.loopc, rloops := h.loops, rloope := h.loope,
           poison := snapPoison h.poison }

/-- The head's wait ends and a step is due in step mode (R375). -/
def finishHead (h : Head) : Head :=
  { h with wait := .no, why := 0, stepDue := h.stepMode && !h.handler }

/-- OR of the strand's flags over the sixteen cores (R147). -/
def rowFlags (s : State) (r sl : Nat) : BitVec 5 :=
  (upTo 16).foldl (fun f c => f ||| ((getLane s r c sl).estat.setWidth 5)) 0

/-- Refresh FSUM (R147). -/
def refreshFsum (s : State) (r sl : Nat) : State := modHead s r sl fun h => { h with fsum := rowFlags s r sl }

/-! Rewind (R29, R359). -/

/-- Is it a request of a strand at a column whose fill the rewind cancels (R36): a load, AMO or CAS of the discarded region (the
accepted ones are of an earlier one, R165) or a landing load of any region (R171)? -/
def reqCancelled (r c sl region : Nat) (q : Req) : Bool :=
  q.row == r && q.col == c && q.strand == sl &&
  (q.kind == .landing || ((q.kind == .load || q.kind == .amo || q.kind == .cas) && q.region == region))

/-- Does a ticket survive the rewind at a column: an accepted AMO or CAS, a load or MDRAIN of an earlier region? -/
def ticketLives (s : State) (r c sl : Nat) (l : Lane) (t : Nat) : Bool :=
  (s.reqs.any fun q => q.row == r && q.col == c && q.strand == sl &&
    (match q.dest with
     | .g _ u => u == t
     | .v _ u => u == t
     | _ => false)) || l.drains.any fun d => d.ticket == t

/-- The fill tickets of a lane with every dead one made full (R36). -/
def dropFills (alive : Nat → Bool) (l : Lane) : Lane :=
  { l with gFill := l.gFill.map fun t => if t != 0 && alive t then t else 0,
           vFill := l.vFill.map fun t => if t != 0 && alive t then t else 0 }

/-- Is a pending trap one of a landing set (R168)? -/
def landEvent (e : MEvent) : Bool := e.at_.isSome && (e.cause == .landFault || e.cause == .poison)

/-- Does a pending trap survive the rewind of a region: a machine event, and the trap of a refused access of a region that has ended,
which no replay raises again (R357, R371)? -/
def eventLives (region : Nat) (e : MEvent) : Bool := !landEvent e && e.at_.all fun a => a.region != region

/-- The misses of a strand's accesses that wait for walks are gone; the walks go on (R270). -/
def dropWalks (mine : WalkPlace → Bool) (s : State) : State :=
  { s with walks := (s.walks.filter fun w => !(mine w.place && w.done.isSome)).map fun w =>
      if mine w.place then { w with gone := true } else w }

/-- Is it a miss of an access of a strand, at a core or at its head? -/
def strandWalk (r sl : Nat) : WalkPlace → Bool
  | .core a _ b => a == r && b == sl
  | .head a b => a == r && b == sl
  | .fetch a b => a == r && b == sl
  | .copy _ _ _ _ => false

/-- Is it a miss of a copy of a strand? -/
def copyWalk (r sl : Nat) : WalkPlace → Bool
  | .copy a _ b _ => a == r && b == sl
  | _ => false

/-- Rewind at one column: landing sets emptied, fills of the discarded region cancelled, arrivals marked (R36, R171, R180). -/
def rewindCol (r sl region : Nat) (s : State) (c : Nat) : State :=
  let s := { s with reqs := s.reqs.map fun q => if reqCancelled r c sl region q then { q with dest := .no } else q }
  let s := modCore s (coreIx r c) fun k => { k with slotQ := k.slotQ.filter fun w => w.strand != sl }
  modLane s r c sl fun l =>
    let l := { l with land := [], claims := [], drains := l.drains.filter fun d => d.region != region,
                      events := l.events.filter (eventLives region),
                      arrivals := l.arrivals.map fun p => (p.1, { p.2 with rewound := true }) }
    dropFills (ticketLives s r c sl l) l

/-- Rewind a strand to REGPC (R29, R359): queued lane instructions are gone, registers stay. -/
def rewind (s : State) (r sl : Nat) : State :=
  let region := (getHead s r sl).region
  let s := dropWalks (strandWalk r sl) (forCols (rewindCol r sl region) s)
  modHead s r sl fun h =>
    { h with pc := addrOfWord h.regpc, loopc := h.rloopc, loops := h.rloops, loope := h.rloope, tailQ := [], flights := [],
             commit := none, pend := none, pp := false, pxs := 0, wait := .no, why := 0, poison := unsnapPoison h.poison }

/-! Ending a task (R133, R142, R296, R356). -/

/-- Status word of one ended task (R296): exit code, count 1, and an error bit. -/
def statusWord (code : Nat) (errBit : Nat) : Word := BitVec.ofNat 64 (code % 65536 + 65536 + (if errBit = 0 then 0 else 2 ^ errBit))

/-- Combination of two status words (R297). -/
def statusJoin (a b : Word) : Word :=
  BitVec.ofNat 64 (max (bits a 0 16) (bits b 0 16) + 65536 * ((bits a 16 25 + bits b 16 25) % 2 ^ 25))
    ||| ((a ||| b) &&& 0xFFFFFE0000000000)

/-- The row of a task of a partition's job (R279). -/
def taskRow (s : State) (p task : Nat) : Nat :=
  let k := match (getPart s p).job with
    | some j => strandCount j.launch.pword
    | none => 1
  (getPart s p).first + task / k % partRows (getPart s p)

/-- The routers between which a message travels: row heads, the home of a group, the root of a dispenser's die (R141, R291 to R293). -/
def msgEnds (s : State) : Msg → Nat × Nat
  | .arrive p g _ row _ _ _ => (headRouter row, homeRoot s p g)
  | .done p g task _ _ _ => (homeRoot s p g, headRouter (taskRow s p task))
  | .lower p g task => (headRouter (taskRow s p task), homeRoot s p g)
  | .token p row _ _ toTask _ => (headRouter row, headRouter (taskRow s p toTask.toNat))
  | .tile p row _ die _ _ => (headRouter row, rootRouter s p die)

/-- Add a message to the fabric. -/
def sendMsg (s : State) (m : Msg) : State :=
  let (s, pkt) := newPkt s (msgEnds s m).1
  { s with msgs := tput s.msgs s.fresh m, msgAt := tput s.msgAt s.fresh s.now, msgPkt := tput s.msgPkt s.fresh pkt,
           fresh := s.fresh + 1 }

/-- Take a message out of the fabric. -/
def dropMsg (s : State) (id : Nat) : State :=
  { s with msgs := tdel s.msgs id, msgAt := tdel s.msgAt id, msgPkt := tdel s.msgPkt id, reached := tdel s.reached id }

/-- Lower the member counts of every group a task belongs to (R291). -/
def leaveGroups (s : State) (p task : Nat) : State :=
  match (getPart s p).job with
  | none => s
  | some j => j.groups.foldl (fun s g => if isIn task g.2.members then sendMsg s (.lower p g.1 task) else s) s

/-- Close the rows of a strand's Hatch slots at a core and free them (R133). -/
def freeHatch (sl : Nat) (k : Core) : Core :=
  let mine (h : HatchSlot) : Bool := h.st != .free && h.owner == sl
  { k with
    opens := k.opens.filter fun
      | .slot n => !(if h : n < 4 then mine k.hatch[n] else false)
      | .put _ => true
    hatch := k.hatch.map fun h => if mine h then ⟨.free, 0, 0, none, none, false⟩ else h }

/-- Remove a strand's queued Press commands at a core, its running step retiring first, in that instant (R301). DESIGN CHOICE, log 78. -/
def dropPress (s : State) (r c sl : Nat) : State :=
  startDrains (modCore (pressSettle s r c [sl]) (coreIx r c) fun k =>
    let front := match k.press with
      | q :: _ => q.strand == sl
      | [] => true
    { k with press := k.press.filter fun q => q.strand != sl,
             running := if front then none else k.running,
             stepRead := if front then ⟨[], [], [], []⟩ else k.stepRead }) r c sl

/-- Remove a strand's copies that are not fully injected (R142, R356). -/
def dropCopies (sl : Nat) (k : Core) : Core :=
  { k with chans := k.chans.map fun q => q.filter fun c => c.strand != sl }

/-- The number that stands for no task: what an ended task left on its way carries it. -/
def noTask : Nat := 2 ^ 24

/-- Does an older store of its strand that is recorded, or reported and not retried yet, hold back a release at its core (R324, R361)? A
record of task level holds back none of handler level. -/
def recordHolds (s : State) (q : Req) : Bool :=
  q.col < 16 &&
  let l := getLane s q.row q.col q.strand
  (l.recs ++ l.retry).any fun rec => (rec.handler || !q.handler) && rec.kind != .copy && rec.id < q.id

/-- Is a request a release that is parked at its core, held back by a record? It is saved with the team, and with its task, which discards
the record, it goes unperformed (R324, R361). DEDUCED, log 17. -/
def parked (s : State) (q : Req) : Bool :=
  q.rel && (match q.st with
   | .held | .probing _ => true
   | _ => false) && recordHolds s q

/-- Does a handler leave a release of task level aside, which is parked until it returns? Neither its instructions nor its accesses wait
for it. DEDUCED, log 17. -/
def setAside (s : State) (handler : Bool) (q : Req) : Bool := handler && !q.handler && parked s q

/-- End the task placed in a slot with a status word (R133 step 4, R296): groups left, landing slots freed, Hatch slots
freed, parked releases dropped, held DET elements applied (R372), mailbox discarded, slot free; the row goes on to its next team where this was the last
task of the resident one (R286). -/
def endTask (s : State) (r sl : Nat) (status : Word) : State :=
  let h := getHead s r sl
  match h.task, rowJob s r with
  | some t, some (p, _) =>
    let s := leaveGroups { s with reqs := s.reqs.filter fun q => !(q.row == r && q.strand == sl && parked s q) } p t
    let s := forCols (fun s c =>
      let s := modCore s (coreIx r c) fun k =>
        { freeHatch sl k with slotQ := k.slotQ.filter fun w => w.strand != sl,
                              issued := k.issued.map fun q => if q.strand = sl then { q with task := noTask } else q }
      modLane s r c sl fun l => { l with land := [], claims := [], recs := [], retry := [], events := [], drains := [], dropped := 0 }) s
    let s := { s with reqs := s.reqs.map fun q =>
      if q.row == r && q.strand == sl then { q with dest := .no, task := noTask } else q }
    let s := dropWalks (strandWalk r sl) s
    let s := modJob s p fun j => { j with ended := tput j.ended t status }
    let s := applyHeld s p [t]
    let s := modHead s r sl fun h =>
      { h with task := none, mailbox := [], flights := [], commit := none, pend := none, wait := .no, why := 0 }
    teamCheck s r
  | _, _ => modHead s r sl fun h => { h with task := none, flights := [], commit := none, pend := none, wait := .no }

/-- Stop a strand (R356): its Press commands and uninjected copies go, its task ends with an error bit. -/
def stopStrand (s : State) (r sl : Nat) (errBit : Nat) : State :=
  let s := dropWalks (copyWalk r sl) (forCols (fun s c => modCore (dropPress s r c sl) (coreIx r c) (dropCopies sl)) s)
  endTask s r sl (statusWord 0 errBit)

/-! Taking a trap (R353 to R358). -/

/-- The code of a cause (R354); COPY.MCAST occurs only in records. -/
def Cause.code : Cause → Nat
  | .illegal => 0x0001 | .fetchTarget => 0x0002 | .bkpt => 0x0003 | .break => 0x0004 | .step => 0x0005 | .svc => 0x0006
  | .trap => 0x0007 | .tileNone => 0x0008 | .publishHost => 0x0009 | .groupMember => 0x000A | .groupMixed => 0x000B
  | .memAlign => 0x0101 | .xlateRange => 0x0102 | .xlateAbsent => 0x0103 | .xlateBad => 0x0104 | .xlatePerm => 0x0105
  | .empty => 0x0201 | .iv => 0x0202 | .poolBound => 0x0203 | .hatchAlign => 0x0204 | .hatchVault => 0x0205
  | .hatchOwner => 0x0206 | .hatchBusy => 0x0207 | .hatchBank => 0x0208 | .hatchNorow => 0x0209 | .hatchClosed => 0x020A
  | .ringCfg => 0x020B | .ringBusy => 0x020C | .pressRow => 0x020D | .copyArg => 0x020E | .copyTable => 0x020F
  | .barCount => 0x0210 | .detAmo => 0x0211 | .watch => 0x0212 | .landFault => 0x0301 | .storeFault => 0x0401
  | .poison => 0x0501 | .delivery => 0x0502 | .hstoreFault => 0x0503 | .copyMcast => 0

/-- TCAUSE for a cause and a column, 31 for the head (R148). -/
def tcauseWord (c : Cause) (col : Nat) : Word := BitVec.ofNat 64 (c.code + 65536 * col)

/-- Does the cause trigger an armed halt (R379, R380)? Bits BKPT, BREAK, STEP, WATCH, any other. -/
def armedBy (causes : BitVec 5) (c : Cause) : Bool :=
  match c with
  | .bkpt => causes.getLsbD 0
  | .break => causes.getLsbD 1
  | .step => causes.getLsbD 2
  | .watch => causes.getLsbD 3
  | _ => causes.getLsbD 4

/-- Put n bytes of a trace record at the trace pointer (R382), through the host's IOMMU for the physical function (R338). A record that
misses its bound is dropped, and TRPTR does not count it. DESIGN CHOICE on TRPTR, log 87. -/
def traceWrite (s : State) (words : List Word) : State :=
  let d := s.dbg
  if d.trsize.toNat = 0 then s
  else if d.drops ≠ 0 then { s with dbg := { d with drops := d.drops - 1 } }
  else
    let n := 8 * words.length
    let o := d.trptr % d.trsize.toNat
    let pad := if d.trsize.toNat < o + n then d.trsize.toNat - o else 0
    let at_ := if pad = 0 then o else 0
    let base := d.trbase.toNat + at_
    let s := (words.zipIdx).foldl (fun s p => physWrN s none (busAt s 32 (base + 8 * p.2)) 8 p.1.toNat) s
    { s with dbg := { d with trptr := d.trptr + pad + n, wrap := d.wrap || pad != 0 } }

/-- The class of a trap as a confidential context's record shows it (R388): the group of its cause, and CORE 31 beside a group whose
causes are of class P where the head traps, of class L at a core. DESIGN CHOICE, log 89. -/
def classWord (tcause : Word) : Word :=
  (tcause &&& 0xF00) ||| if (tcause &&& 0xF00).toNat ≤ 0x100 && (tcause &&& 0x1F0000) == 0x1F0000 then 0x1F0000 else 0

/-- The trace record of a trap entry (R381); a confidential context shows class, slot and time only, ROW among the fields that read
as 0 (R388). -/
def traceTrap (s : State) (r sl : Nat) (h : Head) : State :=
  if s.dbg.tren && s.dbg.traps then
    let hide := isIn (ctxOf s r) s.confidential
    traceWrite s [BitVec.ofNat 64 s.now, if hide then 0 else h.tpc,
      (if hide then classWord h.tcause else h.tcause &&& 0x1FFFFF) ||| BitVec.ofNat 64 (sl * 2 ^ 24 + if hide then 0 else r * 2 ^ 27),
      if hide then 0 else h.tval]
  else s

/-- Halt a row (R380); trigger names the strand whose handler entry did it, and which goes on. A halt of another kind stops every
strand. -/
def haltRow (s : State) (r : Nat) (trigger : Option Nat) : State :=
  modRow s r fun x => { x with halted := true, haltBy := if x.halted && trigger.isSome then x.haltBy else trigger }

/-- Is a strand stopped by a halt of its row (R380)? -/
def haltStops (s : State) (r sl : Nat) : Bool := let x := getRow s r; x.halted && x.haltBy != some sl

/-- TCAUSE, TVAL and TPC are written: their poison is gone (R364). -/
def trapPoison (l : List Nat) : List Nat := l.filter fun n => !(n == 0x802 || n == 0x803 || n == 0x804)

/-- The traps that lose to one that is taken are discarded, but for machine events (R357). -/
def dropTraps (l : Lane) : Lane := { l with events := l.events.filter (·.at_.isNone) }

/-- What a trap leaves of a strand at a column: it waits for no landing slot, and its traps that lose are discarded (R355, R357). -/
def trapCol (r sl : Nat) (s : State) (c : Nat) : State :=
  let s := modCore s (coreIx r c) fun k => { k with slotQ := k.slotQ.filter fun w => w.strand != sl }
  modLane s r c sl dropTraps

/-- Take a trap (R355): stop the strand, record TCAUSE, TVAL and TPC, enter the handler at TVEC at handler level with FSUM
refreshed. A trap at handler level or with TVEC = 0 stops the strand instead (R356). A poisoned TVEC (R364) stops it too: its read
is a second trap. DESIGN CHOICE, log 79. col is 31 for the head. -/
def takeTrap (s : State) (r sl : Nat) (c : Cause) (col : Nat) (tval : Word) (tpc : VAddr) : State :=
  let h := getHead s r sl
  if h.handler || h.tvec = 0 || isIn 0x801 h.poison then stopStrand s r sl 41
  else
    let s := dropWalks (strandWalk r sl) (forCols (trapCol r sl) s)
    let h := { h with flights := [], commit := none, pend := none, wait := .no, why := 0, stepDue := false, skipBreak := none,
                      tcause := tcauseWord c col, tval := tval, tpc := wordOfAddr tpc, handler := true,
                      fsum := rowFlags s r sl, pc := addrOfWord h.tvec, poison := trapPoison h.poison }
    let s := setHead s r sl h
    let s := traceTrap s r sl h
    let x := getRow s r
    if x.arm && armedBy x.causes c then haltRow s r (some sl) else s

/-- The pending trap of the earliest instruction among those before a place of the strand's program order, the lowest core of two
(R357): the core, the trap. A place is the row cycle of an issue and a column. -/
def earliestTrap (s : State) (r sl issue col : Nat) : Option (Nat × MEvent × TrapAt) :=
  let handler := (getHead s r sl).handler
  let all := (upTo 16).flatMap fun c => (getLane s r c sl).events.filterMap fun e =>
    (e.at_.filter fun a => (!handler || e.handler) && (a.issue < issue || (a.issue == issue && c < col))).map fun a => (c, e, a)
  all.foldl (fun b p => if b.any fun q => q.2.2.issue ≤ p.2.2.issue then b else some p) none

/-- Take a trap at a place of the strand's program order, or the pending one of an earlier place, which is the one of R357. -/
def takeFirst (s : State) (r sl issue : Nat) (c : Cause) (col : Nat) (tval : Word) (tpc : VAddr) : State :=
  match earliestTrap s r sl issue col with
  | some (k, e, a) => takeTrap s r sl e.cause k e.tval a.pc
  | none => takeTrap s r sl c col tval tpc

/-- A precise head trap (R118): taken once every earlier lane instruction has executed everywhere; until then the head waits. -/
def headTrap (s : State) (r sl : Nat) (c : Cause) (tval : Word) : State :=
  let h := getHead s r sl
  if h.flights.isEmpty then takeTrap s r sl c 31 tval (instrAddr h)
  else setHead s r sl { h with why := 13 }

/-- ILLEGAL for a word, after an optional PX (R81): TVAL holds both. -/
def illegalWord (s : State) (r sl : Nat) (w : Nat) : State :=
  let h := getHead s r sl
  let px := match h.pend with
    | some p => fmtPx p
    | none => 0
  headTrap s r sl .illegal (BitVec.ofNat 64 (w + 2 ^ 32 * px))

/-- Return by plain TRET (R139): task level, pending prefix cleared, rewind to REGPC. -/
def returnPlain (s : State) (r sl : Nat) : State :=
  rewind (modHead s r sl fun h => { h with handler := false, pp := false, pxs := 0 }) r sl

/-- Return by TRET.at to an address (R139): the saved prefix applies at TPC, a breakpoint there is suppressed once. A PXS that
the handler has overwritten with a word that is no legal PX: DESIGN CHOICE, the spec does not say what executes (R71, R139);
the instruction runs without a prefix, log 69. -/
def returnAt (s : State) (r sl : Nat) (a : VAddr) : State :=
  modHead s r sl fun h =>
    let px := if h.pp && wordOfAddr a == h.tpc then
        match decode h.pxs.toNat with
        | .ok (.px p) => some p
        | _ => none
      else none
    { h with handler := false, pp := false, pxs := 0, skipBreak := some a, pc := a, pend := px }

/-- After a handler's return: the store retries of R361 (retry lists kept or dropped by TVAL.DROP), and an AUTO halt ends. -/
def afterReturn (s : State) (r sl : Nat) (drop : Bool) : State :=
  let s := if drop then forCols (fun s c => modLane s r c sl fun l => { l with retry := [] }) s else s
  let x := getRow s r
  if x.halted && x.auto_ && x.haltBy == some sl then modRow s r fun x => { x with halted := false, haltBy := none } else s

end Sys2Proof.Machine
end

