-- ==== Sys2Proof/Machine/Operands.lean ====
section
/-! DEFINITION. The operand forms of the lane instructions: legality of the PX fields and register numbers (R34, R43, R67 to
R69, R155, R189 to R202), west operands (R24, R65), source checks (R36, R150, R261), addresses (R157, R163). -/

namespace Sys2Proof.Machine

/-! Legality at the head (R80). -/

/-- The PX fields that an instruction may use; every other field must be zero (R67). -/
structure PxUse where
  msk : Bool
  mz : Bool
  rm : Bool
  fa : Bool
  fb : Bool
  fd : Bool
  ea : Bool
  eb : Bool
  c : Bool
  deriving DecidableEq, Repr

/-- No field at all. -/
def PxUse.none : PxUse := ⟨false, false, false, false, false, false, false, false, false⟩

/-- Are the fields outside the use zero (R67)? -/
def PxUse.admits (u : PxUse) (p : Px) : Bool :=
  (u.msk || p.msk == 0) && (u.mz || !p.mz) && (u.rm || p.rm == 0) && (u.fa || p.fa == 0) && (u.fb || p.fb == 0) &&
  (u.fd || p.fd == 0) && (u.ea || !p.ea) && (u.eb || !p.eb) && (u.c || p.c == 0)

/-- The scope that a c field codes (R68). -/
def scopeOf (c : BitVec 5) : Scope :=
  if c = 1 then .core else if c = 2 then .die else if c = 4 then .sys else .dev

/-- Is c a legal scope code for an access that is ordered or not (R68)? A plain access needs 0. -/
def scopeOk (ordered : Bool) (p : Px) : Bool := if ordered then p.c.toNat ≤ 4 else p.c == 0

/-- A floating-point code: 0 to 2. -/
def isFloat (c : BitVec 4) : Bool := c.toNat ≤ 2

/-- An integer code: 6 to 11 or 13 (R78). -/
def isInt (c : BitVec 4) : Bool := codeInt c.toNat

/-- A code with a lane width: 0 to 3, 6 to 11 or 13 (R194, R196, R202). -/
def hasWidth (c : BitVec 4) : Bool := c.toNat ≤ 3 || isInt c

/-- Are two codes of one width? -/
def sameWidth (a b : BitVec 4) : Bool := codeWidth a.toNat == codeWidth b.toNat

/-- Fields of scalar and vector arithmetic with a rounding: ea, and eb unless the major is 0x2B. -/
def useArith (vec eb c : Bool) : PxUse := ⟨vec, vec, true, true, true, true, true, eb, c⟩

/-- Format fields of a vector arithmetic word (R189): floating of one width, or integer with rm 0 or 5. -/
def vArithOk (unary round : Bool) (p : Px) : Bool :=
  if isFloat p.fd then
    if unary then isFloat p.fa && p.fb == 0 && p.fd == p.fa && p.rm == 0
    else isFloat p.fa && isFloat p.fb && sameWidth p.fa p.fd && sameWidth p.fb p.fd && round
  else isInt p.fd && (if unary then p.fa == 0 && p.fb == 0 else p.fa == p.fd && p.fb == p.fd) && (p.rm == 0 || p.rm == 5)

/-- Format fields of VQUANT and VDEQ (R197). -/
def quantOk (deq : Bool) (p : Px) : Bool :=
  let (f, i) := if deq then (p.fd, p.fa) else (p.fa, p.fd)
  isFloat f && ((i == 3 && p.fb == 3) || ((i == 6 || i == 7) && p.fb == 0))

/-- The PX rule of a lane instruction (R67 to R69, and the format limits of its entry). A field that R67 lists for the major is
allowed before each of its instructions, eb before a unary one too, where it says nothing of a source. mz before STPV is refused, as R163
sends it to the masking of R161, where mz is 0 for STV, though R67 lists mz for the vector forms of 0x1E. DEDUCED, log 99. -/
def pxLegal (i : Instr) (p : Px) : Bool :=
  let ea : PxUse := { PxUse.none with ea := true }
  let eab : PxUse := { ea with eb := true }
  let logic : PxUse := { eab with msk := true, mz := true }
  let laneOp : PxUse := { logic with fd := true }
  match i with
  | .add _ _ _ _ | .sub _ _ _ _ | .and _ _ _ _ | .or _ _ _ _ | .xor _ _ _ _ | .shl _ _ _ _ | .shr _ _ _ _
  | .sar _ _ _ _ | .mul _ _ _ _ | .slt _ _ _ _ | .sltn _ _ _ _ | .min _ _ _ _ | .max _ _ _ _ | .minn _ _ _ _
  | .maxn _ _ _ _ | .mulh _ _ _ _ | .mulhn _ _ _ _ | .div _ _ _ _ | .divn _ _ _ _ | .rem _ _ _ _ | .remn _ _ _ _ =>
    eab.admits p
  | .clz _ _ _ | .ctz _ _ _ | .popc _ _ _ => ea.admits p
  | .addConst _ _ _ | .subConst _ _ _ | .andConst _ _ _ | .orConst _ _ _ | .xorConst _ _ _ | .shlConst _ _ _
  | .shrConst _ _ _ | .sarConst _ _ _ | .mulConst _ _ _ | .sltConst _ _ _ | .sltnConst _ _ _ | .minConst _ _ _
  | .maxConst _ _ _ | .minnConst _ _ _ | .maxnConst _ _ _ | .mulhConst _ _ _ | .mulhnConst _ _ _ | .divConst _ _ _
  | .divnConst _ _ _ | .remConst _ _ _ | .remnConst _ _ _ => ea.admits p
  | .addi _ _ _ | .andi _ _ _ | .ori _ _ _ | .xori _ _ _ | .shli _ _ _ | .shri _ _ _ | .sari _ _ _ | .lui _ _ _ =>
    ea.admits p
  | .li _ _ => PxUse.none.admits p
  | .fadd _ _ _ _ | .fsub _ _ _ _ | .fmul _ _ _ _ | .fdiv _ _ _ _ | .fmin _ _ _ _ | .fmax _ _ _ _ =>
    (useArith false true false).admits p && isFloat p.fa && isFloat p.fb && isFloat p.fd
  | .fma _ _ _ _ => (useArith false true true).admits p && isFloat p.fa && isFloat p.fb && isFloat p.fd
  | .feq _ _ _ _ | .flt _ _ _ _ | .fle _ _ _ _ =>
    (useArith false true false).admits p && isFloat p.fa && isFloat p.fb && p.fd == p.fa
  | .fabs _ _ _ | .fneg _ _ _ => (useArith false true false).admits p && isFloat p.fa && p.fb == 0 && p.fd == p.fa
  | .fcvti _ _ _ => (useArith false true false).admits p && isFloat p.fa && p.fb == 0 && isInt p.fd
  | .icvtf _ _ _ => (useArith false true false).admits p && isInt p.fa && p.fb == 0 && isFloat p.fd
  | .tail _ | .cmov _ _ _ | .movgm _ _ _ => ea.admits p
  | .hget _ _ | .movmg _ _ _ => PxUse.none.admits p
  | .ld _ _ _ _ acq => ({ ea with c := true } : PxUse).admits p && scopeOk acq p
  | .ldn _ _ _ sz acq =>
    ({ ea with c := true, fd := true } : PxUse).admits p && (p.fd == sz.natCode || p.fd == 0) && scopeOk acq p
  | .st _ _ _ _ rel => ({ eab with c := true } : PxUse).admits p && scopeOk rel p
  | .ldv _ _ _ acq => ({ ea with msk := true, mz := true, c := true } : PxUse).admits p && scopeOk acq p
  | .stv _ _ _ rel => ({ eab with msk := true, c := true } : PxUse).admits p && scopeOk rel p
  | .ldp _ _ _ _ | .stp _ _ _ _ => eab.admits p
  | .ldpv _ _ _ => logic.admits p
  | .stpv _ _ _ => ({ eab with msk := true } : PxUse).admits p
  | .ldl _ _ _ _ _ | .ldlv _ _ _ _ => eab.admits p
  | .amo _ _ ord _ _ _ | .cas _ ord _ _ _ => ({ eab with c := true } : PxUse).admits p && scopeOk (ord != .plain) p
  | .red _ _ rel _ _ => ({ eab with c := true } : PxUse).admits p && scopeOk rel p
  | .fence => ({ PxUse.none with c := true } : PxUse).admits p && scopeOk true p
  | .bari _ _ => ea.admits p
  | .vadd _ _ _ _ | .vsub _ _ _ _ | .vmul _ _ _ _ | .vmin _ _ _ _ | .vmax _ _ _ _ =>
    (useArith true true false).admits p && vArithOk false true p
  | .vfma _ _ _ _ => (useArith true true true).admits p && vArithOk false true p
  | .vabs _ _ _ | .vneg _ _ _ => (useArith true true false).admits p && vArithOk true true p
  | .vand _ _ _ _ | .vor _ _ _ _ | .vxor _ _ _ _ | .vnot _ _ _ => logic.admits p
  | .vshl _ _ _ _ | .vshr _ _ _ _ | .vsar _ _ _ _ => laneOp.admits p && isInt p.fd
  | .vcmp _ _ _ _ _ =>
    ({ logic with fa := true, fb := true } : PxUse).admits p && isFloat p.fa && isFloat p.fb && sameWidth p.fa p.fb
  | .vsel _ _ _ _ => ({ laneOp with mz := false } : PxUse).admits p && hasWidth p.fd
  | .vcvt _ _ _ => (useArith true true false).admits p && p.fb == 0 && hasWidth p.fa && hasWidth p.fd
  | .vquant _ _ _ _ => (useArith true true false).admits p && quantOk false p
  | .vdeq _ _ _ _ => (useArith true true false).admits p && quantOk true p
  | .vrcp _ _ _ | .vrsq _ _ _ | .vsqrt _ _ _ | .vexp2 _ _ _ | .vlog2 _ _ _ | .vsin _ _ _ | .vcos _ _ _ | .vtanh _ _ _ =>
    (useArith true true false).admits p && isFloat p.fa && p.fb == 0 && isFloat p.fd && sameWidth p.fa p.fd
  | .vdiv _ _ _ _ =>
    (useArith true true false).admits p && isFloat p.fa && isFloat p.fb && isFloat p.fd && sameWidth p.fa p.fd && sameWidth p.fb p.fd
  | .vbcast _ _ | .viota _ | .vperm _ _ _ | .vrot _ _ _ => laneOp.admits p && hasWidth p.fd
  | .vext _ _ _ | .vins _ _ _ => ({ laneOp with msk := false, mz := false } : PxUse).admits p && hasWidth p.fd
  | .vpop _ _ => ({ eab with fd := true } : PxUse).admits p && hasWidth p.fd
  | .vred _ _ _ =>
    ({ ea with msk := true, rm := true, fa := true, fd := true } : PxUse).admits p && isFloat p.fa && isFloat p.fd
  | .vaddConst _ _ _ | .vsubConst _ _ _ | .vmulConst _ _ _ | .vminConst _ _ _ | .vmaxConst _ _ _ =>
    (useArith true false false).admits p && vArithOk false true p
  | .vandConst _ _ _ | .vorConst _ _ _ | .vxorConst _ _ _ => ({ logic with eb := false } : PxUse).admits p
  | .vshlConst _ _ _ | .vshrConst _ _ _ | .vsarConst _ _ _ => ({ laneOp with eb := false } : PxUse).admits p && isInt p.fd
  | .copy _ _ _ _ _ _ | .cred _ _ _ _ _ _ _ => ({ PxUse.none with c := true } : PxUse).admits p && scopeOk true p
  | _ => PxUse.none.admits p

/-- The v registers that an instruction names, a PX addend among them (R34). -/
def vregsOf (i : Instr) (p : Px) : List Nat :=
  match i with
  | .vadd d a b _ | .vsub d a b _ | .vmul d a b _ | .vmin d a b _ | .vmax d a b _ | .vand d a b _ | .vor d a b _
  | .vxor d a b _ | .vshl d a b _ | .vshr d a b _ | .vsar d a b _ | .vsel d a b _ | .vquant d a b _ | .vdeq d a b _
  | .vdiv d a b _ => [d.toNat, a.toNat, b.toNat]
  | .vperm d a b => [d.toNat, a.toNat, b.toNat]
  | .vfma d a b _ => [d.toNat, a.toNat, b.toNat, p.c.toNat]
  | .vabs d a _ | .vneg d a _ | .vnot d a _ | .vcvt d a _ | .vrcp d a _ | .vrsq d a _ | .vsqrt d a _ | .vexp2 d a _
  | .vlog2 d a _ | .vsin d a _ | .vcos d a _ | .vtanh d a _ => [d.toNat, a.toNat]
  | .vcmp _ _ a b _ => [a.toNat, b.toNat]
  | .vaddConst d a _ | .vsubConst d a _ | .vmulConst d a _ | .vminConst d a _ | .vmaxConst d a _ | .vandConst d a _
  | .vorConst d a _ | .vxorConst d a _ | .vshlConst d a _ | .vshrConst d a _ | .vsarConst d a _ => [d.toNat, a.toNat]
  | .vrot d a _ => [d.toNat, a.toNat]
  | .vbcast d _ | .viota d => [d.toNat]
  | .vins d _ _ => [d.toNat]
  | .vext _ a _ | .vred _ _ a | .rpush _ a => [a.toNat]
  | .ldv d _ _ _ | .stv d _ _ _ => [d.toNat]
  | .ldpv d _ _ | .stpv d _ _ => [d.toNat]
  | .takev d _ _ => [d.toNat]
  | .mload _ a _ => [a.toNat, a.toNat + 1]
  | .mdrain d _ _ => [d.toNat, d.toNat + 1]
  | _ => []

/-- The accumulator tile that an instruction names (R43). -/
def tileOf (i : Instr) : Option Nat :=
  match i with
  | .mma _ _ t _ _ _ => some t.toNat
  | .mzero t => some t.toNat
  | .mload t _ _ => some t.toNat
  | .mdrain _ t _ => some t.toNat
  | _ => none

/-- Are the register and tile numbers within VREGS and ACCT (R34, R43)? -/
def numbersOk (pw : Word) (i : Instr) (p : Px) : Bool :=
  (vregsOf i p).all (· < vregCount pw) &&
  (match tileOf i with
   | some t => t < tileCount pw
   | none => true)

/-- Is it a handler-level lane instruction (R240)? -/
def handlerOnly : Instr → Bool
  | .dbgr _ _ => true
  | .dbgw _ _ => true
  | _ => false

/-- May the head issue the lane instruction (R80)? -/
def laneLegal (pw : Word) (handler : Bool) (i : Instr) (p : Px) : Bool :=
  i.wellFormed && pxLegal i p && numbersOk pw i p && (handler || !handlerOnly i)

/-! West operands (R24, R25, R65). -/

/-- The register that a west operand names: v register or not, number. -/
def westReg (i : Instr) : Option (Bool × BitVec 5) :=
  let pick (v : Bool) (w : West) (a b : BitVec 5) : Option (Bool × BitVec 5) :=
    match w with
    | .no => none
    | .a => some (v, a)
    | .b => some (v, b)
  let una (v w : Bool) (a : BitVec 5) : Option (Bool × BitVec 5) := if w then some (v, a) else none
  match i with
  | .add _ a b w | .sub _ a b w | .and _ a b w | .or _ a b w | .xor _ a b w | .shl _ a b w | .shr _ a b w | .sar _ a b w
  | .mul _ a b w | .slt _ a b w | .sltn _ a b w | .min _ a b w | .max _ a b w | .minn _ a b w | .maxn _ a b w
  | .mulh _ a b w | .mulhn _ a b w | .div _ a b w | .divn _ a b w | .rem _ a b w | .remn _ a b w | .fadd _ a b w
  | .fsub _ a b w | .fmul _ a b w | .fdiv _ a b w | .fma _ a b w | .fmin _ a b w | .fmax _ a b w | .feq _ a b w
  | .flt _ a b w | .fle _ a b w => pick false w a b
  | .clz _ a w | .ctz _ a w | .popc _ a w | .fabs _ a w | .fneg _ a w | .fcvti _ a w | .icvtf _ a w => una false w a
  | .vadd _ a b w | .vsub _ a b w | .vmul _ a b w | .vfma _ a b w | .vmin _ a b w | .vmax _ a b w | .vand _ a b w
  | .vor _ a b w | .vxor _ a b w | .vshl _ a b w | .vshr _ a b w | .vsar _ a b w | .vcmp _ _ a b w | .vsel _ a b w
  | .vquant _ a b w | .vdeq _ a b w | .vdiv _ a b w => pick true w a b
  | .vabs _ a w | .vneg _ a w | .vnot _ a w | .vcvt _ a w | .vrcp _ a w | .vrsq _ a w | .vsqrt _ a w | .vexp2 _ a w
  | .vlog2 _ a w | .vsin _ a w | .vcos _ a w | .vtanh _ a w => una true w a
  | _ => none

/-- Where and for which flight a lane instruction executes. -/
structure Ctx where
  r : Nat
  sl : Nat
  c : Nat
  f : Flight

/-- The device core index of a context. -/
def Ctx.core (x : Ctx) : Nat := coreIx x.r x.c

/-- The strand's state at the core. -/
def Ctx.lane (x : Ctx) (s : State) : Lane := getLane s x.r x.c x.sl

/-- Change the strand's state at the core. -/
def Ctx.set (x : Ctx) (s : State) (l : Lane) : State := setLane s x.r x.c x.sl l

/-- The rounding mode of the instruction (R66, R147). -/
def Ctx.rm (x : Ctx) : Rm := rmx x.f.px.rm x.f.drm

/-- The scalar west operand (R24): h15 at core 0, else the captured word. -/
def westG (x : Ctx) : Word := if x.c = 0 then x.f.feed else x.f.west.setWidth 64

/-- h15's low n bits in every element (R24). -/
def replicated (n : Nat) (w : Word) : Vec := ofElems n ((upTo (1024 / n)).map fun _ => w.toNat % 2 ^ n)

/-- The vector west operand for a format code (R24, R186). -/
def westV (x : Ctx) (code : Nat) : Vec := if x.c = 0 then replicated (codeWidth code) x.f.feed else x.f.west

/-! What executing at a core comes to. -/

/-- Outcome at one core: executed; waits, with what it read; traps with a cause and a value; or has trapped the strand already, at
another instruction (R168). -/
inductive CoreOut
  | done (s : State)
  | ended (s : State)
  | wait (s : State) (begun : List Nat) (why : Nat)
  | trap (s : State) (c : Cause) (tval : Word)

/-- A source of a lane instruction: a g or v register with its trap-empty bit, a mask. -/
inductive Src
  | g (n : BitVec 5) (te : Bool)
  | v (n : BitVec 5) (te : Bool)
  | m (n : BitVec 3)

/-- The DBGR selector that names a poisoned register in TVAL (R364, R241). -/
def poisonTval (cls num sl : Nat) : Word := 0xFFFF000000000000 + BitVec.ofNat 64 (num + cls * 256 + sl * 2 ^ 24)

/-- Is a source empty, and does its emptiness trap (R36, R150)? -/
def srcEmpty (l : Lane) : Src → Bool
  | .g n _ => gEmpty l n
  | .v n _ => vEmpty l n
  | .m _ => false

/-- EMPTY's TVAL for a source (R354). -/
def srcTval : Src → Option Word
  | .g n te => if te then some (n.setWidth 64) else none
  | .v n te => if te then some (n.setWidth 64 ||| 32) else none
  | .m _ => none

/-- POISON's TVAL when a source is poisoned (R261, R364). -/
def srcPoison (x : Ctx) (s : State) (l : Lane) : Src → Option Word
  | .g n _ => if isIn n.toNat l.poison then some (poisonTval 0 n.toNat x.sl) else none
  | .v n _ => (poolBad (getCore s x.core) (vregAddr (pwordOf s x.r) x.sl n.toNat) 128).map (BitVec.ofNat 64)
  | .m n => if isIn (0x200 + n.toNat) l.poison then some (poisonTval 2 n.toNat x.sl) else none

/-- Check the sources in order (R150): the first empty one makes the instruction wait or trap EMPTY, a poisoned one traps
POISON; with all full, go on. Of two empty sources the first in source order decides alone. DESIGN CHOICE: R150 gives no order,
log 67. -/
def withSrcs (x : Ctx) (s : State) (srcs : List Src) (k : Lane → CoreOut) : CoreOut :=
  let l := x.lane s
  match srcs.find? (srcEmpty l) with
  | some e =>
    match srcTval e with
    | some v => .trap s .empty v
    | none => .wait s [] 1
  | none =>
    match srcs.findSome? (srcPoison x s l) with
    | some v => .trap s .poison v
    | none => k l

/-- Write a v register whole: full, and its pool granules lose their poison (R244, R262). -/
def putV (x : Ctx) (s : State) (n : BitVec 5) (v : Vec) : State :=
  let s := x.set s (wrV (x.lane s) n v)
  let k := getCore s x.core
  if k.poolPoison.isEmpty then s
  else
    let w := wholeGranules (vregAddr (pwordOf s x.r) x.sl n.toNat) 128
    modCore s x.core fun k => { k with poolPoison := k.poolPoison.filter fun g => !isIn g w }

/-- Write a g register and finish. -/
def doneG (x : Ctx) (s : State) (l : Lane) (d : BitVec 5) (v : Word) : CoreOut := .done (x.set s (wrG l d v))

/-- The g source list of a binary operation: an operand that is a west operand is no source here. -/
def srcs2 (a b : BitVec 5) (w : West) (p : Px) : List Src :=
  (if w = .a then [] else [.g a p.ea]) ++ (if w = .b then [] else [.g b p.eb])

/-- The v source list of a binary operation. -/
def vsrcs2 (a b : BitVec 5) (w : West) (p : Px) : List Src :=
  (if w = .a then [] else [.v a p.ea]) ++ (if w = .b then [] else [.v b p.eb])

/-- The destination as an additional source of a merge form (R183). -/
def mergeSrc (d : BitVec 5) (p : Px) : List Src := if p.msk != 0 && !p.mz then [.v d false] else []

/-- Value of operand a. -/
def valA (x : Ctx) (l : Lane) (a : BitVec 5) (w : West) : Word := if w = .a then westG x else rdG l a

/-- Value of operand b. -/
def valB (x : Ctx) (l : Lane) (b : BitVec 5) (w : West) : Word := if w = .b then westG x else rdG l b

/-- A lane memory address: base plus a signed offset of n bits times a scale (R157, R163, R166). -/
def laneAddr (base : Word) (off n scale : Nat) : Word := base + word (sext off n * scale)

/-- Bytes of a size code (R62). -/
def szBytes : Sz → Nat
  | .b => 1 | .h => 2 | .w => 4 | .d => 8

end Sys2Proof.Machine
end

