-- ==== Sys2Proof/Machine/Fabric.lean ====
section
/-! DEFINITION. Requests: how an access is translated, watched, sent, ordered and performed (R82, R157 to R162, R263 to R272,
R317 to R324, R336, R376, R377), and how pending machine events and deferred traps reach a strand (R168, R353, R357). -/

namespace Sys2Proof.Machine

/-! Requests. -/

/-- Delivery bound in ns of an access to a physical address (R336). -/
def boundOf (pa : Nat) : Nat :=
  match regionOf pa with
  | .cellar => 4000
  | .peer => if Config.oneSwitch (pa / 2 ^ 40 % 1024) then 20000 else 60000
  | _ => 60000

/-- Delivery bound of an access by its pieces; within the device until they are known. -/
def segsBound (segs : List (Nat × Nat)) : Nat := segs.foldl (fun b p => max b (boundOf p.1)) 4000

/-- A request of a strand with nothing filled in but where it comes from. -/
def blankReq (s : State) (k : ReqKind) (r c sl : Nat) : Req :=
  let h := getHead s r sl
  { id := s.fresh, kind := k, row := r, col := c, strand := sl, part := (getRow s r).part.getD 0, vf := (ctxOf s r).1,
    ctx := (ctxOf s r).2, pc := 0, va := 0, segs := [], attr := ⟨false, false, 0, false⟩,
    attr2 := ⟨false, false, 0, false⟩, size := 0, mask := BitVec.allOnes 32,
    data := 0, signed := false, acq := false, rel := false, scope := .dev, op := .add, expect := 0, dest := .no,
    handler := h.handler, region := h.region, st := .walking, bad := none, since := s.now, bound := 4000, xnum := 0,
    stamp := Vector.replicate 4 0, out := Pkt.new, back := Pkt.new, probes := [], from_ := none, issue := (getRow s r).cycle,
    router := none,
    after := if c < 16 then (getLane s r c sl).after else [], seq := 0, gen := 0, port := 4, task := h.task.getD 0, detSeq := h.detSeq, copy := 0, at_ := 0,
    dstCore := 0, dstOff := 0, ring := none, mcast := none, red := none }

/-- Add a request; it is the youngest. -/
def pushReq (s : State) (q : Req) : State := { s with reqs := s.reqs ++ [q], fresh := s.fresh + 1 }

/-- The request with an identifier. -/
def findReq (s : State) (id : Nat) : Option Req := s.reqs.find? fun q => q.id == id

/-- Replace a request. -/
def putReq (s : State) (q : Req) : State := { s with reqs := s.reqs.map fun p => if p.id = q.id then q else p }

/-- Remove a request. -/
def dropReq (s : State) (id : Nat) : State := { s with reqs := s.reqs.filter fun q => q.id != id }

/-- Do two requests come from one observer: a strand at one core, or its head (R314)? -/
def sameObserver (p q : Req) : Bool := p.row == q.row && p.col == q.col && p.strand == q.strand

/-- Is a request performed, failed or lost? -/
def reqDone (q : Req) : Bool :=
  match q.st with
  | .performed | .failed _ _ => true
  | _ => false

/-- Is it a write at its home? -/
def isWriteKind : ReqKind → Bool
  | .store | .headStore | .amo | .cas | .red | .publish => true
  | _ => false

/-- The requests of the list older than an identifier. -/
def olderReqs (s : State) (id : Nat) : List Req := s.reqs.takeWhile fun q => q.id != id

/-- May two accesses overlap? By physical pieces where both are known, by their offsets in a 64 KiB page otherwise. -/
def overlaps (p q : Req) : Bool :=
  if p.segs.isEmpty || q.segs.isEmpty then
    let a := p.va.toNat % 65536
    let b := q.va.toNat % 65536
    (a < b + q.size && b < a + p.size) || a + 65536 < b + q.size || b + 65536 < a + p.size
  else p.segs.any fun u => q.segs.any fun v => u.1 < v.1 + v.2 && v.1 < u.1 + u.2

/-- Is it an access of the load and store path (not an engine's)? -/
def plainKind : ReqKind → Bool
  | .granule => false
  | _ => true

/-- Source die of a request. -/
def srcDie (q : Req) : Nat := dieOfRow q.row

/-- Has every cross-die write that a stamp names been applied (R323)? -/
def stampApplied (s : State) (st : Vector Nat 4) : Bool :=
  s.reqs.all fun p => p.xnum == 0 || reqDone p || st.toList.getD (srcDie p) 0 < p.xnum

/-- The stamp of a request's observer: what it has performed or observed (R323). -/
def issuerStamp (s : State) (q : Req) : Vector Nat 4 :=
  if q.col < 16 then (getLane s q.row q.col q.strand).stamp else (getHead s q.row q.strand).stamp

/-- What the observer's acquires of device scope returned (R323). -/
def issuerHold (s : State) (q : Req) : Vector Nat 4 :=
  if q.col < 16 then (getLane s q.row q.col q.strand).hold else (getHead s q.row q.strand).hold

/-- Does an acquire still hold the later accesses of its observer (R318 edge 2): until it is performed, an AMO's or CAS's until the old
value has returned (R175)? -/
def acqOpen (p : Req) : Bool := p.acq && (!reqDone p || ((p.kind == .amo || p.kind == .cas) && p.st == .performed))

/-- Is it a read: of a load, or of an AMO or CAS (R323)? -/
def readsToo (q : Req) : Bool := !isWriteKind q.kind || q.kind == .amo || q.kind == .cas

/-- The rows that accepted HTAKEs of a strand at a core, older than an identifier, have still to read (R254). -/
def rowsUnread (s : State) (r c sl id : Nat) : List Nat :=
  ((getCore s (coreIx r c)).transfers.filter fun t => t.strand == sl && t.id < id && t.data.isNone).map (·.row)

/-- May the request be performed now (R160, R129, R318 edges 1 and 2): no older access of its observer to the same location,
and no older acquire, is still to be performed, no access that a named barrier orders before it (R325), no older HTAKE has still to
read what it writes (R254), and, for a read, no cross-die write that an acquire of device scope has learnt of (R323)? -/
def mayPerform (s : State) (q : Req) : Bool :=
  !plainKind q.kind ||
  (((olderReqs s q.id).all fun p =>
    !(sameObserver p q && plainKind p.kind && (acqOpen p || (!reqDone p && overlaps p q && !setAside s q.handler p))) &&
      (reqDone p || !isIn p.id q.after)) &&
  (!isWriteKind q.kind || 16 ≤ q.col ||
    (rowsUnread s q.row q.col q.strand q.id).all fun a => q.segs.all fun p => p.1 + p.2 ≤ a || a + 2048 ≤ p.1) &&
  (!readsToo q || stampApplied s (issuerHold s q)))

/-- Home die of a physical address, none outside the Cellar. -/
def homeDie (pa : Nat) : Option Nat := if regionOf pa = .cellar then some (dieOf (vaultOf pa)) else none

/-- Physical address of the first piece. -/
def firstPa (q : Req) : Nat := (q.segs.headD (0, 0)).1

/-- Is it a write that crosses to another die (R323)? -/
def crossDie (q : Req) : Bool :=
  isWriteKind q.kind &&
  match homeDie (firstPa q) with
  | some d => d != srcDie q
  | none => false

/-- Does a write, one of a copy among them, go to another die than its source (R323)? -/
def crossWrite (q : Req) : Bool :=
  crossDie q ||
  (q.kind == .granule && q.dstCore < 512 &&
    match (if q.segs.isEmpty then some (dieOf q.dstCore) else homeDie (firstPa q)) with
    | some d => d != srcDie q
    | none => false)

/-- Has every cross-die write that the stamp names been applied (R323)? -/
def stampOk (s : State) (q : Req) : Bool :=
  q.xnum == 0 || (olderReqs s q.id).all fun p =>
    p.xnum == 0 || reqDone p || (q.stamp.toList.getD (srcDie p) 0) < p.xnum

/-- Vault groups of the pieces (Memory Ordering, Holding a release). -/
def groupsOf (segs : List (Nat × Nat)) : List Nat :=
  (segs.filter fun p => regionOf p.1 == .cellar).map fun p => vaultOf p.1 / 8

/-- Set the touched-group bits of a write of a strand at a core. -/
def touch (s : State) (q : Req) : State :=
  if q.col < 16 then
    modLane s q.row q.col q.strand fun l =>
      { l with touched := (groupsOf q.segs).foldl (fun w g => w ||| BitVec.ofNat 64 (2 ^ g)) l.touched }
  else s

/-- Number a request that is a cross-die write (R323). -/
def numberX (s : State) (q : Req) : State × Req :=
  if crossWrite q then
    let d := srcDie q
    let n := s.sentX.toList.getD d 0 + 1
    ({ s with sentX := s.sentX.setIfInBounds d n }, { q with xnum := n })
  else (s, q)

/-- The entry-wise maximum of two stamps. -/
def stampJoin (a b : Vector Nat 4) : Vector Nat 4 := Vector.ofFn fun i => max a[i] b[i]

/-- Stamp a request with what its issuer has performed or observed and, where it is a cross-die write, number it (R323). -/
def stampReq (s : State) (q : Req) : State × Req := numberX s { q with stamp := issuerStamp s q }

/-- The 8-byte words of memory that the pieces of an access touch. -/
def wordsOf (segs : List (Nat × Nat)) : List Nat :=
  segs.flatMap fun p => (upTo ((p.1 + p.2 + 7) / 8 - p.1 / 8)).map fun i => p.1 / 8 + i

/-- The 8-byte words of a core's pool, numbered above those of memory. -/
def poolWords (core off n : Nat) : List Nat := wordsOf [(2 ^ 60 + 2 ^ 21 * core + off, n)]

/-- The stamp that a performed write leaves behind and its issuer takes: its own, with its own number. -/
def ownStamp (q : Req) : Vector Nat 4 :=
  if q.xnum = 0 then q.stamp else stampJoin q.stamp ((Vector.replicate 4 0).setIfInBounds (srcDie q) q.xnum)

/-- A stamp joins what the observer of a request has performed or observed, and with an acquire of device scope what holds
its later reads (R323). -/
def learnStamp (s : State) (q : Req) (st : Vector Nat 4) : State :=
  if st = Vector.replicate 4 0 then s
  else
    let held := q.acq && (q.scope == .dev || q.scope == .sys)
    if q.col < 16 then
      modLane s q.row q.col q.strand fun l =>
        { l with stamp := stampJoin l.stamp st, hold := if held then stampJoin l.hold st else l.hold }
    else
      modHead s q.row q.strand fun h =>
        { h with stamp := stampJoin h.stamp st, hold := if held then stampJoin h.hold st else h.hold }

/-- What words of memory or of a pool carry. -/
def wordStamp (s : State) (ws : List Nat) : Vector Nat 4 :=
  if s.memStamp.isEmpty then Vector.replicate 4 0
  else ws.foldl (fun st w => stampJoin st (tget s.memStamp w (Vector.replicate 4 0))) (Vector.replicate 4 0)

/-- A stamp is left with words; the zero stamp is not listed. -/
def leaveStamp (s : State) (ws : List Nat) (st : Vector Nat 4) : State :=
  if st = Vector.replicate 4 0 then (if s.memStamp.isEmpty then s else { s with memStamp := ws.foldl tdel s.memStamp })
  else { s with memStamp := ws.foldl (fun t w => tput t w st) s.memStamp }

/-- A read observes the writes whose values it returns (R323). -/
def noteRead (s : State) (q : Req) : State := if s.memStamp.isEmpty then s else learnStamp s q (wordStamp s (wordsOf q.segs))

/-- The words that a write leaves its stamp with: of memory, or, for a copy granule bound for a pool, of that pool. -/
def writtenWords (q : Req) : List Nat :=
  if q.segs.isEmpty && q.kind == .granule then poolWords q.dstCore q.dstOff 64 else wordsOf q.segs

/-- A performed write leaves its stamp with the words that it wrote, and its issuer has performed it (R323). -/
def noteWrite (s : State) (q : Req) : State :=
  let st := ownStamp q
  learnStamp (leaveStamp s (writtenWords q) st) q (if q.xnum = 0 then Vector.replicate 4 0 else st)

/-- The words of a core's pool that the active elements of a vector access touch. -/
def poolVWords (core off : Nat) (mask : BitVec 32) : List Nat := (activeOffs mask 0 128).flatMap fun j => poolWords core (off + j) 4

/-- A strand at a core has read words of its pool: it observes their writes (R323). -/
def notePoolRead (s : State) (r c sl : Nat) (ws : List Nat) : State :=
  let st := wordStamp s ws
  if st = Vector.replicate 4 0 then s else modLane s r c sl fun l => { l with stamp := stampJoin l.stamp st }

/-- A strand at a core has written words of its pool: they carry what it has observed (R323). -/
def notePoolWrite (s : State) (r c sl : Nat) (ws : List Nat) : State := leaveStamp s ws (getLane s r c sl).stamp

/-- Source code of a packet: die in bits 9:8, physical core (R333); a head's packets enter at the router of its row's column 0
(DESIGN CHOICE, log 76). -/
def srcCode (q : Req) : Nat := if q.col < 16 then routerOf (coreIx q.row q.col) else headRouter q.row

/-- Give a request its packet number (R333). -/
def numberPkt (s : State) (q : Req) : State × Req :=
  let (s, p) := newPkt s (srcCode q)
  (s, { q with out := p })

/-- The router of the home of a physical address, for a die: of its vault, of the service core of its window's die (R344). A peer's packets
leave at the source die's service core. DESIGN CHOICE, log 76. -/
def paRouter (die pa : Nat) : Nat :=
  match regionOf pa with
  | .cellar => routerOf (vaultOf pa)
  | .host => 256 * (pa / 2 ^ 30 % 4)
  | _ => 256 * die

/-- The router that a request travels to: that of its home or core; a multicast's, until it is delivered, is the rendezvous (R307). -/
def homeRouter (s : State) (q : Req) : Nat :=
  match q.segs with
  | [] => if q.dstCore < 512 then routerOf q.dstCore else rendezvous s q.part (q.mcast.getD 0)
  | (pa, _) :: _ => paRouter (srcDie q) pa

/-- A request's home answers: the answer leaves with a packet number of the home's own (R333); a peer numbers its own. -/
def answerReq (s : State) (q : Req) : State :=
  if !q.segs.isEmpty && regionOf (firstPa q) == .peer then putReq s { q with back := Pkt.new }
  else
    let (s, p) := newPkt s (homeRouter s q)
    putReq s { q with back := p }

/-- The request leaves for its home. -/
def sendReq (s : State) (q : Req) : State :=
  let (s, q) := stampReq s q
  let (s, q) := numberPkt s q
  let q := if q.rel then { q with since := s.now } else q
  putReq (if isWriteKind q.kind then touch s q else s) { q with st := .sent }

/-- What follows translation: a release is held (R324), anything else leaves. -/
def launchReq (s : State) (q : Req) : State :=
  let q := { q with bound := max q.bound (segsBound q.segs) }
  if q.rel then putReq s { q with st := .held } else sendReq (putReq s q) q

/-- Add leaves to a core's TLB (R268). -/
def tlbFill (s : State) (r c : Nat) (es : List TlbEntry) : State :=
  modCore s (coreIx r c) fun k => { k with tlb := es.foldl (fun t e => tlbAdd 128 e t) k.tlb }

/-- Add a leaf to a row's instruction TLB (R268). -/
def itlbFill (s : State) (r : Nat) (e : TlbEntry) : State := modRow s r fun x => { x with itlb := tlbAdd 32 e x.itlb }

/-- Is the first page of an access in the TLB, or the address out of range, so that its fate is known without a walk? -/
def tlbKnows (s : State) (r c : Nat) (va : Word) (size : Nat) : Bool :=
  let (vf, ctx) := ctxOf s r
  let t := (getCore s (coreIx r c)).tlb
  va.toNat / 2 ^ 48 != 0 ||
  ((tlbFind t vf ctx va.toNat).isSome && (tlbFind t vf ctx (va.toNat + size - 1)).isSome)

/-- The 64 KiB pages that an access touches with an active byte. A miss is taken per 64 KiB page whatever the size of the leaf, which no
one knows before the walk ends. DESIGN CHOICE on R270's page, log 90. -/
def pagesOf (va : Word) (size : Nat) (mask : BitVec 32) : List Nat :=
  let a := va.toNat / 65536
  let b := (va.toNat + size - 1) / 65536
  let n := pageSplit va.toNat size
  if size ≤ 8 then [a]
  else (if (activeOffs mask 0 n).isEmpty then [] else [a]) ++ if a = b || (activeOffs mask n size).isEmpty then [] else [b]

/-- A miss that a die's walkers have to serve: when it came, its number, function, context, page. -/
structure Miss where
  since : Nat
  id : Nat
  vf : Nat
  ctx : Nat
  page : Nat
  deriving DecidableEq, Repr

/-- A miss put into a list in order of arrival. -/
def missIns (x : Miss) : List Miss → List Miss
  | [] => [x]
  | y :: r => if x.since < y.since || (x.since == y.since && x.id < y.id) then x :: y :: r else y :: missIns x r

/-- The row of a place where a miss waits. -/
def WalkPlace.row : WalkPlace → Nat
  | .core r _ _ => r
  | .copy r _ _ _ => r
  | .head r _ => r
  | .fetch r _ => r

/-- The pages of an access that miss in a TLB. -/
def missPages (tlb : List TlbEntry) (vf ctx : Nat) (va : Word) (size : Nat) (mask : BitVec 32) : List Nat :=
  (pagesOf va size mask).filter fun p => p < 2 ^ 32 && (tlbFind tlb vf ctx (p * 65536)).isNone

/-- The pages that a posted access misses on in its core's TLB. -/
def reqMisses (s : State) (q : Req) : List Nat := missPages (getCore s (coreIx q.row q.col)).tlb q.vf q.ctx q.va q.size q.mask

/-- The misses of a die whose walks have not finished, in order of arrival (R270): those of posted accesses, and those of accesses
that wait. -/
def missesOf (s : State) (die : Nat) : List Miss :=
  let posted := (s.reqs.filter fun q => q.st == .walking && dieOfRow q.row == die).flatMap fun q =>
    (reqMisses s q).map fun p => (⟨q.since, q.id, q.vf, q.ctx, p⟩ : Miss)
  let waits := (s.walks.filter fun w => w.done.isNone && dieOfRow w.place.row == die).map fun w =>
    (⟨w.since, w.id, w.vf, w.ctx, w.page⟩ : Miss)
  (posted ++ waits).foldl (fun l x => missIns x l) []

/-- The walks of a die, the one that was asked for first in front: the first 128 are under way, the others wait (R270). -/
def walksOf (s : State) (die : Nat) : List (Nat × Nat × Nat) :=
  (missesOf s die).foldl (fun l x => if isIn (x.vf, x.ctx, x.page) l then l else l ++ [(x.vf, x.ctx, x.page)]) []

/-- Must a miss on one of some pages wait for a walk (R270): walks take time, that of the page has been asked for, which it joins, or
all 128 walks of the die are busy? -/
def missWaits (s : State) (die vf ctx : Nat) (miss : List Nat) : Bool :=
  !miss.isEmpty &&
  let w := walksOf s die
  s.slowWalks || 128 ≤ w.length || miss.any fun p => isIn (vf, ctx, p) w

/-- The waits of a place. -/
def waitsAt (s : State) (place : WalkPlace) : List WalkWait := s.walks.filter fun w => w.place == place && !w.gone

/-- What an access that misses does: it waits, or goes on, with the 64 KiB pages whose walks it waited for and that failed, and the
time at which it began to wait. -/
inductive Gate
  | wait (s : State)
  | go (s : State) (fails : List (Nat × Cause)) (since : Nat)

/-- The misses of an access, pages with its addresses, join the walks (R270). -/
def addWaits (s : State) (place : WalkPlace) (vf ctx kind : Nat) (handler : Bool) (since : Nat) (miss : List (Nat × Word)) : State :=
  { s with walks := s.walks ++ miss.zipIdx.map fun p => ⟨s.fresh + p.2, place, vf, ctx, p.1.1, p.1.2, kind, handler, since, false, none⟩,
           fresh := s.fresh + miss.length }

/-- Let an access of a place go on, or wait for the walks of the pages that it misses on (R270). kind: its KIND, for a bound that runs
out (R368). -/
def pageGate (s : State) (place : WalkPlace) (vf ctx kind : Nat) (handler : Bool) (miss : List (Nat × Word)) : Gate :=
  let mine := waitsAt s place
  let die := dieOfRow place.row
  if mine.isEmpty then
    if missWaits s die vf ctx (miss.map (·.1)) then .wait (addWaits s place vf ctx kind handler s.now miss) else .go s [] s.now
  else if mine.any (·.done.isNone) then .wait s
  else
    let since := mine.foldl (fun t w => min t w.since) s.now
    let fails := mine.filterMap fun w => match w.done with
      | some (some c) => some (w.page, c)
      | _ => none
    let miss := miss.filter fun p => !(fails.any fun f => f.1 == p.1)
    let gone := { s with walks := s.walks.filter fun w => w.place != place || w.gone }
    if missWaits gone die vf ctx (miss.map (·.1)) then .wait (addWaits s place vf ctx kind handler since miss) else .go gone fails since

/-- The pages of an access that miss in a TLB, with its address. -/
def missesAt (tlb : List TlbEntry) (vf ctx : Nat) (va : Word) (size : Nat) (mask : BitVec 32) : List (Nat × Word) :=
  (missPages tlb vf ctx va size mask).map fun p => (p, va)

/-- The gate of one access. -/
def walkGate (s : State) (place : WalkPlace) (tlb : List TlbEntry) (vf ctx : Nat) (va : Word) (size : Nat) (mask : BitVec 32) (kind : Nat)
    (handler : Bool) : Gate :=
  pageGate s place vf ctx kind handler (missesAt tlb vf ctx va size mask)

/-- The gate of an access of a strand at a core. -/
def laneGate (s : State) (r c sl : Nat) (va : Word) (size : Nat) (mask : BitVec 32) (kind : Nat) (handler : Bool) : Gate :=
  let (vf, ctx) := ctxOf s r
  walkGate s (.core r c sl) (getCore s (coreIx r c)).tlb vf ctx va size mask kind handler

/-- Does an access of a strand at a core wait for a walker, or has it waited (R270)? -/
def walkBusy (s : State) (r c sl : Nat) (va : Word) (size : Nat) (mask : BitVec 32) : Bool :=
  let (vf, ctx) := ctxOf s r
  !(waitsAt s (.core r c sl)).isEmpty ||
  missWaits s (dieOfRow r) vf ctx (missPages (getCore s (coreIx r c)).tlb vf ctx va size mask)

/-- Resolve the translation of a posted access (R268, R271, R272): it leaves, or fails. -/
def resolveReq (s : State) (q : Req) (k : Acc) : State :=
  match spanXlate s q.row q.col k q.va q.size q.mask with
  | .error (c, va) => putReq s { q with st := .failed c va }
  | .ok (segs, a, b, es) => launchReq (tlbFill s q.row q.col es) { q with segs := segs, attr := a, attr2 := b }

/-- A link by its number, DOWN at reset (R351). -/
def getLink (s : State) (l : Nat) : Link := tget s.links l Link.reset

/-- Is a Gararo link UP (R346, R347)? -/
def anyLinkUp (s : State) : Bool := (upTo 12).any fun l => (getLink s l).st == .up

/-- Is there an UP link whose switch reports a route to a peer (R347)? -/
def peerRoute (s : State) (peer : Nat) : Bool :=
  (upTo 12).any fun l => (getLink s l).st == .up && !isIn (l, peer) s.noRoute

/-- Peer number of a peer address (R264). -/
def peerOf (pa : Nat) : Nat := pa / 2 ^ 40 % 1024

/-- A partition's job has issued a reduction to a place with a delivery bound (R278). -/
def noteRed (s : State) (r bound : Nat) : State :=
  match (getRow s r).part with
  | some p => modPart s p fun x => { x with redBound := max x.redBound bound }
  | none => s

/-! Bytes of an access. -/

/-- Is byte o of the access active? -/
def byteActive (q : Req) (o : Nat) : Bool := q.size < 128 || q.mask.getLsbD (o / 4)

/-- The granules of a set of pieces with active bytes that lie in a poisoned granule: offset of the first, if any. -/
def firstBad (s : State) (q : Req) : Option Nat :=
  if s.memPoison.isEmpty then none
  else (upTo q.size).find? fun o => byteActive q o && isIn (segPa q.segs o / 64) s.memPoison

/-- Where mem holds byte o of an access: a host window stands for the host page that the host's IOMMU maps for the requester, its
virtual function (R338, R339). -/
def bytePa (s : State) (q : Req) (o : Nat) : Nat := hostAt s q.vf (segPa q.segs o)

/-- The keys of the first and of the second piece of an access (R266). -/
def reqKeys (s : State) (q : Req) : Option (BitVec 256) × Option (BitVec 256) := (attrKey s q.attr, attrKey s q.attr2)

/-- The key of byte o of an access with these keys. -/
def keyAt (q : Req) (keys : Option (BitVec 256) × Option (BitVec 256)) (o : Nat) : Option (BitVec 256) :=
  if o < (q.segs.headD (0, 0)).2 then keys.1 else keys.2

/-- Read the active bytes of the access into its data. -/
def readReq (s : State) (q : Req) : Vec :=
  let keys := reqKeys s q
  BitVec.ofNat 1024 ((upTo q.size).foldr (fun o acc =>
    (if byteActive q o then (physRd s (keyAt q keys o) (bytePa s q o)).toNat else q.data.toNat / 2 ^ (8 * o) % 256) + 256 * acc) 0)

/-- Write the active bytes of the access. -/
def writeReq (s : State) (q : Req) : State :=
  let keys := reqKeys s q
  let s := (upTo q.size).foldl (fun s o =>
    if byteActive q o then physWr s (keyAt q keys o) (bytePa s q o) (BitVec.ofNat 8 (q.data.toNat / 2 ^ (8 * o))) else s) s
  if s.memPoison.isEmpty then s
  else
    let full (g : Nat) : Bool := (upTo q.size).countP (fun o => byteActive q o && segPa q.segs o / 64 == g) == 64
    { s with memPoison := s.memPoison.filter fun g => !full g }

/-- Does the write touch a poisoned granule that it does not cover whole (R262)? -/
def narrowPoison (s : State) (q : Req) : Bool :=
  s.memPoison.any fun g =>
    let n := (upTo q.size).countP fun o => byteActive q o && segPa q.segs o / 64 == g
    n != 0 && n != 64

/-- Virtual address of the granule of byte o. -/
def granuleVa (q : Req) (o : Nat) : Nat := (q.va.toNat + o) / 64 * 64

/-- Address of the first active byte of a write that lies in a poisoned granule. -/
def badVa (s : State) (q : Req) : Word := q.va + BitVec.ofNat 64 ((firstBad s q).getD 0)

/-- Perform a plain access at its home (R248, R317, R348, R261, R262). -/
def performPlain (s : State) (q : Req) : State :=
  let pa := firstPa q
  let write := isWriteKind q.kind
  if regionOf pa = .peer && !Config.peerAdmits (peerOf pa) (pa % 2 ^ 38) write then
    answerReq s { q with st := .failed .xlatePerm q.va }
  else if write then
    if narrowPoison s q then answerReq s { q with st := .failed .poison (badVa s q) }
    else noteWrite (answerReq (writeReq s q) { q with st := .performed }) q
  else
    match firstBad s q with
    | some o => answerReq s { q with st := .performed, bad := some (granuleVa q o) }
    | none => noteRead (answerReq s { q with st := .performed, data := readReq s q }) q

/-! Acquires (R318 edge 2, R325). -/

/-- Is an acquire that orders a strand's later accesses at a core still open: an earlier acquiring request of the strand there, or an
access still to be performed that a completed barrier orders before them? A pool access waits for it, the others are held at
their home (mayPerform). -/
def acqPending (s : State) (r c sl : Nat) : Bool :=
  let after := (getLane s r c sl).after
  s.reqs.any fun p => (acqOpen p && p.row == r && p.col == c && p.strand == sl) || (!reqDone p && isIn p.id after)

/-! Bounds (R336, R337). -/

/-- Has the request's bound run out? A held release has not been accepted into the fabric, be it that its probes are answered and it
waits for acknowledgements (R324); a copy granule held at its core for a restore has been delivered there (R305, R371). -/
def expired (s : State) (q : Req) : Bool :=
  q.st != .held && q.st != .probing [] && !(q.kind == .granule && isIn q.id (getCore s q.dstCore).heldGranules) && q.since + q.bound ≤ s.now

/-! Releases (R324). -/

/-- Is an older access of the release's strand still to be performed, that its scope orders (R318 edge 3, R324)? Writes to
host windows and peers count for .sys only, and a write to a peer until its acknowledgement (R329). An HTAKE is a read (R254). -/
def releaseWaits (s : State) (q : Req) : Bool :=
  ((olderReqs s q.id).any fun p =>
    sameObserver p q && plainKind p.kind && p.kind != .publish && !setAside s q.handler p &&
    (if isWriteKind p.kind then
      (!(p.st == .performed) || regionOf (firstPa p) == .peer) &&
        (q.scope == .sys || p.segs.isEmpty || p.segs.any fun u => regionOf u.1 == .cellar)
    else !reqDone p)) ||
  (q.col < 16 && !(rowsUnread s q.row q.col q.strand q.id).isEmpty) ||
  ((q.scope == .dev || q.scope == .sys) && !stampApplied s (issuerStamp s q)) || recordHolds s q

/-- Let every probed release go whose waits have ended. -/
def pushReleases (s : State) : State :=
  (s.reqs.filter fun q => q.st == .probing []).foldl
    (fun s q => if releaseWaits s q then s else sendReq s q) s

/-! Machine events and deferred traps (R353, R356, R357, R168). -/

/-- May the strand be stopped and rewound now: it is not past the check pass of a committing instruction, and the head holds
no accepted or registered operation (R165, R370)? -/
def canRewind (h : Head) : Bool :=
  (match h.commit with
   | some k => k.flight.col < 16
   | none => true) &&
  match h.wait with
  | .group _ _ | .publish _ | .send _ | .tile _ | .exit => false
  | _ => true

/-- A machine event becomes pending at a core (R357). -/
def addEvent (s : State) (r c sl : Nat) (e : MEvent) : State :=
  modLane s r c sl fun l => { l with events := l.events ++ [e] }

/-- Does the task that issued a request still occupy its slot? -/
def ownerAlive (s : State) (q : Req) : Bool := (getHead s q.row q.strand).task == some q.task

/-- A landing trap (R168) at a core: taken now, or kept pending while the strand cannot be rewound, while a halt stops it (R380), or
while it runs its handler and the access came from task level (R356). DESIGN CHOICE: R353 does not say when a trap of class D or M is
taken that arises while the strand is in a perform step, or waits in GBAR, GVOTE, PUBLISH, MSEND, TILEGET or EXIT: it stays pending
until that ends, log 91. -/
def raiseLand (s : State) (r c sl : Nat) (cause : Cause) (tval : Word) (a : TrapAt) (handler : Bool) : State :=
  let h := getHead s r sl
  if h.task.isNone then s
  else if (h.handler && !handler) || !canRewind h || haltStops s r sl then addEvent s r c sl ⟨cause, tval, handler, some a⟩
  else takeFirst s r sl a.issue cause c tval a.pc

/-- May a pending event or record of a level be raised at the strand's level (R356)? -/
def eligible (handler evHandler : Bool) : Bool := !handler || evHandler

/-! Watchpoints (R376, R377). -/

/-- The two filter bits of a granule (R376). -/
def watchBits (g : Nat) : Nat × Nat :=
  let c0 := g % 4096
  let c1 := g / 4096 % 4096
  let c2 := g / 2 ^ 24 % 4096
  let c3 := g / 2 ^ 36 % 64
  (c0 ^^^ c1 ^^^ c2 ^^^ c3, (c0 + 3 * c1 + 5 * c2 + 7 * c3) % 4096)

/-- Does a granule hit the filter? -/
def watchHits (k : Core) (g : Nat) : Bool :=
  let (a, b) := watchBits g
  k.filter.getLsbD a && k.filter.getLsbD b

/-- The watched granules of an access: those with an active byte, with the address of the first. -/
def watchedGranules (va : Word) (size : Nat) (mask : BitVec 32) : List (Nat × Nat) :=
  let a := va.toNat % 2 ^ 48
  (granules a size).filterMap fun g =>
    ((upTo size).find? fun o => (a + o) / 64 == g && (size < 128 || mask.getLsbD (o / 4))).map fun o => (g % 2 ^ 42, a + o)

/-- The watch check of an access (R377): the state with the pass granule cleared or set, and the hit address. -/
def watchCheck (s : State) (r c sl : Nat) (ld st : Bool) (va : Word) (size : Nat) (mask : BitVec 32) : State × Option Nat :=
  let k := getCore s (coreIx r c)
  let l := getLane s r c sl
  if k.wctl.getLsbD sl && ((ld && k.wctl.getLsbD 8) || (st && k.wctl.getLsbD 9)) then
    let gs := watchedGranules va size mask
    match l.pass with
    | some p =>
      if gs.any fun g => g.1 == p then (setLane s r c sl { l with pass := none }, none)
      else
        match gs.find? fun g => watchHits k g.1 with
        | some (g, a) => (setLane s r c sl { l with pass := some g }, some a)
        | none => (s, none)
    | none =>
      match gs.find? fun g => watchHits k g.1 with
      | some (g, a) => (setLane s r c sl { l with pass := some g }, some a)
      | none => (s, none)
  else (s, none)

/-! Copies of records (R177, R360, R361). -/

/-- Fill a store-fault record, or drop the fault when all eight are occupied (R177). -/
def fillRecord (s : State) (r c sl : Nat) (rec : StoreRec) : State :=
  modLane s r c sl fun l =>
    if 8 ≤ l.recs.length then { l with dropped := l.dropped + 1 } else { l with recs := l.recs ++ [rec] }

/-- The request of a recorded store, issued again (R361) with its number. -/
def retryReq (s : State) (r c sl : Nat) (rec : StoreRec) : Req :=
  { blankReq s (if rec.kind = .red then .red else .store) r c sl with
    id := rec.id, va := rec.va, size := if rec.kind = .stv then 128 else rec.sz, mask := rec.mask, data := rec.data, rel := rec.rel,
    scope := rec.scope, op := rec.op, handler := rec.handler, detSeq := rec.detSeq }

/-- CAUSEX of a record (R360). -/
def causeX : Cause → Nat
  | .xlateRange => 1 | .xlateAbsent => 2 | .xlateBad => 3 | .xlatePerm => 4 | .poison => 5 | .copyMcast => 6
  | _ => 0

/-- KIND of a record (R360). -/
def recKindCode : RecKind → Nat
  | .st => 0 | .stv => 1 | .red => 2 | .copy => 3

/-- sz code of a size. -/
def sizeCode (n : Nat) : Nat := if n = 8 then 3 else if n = 4 then 2 else if n = 2 then 1 else 0

/-- TVAL of STORE.FAULT from the reported records and the dropped count (R360). -/
def storeTval (recs : List StoreRec) (dropped : Nat) : Word :=
  match recs with
  | [] => 0
  | f :: _ =>
    BitVec.ofNat 64 (f.fail.toNat % 2 ^ 48 + 2 ^ 48 * (if f.kind = .stv || f.kind = .copy then 0 else sizeCode f.sz) +
      2 ^ 50 * recKindCode f.kind + 2 ^ 52 * causeX f.cause + 2 ^ 56 * min recs.length 8 + 2 ^ 60 * min dropped 7)

/-- Insert a request that is issued again before the younger ones of its strand at its core. -/
def reqIns (q : Req) : List Req → List Req
  | [] => [q]
  | p :: r => if sameObserver p q && q.id < p.id then q :: p :: r else p :: reqIns q r

/-- Report the records of a core (R361): they leave for the retry list, the drop count starts again. -/
def reportRecords (s : State) (r c sl : Nat) : State :=
  modLane s r c sl fun l => { l with recs := [], retry := l.retry ++ l.recs, dropped := 0 }

end Sys2Proof.Machine
end

