-- ==== Sys2Proof/Machine/LandingCore.lean ====
section
/-! DEFINITION. Landing sets: slots, claims and their binding, and what the landing instructions do at one core (R38, R166 to
R171). -/

namespace Sys2Proof.Machine

/-- Is counter value a before b? At most 256 are live, so the difference modulo 2^16 decides (R38). -/
def ctrBefore (a b : BitVec 16) : Bool := a != b && (b - a).toNat < 32768

/-- The slots of a set. -/
def slotsOf (l : Lane) (set : Nat) : List LandSlot := l.land.filter fun q => q.set == set

/-- The earliest slot of a list by a counter. -/
def earliest (f : LandSlot → BitVec 16) (l : List LandSlot) : Option LandSlot :=
  l.foldl (fun b q => match b with
    | none => some q
    | some p => if ctrBefore (f q) (f p) then some q else b) none

/-- Slots occupied at a core over all strands (R38). -/
def physUsed (s : State) (r c : Nat) : Nat := (upTo 8).foldl (fun n sl => n + (getLane s r c sl).land.length) 0

/-- The lowest position that no occupied slot of the set holds (R38). -/
def freePos (l : Lane) (set : Nat) : Nat := ((upTo 16).find? fun p => !((slotsOf l set).any fun q => q.pos == p)).getD 16

/-- Change the slot at a set and position. -/
def modSlot (l : Lane) (set pos : Nat) (f : LandSlot → LandSlot) : Lane :=
  { l with land := l.land.map fun q => if q.set = set && q.pos = pos then f q else q }

/-! Binding (R167, R168). -/

/-- The next claim of a set that can be bound, with its slot: a TAKEO claim whose slot is there, else the oldest open claim
and the unclaimed slot of the oldest arrival. -/
def bindable (l : Lane) (set : Nat) : Option (Claim × LandSlot) :=
  let cs := l.claims.filter fun c => c.set == set && !c.raised
  let slots := slotsOf l set
  let fixed := cs.findSome? fun c =>
    match c.pos with
    | none => none
    | some p => (slots.find? fun q => q.pos == p && q.st != .pending).map fun q => (c, q)
  match fixed with
  | some b => some b
  | none =>
    match cs.find? fun c => c.pos.isNone with
    | none => none
    | some c => (earliest (·.arr) (slots.filter fun q => !q.claimed && q.st != .pending)).map fun q => (c, q)

/-- Bind a claim to an arrived slot: both destinations are written and full, the slot is free (R167). -/
def bindTo (l : Lane) (c : Claim) (q : LandSlot) : Lane :=
  let l := if c.vec then fillV l (BitVec.ofNat 5 c.d) c.ticket q.value
    else fillG l (BitVec.ofNat 5 c.d) c.ticket (q.value.setWidth 64)
  let l := fillG l (BitVec.ofNat 5 c.t) c.ticket (q.tag.setWidth 64)
  { l with land := l.land.filter fun p => !(p.set == q.set && p.pos == q.pos),
           claims := l.claims.filter fun d => d.ticket != c.ticket }

/-- TVAL of a landing trap (R168). -/
def landTval (q : LandSlot) : Word := BitVec.ofNat 64 (q.tag.toNat * 2 ^ 48 + q.addr.toNat)

/-- Bind every claim of a set that can be bound, up to one that meets a poisoned slot: its trap (R168). -/
def bindSet (set : Nat) : Nat → Lane → Lane × Option (Cause × Word × TrapAt)
  | 0, l => (l, none)
  | n + 1, l =>
    match bindable l set with
    | none => (l, none)
    | some (c, q) =>
      if q.st == .poisoned then
        let l := { modSlot l q.set q.pos fun p => { p with claimed := true } with
          claims := l.claims.map fun d => if d.ticket = c.ticket then { d with pos := some q.pos, raised := true } else d }
        (l, some (if q.cause = .poison then .poison else .landFault, landTval q, ⟨c.pc, c.issue, 0⟩))
      else bindSet set n (bindTo l c q)

/-- Mark a slot arrived or poisoned (R166): it takes the next value of the core's arrival counter, then claims are bound. -/
def slotArrives (s : State) (r c sl set pos : Nat) (handler : Bool) (f : LandSlot → LandSlot) : State :=
  if (slotsOf (getLane s r c sl) set).any fun q => q.pos == pos then
    let k := getCore s (coreIx r c)
    let s := modCore s (coreIx r c) fun k => { k with arriveCtr := k.arriveCtr + 1 }
    let (l, t) := bindSet set 17 (modSlot (getLane s r c sl) set pos fun q => { f q with arr := k.arriveCtr })
    let s := setFilled s r c sl l
    match t with
    | some (cause, tval, a) => raiseLand s r c sl cause tval a handler
    | none => s
  else s

/-- A slot becomes poisoned with an address and an underlying cause (R166). -/
def poisonSlot (s : State) (r c sl set pos : Nat) (handler : Bool) (cause : Cause) (va : Word) : State :=
  slotArrives s r c sl set pos handler fun q => { q with st := .poisoned, cause := cause, addr := va.setWidth 48 }

/-- The open claims of a set claim the unclaimed slots in issue order, as TAKEO. Fuel: the claims. -/
def orderClaims (set : Nat) : Nat → Lane → Lane
  | 0, l => l
  | n + 1, l =>
    match l.claims.find? fun c => c.set == set && c.pos.isNone, earliest (·.iss) ((slotsOf l set).filter fun q => !q.claimed) with
    | some c, some q =>
      orderClaims set n { modSlot l q.set q.pos fun p => { p with claimed := true } with
        claims := l.claims.map fun d => if d.ticket = c.ticket then { d with pos := some q.pos } else d }
    | _, _ => l

/-- From the first open claim of a set on, its claims that are not bound give up their slots, which are open again: the lane, with
those claims without a position. A claim made later, of a TAKEO among them, stood on what earlier open claims had not taken. -/
def openClaims (set : Nat) (l : Lane) : Lane :=
  let mine (c : Claim) : Bool := c.set == set && !c.raised
  let late := (l.claims.filter mine).dropWhile fun c => c.pos.isSome
  let again (c : Claim) : Bool := late.any fun d => d.ticket == c.ticket
  let freed (p : Nat) : Bool := late.any fun d => d.pos == some p
  { l with claims := l.claims.map fun c => if again c then { c with pos := none } else c,
           land := l.land.map fun q => if q.set = set && freed q.pos then { q with claimed := false } else q }

/-- A landing slot's load has translated to a DET page (R169, R373): the takes act as if it had been known when they executed, each claim
standing on the slot of its place in the order of claims. DEDUCED from R52, R373 and R374, log 72. -/
def slotDet (set pos : Nat) (l : Lane) : Lane :=
  let l := modSlot l set pos fun p => { p with det := true }
  if l.claims.any fun c => c.set == set && c.pos.isNone then orderClaims set 16 (openClaims set l) else l

/-- Resolve the translation of a landing load: it leaves for its home, or its slot is poisoned (R166, R271). A load that touches
a DET page at all is a load from one. -/
def resolveLanding (s : State) (q : Req) : State :=
  match q.dest, spanXlate s q.row q.col .read q.va q.size q.mask with
  | .slot set pos, .error (c, va) => poisonSlot (dropReq s q.id) q.row q.col q.strand set pos q.handler c va
  | _, .error _ => dropReq s q.id
  | d, .ok (segs, a, b, es) =>
    let s := tlbFill s q.row q.col es
    let s := match d with
      | .slot set pos => if a.det || b.det then modLane s q.row q.col q.strand (slotDet set pos) else s
      | _ => s
    launchReq s { q with segs := segs, attr := a, attr2 := b }

/-- The first waiting landing load whose set has room (R38). -/
def nextWaiter (s : State) (r c : Nat) : Option SlotWait :=
  (getCore s (coreIx r c)).slotQ.find? fun w => (slotsOf (getLane s r c w.strand) w.set).length < 16

/-- A waiting list with an entry added in the order of cycle and strand. -/
def waitIns (w : SlotWait) : List SlotWait → List SlotWait
  | [] => [w]
  | v :: r => if w.cycle < v.cycle || (w.cycle == v.cycle && w.strand < v.strand) then w :: v :: r else v :: waitIns w r

/-- Has the poisoning of a slot at its grant trapped the strand, since an open claim bound it (R168): is the strand no longer where it
was? The instruction is over then, being one that the trap stopped. -/
def landTrapped (x : Ctx) (s t : State) : Bool :=
  let h := getHead s x.r x.sl
  let k := getHead t x.r x.sl
  k.task != h.task || (k.handler && !h.handler)

/-- LDL and LDLV (R166): the checks of execution, the wait for a slot, then the load with the slot as destination. An LDLV that runs past
2^48 is poisoned at its grant, for its lower failing address (R272); DESIGN CHOICE: R166 does not say that its first page is looked
at then, log 92. -/
def landLoad (x : Ctx) (s : State) (t a : BitVec 5) (off : BitVec 11) (size align scale : Nat) (set : BitVec 2) : CoreOut :=
  let st := set.toNat
  let grant (s : State) (addr : Word) (tag : Nat) : CoreOut :=
    let l := x.lane s
    let pos := freePos l st
    let k := getCore s x.core
    let slot : LandSlot := ⟨st, pos, .pending, BitVec.ofNat 16 tag, 0, 0, .landFault, 0, k.issueCtr, false, false⟩
    let s := modCore s x.core fun k =>
      { k with issueCtr := k.issueCtr + 1, slotQ := k.slotQ.filter fun w => w.strand != x.sl }
    let s := x.set s { l with land := l.land ++ [slot] }
    let bad (cause : Cause) (va : Word) : CoreOut :=
      let t := poisonSlot s x.r x.c x.sl st pos x.f.handler cause va
      if landTrapped x s t then .ended t else .done t
    if addr.toNat % align ≠ 0 then bad .memAlign addr
    else if addr.toNat / 2 ^ 48 ≠ 0 then bad .xlateRange addr
    else if 2 ^ 48 < addr.toNat + size then
      match spanXlate s x.r x.c .read addr size (BitVec.allOnes 32) with
      | .error (c, va) => bad c va
      | .ok _ => bad .xlateRange (2 ^ 48)
    else
      let q := { blankReq s .landing x.r x.c x.sl with
        va := addr, size := size, handler := x.f.handler, region := x.f.region, dest := .slot st pos, issue := x.f.issue }
      let s := pushReq s q
      .done (if tlbKnows s x.r x.c addr size then resolveLanding s q else s)
  match x.f.begun with
  | [addr, tag] =>
    if (nextWaiter s x.r x.c).any fun w => w.strand == x.sl && physUsed s x.r x.c < 256 then grant s (BitVec.ofNat 64 addr) tag
    else .wait s x.f.begun 2
  | _ =>
    withSrcs x s [.g a x.f.px.ea, .g t x.f.px.eb] fun l =>
      let addr := laneAddr (rdG l a) off.toNat 11 scale
      let tag := (rdG l t).toNat % 65536
      match watchCheck s x.r x.c x.sl true false addr size (BitVec.allOnes 32) with
      | (s, some h) => .trap s .watch (BitVec.ofNat 64 h)
      | (s, none) =>
        if (slotsOf (x.lane s) st).length < 16 && physUsed s x.r x.c < 256 && (nextWaiter s x.r x.c).isNone then
          grant s addr tag
        else
          let w : SlotWait := ⟨(getRow s x.r).cycle, x.sl, st⟩
          .wait (modCore s x.core fun k => { k with slotQ := waitIns w k.slotQ }) [addr.toNat, tag] 2

/-- LDL at a core (R166). -/
def coreLdl (x : Ctx) (s : State) (t a : BitVec 5) (off : BitVec 11) (sz : Sz) (set : BitVec 2) : CoreOut :=
  landLoad x s t a off (szBytes sz) (szBytes sz) (szBytes sz) set

/-- LDLV at a core (R166). -/
def coreLdlv (x : Ctx) (s : State) (t a : BitVec 5) (off : BitVec 11) (set : BitVec 2) : CoreOut :=
  landLoad x s t a off 128 8 128 set

/-- The takes (R167, R169): an open claim, or one on the unclaimed slot of the oldest issue order. -/
def takeOp (x : Ctx) (s : State) (vec ordered : Bool) (d t : BitVec 5) (set : BitVec 2) : CoreOut :=
  let st := set.toNat
  let l := x.lane s
  let free := (slotsOf l st).filter fun q => !q.claimed
  let opens := l.claims.countP fun c => c.set == st && c.pos.isNone
  if free.length ≤ opens then .done (x.set s (wrG l t (BitVec.allOnes 64)))
  else
    let tk := s.fresh
    let s := { s with fresh := s.fresh + 1 }
    let pos := if ordered || free.any (·.det) then (earliest (·.iss) free).map (·.pos) else none
    let l := match pos with
      | some p => modSlot l st p fun q => { q with claimed := true }
      | none => l
    let l := { l with claims := l.claims ++ [⟨st, pos, tk, vec, d.toNat, t.toNat, x.f.pc, x.f.issue, false⟩] }
    let l := emptyG (if vec then emptyV l d tk else emptyG l d tk) t tk
    let s := x.set s l
    match bindSet st 17 l with
    | (l, some (cause, tval, _)) => .trap (setFilled s x.r x.c x.sl l) cause tval
    | (l, none) => .done (setFilled s x.r x.c x.sl l)

/-- TAKE at a core (R167). -/
def coreTake (x : Ctx) (s : State) (d t : BitVec 5) (set : BitVec 2) : CoreOut := takeOp x s false false d t set

/-- TAKEO at a core (R167). -/
def coreTakeo (x : Ctx) (s : State) (d t : BitVec 5) (set : BitVec 2) : CoreOut := takeOp x s false true d t set

/-- TAKEV at a core (R167). -/
def coreTakev (x : Ctx) (s : State) (d t : BitVec 5) (set : BitVec 2) : CoreOut := takeOp x s true false d t set

/-- LCNT at a core (R170); a claim whose trap has been raised is bound, and so is its poisoned slot (R358). -/
def coreLcnt (x : Ctx) (s : State) (d : BitVec 5) (set : BitVec 2) : CoreOut :=
  let l := x.lane s
  let bound (q : LandSlot) : Bool := l.claims.any fun c => c.raised && c.set == q.set && c.pos == some q.pos
  let n (t : LandState) : Nat := (slotsOf l set.toNat).countP fun q => q.st == t && !bound q
  let clm := l.claims.countP fun c => c.set == set.toNat && !c.raised
  doneG x s l d (BitVec.ofNat 64 (n .pending + 2 ^ 8 * n .arrived + 2 ^ 16 * n .poisoned + 2 ^ 24 * clm))

/-- Drop claims: their destinations are full and keep their values (R36, R414). -/
def dropClaims (drop : Claim → Bool) (l : Lane) : Lane :=
  let l := (l.claims.filter drop).foldl (fun l c =>
    keepG (if c.vec then keepV l (BitVec.ofNat 5 c.d) c.ticket else keepG l (BitVec.ofNat 5 c.d) c.ticket)
      (BitVec.ofNat 5 c.t) c.ticket) l
  { l with claims := l.claims.filter fun c => !drop c }

/-- LDROP at a core (R170): waits for the claims, then frees every slot; data of a pending load is discarded. -/
def coreLdrop (x : Ctx) (s : State) (set : BitVec 2) : CoreOut :=
  let l := x.lane s
  if l.claims.any fun c => c.set == set.toNat && !c.raised then .wait s [] 1
  else
    let l := dropClaims (fun c => c.set == set.toNat) l
    let s := x.set s { l with land := l.land.filter fun q => q.set != set.toNat }
    .done { s with reqs := s.reqs.map fun q =>
      if q.row == x.r && q.col == x.c && q.strand == x.sl && (match q.dest with
        | .slot n _ => n == set.toNat
        | _ => false) then { q with dest := .no } else q }

end Sys2Proof.Machine
end

