-- ==== Sys2Proof/Machine/MemoryCore.lean ====
section
/-! DEFINITION. What the memory and pool instructions do at one core (R157 to R164, R176, R177). -/

namespace Sys2Proof.Machine

/-- Start a load (R158, R161): alignment, the wait for walks (R270), watch, translation, then the request, with the
destination empty from here on. fill completes the request; dst empties the destination for the request's ticket. -/
def loadOp (x : Ctx) (s : State) (addr : Word) (align size : Nat) (mask : BitVec 32) (fill : Req → Req)
    (dst : Nat → Lane → Lane) : CoreOut :=
  if addr.toNat % align ≠ 0 then .trap s .memAlign addr
  else
    match laneGate s x.r x.c x.sl addr size mask 0 x.f.handler with
    | .wait s => .wait s [] 0
    | .go s fails since =>
      match watchCheck s x.r x.c x.sl true false addr size mask with
      | (s, some a) => .trap s .watch (BitVec.ofNat 64 a)
      | (s, none) =>
        match spanXlateWith s fails x.r x.c .read addr size mask with
        | .error (c, va) => .trap s c va
        | .ok (segs, attr, attr2, es) =>
          let s := tlbFill s x.r x.c es
          let q := fill { blankReq s .load x.r x.c x.sl with
            pc := x.f.pc, issue := x.f.issue, since := since,
            va := addr, segs := segs, attr := attr, attr2 := attr2, size := size, mask := mask, handler := x.f.handler,
            region := x.f.region, bound := segsBound segs }
          let s := pushReq (x.set s (dst q.id (x.lane s))) q
          .done (sendReq s q)

/-- LD and LDN (R158): signed or natural. -/
def loadG (x : Ctx) (s : State) (signed : Bool) (d a : BitVec 5) (off : BitVec 12) (sz : Sz) (acq : Bool) : CoreOut :=
  let n := szBytes sz
  withSrcs x s [.g a x.f.px.ea] fun l =>
    loadOp x s (laneAddr (rdG l a) off.toNat 12 n) n n (BitVec.allOnes 32)
      (fun q => { q with signed := signed, acq := acq, scope := scopeOf x.f.px.c, dest := .g d.toNat q.id })
      fun t l => emptyG l d t

/-- LD at a core (R158). -/
def coreLd (x : Ctx) (s : State) (d a : BitVec 5) (off : BitVec 12) (sz : Sz) (acq : Bool) : CoreOut :=
  loadG x s true d a off sz acq

/-- LDN at a core (R158, R69). -/
def coreLdn (x : Ctx) (s : State) (d a : BitVec 5) (off : BitVec 12) (sz : Sz) (acq : Bool) : CoreOut :=
  loadG x s false d a off sz acq

/-- The 32 element bits of the instruction's mask (R161). -/
def accessMask (x : Ctx) (l : Lane) : BitVec 32 := (rdM l x.f.px.msk).setWidth 32

/-- The elements of an inactive access: the old vector or zeros (R161). -/
def maskBase (x : Ctx) (l : Lane) (d : BitVec 5) : Vec := if x.f.px.mz then 0 else rdV l d

/-- LDV at a core (R161): with no active element vd is written at once. -/
def coreLdv (x : Ctx) (s : State) (d a : BitVec 5) (off : BitVec 11) (acq : Bool) : CoreOut :=
  withSrcs x s ([.g a x.f.px.ea] ++ mergeSrc d x.f.px) fun l =>
    let addr := laneAddr (rdG l a) off.toNat 11 128
    let mask := accessMask x l
    if addr.toNat % 8 ≠ 0 then .trap s .memAlign addr
    else if mask = 0 then .done (putV x s d (maskBase x l d))
    else loadOp x s addr 8 128 mask
      (fun q => { q with acq := acq, scope := scopeOf x.f.px.c, dest := .v d.toNat q.id, data := maskBase x l d })
      fun t l => emptyV l d t

/-- Post a store (R159, R177): alignment, room for a record, watch; translation and faults come later. -/
def storeOp (x : Ctx) (s : State) (addr : Word) (align size : Nat) (mask : BitVec 32) (data : Vec) (rel : Bool) : CoreOut :=
  if addr.toNat % align ≠ 0 then .trap s .memAlign addr
  else if 8 ≤ (x.lane s).recs.length then .wait s [] 12
  else
    match watchCheck s x.r x.c x.sl false true addr size mask with
    | (s, some a) => .trap s .watch (BitVec.ofNat 64 a)
    | (s, none) =>
      let q := { blankReq s .store x.r x.c x.sl with
        va := addr, size := size, mask := mask, data := data, rel := rel, scope := scopeOf x.f.px.c,
        handler := x.f.handler, region := x.f.region }
      let s := pushReq s q
      .done (if tlbKnows s x.r x.c addr size then resolveReq s q .write else s)

/-- ST at a core (R159). -/
def coreSt (x : Ctx) (s : State) (d a : BitVec 5) (off : BitVec 12) (sz : Sz) (rel : Bool) : CoreOut :=
  let n := szBytes sz
  withSrcs x s [.g a x.f.px.ea, .g d x.f.px.eb] fun l =>
    storeOp x s (laneAddr (rdG l a) off.toNat 12 n) n n (BitVec.allOnes 32)
      (BitVec.ofNat 1024 ((rdG l d).toNat % 2 ^ (8 * n))) rel

/-- STV at a core (R161): with no active element it performs no access; it too waits for room for a record (R177). -/
def coreStv (x : Ctx) (s : State) (d a : BitVec 5) (off : BitVec 11) (rel : Bool) : CoreOut :=
  withSrcs x s [.g a x.f.px.ea, .v d x.f.px.eb] fun l =>
    let addr := laneAddr (rdG l a) off.toNat 11 128
    let mask := accessMask x l
    if addr.toNat % 8 ≠ 0 then .trap s .memAlign addr
    else if 8 ≤ l.recs.length then .wait s [] 12
    else if mask = 0 then .done s
    else storeOp x s addr 8 128 mask (rdV l d) rel

/-! Pool accesses (R163, R164). -/

/-- Is any active byte of a pool access in a range? -/
def poolTouches (off size : Nat) (mask : BitVec 32) (lo hi : Nat) : Bool :=
  (upTo size).any fun o => (size < 128 || mask.getLsbD (o / 4)) && lo ≤ off + o && off + o < hi

/-- Checks of a pool access (R163), the wait for an acquire that orders it (R318, R325), then go on. -/
def poolChecked (x : Ctx) (s : State) (off : Word) (align size : Nat) (mask : BitVec 32) (store : Bool) (k : Nat → CoreOut) :
    CoreOut :=
  let o := off.toNat
  if o % align ≠ 0 then .trap s .memAlign off
  else if poolTouches o size mask (scratchSize (pwordOf s x.r)) (2 ^ 65) then .trap s .poolBound off
  else if store && poolTouches o size mask 0 0x800 then .trap s .poolBound off
  else if acqPending s x.r x.c x.sl then .wait s [] 0
  else k o

/-- The poisoned granule that the active bytes of a pool read touch first (R261). -/
def poolReadBad (k : Core) (o size : Nat) (mask : BitVec 32) : Option Nat :=
  if k.poolPoison.isEmpty then none
  else ((upTo size).find? fun i => (size < 128 || mask.getLsbD (i / 4)) && isIn ((o + i) / 64) k.poolPoison).map fun i =>
    (o + i) / 64 * 64

/-- LDP at a core (R163). -/
def coreLdp (x : Ctx) (s : State) (d a : BitVec 5) (off : BitVec 12) (sz : Sz) : CoreOut :=
  let n := szBytes sz
  withSrcs x s [.g a x.f.px.ea] fun l =>
    poolChecked x s (laneAddr (rdG l a) off.toNat 12 n) n n (BitVec.allOnes 32) false fun o =>
      match poolReadBad (getCore s x.core) o n (BitVec.allOnes 32) with
      | some g => .trap s .poison (BitVec.ofNat 64 g)
      | none =>
        let v := BitVec.ofNat 64 (poolRdN (getCore s x.core) o n)
        let s := notePoolRead s x.r x.c x.sl (poolWords x.core o n)
        doneG x s (x.lane s) d v

/-- STP at a core (R163). -/
def coreStp (x : Ctx) (s : State) (d a : BitVec 5) (off : BitVec 12) (sz : Sz) : CoreOut :=
  let n := szBytes sz
  withSrcs x s [.g a x.f.px.ea, .g d x.f.px.eb] fun l =>
    poolChecked x s (laneAddr (rdG l a) off.toNat 12 n) n n (BitVec.allOnes 32) true fun o =>
      .done (notePoolWrite (modCore s x.core fun k => poolWrN k o n (rdG l d).toNat) x.r x.c x.sl (poolWords x.core o n))

/-- LDPV at a core (R163): complete when it executes. -/
def coreLdpv (x : Ctx) (s : State) (d a : BitVec 5) (off : BitVec 12) : CoreOut :=
  withSrcs x s ([.g a x.f.px.ea] ++ mergeSrc d x.f.px) fun l =>
    let mask := accessMask x l
    poolChecked x s (laneAddr (rdG l a) off.toNat 12 128) 8 128 mask false fun o =>
      let k := getCore s x.core
      match poolReadBad k o 128 mask with
      | some g => .trap s .poison (BitVec.ofNat 64 g)
      | none =>
        let base := maskBase x l d
        .done (putV x (notePoolRead s x.r x.c x.sl (poolVWords x.core o mask)) d (ofElems 32 ((upTo 32).map fun j =>
          if mask.getLsbD j then poolRdN k (o + 4 * j) 4 else elem base 32 j)))

/-- A core with the active 4-byte elements of a vector written to its pool; a granule written whole loses its poison (R262). -/
def poolWrV (k : Core) (o : Nat) (mask : BitVec 32) (v : Vec) : Core :=
  let k := (upTo 32).foldl (fun k j =>
    if mask.getLsbD j then { k with pool := memWrN k.pool (o + 4 * j) 4 (elem v 32 j) } else k) k
  let whole (g : Nat) : Bool := (upTo 128).countP (fun i => mask.getLsbD (i / 4) && (o + i) / 64 == g) == 64
  { k with poolPoison := k.poolPoison.filter fun g => !whole g }

/-- STPV at a core (R163). -/
def coreStpv (x : Ctx) (s : State) (d a : BitVec 5) (off : BitVec 12) : CoreOut :=
  withSrcs x s [.g a x.f.px.ea, .v d x.f.px.eb] fun l =>
    let mask := accessMask x l
    poolChecked x s (laneAddr (rdG l a) off.toNat 12 128) 8 128 mask true fun o =>
      .done (notePoolWrite (modCore s x.core fun k => poolWrV k o mask (rdV l d)) x.r x.c x.sl (poolVWords x.core o mask))

/-! Ordering (R176, R177). -/

/-- Is an access outstanding that FENCE of a scope waits for (R176, R324), the row read of an HTAKE among them (R254)? -/
def fenceWaits (x : Ctx) (s : State) (sc : Scope) : Bool :=
  !(rowsUnread s x.r x.c x.sl s.fresh).isEmpty || s.reqs.any fun q =>
    q.row == x.r && q.col == x.c && q.strand == x.sl && plainKind q.kind && !setAside s x.f.handler q &&
    (!isWriteKind q.kind || sc == .sys || q.segs.isEmpty || q.segs.any fun u => regionOf u.1 == .cellar)

/-- FENCE at a core (R176). -/
def coreFence (x : Ctx) (s : State) : CoreOut := if fenceWaits x s (scopeOf x.f.px.c) then .wait s [] 19 else .done s

/-- DRAINST at a core (R177). -/
def coreDrainst (x : Ctx) (s : State) : CoreOut :=
  if s.reqs.any fun q => q.row == x.r && q.col == x.c && q.strand == x.sl && (q.kind == .store || q.kind == .red) &&
      !setAside s x.f.handler q then
    .wait s [] 19
  else .done s

/-! Named barriers (R178 to R180). -/

/-- The barrier record of a core. -/
def barOf (k : Core) (n : BitVec 5) : Barrier := k.bars[n.toNat]

/-- Complete the generation where the tally has reached the count. -/
def barComplete (b : Barrier) : Barrier := if b.count ≤ b.tally then { b with tally := 0, gen := b.gen + 1 } else b

/-- The arrival of BARA (R178, R180): it orders the strand's outstanding accesses at the core, and those that an earlier barrier
orders before them (R325), before the generation's completion. -/
def barArrive (x : Ctx) (s : State) (n : BitVec 5) : State :=
  let l := x.lane s
  let k := getCore s x.core
  let b := barOf k n
  let a := (l.arrivals.find? fun p => p.1 == n.toNat).map (·.2)
  let note (a : Arrival) : State := x.set s { l with arrivals := tput l.arrivals n.toNat a }
  let count : State :=
    let s := note ⟨b.gen, some x.f.region, false⟩
    let mine := (s.reqs.filter fun q =>
      !reqDone q && ((q.row == x.r && q.col == x.c && q.strand == x.sl) || isIn q.id l.after)).map fun q => (b.gen, q.id)
    let live := b.pend.filter fun p => s.reqs.any fun q => q.id == p.2
    modCore s x.core fun k => { k with bars := k.bars.set n.toNat (barComplete { b with tally := b.tally + 1, pend := live ++ mine }) }
  match a with
  | none => count
  | some a =>
    if a.gen = b.gen then note { a with rewound := false }
    else if a.rewound && a.region == some (getHead s x.r x.sl).region then note { a with rewound := false }
    else count

/-- The wait of BARW: on completion the arrivals' accesses are ordered before the strand's later ones (R179, R325). -/
def barWait (x : Ctx) (s : State) (n : BitVec 5) (begun : List Nat) : CoreOut :=
  let l := x.lane s
  let b := barOf (getCore s x.core) n
  match l.arrivals.find? fun p => p.1 == n.toNat with
  | none => .done s
  | some (_, a) =>
    if b.gen ≤ a.gen then .wait s begun 3
    else
      let seen := (b.pend.filter fun p => p.1 ≤ a.gen).map (·.2)
      let live := l.after.filter fun i => s.reqs.any fun q => q.id == i
      .done (x.set s { l with after := live ++ seen.filter fun i => !isIn i live })

/-- BARA at a core (R178). -/
def coreBara (x : Ctx) (s : State) (n : BitVec 5) : CoreOut := .done (barArrive x s n)

/-- BARW at a core (R178). -/
def coreBarw (x : Ctx) (s : State) (n : BitVec 5) : CoreOut := barWait x s n []

/-- BAR at a core (R178): the arrival once, then the wait. -/
def coreBar (x : Ctx) (s : State) (n : BitVec 5) : CoreOut :=
  if x.f.begun.isEmpty then barWait x (barArrive x s n) n [1] else barWait x s n [1]

/-- BARI at a core (R178). -/
def coreBari (x : Ctx) (s : State) (n a : BitVec 5) : CoreOut :=
  withSrcs x s [.g a x.f.px.ea] fun l =>
    let v := rdG l a
    if v = 0 || (constWord (getCore s x.core) 230).toNat < v.toNat then .trap s .barCount v
    else .done (modCore s x.core fun k =>
      { k with bars := k.bars.set n.toNat (barComplete { barOf k n with count := v.toNat }) })

end Sys2Proof.Machine
end

