-- ==== Sys2Proof/Machine/EngineCore.lean ====
section
/-! DEFINITION. What the Press, ring, Hatch, copy and lane system instructions do at one core (R203 to R242, R413, R414). -/

namespace Sys2Proof.Machine

/-! Outcomes of the two passes of a committing instruction (R165). -/

/-- The check pass at a core: operands read, a wait for a source, or a trap. -/
inductive CheckOut
  | ok (s : State) (ops : List Nat)
  | wait (s : State) (why : Nat)
  | trap (s : State) (c : Cause) (tval : Word)

/-- A check pass that goes on with its sources full (R150). -/
def checkSrcs (x : Ctx) (s : State) (srcs : List Src) (k : Lane → CheckOut) : CheckOut :=
  let l := x.lane s
  match srcs.find? (srcEmpty l) with
  | some e =>
    match srcTval e with
    | some v => .trap s .empty v
    | none => .wait s 1
  | none =>
    match srcs.findSome? (srcPoison x s l) with
    | some v => .trap s .poison v
    | none => k l

/-- The perform step at a core: accepted, or still waiting with a WHY code. -/
inductive PerformOut
  | accepted (s : State)
  | pending (s : State) (why : Nat)

/-! Rings (R206 to R208). -/

/-- Is a transfer into a ring of a strand in flight at a core (R206, R242): of an accepted HTAKE, or of a copy with granules to
inject or under way? A granule that was lost is in flight no more; its bytes stay unwritten (log 74). -/
def ringBusy (s : State) (r c sl n : Nat) : Bool :=
  let k := getCore s (coreIx r c)
  let mine (q : Copy) : Bool := q.strand == sl && q.dst == .ring && q.dstVal.toNat == n
  (k.transfers.any fun t => t.strand == sl && t.ring == n) || (k.chans.toList.any fun q => q.any mine) || k.issued.any mine

/-- RCFG at a core (R206). -/
def coreRcfg (x : Ctx) (s : State) (q : BitVec 3) (a b : BitVec 5) : CoreOut :=
  withSrcs x s [.g a false, .g b false] fun l =>
    let n := q.toNat
    let base := (rdG l a).toNat
    let gb := rdG l b
    let ssz := gb.getLsbD 21
    let scnt := bits gb 22 5
    let z := if ssz then 512 else 16384
    if ringBusy s x.r x.c x.sl n then .wait s [] 4
    else if (gb &&& ~~~0x7E00000) != 0 || scnt = 1 || 16 < scnt ||
        (scnt != 0 && (base % 512 != 0 || base < 0x800 || scratchSize (pwordOf s x.r) < base + z * scnt)) then
      .trap s .ringCfg gb
    else if (getCore s x.core).press.any fun c => c.strand == x.sl && cmdUses c n then
      .trap s .ringBusy (BitVec.ofNat 64 n)
    else .done (x.set s (setRing l n { Ring.reset with base := base, ssz := ssz, scnt := scnt }))

/-- Check pass of RPUSH (R207). -/
def checkRpush (x : Ctx) (s : State) (q : BitVec 3) (a : BitVec 5) : CheckOut :=
  checkSrcs x s [.v a false] fun l =>
    if (ringOf l q.toNat).on then .ok s [(rdV l a).toNat] else .trap s .ringCfg (q.setWidth 64)

/-- Perform step of RPUSH (R207). -/
def performRpush (x : Ctx) (s : State) (q : BitVec 3) (ops : List Nat) : PerformOut :=
  let l := x.lane s
  let g := ringOf l q.toNat
  if g.room 128 then
    let (g, p) := g.reserve 128
    let s := x.set s (setRing l q.toNat (g.wrote p 128))
    let v := ops.headD 0
    .accepted (modCore s x.core fun k => ringPut k g p 128 v)
  else .pending s 4

/-- RSTAT at a core (R208). -/
def coreRstat (x : Ctx) (s : State) (d : BitVec 5) (q : BitVec 3) : CoreOut :=
  let l := x.lane s
  doneG x s l d (ringOf l q.toNat).word

/-! Press (R210 to R217). -/

/-- Check pass of MMA (R212). DESIGN CHOICE: the rule gives no order of the rings; TVAL shows the first that fails of qa, qb, qa + 1,
qb + 1, log 93. -/
def checkMma (x : Ctx) (s : State) (fmt : PressFmt) (qa qb : BitVec 3) : CheckOut :=
  let l := x.lane s
  let bad (n : Nat) (scale : Bool) : Bool := !(ringOf l n).on || (ringOf l n).ssz != scale
  let rings : List (Nat × Bool) :=
    [(qa.toNat, false), (qb.toNat, false)] ++ if pairs fmt then [(qa.toNat + 1, true), (qb.toNat + 1, true)] else []
  match rings.find? fun p => bad p.1 p.2 with
  | some p => .trap s .ringCfg (BitVec.ofNat 64 p.1)
  | none => .ok s []

/-- A command enters the Press queue while it holds fewer than 16 (R204, R210). -/
def performPress (x : Ctx) (s : State) (op : PressOp) (tile : Nat) : PerformOut :=
  let k := getCore s x.core
  if 16 ≤ k.press.length then .pending s 16
  else .accepted (modCore s x.core fun k =>
    { k with press := k.press ++ [⟨k.pressNum, x.sl, op, tile, x.f.handler⟩], pressNum := k.pressNum + 1 })

/-- Check pass of MLOAD (R214): both registers and the row are read. -/
def checkMload (x : Ctx) (s : State) (a b : BitVec 5) : CheckOut :=
  checkSrcs x s [.v a false, .v (a + 1) false, .g b false] fun l =>
    if 64 ≤ (rdG l b).toNat then .trap s .pressRow (rdG l b)
    else .ok s [(rdV l a).toNat, (rdV l (a + 1)).toNat, (rdG l b).toNat]

/-- Perform step of MLOAD. -/
def performMload (x : Ctx) (s : State) (t : Nat) (ops : List Nat) : PerformOut :=
  performPress x s (.mload (ops.getD 2 0) (BitVec.ofNat 1024 (ops.getD 0 0)) (BitVec.ofNat 1024 (ops.getD 1 0))) t

/-- MDRAIN at a core (R215): vd and vd + 1 are empty until the read. -/
def coreMdrain (x : Ctx) (s : State) (d : BitVec 5) (t : BitVec 6) (b : BitVec 5) : CoreOut :=
  withSrcs x s [.g b false] fun l =>
    if 64 ≤ (rdG l b).toNat then .trap s .pressRow (rdG l b)
    else
      let tk := s.fresh
      let mine := ((getCore s x.core).press.filter fun c => c.strand == x.sl).map (·.num)
      let l := emptyV (emptyV l d tk) (d + 1) tk
      .done { x.set s { l with drains := l.drains ++ [⟨d.toNat, t.toNat, (rdG l b).toNat, tk, x.f.region, mine,
        if mine.isEmpty then some (getRow s x.r).cycle else none⟩] } with fresh := s.fresh + 1 }

/-- MWAIT at a core (R216). -/
def coreMwait (x : Ctx) (s : State) : CoreOut :=
  if ((getCore s x.core).press.any fun c => c.strand == x.sl) || !(x.lane s).drains.isEmpty then .wait s [] 7 else .done s

/-- Is the head stage of every ring that an MMA step reads complete (R211)? -/
def stagesReady (l : Lane) (fmt : PressFmt) (qa qb : Nat) : Bool :=
  1 ≤ (ringOf l qa).fcnt && 1 ≤ (ringOf l qb).fcnt &&
  (!pairs fmt || (1 ≤ (ringOf l (qa + 1)).fcnt && 1 ≤ (ringOf l (qb + 1)).fcnt))

/-- Does the front command wait for ring stages (R217)? -/
def pressStalls (x : Ctx) (s : State) : Bool :=
  let k := getCore s x.core
  k.running.isNone &&
  match k.press with
  | c :: _ =>
    match c.op with
    | .mma _ fmt qa qb _ => !stagesReady (getLane s x.r x.c c.strand) fmt qa qb
    | _ => false
  | [] => false

/-- Steps not yet retired of a strand's oldest queued MMA (R217). -/
def pressRem (k : Core) (sl : Nat) : Nat :=
  (k.press.findSome? fun c => if c.strand == sl then
    (match c.op with
     | .mma _ _ _ _ rep => some rep
     | _ => none) else none).getD 0

/-- MSTAT at a core (R217). -/
def coreMstat (x : Ctx) (s : State) (d : BitVec 5) : CoreOut :=
  let k := getCore s x.core
  let l := x.lane s
  let mine := k.press.countP fun c => c.strand == x.sl
  doneG x s l d (BitVec.ofNat 64 (k.press.length + 2 ^ 8 * mine + 2 ^ 16 * pressRem k x.sl +
    (if pressStalls x s then 2 ^ 24 else 0) + 2 ^ 32 * l.pressDone.toNat))

/-! Hatch (R220 to R226). -/

/-- The slot of a core. -/
def slotOf (k : Core) (n : BitVec 2) : HatchSlot := k.hatch[n.toNat]

/-- Does a slot hold its row open? -/
def slotHolds (h : HatchSlot) : Bool := h.st == .opening || h.st == .ready

/-- Is a bank held by a slot of the core other than one? -/
def bankHeld (k : Core) (except_ : Option Nat) (bank : Nat) : Bool :=
  (upTo 4).any fun i => some i != except_ && match k.hatch.toList[i]? with
    | some h => slotHolds h && bankOf h.row == bank
    | none => false

/-- Is a physical address in the Cellar vault above a core? -/
def ownVault (core pa : Nat) : Bool := regionOf pa == .cellar && vaultOf pa == core

/-- HOPEN at a core (R221). Where HSHUT has freed the slot and its row is still open for a transfer (R224), the open of that row
keeps it: DESIGN CHOICE, log 81. -/
def coreHopen (x : Ctx) (s : State) (force : Bool) (n : BitVec 2) (a : BitVec 5) : CoreOut :=
  withSrcs x s [.g a false] fun l =>
    let addr := rdG l a
    if addr.toNat % 2048 ≠ 0 then .trap s .hatchAlign addr
    else
      match laneGate s x.r x.c x.sl addr 1 (BitVec.allOnes 32) 3 x.f.handler with
      | .wait s => .wait s [] 0
      | .go s fails _ =>
        match laneXlateWith s fails x.r x.c .read addr with
        | .error c => .trap s c addr
        | .ok (pa, at_, e) =>
          let s := tlbFill s x.r x.c [e]
          let k := getCore s x.core
          let h := slotOf k n
          if !ownVault x.core pa then .trap s .hatchVault addr
          else if h.st != .free && h.owner != x.sl then .trap s .hatchOwner addr
          else if slotHolds h && h.row == pa then
            .done (if h.shut then modCore s x.core fun k => { k with hatch := k.hatch.set n.toNat { h with shut := false } } else s)
          else if h.st != .free && !force then .trap s .hatchBusy addr
          else if bankHeld k (some n.toNat) (bankOf pa) then .trap s .hatchBank addr
          else .done (modCore s x.core fun k =>
            { k with hatch := k.hatch.set n.toNat ⟨.opening, x.sl, pa, attrKey s at_, none, false⟩,
                     opens := (k.opens.filter fun o => o != .slot n.toNat) ++ [.slot n.toNat] })

/-- Check pass of HTAKE (R222). DESIGN CHOICE: by its owner, on a slot that HSHUT has shut while a transfer of its row is under way (R224), it
passes, and takes a further transfer where the slot has not become FREE by its perform step, log 81. -/
def checkHtake (x : Ctx) (s : State) (n : BitVec 2) (q : BitVec 3) : CheckOut :=
  let h := slotOf (getCore s x.core) n
  let g := ringOf (x.lane s) q.toNat
  if h.st != .free && h.owner != x.sl then .trap s .hatchOwner (n.setWidth 64)
  else if h.st == .free then .trap s .hatchNorow (n.setWidth 64)
  else if h.st == .closed then .trap s .hatchClosed (n.setWidth 64)
  else if !g.on || g.z * g.scnt < 2048 then .trap s .ringCfg (q.setWidth 64)
  else .ok s []

/-- A row as it stands at the vault, read under a key: its bytes and its poisoned granules by number (R253, R261). -/
def rowNow (s : State) (row : Nat) (key : Option (BitVec 256)) : Nat × List Nat :=
  (physRdN s key row 2048, (upTo 32).filter fun i => (physBad s (row + 64 * i) 64).isSome)

/-- Perform step of HTAKE (R222): after the strand's earlier acquires (R254), READY and 2,048 bytes of room, then the transfer
is accepted. It starts, and reads its row, at once where no earlier transfer of the core is under way (R249, R253). -/
def performHtake (x : Ctx) (s : State) (n : BitVec 2) (q : BitVec 3) : PerformOut :=
  let l := x.lane s
  let h := slotOf (getCore s x.core) n
  let g := ringOf l q.toNat
  if acqPending s x.r x.c x.sl then .pending s 0
  else if h.st != .ready then .pending s 5
  else if !g.room 2048 then .pending s 4
  else
    let (g, p) := g.reserve 2048
    let s := x.set s (setRing l q.toNat g)
    .accepted (modCore { s with fresh := s.fresh + 1 } x.core fun k =>
      { k with transfers := k.transfers ++ [⟨s.fresh, x.sl, n.toNat, h.row, h.key, q.toNat, p, (getRow s x.r).cycle,
        if k.transfers.isEmpty then some (rowNow s h.row h.key) else none⟩] })

/-- HPUT at a core (R223). -/
def coreHput (x : Ctx) (s : State) (a b : BitVec 5) : CoreOut :=
  withSrcs x s [.g a false, .g b false] fun l =>
    let addr := rdG l a
    let off := rdG l b
    if addr.toNat % 2048 ≠ 0 then .trap s .hatchAlign addr
    else if off.toNat % 256 ≠ 0 then .trap s .memAlign off
    else if scratchSize (pwordOf s x.r) < off.toNat + 2048 then .trap s .poolBound off
    else
      match laneGate s x.r x.c x.sl addr 1 (BitVec.allOnes 32) 3 x.f.handler with
      | .wait s => .wait s [] 0
      | .go s fails since =>
        match laneXlateWith s fails x.r x.c .write addr with
        | .error c => .trap s c addr
        | .ok (pa, at_, e) =>
          let s := tlbFill s x.r x.c [e]
          if !ownVault x.core pa then .trap s .hatchVault addr
          else if bankHeld (getCore s x.core) none (bankOf pa) then .trap s .hatchBank addr
          else
            let id := s.fresh
            .done { modCore s x.core fun k =>
              { k with hputs := k.hputs ++ [⟨id, x.sl, pa, attrKey s at_, off.toNat, addr, x.f.handler, none, since⟩],
                       opens := k.opens ++ [.put id] } with fresh := s.fresh + 1 }

/-- Is a transfer of a slot's row under way (R224, R220)? -/
def slotMoving (k : Core) (n : Nat) (h : HatchSlot) : Bool := k.transfers.any fun t => t.hatch == n && t.row == h.row

/-- HSHUT at a core (R224): the slot becomes FREE, once a transfer of its row that is under way has ended. -/
def coreHshut (x : Ctx) (s : State) (n : BitVec 2) : CoreOut :=
  let h := slotOf (getCore s x.core) n
  if h.st == .free then .done s
  else if h.owner != x.sl then .trap s .hatchOwner (n.setWidth 64)
  else if slotMoving (getCore s x.core) n.toNat h then
    .done (modCore s x.core fun k => { k with hatch := k.hatch.set n.toNat { h with shut := true } })
  else .done (modCore s x.core fun k =>
    { k with hatch := k.hatch.set n.toNat ⟨.free, 0, 0, none, none, false⟩, opens := k.opens.filter fun o => o != .slot n.toNat })

/-- HWAIT at a core (R225): the HPUTs that any strand executed before it. -/
def coreHwait (x : Ctx) (s : State) : CoreOut :=
  let live := (getCore s x.core).hputs.map (·.id)
  let mine := if x.f.begun.isEmpty then live else x.f.begun.filter fun i => isIn i live
  if mine.isEmpty then .done s else .wait s mine 8

/-- HSTAT at a core (R226). -/
def coreHstat (x : Ctx) (s : State) (d : BitVec 5) : CoreOut :=
  let k := getCore s x.core
  let one (h : HatchSlot) : Nat :=
    match h.st with
    | .free => 0
    | .opening => 1 + 4 * h.owner + if h.owner = x.sl then 32 else 0
    | .ready => 2 + 4 * h.owner + if h.owner = x.sl then 32 else 0
    | .closed => 3 + 4 * h.owner + if h.owner = x.sl then 32 else 0
  doneG x s (x.lane s) d (BitVec.ofNat 64 (k.hatch.toList.foldr (fun h acc => one h + 256 * acc) 0 % 2 ^ 32 +
    2 ^ 32 * (k.hputs.length % 256)))

/-! Copies (R228 to R236). -/

/-- Scratch offset and device core of a remote operand; none for a core outside the partition or reserved bits (R228). -/
def remoteOperand (s : State) (r : Nat) (v : Word) : Option (Nat × Nat) :=
  match (getRow s r).part with
  | none => none
  | some p =>
    let i := bits v 48 16
    if bits v 21 27 = 0 && i < 16 * partRows (getPart s p) then some (16 * (getPart s p).first + i, bits v 0 21) else none

/-- The first failing check of a copy's operands (R229): cause and TVAL. src and dst are the register values, n the count. -/
def copyBad (s : State) (r : Nat) (l : Lane) (src : CopySrc) (dst : CopyDst) (sv dv n : Word) (ring : Nat) : Option (Cause × Word) :=
  let S := scratchSize (pwordOf s r)
  let c := n.toNat
  let poolSrc := src == .pool || src == .remote
  let poolDst := dst == .pool || dst == .remote
  let so := if src = .remote then bits sv 0 21 else sv.toNat
  let d_ := if dst = .remote then bits dv 0 21 else dv.toNat
  if c % 64 ≠ 0 || 2 ^ 24 < c || ((poolSrc || poolDst) && S < c) then some (.copyArg, n)
  else if so % 64 ≠ 0 then some (.memAlign, BitVec.ofNat 64 so)
  else if (poolDst || dst == .global) && d_ % 64 ≠ 0 then some (.memAlign, BitVec.ofNat 64 d_)
  else if poolSrc && c ≠ 0 && S < so + c then some (.poolBound, BitVec.ofNat 64 so)
  else if poolDst && c ≠ 0 && (d_ < 0x800 || S < d_ + c) then some (.poolBound, BitVec.ofNat 64 d_)
  else if src == .remote && (remoteOperand s r sv).isNone then some (.copyArg, sv)
  else if dst == .remote && (remoteOperand s r dv).isNone then some (.copyArg, dv)
  else if dst == .ring && !(ringOf l ring).on then some (.ringCfg, BitVec.ofNat 64 ring)
  else none

/-- The copies in a channel of a core. -/
def chanOf (k : Core) (ch : Nat) : List Copy := k.chans.toList.getD ch []

/-- A copy enters its channel and joins the strand's open copies (R229, R234). -/
def enterChan (x : Ctx) (s : State) (c : Copy) : State :=
  let s := modCore s x.core fun k => { k with chans := k.chans.setIfInBounds c.chan (chanOf k c.chan ++ [c]) }
  let s := x.set s (let l := x.lane s; { l with openCopies := l.openCopies ++ [c.id] })
  { s with fresh := s.fresh + 1 }

/-- The record of a copy about to enter its channel. -/
def copyRec (x : Ctx) (s : State) (src : CopySrc) (dst : CopyDst) (ch : Nat) (sv dv n : Word) : Copy :=
  let h := getHead s x.r x.sl
  { id := s.fresh, strand := x.sl, chan := ch, src := src, srcVal := sv, dst := dst, dstVal := dv, count := n.toNat, done := 0,
    scope := scopeOf x.f.px.c, handler := x.f.handler, ringAt := 0, red := none, flying := 0, detSeq := h.detSeq,
    task := h.task.getD 0, zero := false, subs := [], ports := [], ask := none,
    after := (s.reqs.filter fun q => (acqOpen q && q.row == x.r && q.col == x.c && q.strand == x.sl) ||
      (!reqDone q && isIn q.id (x.lane s).after)).map (·.id) }

/-- Sources of a copy: address and count, and the destination register unless it is a ring. -/
def copySrcs (dst : CopyDst) (d a b : BitVec 5) : List Src :=
  [.g a false, .g b false] ++ if dst = .ring then [] else [.g d false]

/-- COPY to another destination than a ring, at a core (R229): checks, then room in the channel. -/
def coreCopy (x : Ctx) (s : State) (src : CopySrc) (dst : CopyDst) (ch : BitVec 2) (d a b : BitVec 5) : CoreOut :=
  let enter (s : State) (sv dv n : Word) : CoreOut :=
    if 16 ≤ (chanOf (getCore s x.core) ch.toNat).length then .wait s [sv.toNat, dv.toNat, n.toNat] 17
    else .done (enterChan x s (copyRec x s src dst ch.toNat sv dv n))
  match x.f.begun with
  | [sv, dv, n] => enter s (BitVec.ofNat 64 sv) (BitVec.ofNat 64 dv) (BitVec.ofNat 64 n)
  | _ =>
    withSrcs x s (copySrcs dst d a b) fun l =>
      match copyBad s x.r l src dst (rdG l a) (rdG l d) (rdG l b) (d.toNat % 8) with
      | some (c, v) => .trap s c v
      | none => enter s (rdG l a) (rdG l d) (rdG l b)

/-- Check pass of a COPY to a ring (R229). -/
def checkCopy (x : Ctx) (s : State) (src : CopySrc) (dst : CopyDst) (d a b : BitVec 5) : CheckOut :=
  checkSrcs x s (copySrcs dst d a b) fun l =>
    match copyBad s x.r l src dst (rdG l a) (rdG l d) (rdG l b) (d.toNat % 8) with
    | some (c, v) => .trap s c v
    | none => .ok s [(rdG l a).toNat, (rdG l d).toNat, (rdG l b).toNat]

/-- Perform step of a COPY to a ring: the channel accepts it and its range of the stream is reserved (R204). -/
def performCopy (x : Ctx) (s : State) (src : CopySrc) (dst : CopyDst) (ch : BitVec 2) (d : BitVec 5) (ops : List Nat) : PerformOut :=
  if 16 ≤ (chanOf (getCore s x.core) ch.toNat).length then .pending s 17
  else
    let w (i : Nat) : Word := BitVec.ofNat 64 (ops.getD i 0)
    let n := d.toNat % 8
    let l := x.lane s
    let (g, p) := (ringOf l n).reserve (w 2).toNat
    let s := x.set s (setRing l n g)
    .accepted (enterChan x s { copyRec x s src dst ch.toNat (w 0) (BitVec.ofNat 64 n) (w 2) with ringAt := p })

/-- Check pass of CRED (R233). -/
def checkCred (x : Ctx) (s : State) (toPool : Bool) (d a b : BitVec 5) : CheckOut :=
  checkCopy x s .pool (if toPool then .remote else .global) d a b

/-- Perform step of CRED: the channel accepts it. -/
def performCred (x : Ctx) (s : State) (op : RedOp) (fmt : CredFmt) (toPool : Bool) (ch : BitVec 2) (ops : List Nat) : PerformOut :=
  if 16 ≤ (chanOf (getCore s x.core) ch.toNat).length then .pending s 17
  else
    let w (i : Nat) : Word := BitVec.ofNat 64 (ops.getD i 0)
    .accepted (enterChan x s
      { copyRec x s .pool (if toPool then .remote else .global) ch.toNat (w 0) (w 1) (w 2) with red := some (op, fmt) })

/-- The unfinished sealed batches of a strand (R234). -/
def unfinished (l : Lane) : Nat := l.batches.countP fun b => !b.isEmpty

/-- CSEAL at a core (R234). -/
def coreCseal (x : Ctx) (s : State) : CoreOut :=
  let l := x.lane s
  if 16 ≤ unfinished l then .wait s [] 6
  else .done (x.set s { l with batches := (l.batches.filter fun b => !b.isEmpty) ++ [l.openCopies], openCopies := [] })

/-- CWAIT at a core (R234). -/
def coreCwait (x : Ctx) (s : State) (n : BitVec 4) : CoreOut :=
  if n.toNat < unfinished (x.lane s) then .wait s [] 6 else .done s

/-- CPTR at a core (R235). -/
def coreCptr (x : Ctx) (s : State) (d : BitVec 5) (ch : BitVec 2) : CoreOut :=
  doneG x s (x.lane s) d (getCore s x.core).cptr[ch.toNat]

/-- Is a join or prune still under way? -/
def joinPending (s : State) (id : Nat) : Bool := s.joins.any fun j => j.id == id

/-- A join or prune leaves a core; the instruction waits for its acknowledgement (R236, R307). -/
def joinLeaves (x : Ctx) (s : State) (tag : BitVec 16) (join : Bool) : CoreOut :=
  let (s, pkt) := newPkt s (routerOf x.core)
  .wait { s with joins := s.joins ++ [⟨s.fresh, x.core, x.sl, tag, join, s.now, x.f.handler, pkt⟩], fresh := s.fresh + 1 } [s.fresh] 6

/-- CJOIN at a core (R236): the table entry, then the wait for the routers. -/
def coreCjoin (x : Ctx) (s : State) (a b : BitVec 5) : CoreOut :=
  match x.f.begun with
  | [id] => if joinPending s id then .wait s [id] 6 else .done s
  | _ =>
    withSrcs x s [.g a false, .g b false] fun l =>
      let tag : BitVec 16 := (rdG l a).setWidth 16
      let off := (rdG l b).toNat
      let k := getCore s x.core
      let old := k.match_.filter fun p => p.1 != tag
      if off < 0x800 || scratchSize (pwordOf s x.r) ≤ off then .trap s .poolBound (rdG l b)
      else if off % 64 ≠ 0 then .trap s .memAlign (rdG l b)
      else if 16 ≤ old.length then .trap s .copyTable (tag.setWidth 64)
      else
        joinLeaves x (modCore s x.core fun k => { k with match_ := old ++ [(tag, off)] }) tag true

/-- CLEAVE at a core (R236): an absent tag is left as it is. -/
def coreCleave (x : Ctx) (s : State) (a : BitVec 5) : CoreOut :=
  match x.f.begun with
  | [id] => if joinPending s id then .wait s [id] 6 else .done s
  | _ =>
    withSrcs x s [.g a false] fun l =>
      let tag : BitVec 16 := (rdG l a).setWidth 16
      if (getCore s x.core).match_.any fun p => p.1 == tag then
        joinLeaves x (modCore s x.core fun k => { k with match_ := k.match_.filter fun p => p.1 != tag }) tag false
      else .done s

/-! Lane system instructions (R239 to R242). -/

/-- The writable bits of ESTAT (R239). -/
def estatMask : Word := 0x11F

/-- ESTAT at a core (R239). -/
def coreEstat (x : Ctx) (s : State) (d a b : BitVec 5) : CoreOut :=
  withSrcs x s [.g a false, .g b false] fun l =>
    let old := l.estat
    .done (x.set s (wrG { l with estat := (old &&& ~~~(rdG l a &&& estatMask)) ||| (rdG l b &&& estatMask) } d old))

/-- The fields of a DBGR selector (R241): number, class, part, slot; none with a reserved bit set. -/
def selector (w : Word) : Option (Nat × Nat × Nat × Nat) :=
  if bits w 5 3 = 0 && bits w 11 1 = 0 && bits w 27 37 = 0 then some (bits w 0 5, bits w 8 3, bits w 12 12, bits w 24 3) else none

/-- Is the replay mark of an arrival set (R180)? -/
def markSet (s : State) (r sl : Nat) (a : Arrival) : Bool := a.region == some (getHead s r sl).region

/-- The words of a landing slot as DBGR shows them (R242 class 5). -/
def landWord (q : LandSlot) (w : Nat) : Nat :=
  let st := match q.st with
    | .pending => 1
    | .arrived => 2
    | .poisoned => 3
  if w = 0 then
    st + (if q.claimed then 4 else 0) + 2 ^ 16 * q.tag.toNat + 2 ^ 32 * (if q.st = .pending then 0 else q.arr.toNat) +
      2 ^ 48 * q.iss.toNat
  else if w = 1 then (if q.st = .poisoned then q.addr.toNat + 2 ^ 48 * q.cause.code else 0)
  else vbits q.value (64 * (w - 2)) 64

/-- The full bits of class 3 (R242). -/
def fullBits (l : Lane) : Nat :=
  let one (n : Nat) (full : Bool) : Nat := if full then 2 ^ n else 0
  (upTo 32).foldl (fun a i => a + one i (!gEmpty l (BitVec.ofNat 5 i)) + one (32 + i) (!vEmpty l (BitVec.ofNat 5 i))) 0

/-- The value that DBGR reads at a core (R242); 0 for an invalid selector or a slot without a strand. -/
def dbgRead (s : State) (r c : Nat) (sel : Word) : Word :=
  match selector sel with
  | none => 0
  | some (num, cls, part, sl) =>
    let l := getLane s r c sl
    let k := getCore s (coreIx r c)
    let w (n : Nat) : Word := BitVec.ofNat 64 n
    if (getHead s r sl).task.isNone then 0
    else if cls = 0 then (if part = 0 then rdG l (BitVec.ofNat 5 num) else 0)
    else if cls = 1 then
      (if part < 16 && num < vregCount (pwordOf s r) then w (vbits (rdV l (BitVec.ofNat 5 num)) (64 * part) 64) else 0)
    else if cls = 2 then
      (if num < 8 && part < 2 then w ((rdM l (BitVec.ofNat 3 num)).toNat / 2 ^ (64 * part)) else 0)
    else if cls = 3 then (if num = 0 && part = 0 then w (fullBits l) else 0)
    else if cls = 4 then (if num < 8 && part = 0 then (ringOf l num).word else 0)
    else if cls = 5 then
      (if num < 4 && part / 512 = 0 && part / 16 < 18 then
        match l.land.find? fun q => q.set == num && q.pos == part % 16 with
        | some q => w (landWord q (part / 16))
        | none => 0
      else 0)
    else if cls = 6 then
      (if part = 0 then
        let b := barOf k (BitVec.ofNat 5 num)
        w (b.count % 256 + 2 ^ 8 * (b.tally % 256) + 2 ^ 16 * (b.gen % 2 ^ 48))
      else if part = 1 then
        match l.arrivals.find? fun p => p.1 == num with
        | some (_, a) => w (a.gen % 2 ^ 63 + if markSet s r sl a then 2 ^ 63 else 0)
        | none => 0
      else 0)
    else (if num = 0 && part = 0 then l.estat else 0)

/-- TVAL of POISON where the register that a selector names is poisoned (R261, R364). -/
def dbgPoison (s : State) (r c : Nat) (sel : Word) : Option Word :=
  match selector sel with
  | none => none
  | some (num, cls, part, sl) =>
    if (getHead s r sl).task.isNone then none
    else if cls = 0 then (if part = 0 && isIn num (getLane s r c sl).poison then some (poisonTval 0 num sl) else none)
    else if cls = 1 then
      (if part < 16 && num < vregCount (pwordOf s r) then
        (poolBad (getCore s (coreIx r c)) (vregAddr (pwordOf s r) sl num + 8 * part) 8).map (BitVec.ofNat 64)
      else none)
    else if cls = 2 then
      (if num < 8 && part < 2 && isIn (0x200 + num) (getLane s r c sl).poison then some (poisonTval 2 num sl) else none)
    else none

/-- DBGR at a core (R240); reading a poisoned register raises POISON (R364). -/
def coreDbgr (x : Ctx) (s : State) (d a : BitVec 5) : CoreOut :=
  withSrcs x s [.g a false] fun l =>
    match dbgPoison s x.r x.c (rdG l a) with
    | some v => .trap s .poison v
    | none => doneG x s l d (dbgRead s x.r x.c (rdG l a))

/-- Is a ring in use by a transfer, or by the running step (R242 class 4)? -/
def ringInUse (s : State) (r c sl n : Nat) : Bool :=
  ringBusy s r c sl n ||
  (let k := getCore s (coreIx r c)
   k.running.isSome && match k.press with
     | p :: _ => p.strand == sl && cmdUses p n
     | [] => false)

/-- The ring that a DBGW of class 4 leaves (R413). -/
def ringPoke (q : Ring) (v : Word) : Ring :=
  let hd := bits v 27 4
  let tl := bits v 31 4
  let fl := bits v 35 14
  let fc := bits v 49 5
  if !q.on || q.scnt ≤ hd || q.scnt ≤ tl || q.scnt < fc || q.z ≤ fl || tl != (hd + fc) % q.scnt || (fc == q.scnt && fl != 0) then q
  else { q with popped := hd, reserved := (hd + fc) * q.z + fl, holes := [] }

/-- Half of a mask register replaced. -/
def maskHalf (old : Mask) (part : Nat) (v : Word) : Mask :=
  BitVec.ofNat 128 (if part = 0 then old.toNat / 2 ^ 64 * 2 ^ 64 + v.toNat else old.toNat % 2 ^ 64 + v.toNat * 2 ^ 64)

/-- A slot that is freed raises nothing any more: the pending trap of the claim bound to it goes (R168, R414). -/
def dropLandTraps (set pos : Nat) (l : Lane) : Lane :=
  let mine (e : MEvent) : Bool := landEvent e &&
    l.claims.any fun c => c.raised && c.set == set && c.pos == some pos && e.at_.any fun a => a.pc == c.pc && a.issue == c.issue
  { l with events := l.events.filter fun e => !mine e }

/-- What DBGW writes at a core (R242, R413, R414). -/
def dbgWrite (s : State) (r c : Nat) (sel v : Word) : State :=
  match selector sel with
  | none => s
  | some (num, cls, part, sl) =>
    let l := getLane s r c sl
    let put (l : Lane) : State := setLane s r c sl l
    let n5 : BitVec 5 := BitVec.ofNat 5 num
    if (getHead s r sl).task.isNone then s
    else if cls = 0 then (if part = 0 then put (wrG l n5 v) else s)
    else if cls = 1 then
      (if part < 16 && num < vregCount (pwordOf s r) then
        put (wrV l n5 (ofElems 64 ((upTo 16).map fun i => if i = part then v.toNat else elem (rdV l n5) 64 i)))
      else s)
    else if cls = 2 then
      (if num < 8 && part < 2 then put (wrM l (BitVec.ofNat 3 num) (maskHalf (rdM l (BitVec.ofNat 3 num)) part v)) else s)
    else if cls = 3 then
      (if num = 0 && part = 0 then
        put { l with gFill := Vector.ofFn fun i => if v.getLsbD i then 0 else l.gFill[i],
                     vFill := Vector.ofFn fun i => if v.getLsbD (32 + i) then 0 else l.vFill[i] }
      else s)
    else if cls = 4 then (if num < 8 && part = 0 then put (setRing l num (ringPoke (ringOf l num) v)) else s)
    else if cls = 5 then
      (if num < 4 && part / 512 = 0 && part / 16 < 18 then
        let pos := part % 16
        let w := part / 16
        if w = 0 && v.toNat % 4 = 0 then
          let l := dropLandTraps num pos l
          let l := dropClaims (fun d => d.set == num && d.pos == some pos) l
          let s := setLane s r c sl { l with land := l.land.filter fun q => !(q.set == num && q.pos == pos) }
          { s with reqs := s.reqs.map fun q =>
            if q.row == r && q.col == c && q.strand == sl && q.dest == .slot num pos then { q with dest := .no } else q }
        else if 2 ≤ w then
          put (modSlot l num pos fun q =>
            if q.st = .arrived then
              { q with value := ofElems 64 ((upTo 16).map fun i => if i = w - 2 then v.toNat else elem q.value 64 i) }
            else q)
        else s
      else s)
    else if cls = 6 then
      (if part = 0 then
        modCore s (coreIx r c) fun k =>
          { k with bars := k.bars.set n5.toNat ({ barOf k n5 with count := bits v 0 8, tally := bits v 8 8 }) }
      else if part = 1 then
        match l.arrivals.find? fun p => p.1 == num with
        | some (_, a) =>
          let a := { a with region := if v.getLsbD 63 then some (getHead s r sl).region else none }
          put { l with arrivals := tput l.arrivals num a }
        | none => s
      else s)
    else (if num = 0 && part = 0 then put { l with estat := v &&& estatMask } else s)

/-- DBGW at a core (R240): a ring write waits until no transfer or step uses the ring. -/
def coreDbgw (x : Ctx) (s : State) (a b : BitVec 5) : CoreOut :=
  withSrcs x s [.g a false, .g b false] fun l =>
    match selector (rdG l a) with
    | some (num, 4, 0, sl) =>
      if num < 8 && ringInUse s x.r x.c sl num then .wait s [] 4 else .done (dbgWrite s x.r x.c (rdG l a) (rdG l b))
    | _ => .done (dbgWrite s x.r x.c (rdG l a) (rdG l b))

end Sys2Proof.Machine
end

