-- ==== Sys2Proof/Machine/Reduce.lean ====
section
/-! DEFINITION. The atomic operations (R172 to R175) and the reduction units with their windows (R310 to R313). -/

namespace Sys2Proof.Machine

/-! Check pass and perform step. -/

/-- Attributes as a number, for the operand list of a commit. -/
def attrNat (a : Attr) : Nat :=
  (if a.det then 1 else 0) + (if a.enc then 2 else 0) + (if a.host then 4 else 0) + 8 * a.kid

/-- Attributes from their number. -/
def attrOfNat (n : Nat) : Attr := ⟨n % 2 == 1, n / 2 % 2 == 1, n / 8, n / 4 % 2 == 1⟩

/-- Bytes of an AMO, CAS or RED (R172). -/
def atomBytes (dbl : Bool) : Nat := if dbl then 8 else 4

/-- Check pass of the atomic operations at a core (R165, R175): sources, room for a record of a RED, alignment, watch,
translation and permission, DET.AMO. The operand list is address, b, expected value, physical address, attributes, and, where it has
waited for a walk, the ns that count toward its bound (R270). -/
def checkAtom (x : Ctx) (s : State) (red : Bool) (cas : Bool) (dbl : Bool) (d a b : BitVec 5) : CheckOut :=
  let n := atomBytes dbl
  let p := x.f.px
  checkSrcs x s ([.g a p.ea, .g b p.eb] ++ if cas then [.g d false] else []) fun l =>
    let addr := rdG l a
    if addr.toNat % n ≠ 0 then .trap s .memAlign addr
    else if red && 8 ≤ l.recs.length then .wait s 12
    else
      match laneGate s x.r x.c x.sl addr n (BitVec.allOnes 32) 2 x.f.handler with
      | .wait s => .wait s 0
      | .go s fails since =>
        match watchCheck s x.r x.c x.sl true true addr n (BitVec.allOnes 32) with
        | (s, some h) => .trap s .watch (BitVec.ofNat 64 h)
        | (s, none) =>
          match laneXlateWith s fails x.r x.c (if red then .write else .both) addr with
          | .error c => .trap s c addr
          | .ok (pa, at_, e) =>
            if !red && at_.det then .trap s .detAmo addr
            else .ok (tlbFill s x.r x.c [e])
              ([addr.toNat, (rdG l b).toNat % 2 ^ (8 * n), (rdG l d).toNat % 2 ^ (8 * n), pa, attrNat at_] ++
                if since < s.now then [s.now - since] else [])

/-- May a port of a core issue its next sequence number: is the operation 64 before it acknowledged (R311)? DESIGN CHOICE: one whose
bound has run out without an acknowledgement counts as over, log 94. -/
def portFree (s : State) (core port : Nat) (seq : BitVec 16) : Bool :=
  !s.reqs.any fun q => coreIx q.row q.col == core && q.port == port && q.seq == seq - 64 &&
    (match q.kind with
     | .amo | .cas | .red => true
     | .granule => q.red.isSome
     | _ => false)

/-- Note in the commit that the operation of a column has left as request id. -/
def markSent (h : Head) (c id : Nat) : Head :=
  { h with commit := h.commit.map fun k => { k with ops := tput k.ops c [id] } }

/-- Perform step of the atomic operations (R165 step 3): each core sends its operation once; acceptance comes from the
target. An operand list of one entry says that it has left. -/
def performAtom (x : Ctx) (s : State) (kind : ReqKind) (op : AmoOp) (dbl : Bool) (ord : Ord4) (d : BitVec 5) (ops : List Nat) :
    PerformOut :=
  match ops with
  | addr :: b :: e :: pa :: at_ :: waited =>
    let k := getCore s x.core
    if !portFree s x.core 4 k.atomSeq then .pending s 14
    else
      let n := atomBytes dbl
      let id := s.fresh
      let q := { blankReq s kind x.r x.c x.sl with
        pc := x.f.pc, issue := x.f.issue, since := s.now - waited.headD 0,
        va := BitVec.ofNat 64 addr, segs := [(pa, n)], attr := attrOfNat at_, attr2 := attrOfNat at_, size := n, data := BitVec.ofNat 1024 b,
        expect := BitVec.ofNat 64 e, op := op, acq := ord == .acq || ord == .ar, rel := ord == .rel || ord == .ar,
        scope := scopeOf x.f.px.c, handler := x.f.handler, region := x.f.region, seq := k.atomSeq, gen := k.launchGen,
        dest := if kind = .red then .no else .g d.toNat id, detSeq := (getHead s x.r x.sl).detSeq }
      let s := modCore s x.core fun k => { k with atomSeq := k.atomSeq + 1 }
      let s := if kind = .red then s else x.set s (emptyG (x.lane s) d id)
      let s := modHead (pushReq s q) x.r x.sl fun h => markSent h x.c id
      .pending (noteRed (launchReq s q) x.r (boundOf pa)) 14
  | _ => .pending s 14

/-! Acceptance (R165 step 4). -/

/-- Is it a DET-ordered reduction instruction (R372)? -/
def isReduction : Instr → Bool
  | .red _ _ _ _ _ => true
  | .cred _ _ _ _ _ _ _ => true
  | _ => false

/-- Every target has accepted: the region ends and the strand goes on (R165, R204). -/
def finishCommit (h : Head) : Head :=
  match h.commit with
  | none => h
  | some k =>
    let h := openRegion (seqNext { h with commit := none })
    { h with why := 0, stepDue := h.stepMode && !h.handler, detSeq := h.detSeq + if isReduction k.flight.instr then 1 else 0 }

/-- A column's target has accepted. -/
def acceptHead (c : Nat) (h : Head) : Head :=
  match h.commit with
  | none => h
  | some k =>
    let left := k.left.filter (· != c)
    let h := { h with commit := some { k with left := left } }
    if k.flight.col = 16 && left.isEmpty then finishCommit h else h

/-- The target of a request has accepted it: acceptance of its column, where its commit is still under way. -/
def acceptReq (s : State) (q : Req) : State :=
  modHead s q.row q.strand fun h =>
    match h.commit with
    | some k => if isIn q.col k.left && tget k.ops q.col [] == [q.id] then acceptHead q.col h else h
    | none => h

/-! The units (R312). -/

/-- The source of a reduction (R311). -/
def sourceOf (s : State) (q : Req) : Source := ⟨s.peerId, coreIx q.row q.col, q.port⟩

/-- The old value that a window holds for an operation, where it is a duplicate. -/
def winFind (ws : List Window) (src : Source) (gen : BitVec 8) (seq : BitVec 16) : Option Word :=
  match ws.find? fun w => w.src == src && w.gen == gen with
  | some w => (w.seen.find? fun p => p.1 == seq).map (·.2)
  | none => none

/-- Enter an applied operation: a newer generation empties the window, the newest 64 stay. -/
def winEnter (ws : List Window) (src : Source) (gen : BitVec 8) (seq : BitVec 16) (old : Word) : List Window :=
  let seen := match ws.find? fun w => w.src == src && w.gen == gen with
    | some w => w.seen
    | none => []
  ⟨src, gen, ((seq, old) :: seen).take 64⟩ :: ws.filter fun w => w.src != src

/-- The reduction units: of a core's pool, of a vault, of a peer device (R310, R312). -/
inductive RedUnit
  | pool (core : Nat) | vault (v : Nat) | peer (n : Nat)

/-- The unit of an operation; none for a host home. -/
def unitOf (q : Req) : Option RedUnit :=
  match q.segs with
  | [] => some (.pool q.dstCore)
  | (pa, _) :: _ =>
    match regionOf pa with
    | .cellar => some (.vault (vaultOf pa))
    | .peer => some (.peer (peerOf pa))
    | _ => none

/-- The windows that a peer's units keep. -/
def peerWindows (s : State) (n : Nat) : List Window := (s.peerWin.filter (·.1 == n)).map (·.2)

/-- Is the operation a duplicate at its unit? -/
def unitSeen (s : State) (q : Req) : Option Word :=
  match unitOf q with
  | some (.pool k) => winFind (getCore s k).poolWin (sourceOf s q) q.gen q.seq
  | some (.vault k) => winFind (getCore s k).vaultWin (sourceOf s q) q.gen q.seq
  | some (.peer n) => winFind (peerWindows s n) (sourceOf s q) q.gen q.seq
  | none => none

/-- Enter the operation at its unit. -/
def unitEnter (s : State) (q : Req) (old : Word) : State :=
  match unitOf q with
  | some (.pool k) => modCore s k fun c => { c with poolWin := winEnter c.poolWin (sourceOf s q) q.gen q.seq old }
  | some (.vault k) => modCore s k fun c => { c with vaultWin := winEnter c.vaultWin (sourceOf s q) q.gen q.seq old }
  | some (.peer n) =>
    { s with peerWin := (winEnter (peerWindows s n) (sourceOf s q) q.gen q.seq old).map (fun w => (n, w)) ++
               s.peerWin.filter (·.1 != n) }
  | none => s

/-- The element that a RED holds (R372). -/
def heldOfRed (s : State) (q : Req) : Held :=
  ⟨firstPa q, q.task, q.detSeq, q.col, q.size, .inl q.op, q.data.setWidth 64, q.part, attrKey s q.attr⟩

/-- Elements that a hold store takes (R372). -/
def holdRoom : Nat := 65536

/-- The answer of an operation: performed, with the old value. -/
def answered (s : State) (q : Req) (old : Word) : State :=
  acceptReq (answerReq s { q with st := .performed, data := old.setWidth 1024 }) q

/-- What an AMO or CAS reads it observes, what an operation writes it leaves its stamp with (R323). -/
def noteAtom (s : State) (q : Req) (wrote : Bool) : State :=
  let s := if q.kind = .red then s else noteRead s q
  if wrote then noteWrite s q else s

/-- Apply an AMO, CAS or RED at its home (R172 to R174, R262, R372); a poisoned location is left as it is, be it of a DET page. -/
def applyAtom (s : State) (q : Req) : State :=
  let pa := bytePa s q 0
  match unitSeen s q with
  | some old => answered s q old
  | none =>
    if regionOf pa = .peer && !Config.peerAdmits (peerOf pa) (pa % 2 ^ 38) true then
      acceptReq (answerReq s { q with st := .failed .xlatePerm q.va }) q
    else
      match physBad s pa q.size with
      | some g =>
        let s := unitEnter s q 0
        if q.kind = .red then acceptReq (answerReq s { q with st := .failed .poison q.va }) q
        else acceptReq (answerReq s { q with st := .performed, bad := some (granuleVa q (g - pa)) }) q
      | none =>
        if q.kind = .red && q.attr.det && q.task != noTask then
          let v := vaultOf pa
          if holdRoom ≤ (getCore s v).hold.length then s
          else answered (unitEnter (modCore s v fun k => { k with hold := heldOfRed s q :: k.hold }) q 0) q 0
        else
          let key := attrKey s q.attr
          let old := physRdN s key pa q.size
          let b := q.data.toNat % 2 ^ (8 * q.size)
          let hit := q.kind != .cas || old == q.expect.toNat % 2 ^ (8 * q.size)
          let new := if q.kind = .cas then b else amoNew q.op q.size old b
          let w := BitVec.ofNat 64 old
          let s := if hit then physWrN s key pa q.size new else s
          noteAtom (answered (unitEnter s q w) q w) q hit

/-! Store retries (R361). -/

/-- Issue one recorded access of a strand at a core again; a RED carries a new sequence number (R361). -/
def retryOne (r c sl : Nat) (s : State) (rec : StoreRec) : State :=
  if rec.kind = .copy then s
  else
    let k := getCore s (coreIx r c)
    let q := { retryReq s r c sl rec with seq := k.atomSeq, gen := k.launchGen }
    let s := if rec.kind = .red then modCore s (coreIx r c) fun k => { k with atomSeq := k.atomSeq + 1 } else s
    let s := { s with reqs := reqIns q s.reqs }
    if tlbKnows s r c q.va q.size then resolveReq s q .write else s

/-- The retries of a strand at a core, in the order in which the records were filled (R361): a RED whose sequence number may not
be issued yet (R311) waits, and the ones after it. -/
def retryFrom (r c sl : Nat) : List StoreRec → State → State
  | [], s => modLane s r c sl fun l => { l with retry := [] }
  | rec :: rest, s =>
    if rec.kind = .red && !portFree s (coreIx r c) 4 (getCore s (coreIx r c)).atomSeq then
      modLane s r c sl fun l => { l with retry := rec :: rest }
    else retryFrom r c sl rest (retryOne r c sl s rec)

/-- The retries of every core of a strand (R361). -/
def issueRetries (s : State) (r sl : Nat) : State :=
  forCols (fun s c =>
    match (getLane s r c sl).retry with
    | [] => s
    | l => retryFrom r c sl l s) s

/-- Are recorded accesses of a strand at task level still to be issued again at some core (R361)? -/
def retryDue (s : State) (r sl : Nat) : Bool :=
  !(getHead s r sl).handler && (upTo 16).any fun c => !(getLane s r c sl).retry.isEmpty

/-- After TRET or TRET.at (R361): the retry lists are issued, or discarded under TVAL.DROP; an AUTO halt ends. -/
def leaveHandler (s : State) (r sl : Nat) : State :=
  let drop := (getHead s r sl).tval.getLsbD 63
  let s := afterReturn s r sl drop
  if drop then s else issueRetries s r sl

/-! CRED granules (R233, R310). -/

/-- Combine the 64 bytes of a CRED granule, element by element, with the old bytes: the new bytes. -/
def credCombine (op : RedOp) (fmt : CredFmt) (old new : Nat) : Nat :=
  let n := credSize fmt
  ((upTo (64 / n)).map fun i =>
    (credNew op fmt (old / 2 ^ (8 * n * i) % 2 ^ (8 * n)) (new / 2 ^ (8 * n * i) % 2 ^ (8 * n))) * 2 ^ (8 * n * i)).foldl (· + ·) 0

/-- The elements that a CRED granule on a DET page holds (R372). -/
def heldOfCred (s : State) (q : Req) (op : RedOp) (fmt : CredFmt) : List Held :=
  let n := credSize fmt
  (upTo (64 / n)).map fun i =>
    ⟨firstPa q + n * i, q.task, q.detSeq, q.col, n, .inr (op, fmt), BitVec.ofNat 64 (vbits q.data (8 * n * i) (8 * n)), q.part,
      attrKey s q.attr⟩

/-- Apply a CRED granule at the Cellar, a host window or a peer (R233, R262, R372). -/
def applyCredGlobal (s : State) (q : Req) (op : RedOp) (fmt : CredFmt) : State :=
  let pa := bytePa s q 0
  match unitSeen s q with
  | some _ => answerReq s { q with st := .performed }
  | none =>
    if regionOf pa = .peer && !Config.peerAdmits (peerOf pa) (pa % 2 ^ 38) true then
      answerReq s { q with st := .failed .xlatePerm q.va }
    else if q.bad.isSome then
      noteWrite (answerReq (unitEnter (physPoison s [pa / 64]) q 0) { q with st := .performed }) q
    else if (physBad s pa 64).isSome then answerReq (unitEnter s q 0) { q with st := .failed .poison q.va }
    else if q.attr.det && q.task != noTask then
      let v := vaultOf pa
      let els := heldOfCred s q op fmt
      if holdRoom < (getCore s v).hold.length + els.length then s
      else answerReq (unitEnter (modCore s v fun k => { k with hold := els ++ k.hold }) q 0) { q with st := .performed }
    else
      let key := attrKey s q.attr
      let s := physWrN s key pa 64 (credCombine op fmt (physRdN s key pa 64) (q.data.toNat % 2 ^ 512))
      noteWrite (answerReq (unitEnter s q 0) { q with st := .performed }) q

/-- Apply a CRED granule at the pool unit of its destination core (R233, R310): 64 bytes count toward CPTR (R235). A poisoned
source granule poisons the destination granule (R261). The words carry its stamp (R323). -/
def applyCredPool (s : State) (q : Req) (op : RedOp) (fmt : CredFmt) : State :=
  match unitSeen s q with
  | some _ => answerReq s { q with st := .performed }
  | none =>
    let s := modCore s q.dstCore fun k =>
      let k := { k with cptr := k.cptr.setIfInBounds q.port ((k.cptr.toList.getD q.port 0) + 64),
                        heldGranules := k.heldGranules.filter (· != q.id) }
      if q.bad.isSome then poolPoisonAdd k [q.dstOff / 64]
      else { k with pool := memWrN k.pool q.dstOff 64 (credCombine op fmt (poolRdN k q.dstOff 64) (q.data.toNat % 2 ^ 512)) }
    noteWrite (answerReq (unitEnter s q 0) { q with st := .performed }) q

end Sys2Proof.Machine
end

