-- ==== Sys2Proof/Machine/PressStep.lean ====
section
/-! DEFINITION. The start and the retirement of Press steps and commands (R210 to R214, R218, R300), the read of an MDRAIN
(R215). -/

namespace Sys2Proof.Machine

/-! Steps in the queue. -/

/-- Row cycles of a step or command (R213). -/
def pressCycles (op : PressOp) : Nat :=
  match op with
  | .mma _ _ _ _ _ => 64
  | .mzero => 16
  | .mload _ _ _ => 1

/-- May the engines of a row begin something new: it is powered, IDLE and a switch of its operating point among the states where they
go on (R389), not halted (R380), with a team placed (R302)? -/
def rowGoing (x : Row) : Bool := x.cur != .off && !x.halted && x.phase == .placed

/-- A poisoned step is not performed: its command and the strand's later ones go, POISON becomes pending (R218, R301). -/
def pressDrop (s : State) (r c : Nat) (cmd : PressCmd) (g : Nat) : State :=
  let s := modCore s (coreIx r c) fun k => { k with press := k.press.filter fun q => q.strand != cmd.strand, running := none,
                                                     stepRead := ⟨[], [], [], []⟩ }
  addEvent (startDrains s r c cmd.strand) r c cmd.strand ⟨.poison, BitVec.ofNat 64 g, cmd.handler, none⟩

/-- The front command's step begins (R211, R213). -/
def pressStart (s : State) (core : Nat) : State :=
  let r := core / 16
  let c := core % 16
  let k := getCore s core
  match k.press with
  | [] => s
  | cmd :: _ =>
    let ready := match cmd.op with
      | .mma _ fmt qa qb _ => stagesReady (getLane s r c cmd.strand) fmt qa qb
      | _ => true
    if k.running.isSome || !rowGoing (getRow s r) || !ready then s
    else
      match pressPoison s r c cmd with
      | some g => pressDrop s r c cmd g
      | none =>
        let x := match cmd.op with
          | .mma _ fmt qa qb _ =>
            let a (n : Nat) : Nat := (ringOf (getLane s r c cmd.strand) n).headAddr
            readScales k fmt (a (qa + 1)) (a (qb + 1))
          | _ => ⟨[], [], [], []⟩
        pressReads (modCore s core fun k => { k with running := some (getRow s r).cycle, stepRead := x }) r c 1

/-- The running step or command retires once its cycles have passed (R211, R213, R214, R218) and every MDRAIN that the strand executed
before it has read its row (R215). DEDUCED from the strand's program order, log 78. -/
def pressRetire (s : State) (core : Nat) : State :=
  let r := core / 16
  let c := core % 16
  let k := getCore s core
  match k.press, k.running with
  | cmd :: rest, some t =>
    if (getRow s r).cycle < t + pressCycles cmd.op || ((getLane s r c cmd.strand).drains.any fun d => !isIn cmd.num d.after) then s
    else
      match pressPoison s r c cmd with
      | some g => pressDrop s r c cmd g
      | none => pressApply s r c cmd rest
  | _, _ => s

/-- A pool row of 256 bytes as two registers. -/
def rowHalves (k : Core) (a : Nat) : Vec × Vec := (BitVec.ofNat 1024 (poolRdN k a 128), BitVec.ofNat 1024 (poolRdN k (a + 128) 128))

/-- The read of the first MDRAIN of a strand that has run its 2 cycles since the strand's earlier commands retired (R215, R261).
All 64 elements are read at its end. DESIGN CHOICE: against another strand's step each element may be read before or after that
step's write, log 78. -/
def mdrainRead (s : State) (core sl : Nat) : State :=
  let r := core / 16
  let c := core % 16
  let k := getCore s core
  let l := getLane s r c sl
  match l.drains.find? fun d => d.begun.any fun t => t + 2 ≤ (getRow s r).cycle with
  | none => s
  | some d =>
    let a := tileAddr (pwordOf s r) d.tile + 256 * d.row
    let l := { l with drains := l.drains.filter fun e => e.ticket != d.ticket }
    match poolBad k a 256 with
    | some g =>
      addEvent (setLane s r c sl l) r c sl ⟨.poison, BitVec.ofNat 64 g, (getHead s r sl).handler, none⟩
    | none =>
      let (lo, hi) := rowHalves k a
      let vd : BitVec 5 := BitVec.ofNat 5 d.d
      setFilled s r c sl (fillV (fillV l vd d.ticket lo) (vd + 1) d.ticket hi)

end Sys2Proof.Machine
end

