-- ==== Sys2Proof/Machine/Mesh.lean ====
section
/-! DEFINITION. Packets (R333): their headers, the ways that they take (R332), and whether they can arrive (R334, R347). -/

namespace Sys2Proof.Machine

/-! Headers (R333). -/

/-- CTX of a packet of device management traffic (R333). -/
def mgmtCtx : Nat := 0xFF

/-- CTX of a partition's packets: its job's context (R333). -/
def partCtx (s : State) (p : Nat) : Nat :=
  match (getPart s p).job with
  | some j => j.launch.ctx
  | none => mgmtCtx

/-- The 48-bit header of a packet (R333). The code of ECC is free. -/
def headerWord (ctx src dst cls scope : Nat) (seq : BitVec 8) : Nat :=
  let w := ctx % 256 + 2 ^ 8 * (src % 1024) + 2 ^ 18 * (dst % 1024) + 2 ^ 28 * (cls % 4) + 2 ^ 30 * (scope % 4) + 2 ^ 32 * seq.toNat
  w + 2 ^ 40 * (Config.headerEcc w).toNat

/-- SRC of a header (R333). -/
def headerSrc (w : Nat) : Nat := w / 2 ^ 8 % 1024

/-- DST of a header (R333). -/
def headerDst (w : Nat) : Nat := w / 2 ^ 18 % 1024

/-- CLASS of a request's packet, or of its answer's (R333). -/
def packetClass (q : Req) : Nat :=
  match q.st with
  | .probing _ => 3
  | .performed | .failed _ _ => 1
  | _ => if q.mcast.isSome && q.dstCore == 512 then 2 else 0

/-- SCOPE of a packet (R333). -/
def scopeCode : Scope → Nat
  | .core => 0 | .die => 1 | .dev => 2 | .sys => 3

/-- The header of a request's packet, or of its answer's with its home's own number (R333). -/
def headerOf (s : State) (q : Req) : Nat :=
  if packetClass q == 1 then headerWord q.ctx (homeRouter s q) (srcCode q) 1 (scopeCode q.scope) q.back.num
  else headerWord q.ctx (srcCode q) (homeRouter s q) (packetClass q) (scopeCode q.scope) q.out.num

/-- Flits of a packet with n payload bits: 208 in the first, 256 in each other (R333). -/
def flitsOf (n : Nat) : Nat := 1 + (n - 208 + 255) / 256

/-- The headers of a packet that goes from one router to another, and of its answer. -/
def roundTrip (ctx a b cls scope : Nat) (seq : BitVec 8) : List Nat := [headerWord ctx a b cls scope seq, headerWord ctx b a 1 scope seq]

/-- The router that the probe or marker of a vault group goes to. DESIGN CHOICE: that of the group's first vault, log 76. -/
def groupRouter (g : Nat) : Nat := routerOf (8 * g)

/-- The probe or fence marker of a release to a vault group, and its answer (R324). -/
def probeTrip (q : Req) (g : Nat) : List Nat :=
  roundTrip q.ctx (srcCode q) (groupRouter g) 3 (scopeCode q.scope) (tget q.probes g Pkt.new).num

/-- A join or prune, and its acknowledgement (R307). -/
def joinTrip (s : State) (j : Join) : List Nat :=
  let p := corePart s j.core
  roundTrip (partCtx s p) (routerOf j.core) (rendezvous s p j.tag) 3 2 j.pkt.num

/-- Partition of a message. -/
def msgPart : Msg → Nat
  | .arrive p _ _ _ _ _ _ => p
  | .done p _ _ _ _ _ => p
  | .lower p _ _ => p
  | .token p _ _ _ _ _ => p
  | .tile p _ _ _ _ _ => p

/-- A message, and the answer to a token or a dispenser's request (R136, R140 to R143). -/
def msgTrip (s : State) (id : Nat) (m : Msg) : List Nat :=
  let (a, b) := msgEnds s m
  let there := roundTrip (partCtx s (msgPart m)) a b 0 2 (tget s.msgPkt id Pkt.new).num
  match m with
  | .token _ _ _ _ _ _ | .tile _ _ _ _ _ _ => there
  | _ => there.take 1

/-! Ways (R332). -/

/-- The link that a packet crosses next on its trips, with the router behind it: by SRC and DST of their headers (R332). -/
def hopOf (s : State) (trips : List Nat) (hops : Nat) : Option (Chan × Nat) :=
  (trips.flatMap fun w => pathOf s (headerSrc w) (headerDst w))[hops]?

/-- The packet of a request, or of its answer. -/
def packetOf (q : Req) : Pkt := if packetClass q == 1 then q.back else q.out

/-- The link that a request's packet, or its answer's, crosses next, with the router behind it. A replica of a multicast goes from the
router that made it to the next, or to the core there (R307). -/
def nextHop (s : State) (q : Req) : Option (Chan × Nat) :=
  match q.mcast, q.from_, packetClass q == 1 with
  | some _, some f, false =>
    match q.router with
    | some r => if q.dstCore == 512 then (pathOf s f r)[q.out.hops]? else none
    | none => none
  | _, _, _ => hopOf s [headerOf s q] (packetOf q).hops

/-- Is the way of a request's packet, or of its answer's, open: no link of it is retired or in training (R334, R335), and a peer is reached
over an UP link whose switch reports a route to it (R347)? An access that its own core's translation refuses has no packet. -/
def reachable (s : State) (q : Req) : Bool :=
  (q.segs.isEmpty || regionOf (firstPa q) != .peer || peerRoute s (peerOf (firstPa q))) &&
  (s.mesh.isEmpty ||
    if packetClass q == 1 then (q.segs.isEmpty && q.kind != .granule) || routeOpen s (homeRouter s q) (srcCode q)
    else
      match q.mcast, q.from_ with
      | some _, some f => q.dstCore != 512 || routeOpen s f (q.router.getD f)
      | _, _ => routeOpen s (srcCode q) (homeRouter s q))

/-- Has a message reached its home (R291, R292)? -/
def hasReached (s : State) (id : Nat) : Bool := s.reached.any (·.1 == id)

/-- Is a message held at the head that it has reached, a token for room in the mailbox (R143) or a completion for the return of its team
(R141)? It has been delivered, so its bound no longer runs (R336). DEDUCED, log 75. -/
def msgHeld (s : State) (id : Nat) : Msg → Bool
  | .token _ _ _ _ _ _ | .done _ _ _ _ _ _ => hasReached s id
  | _ => false

/-- Has a message's bound run out (R336)? -/
def msgLate (s : State) (id : Nat) : Bool := tget s.msgAt id s.now + 4000 ≤ s.now

/-- Can a message arrive: its bound has not run out (R336), it has not been dropped (R334), and its way is open; or it has arrived? -/
def msgArrives (s : State) (id : Nat) (m : Msg) : Bool :=
  msgHeld s id m || (!msgLate s id &&
    (hasReached s id || (!(tget s.msgPkt id Pkt.new).lost && routeOpen s (msgEnds s m).1 (msgEnds s m).2)))

/-- The number of the cycle in which a message has reached its home; one that has not reaches it now, alone and after the others. -/
def reachedAt (s : State) (id : Nat) : Nat := tget s.reached id s.fresh

/-- Messages reach their homes in one cycle, those that can arrive and have not yet (R291, R292). -/
def reachHomes (s : State) (ids : List Nat) : State :=
  let new := s.msgs.filter fun m => isIn m.1 ids && !hasReached s m.1 && msgArrives s m.1 m.2
  { s with reached := new.foldl (fun t m => tput t m.1 s.fresh) s.reached, fresh := s.fresh + 1 }

end Sys2Proof.Machine
end

