-- ==== Sys2Proof/Machine/Copies.lean ====
section
/-! DEFINITION. The copy engines at work (R228 to R236, R303 to R308): injection, delivery, multicast, acknowledgement. -/

namespace Sys2Proof.Machine

/-! The copy of a granule. -/

/-- Change a copy of a core by its identifier, wherever it stands. -/
def modCopy (s : State) (core id : Nat) (f : Copy → Copy) : State :=
  let g (l : List Copy) : List Copy := l.map fun c => if c.id = id then f c else c
  modCore s core fun k => { k with chans := k.chans.map g, issued := g k.issued }

/-- Move the front copy of a channel to the issued ones (R303). DESIGN CHOICE: R303 and R229 do not say when a copy leaves its channel; it
leaves as its last granule is injected, and counts among the channel's 16 no more while its granules are delivered, log 96. -/
def issueCopy (s : State) (core ch : Nat) : State :=
  modCore s core fun k =>
    match chanOf k ch with
    | [] => k
    | c :: r => { k with chans := k.chans.setIfInBounds ch r, issued := k.issued ++ [c] }

/-- Remove the copies of a core that are issued and wholly acknowledged; they leave the strands' batches (R234). -/
def pruneCopies (s : State) (core : Nat) : State :=
  let done := (getCore s core).issued.filter fun c => c.flying == 0
  if done.isEmpty then s
  else
    let s := modCore s core fun k => { k with issued := k.issued.filter fun c => c.flying != 0 }
    done.foldl (fun s c => modLane s (core / 16) (core % 16) c.strand fun l =>
      { l with openCopies := l.openCopies.filter (· != c.id), batches := l.batches.map fun b => b.filter (· != c.id) }) s

/-- The record of a fault of a copy (R231, R360). -/
def copyFault (s : State) (core : Nat) (c : Copy) (cause : Cause) (va : Word) : State :=
  let r := core / 16
  if (getHead s r c.strand).task == some c.task then
    fillRecord s r (core % 16) c.strand
      { id := s.fresh, kind := .copy, va := va, fail := va, sz := 64, rel := false, scope := c.scope, data := 0, mask := 0, op := .add,
        cause := cause, handler := c.handler, detSeq := c.detSeq }
  else s

/-- A fault stops the front copy of a channel: a ring destination goes on with zeros, any other copy is over (R231). -/
def stopCopy (s : State) (core ch : Nat) (c : Copy) (cause : Cause) (va : Word) : State :=
  let s := copyFault s core c cause va
  if c.dst == .ring then modCopy s core c.id fun c => { c with zero := true }
  else pruneCopies (issueCopy (modCopy s core c.id fun c => { c with done := c.count }) core ch) core

/-! Injection (R230, R303, R326). -/

/-- Does the copy wait for an acquire that its strand executed earlier (R326)? -/
def copyHeld (s : State) (c : Copy) : Bool :=
  c.src == .global && !c.after.isEmpty && s.reqs.any fun q => isIn q.id c.after && (!reqDone q || acqOpen q)

/-- Where the next source granule of a copy lies outside the device: its physical address (R344, R347). -/
def sourceAway (s : State) (core : Nat) (c : Copy) : Option Nat :=
  if c.src != .global || c.zero || c.count ≤ c.done then none
  else
    match laneXlate s (core / 16) (core % 16) .read (c.srcVal + BitVec.ofNat 64 c.done) with
    | .ok (pa, _, _) => if regionOf pa = .cellar then none else some pa
    | .error _ => none

/-- Device reads of host windows outstanding at the service core of a die that came before a time, or before a request (R344):
those of loads and those of copies. -/
def hostReadsBefore (s : State) (die time : Nat) (older : List Req) : Nat :=
  (older.countP fun q => q.st == .sent && !isWriteKind q.kind && plainKind q.kind && regionOf (firstPa q) == .host &&
    firstPa q / 2 ^ 30 % 4 == die) +
  (s.cores.foldl (fun n p => n + (p.2.chans.toList.filterMap List.head?).countP fun c =>
    (c.ask.any fun a => a.1 < time) && (sourceAway s p.1 c).any fun pa => regionOf pa == .host && pa / 2 ^ 30 % 4 == die) 0)

/-- The home of the next source granule of a copy, away from its core: its router, and the delivery bound of the read (R228, R336). -/
def sourceHome (s : State) (core : Nat) (c : Copy) : Option (Nat × Nat) :=
  if c.zero || c.count ≤ c.done then none
  else
    match c.src with
    | .pool => none
    | .remote => (remoteOperand s (core / 16) c.srcVal).map fun p => (routerOf p.1, 4000)
    | .global =>
      match laneXlate s (core / 16) (core % 16) .read (c.srcVal + BitVec.ofNat 64 c.done) with
      | .ok (pa, _, _) => some (paRouter (dieOfRow (core / 16)) pa, boundOf pa)
      | .error _ => none

/-- The source read of a copy and its answer (R333). -/
def askTrip (s : State) (core : Nat) (c : Copy) (seq : BitVec 8) : List Nat :=
  let r := core / 16
  roundTrip (ctxOf s r).2 (routerOf core) ((sourceHome s core c).getD (routerOf core, 0)).1 0 (scopeCode c.scope) seq

/-- Is the way to the home of a copy's next source granule open (R334)? -/
def sourceOpen (s : State) (core : Nat) (c : Copy) : Bool :=
  s.mesh.isEmpty || (sourceHome s core c).all fun h => routeOpen s (routerOf core) h.1 && routeOpen s h.1 (routerOf core)

/-- The read of a copy's next source granule leaves its core (R333, R344). -/
def askSource (s : State) (core : Nat) (c : Copy) : State :=
  let (s, p) := newPkt s (routerOf core)
  modCopy s core c.id fun c => { c with ask := some (s.now, p) }

/-- Can the source read of a copy that has left be answered: it has not been dropped (R334), its way is open, its bound has not run out
(R336), and outside the device it is within the limit of the service core (R344), or goes over a link (R347)? -/
def sourceBack (s : State) (core : Nat) (c : Copy) (since : Nat) (p : Pkt) : Bool :=
  !p.lost && sourceOpen s core c && ((sourceHome s core c).all fun h => s.now < since + h.2) &&
  (sourceAway s core c).all fun pa =>
    if regionOf pa = .host then hostReadsBefore s (pa / 2 ^ 30 % 4) since (s.reqs.filter fun q => q.since ≤ since) < 256
    else peerRoute s (peerOf pa)

/-- Has a copy a miss whose walk has not finished (R270)? -/
def copyWalks (s : State) (core : Nat) (c : Copy) : Bool :=
  s.walks.any fun w => w.place == .copy (core / 16) (core % 16) c.strand c.id && !w.gone && w.done.isNone

/-- Can the front copy of a channel inject now? -/
def canInject (s : State) (core ch : Nat) : Bool :=
  let k := getCore s core
  match chanOf k ch with
  | [] => false
  | c :: _ =>
    !copyHeld s c &&
    (c.ask.all fun a => sourceBack s core c a.1 a.2) && !copyWalks s core c &&
    (c.dst != .ring || c.count ≤ c.done ||
      (ringOf (getLane s (core / 16) (core % 16) c.strand) c.dstVal.toNat).open (c.ringAt + c.done) 64) &&
    (c.red.isNone || portFree s core ch (k.chanSeq.toList.getD ch 0))

/-- The channel that the engine serves next: the first one with work after the channel served last (R303). -/
def nextChan (s : State) (core : Nat) : Option Nat :=
  let last := (getCore s core).lastChan
  [last + 1, last + 2, last + 3, last + 4].findSome? fun i => if canInject s core (i % 4) then some (i % 4) else none

/-- A source granule: its bytes, whether they are poisoned, the leaf used, the words read (R323). -/
structure Source64 where
  data : Nat
  bad : Bool
  leaves : List TlbEntry
  words : List Nat

/-- The source granule of a copy at an offset, or the cause and address of a fault (R231). fails: the pages whose walks the copy waited
for and that failed. -/
def copyRead (s : State) (fails : List (Nat × Cause)) (core : Nat) (c : Copy) (o : Nat) : Except (Cause × Word) Source64 :=
  let r := core / 16
  let pool (n a : Nat) : Except (Cause × Word) Source64 :=
    let k := getCore s n
    .ok ⟨poolRdN k a 64, (poolBad k a 64).isSome, [], poolWords n a 64⟩
  if c.zero then .ok ⟨0, false, [], []⟩
  else
    match c.src with
    | .pool => pool core (c.srcVal.toNat + o)
    | .remote =>
      match remoteOperand s r c.srcVal with
      | some (k, a) => pool k (a + o)
      | none => .ok ⟨0, false, [], []⟩
    | .global =>
      let va := c.srcVal + BitVec.ofNat 64 o
      match laneXlateWith s fails r (core % 16) .read va with
      | .error e => .error (e, va)
      | .ok (pa, at_, e) =>
        let at' := hostAt s (ctxOf s r).1 pa
        if regionOf pa = .peer && !Config.peerAdmits (peerOf pa) (pa % 2 ^ 38) false then .error (.xlatePerm, va)
        else .ok ⟨physRdN s (attrKey s at_) at' 64, (physBad s at' 64).isSome, [e], wordsOf [(pa, 64)]⟩

/-- The request of a granule of a copy, without its destination. -/
def granuleReq (s : State) (core : Nat) (c : Copy) (data : Nat) (bad : Bool) : Req :=
  let k := getCore s core
  { blankReq s .granule (core / 16) (core % 16) c.strand with
    size := 64, data := BitVec.ofNat 1024 data, bad := if bad then some 0 else none, scope := c.scope, handler := c.handler,
    task := c.task, st := .sent, copy := c.id, at_ := c.done, port := c.chan, red := c.red, detSeq := c.detSeq,
    seq := k.chanSeq.toList.getD c.chan 0, gen := k.launchGen }

/-- The granule with its destination, or the fault of a global one (R228, R231). -/
def granuleDest (s : State) (fails : List (Nat × Cause)) (core : Nat) (c : Copy) (q : Req) : Except (Cause × Word) (Req × List TlbEntry) :=
  let r := core / 16
  let o := c.done
  match c.dst with
  | .pool => .ok ({ q with dstCore := core, dstOff := c.dstVal.toNat + o }, [])
  | .remote =>
    match remoteOperand s r c.dstVal with
    | some (k, a) => .ok ({ q with dstCore := k, dstOff := a + o }, [])
    | none => .ok ({ q with dstCore := core }, [])
  | .ring =>
    let g := ringOf (getLane s r (core % 16) c.strand) c.dstVal.toNat
    .ok ({ q with dstCore := core, dstOff := g.addr (c.ringAt + o), ring := some (c.dstVal.toNat, c.ringAt + o) }, [])
  | .multicast => .ok ({ q with dstCore := 512, mcast := some (c.dstVal.setWidth 16) }, [])
  | .global =>
    let va := c.dstVal + BitVec.ofNat 64 o
    match laneXlateWith s fails r (core % 16) .write va with
    | .error e => .error (e, va)
    | .ok (pa, at_, e) => .ok ({ q with va := va, segs := [(pa, 64)], attr := at_, attr2 := at_, bound := boundOf pa }, [e])

/-- A TVAL of DELIVERY: address, REASON 1 where the packet was dropped in the fabric and else 2, KIND (R368). -/
def lateTval (addr kind : Nat) (lost : Bool) : Word :=
  BitVec.ofNat 64 (addr % 2 ^ 48 + 2 ^ 48 * (if lost then 1 else 2) + 2 ^ 52 * kind)

/-- The bound of a source read, or of a copy's walk, has run out: DELIVERY for the strand (R270, R337, R344, R368), the copy goes on after
the granule. -/
def copyLost (s : State) (core ch : Nat) (c : Copy) (va : Word) (lost : Bool) : State :=
  let s := modCopy s core c.id fun c => { c with done := c.done + 64, ask := none }
  let s := if c.count ≤ c.done + 64 then pruneCopies (issueCopy s core ch) core else s
  if (getHead s (core / 16) c.strand).task == some c.task then
    addEvent s (core / 16) (core % 16) c.strand ⟨.delivery, lateTval va.toNat 3 lost, c.handler, none⟩
  else s

/-- The copy with an identifier at the front of a channel, with its core. -/
def frontCopy (s : State) (id : Nat) : Option (Nat × Copy) :=
  s.cores.findSome? fun p => ((p.2.chans.toList.filterMap List.head?).find? fun c => c.id == id).map fun c => (p.1, c)

/-- ADDR of a source read (R368). DESIGN CHOICE: 0 where the source, a remote pool, has no virtual address, log 75. -/
def sourceVa (c : Copy) : Word := if c.src = .global then c.srcVal + BitVec.ofNat 64 c.done else 0

/-- The bound of the source read of the front copy of a channel, by the copy's identifier, has run out. -/
def sourceExpires (s : State) (id : Nat) : State :=
  match frontCopy s id with
  | none => s
  | some (core, c) =>
    match c.ask with
    | some (t, p) =>
      if t + ((sourceHome s core c).getD (0, 4000)).2 ≤ s.now then copyLost s core c.chan c (sourceVa c) p.lost else s
    | none => s

/-- The gate of a copy's next granule at its core's TLB: the pages of its source and of its destination (R270). -/
def copyGate (s : State) (core : Nat) (c : Copy) : Gate :=
  let r := core / 16
  let (vf, ctx) := ctxOf s r
  let at_ (on : Bool) (va : Word) : List (Nat × Word) :=
    if on then missesAt (getCore s core).tlb vf ctx (va + BitVec.ofNat 64 c.done) 8 (BitVec.allOnes 32) else []
  pageGate s (.copy r (core % 16) c.strand c.id) vf ctx 3 c.handler
    (at_ (c.src == .global && !c.zero) c.srcVal ++ at_ (c.dst == .global) c.dstVal)

/-- The granule that has been read goes on its way, or its destination faults (R230, R231). -/
def injectGranule (s : State) (fails : List (Nat × Cause)) (core ch : Nat) (c : Copy) (g : Source64) : State :=
  let st := wordStamp s g.words
  let s := tlbFill s (core / 16) (core % 16) g.leaves
  match granuleDest s fails core c (granuleReq s core c g.data g.bad) with
  | .error (e, va) => stopCopy s core ch c e va
  | .ok (q, es) =>
    let (s, q) := stampReq (tlbFill s (core / 16) (core % 16) es) q
    let (s, q) := numberPkt s { q with stamp := stampJoin q.stamp st }
    let s := pushReq s q
    let s := if c.red.isSome then
        noteRed (modCore s core fun k => { k with chanSeq := k.chanSeq.setIfInBounds ch (k.chanSeq.toList.getD ch 0 + 1) })
          (core / 16) q.bound
      else s
    let s := modCopy s core c.id fun c => { c with done := c.done + 64, flying := c.flying + 1, ask := none }
    if c.count ≤ c.done + 64 then issueCopy s core ch else s

/-- Does the read of a copy's next source granule leave in a step of its own: outside the device (R344, R347), or where its way is not open
(R334)? -/
def asksFirst (s : State) (core : Nat) (c : Copy) : Bool :=
  c.ask.isNone && ((sourceAway s core c).isSome || !sourceOpen s core c)

/-- The read of a source granule within the device has left and been answered: both packets are numbered (R333). -/
def readAway (s : State) (core : Nat) (c : Copy) : State :=
  match sourceHome s core c with
  | some (home, _) => (numberAt (if c.ask.isSome then s else (numberAt s (routerOf core)).1) home).1
  | none => s

/-- Inject the next granule of the front copy of a channel (R230, R303), once its pages are translated (R270). A source granule outside the
device is asked for first (R344). -/
def copyInject (s : State) (core ch : Nat) : State :=
  match chanOf (getCore s core) ch with
  | [] => s
  | c :: _ =>
    let s := modCore s core fun k => { k with lastChan := ch }
    if c.count ≤ c.done then pruneCopies (issueCopy s core ch) core
    else
      match copyGate s core c with
      | .wait s => s
      | .go s fails _ =>
        if asksFirst s core c then askSource s core c
        else
          match copyRead s fails core c c.done with
          | .error (e, va) => stopCopy s core ch c e va
          | .ok g => injectGranule (readAway s core c) fails core ch c g

/-! Delivery (R304, R305, R235). -/

/-- Is it a granule's turn: no older granule of its channel to the same destination core, or of its copy, is outstanding, no such
one of its copy has failed at its home (R231), and no older multicast of the channel is still on its way through the routers
(R230, R304), past the router where it stands if it is one itself? -/
def granuleTurn (s : State) (q : Req) : Bool :=
  (olderReqs s q.id).all fun p =>
    let mine := p.kind == .granule && p.row == q.row && p.col == q.col && p.port == q.port
    let failed := match p.st with
      | .failed _ _ => true
      | _ => false
    !(mine && p.copy == q.copy && !p.segs.isEmpty && failed) &&
    (reqDone p || !(mine &&
      (if q.dstCore == 512 then p.dstCore == 512 && (p.router == none || p.router == q.router)
       else p.dstCore == 512 || (p.segs.isEmpty && q.segs.isEmpty && p.dstCore == q.dstCore) ||
        (p.copy == q.copy && !p.segs.isEmpty))))

/-- Is the destination core between teams, so that arriving granules are held (R281, R305)? A stopped team still takes the granules
that arrive before its save (R306, R369 step 2). -/
def coreBusy (s : State) (core : Nat) : Bool := (getRow s (core / 16)).phase == .restore

/-- The match table's offset for a tag at a core (R236). -/
def matchOf (s : State) (core : Nat) (tag : BitVec 16) : Option Nat :=
  ((getCore s core).match_.find? fun p => p.1 == tag).map (·.2)

/-- The copy that a granule belongs to. -/
def copyOf (s : State) (q : Req) : Option Copy :=
  let k := getCore s (coreIx q.row q.col)
  (k.chans.toList.flatten ++ k.issued).find? fun c => c.id == q.copy

/-- Does a range of a core of a partition lie within the scratch (R232)? -/
def scratchFits (s : State) (part off n : Nat) : Bool :=
  let S := match (getPart s part).job with
    | some j => scratchSize j.launch.pword
    | none => 0
  0x800 ≤ off && off + n ≤ S

/-- What a multicast's delivery finds as its first granule reaches a core (R232, R308): the offset that the match table registers;
none where the tag is gone or the range does not fit, which fills a record of the issuing strand. -/
def subDecide (s : State) (q : Req) (tag : BitVec 16) (c : Copy) : State × Option Nat :=
  match matchOf s q.dstCore tag with
  | none => (s, none)
  | some o =>
    if scratchFits s q.part o c.count then (s, some o)
    else (copyFault s (coreIx q.row q.col) c .copyMcast (tag.setWidth 64), none)

/-- Where a granule is to be written in its destination's pool: a multicast's at the offset that its first granule found, none
where it is not delivered. -/
def placeGranule (s : State) (q : Req) : State × Option Nat :=
  match q.mcast, copyOf s q with
  | some tag, some c =>
    match c.subs.find? fun p => p.1 == q.dstCore with
    | some (_, o) => (s, o.map (· + q.at_))
    | none =>
      let (s, o) := subDecide s q tag c
      (modCopy s (coreIx q.row q.col) c.id fun c => { c with subs := c.subs ++ [(q.dstCore, o)] }, o.map (· + q.at_))
  | some _, none => (s, none)
  | none, _ => (s, some q.dstOff)

/-- The ring and the position of a granule bound for a ring that is still laid out as it was at injection. -/
def ringPlace (s : State) (q : Req) : Option (Ring × Nat) :=
  match q.ring with
  | none => none
  | some (n, x) =>
    let g := ringOf (getLane s q.row q.col q.strand) n
    if g.on && g.addr x == q.dstOff then some (g, x) else none

/-- Write a granule into the pool of its destination core, raising the channel's count (R235, R260, R262, R304). -/
def poolDeliver (s : State) (q : Req) : State :=
  let v := q.data.toNat % 2 ^ 512
  let at_ := ringPlace s q
  let s := modCore s q.dstCore fun k =>
    let k := match at_ with
      | some (g, x) => if q.bad.isSome then ringSpoil k g x 64 else ringPut k g x 64 v
      | none => if q.bad.isSome then poolPoisonAdd { k with pool := memWrN k.pool q.dstOff 64 0 } (granules q.dstOff 64)
        else poolWrN k q.dstOff 64 v
    { k with cptr := k.cptr.setIfInBounds q.port (k.cptr.toList.getD q.port 0 + 64),
             heldGranules := k.heldGranules.filter (· != q.id) }
  let s := match q.ring with
    | some (n, x) => modLane s q.row q.col q.strand fun l => setRing l n ((ringOf l n).wrote x 64)
    | none => s
  answerReq s { q with st := .performed }

/-- A granule is held at its destination core for the restore under way there (R305). -/
def holdGranule (s : State) (q : Req) : State :=
  modCore s q.dstCore fun k => { k with heldGranules := if isIn q.id k.heldGranules then k.heldGranules else k.heldGranules ++ [q.id] }

/-- Deliver a pool granule: within its bound (R336), held from its arrival while the core changes teams (R305), in channel order, after
the writes that its stamp names (R304, R323). -/
def copyDeliver (s : State) (q : Req) : State :=
  if !q.segs.isEmpty || q.red.isSome || q.dstCore = 512 || !reachable s q || expired s q then s
  else if coreBusy s q.dstCore then holdGranule s q
  else if !granuleTurn s q || !stampOk s q then s
  else
    match placeGranule s q with
    | (s, some o) =>
      let q := { q with dstOff := o }
      noteWrite (poolDeliver s q) q
    | (s, none) =>
      answerReq (modCore s q.dstCore fun k => { k with heldGranules := k.heldGranules.filter (· != q.id) }) { q with st := .performed }

/-- Perform a copy granule at a Cellar vault, a host window or a peer (R230, R261, R262, R348). -/
def granulePerform (s : State) (q : Req) : State :=
  let pa := bytePa s q 0
  if regionOf pa = .peer && !Config.peerAdmits (peerOf pa) (pa % 2 ^ 38) true then
    answerReq s { q with st := .failed .xlatePerm q.va }
  else
    let s := if q.bad.isSome then physPoison s [pa / 64]
      else physHeal (physWrN s (attrKey s q.attr) pa 64 (q.data.toNat % 2 ^ 512)) [pa / 64]
    noteWrite (answerReq s { q with st := .performed }) q

/-! Multicast (R232, R307, R308). -/

/-- A multicast that finds no subscriber at its rendezvous is over at once (R232). -/
def endMulticast (s : State) (core : Nat) (c : Copy) : State :=
  let s := modCopy s core c.id fun c => { c with done := c.count }
  match chanOf (getCore s core) c.chan with
  | f :: _ => if f.id = c.id then issueCopy s core c.chan else s
  | [] => s

/-- The replica of a multicast granule that a router sends to one of its ports: to the core there, numbered where that is a cross-die write
(R323), or on to the next router (R307). It goes on as the same packet (R333). -/
def replica (s : State) (q : Req) (router id port : Nat) : State × Req :=
  let q := { q with id := id, from_ := some router, out := { q.out with hops := 0, inside := none } }
  if 1024 ≤ port then numberX s { q with dstCore := port - 1024 } else (s, { q with router := some port })

/-- Replicate a multicast granule onto the ports of the router that it has come to: the rendezvous first. The first granule of the
copy fixes the ports there (R307, R308). -/
def replicate (s : State) (q : Req) : State :=
  match q.mcast with
  | none => s
  | some tag =>
    if q.dstCore != 512 || q.st != .sent || !granuleTurn s q || !reachable s q || expired s q then s
    else
      let core := coreIx q.row q.col
      match copyOf s q with
      | none => dropReq s q.id
      | some c =>
        let router := q.router.getD (rendezvous s q.part tag)
        let known := c.ports.find? (·.1 == router)
        let ports := match known with
          | some p => p.2
          | none => portsOf s q.part tag router
        let s := if known.isSome then s else modCopy s core c.id fun c => { c with ports := c.ports ++ [(router, ports)] }
        let (s, reps) := ports.zipIdx.foldl (fun (s, reps) p =>
          let (s, rep) := replica s q router (s.fresh + p.2) p.1
          (s, reps ++ [rep])) (s, ([] : List Req))
        let s := { s with reqs := s.reqs.flatMap fun p => if p.id = q.id then reps else [p], fresh := s.fresh + reps.length }
        let s := modCopy s core c.id fun c => { c with flying := c.flying + reps.length - 1 }
        pruneCopies (if q.router.isNone && ports.isEmpty then endMulticast s core c else s) core

/-! Acknowledgement (R234). -/

/-- The acknowledgement of a granule reaches the issuing core. -/
def granuleAck (s : State) (q : Req) : State :=
  let core := coreIx q.row q.col
  pruneCopies (modCopy (dropReq s q.id) core q.copy fun c => { c with flying := c.flying - 1 }) core

/-- The later granules of a copy that are on their way to its global destination are not performed (R231). -/
def dropLater (s : State) (q : Req) : State :=
  let later (p : Req) : Bool :=
    p.kind == .granule && p.row == q.row && p.col == q.col && p.copy == q.copy && q.id < p.id && p.st == .sent && !p.segs.isEmpty
  (s.reqs.filter later).foldl granuleAck s

/-- A granule was refused or failed at its home: a record of the issuing strand, and the copy stops there (R231). -/
def granuleFault (s : State) (q : Req) (cause : Cause) : State :=
  let core := coreIx q.row q.col
  match copyOf s q with
  | none => dropReq s q.id
  | some c =>
    let s := granuleAck (dropLater s q) q
    let s := copyFault s core c cause q.va
    if c.done < c.count then
      match chanOf (getCore s core) c.chan with
      | f :: _ =>
        if f.id = c.id then pruneCopies (issueCopy (modCopy s core c.id fun c => { c with done := c.count }) core c.chan) core else s
      | [] => s
    else s

end Sys2Proof.Machine
end

