-- ==== Sys2Proof/Machine/Arith.lean ====
section
/-! DEFINITION. The integer operations of head and lane on 64-bit patterns (R121, R122, R152). -/

namespace Sys2Proof.Machine

/-- The shift count b[5:0] of a register shift. -/
def shiftCount (b : Word) : Nat := b.toNat % 64

/-- ADD (R121). -/
def aluAdd (a b : Word) : Word := a + b
/-- SUB (R121). -/
def aluSub (a b : Word) : Word := a - b
/-- AND (R121). -/
def aluAnd (a b : Word) : Word := a &&& b
/-- OR (R121). -/
def aluOr (a b : Word) : Word := a ||| b
/-- XOR (R121). -/
def aluXor (a b : Word) : Word := a ^^^ b
/-- SHL (R121). -/
def aluShl (a b : Word) : Word := a <<< shiftCount b
/-- SHR (R121). -/
def aluShr (a b : Word) : Word := a >>> shiftCount b
/-- SAR (R121): floor of the signed value divided by a power of two. -/
def aluSar (a b : Word) : Word := a.sshiftRight (shiftCount b)
/-- MUL (R121). -/
def aluMul (a b : Word) : Word := a * b
/-- SLT (R121). -/
def aluSlt (a b : Word) : Word := if a.toInt < b.toInt then 1 else 0
/-- SLTN (R121). -/
def aluSltn (a b : Word) : Word := if a.toNat < b.toNat then 1 else 0
/-- MIN (R121). -/
def aluMin (a b : Word) : Word := if a.toInt ≤ b.toInt then a else b
/-- MAX (R121). -/
def aluMax (a b : Word) : Word := if b.toInt ≤ a.toInt then a else b
/-- MINN (R152). -/
def aluMinn (a b : Word) : Word := if a.toNat ≤ b.toNat then a else b
/-- MAXN (R152). -/
def aluMaxn (a b : Word) : Word := if b.toNat ≤ a.toNat then a else b
/-- MULH (R152): bits 127:64 of the signed product. -/
def aluMulh (a b : Word) : Word := word ((a.toInt * b.toInt) / 2 ^ 64)
/-- MULHN (R152): bits 127:64 of the natural product. -/
def aluMulhn (a b : Word) : Word := BitVec.ofNat 64 (a.toNat * b.toNat / 2 ^ 64)
/-- DIV (R152): toward zero, all ones for a zero divisor. -/
def aluDiv (a b : Word) : Word := if b = 0 then BitVec.allOnes 64 else word (a.toInt.tdiv b.toInt)
/-- REM (R152): the dividend for a zero divisor. -/
def aluRem (a b : Word) : Word := if b = 0 then a else word (a.toInt - b.toInt * a.toInt.tdiv b.toInt)
/-- DIVN (R152). -/
def aluDivn (a b : Word) : Word := if b = 0 then BitVec.allOnes 64 else BitVec.ofNat 64 (a.toNat / b.toNat)
/-- REMN (R152). -/
def aluRemn (a b : Word) : Word := if b = 0 then a else BitVec.ofNat 64 (a.toNat % b.toNat)
/-- CLZ (R152). -/
def aluClz (a : Word) : Word := BitVec.ofNat 64 (if a = 0 then 64 else 63 - a.toNat.log2)
/-- CTZ (R152). -/
def aluCtz (a : Word) : Word := BitVec.ofNat 64 (((upTo 64).find? fun i => a.getLsbD i).getD 64)
/-- POPC (R152). -/
def aluPopc (a : Word) : Word := BitVec.ofNat 64 ((upTo 64).countP fun i => a.getLsbD i)
/-- SExt(imm16, 16) mod 2^64 (R122). -/
def immWord (imm : BitVec 16) : Word := imm.signExtend 64
/-- LUI (R122). -/
def aluLui (a : Word) (imm : BitVec 16) : Word := a <<< 16 ||| imm.setWidth 64

end Sys2Proof.Machine
end

