-- ==== Sys2Proof/Machine/FloatCore.lean ====
section
/-! DEFINITION. What the scalar floating-point and move instructions do at one core (R154 to R156). -/

namespace Sys2Proof.Machine

/-- Write a scalar result with its flags, or take IV (R97): nothing is written then. -/
def doneF (x : Ctx) (s : State) (l : Lane) (d : BitVec 5) (r : Nat × Fl) : CoreOut :=
  if ivTraps l.estat r.2 then .trap s .iv 0 else .done (x.set s (orFlags (wrG l d (BitVec.ofNat 64 r.1)) r.2))

/-- The low bits of a register value as a value of a format (R154). -/
def lowVal (code : BitVec 4) (w : Word) : Val := decodeVal code.toNat (w.toNat % 2 ^ codeWidth code.toNat)

/-- Flags of an exact operation joined to those of rounding its result into format fd. -/
def roundOut (fd : BitVec 4) (rm : Rm) (v : Val × Fl) : Nat × Fl :=
  let (p, f) := (fmtOf fd.toNat).round rm v.1
  (p, v.2 ||| f)

/-- A binary floating-point operation (R154). -/
def fltOp (x : Ctx) (s : State) (d a b : BitVec 5) (w : West) (f : Val → Val → Val × Fl) : CoreOut :=
  let p := x.f.px
  withSrcs x s (srcs2 a b w p) fun l =>
    doneF x s l d (roundOut p.fd x.rm (f (lowVal p.fa (valA x l a w)) (lowVal p.fb (valB x l b w))))

/-- A comparison (R154, R98). -/
def fltCmp (x : Ctx) (s : State) (d a b : BitVec 5) (w : West) (c : CmpCond) : CoreOut :=
  let p := x.f.px
  withSrcs x s (srcs2 a b w p) fun l =>
    let (t, f) := cmpVal c (lowVal p.fa (valA x l a w)) (lowVal p.fb (valB x l b w))
    doneF x s l d (if t then 1 else 0, f)

/-- Is RDN the rounding mode (R93)? -/
def isRdn (rm : Rm) : Bool := rm == .rdn

/-- FADD at a core (R154). -/
def coreFadd (x : Ctx) (s : State) (d a b : BitVec 5) (w : West) : CoreOut := fltOp x s d a b w (vadd (isRdn x.rm))

/-- FSUB at a core (R154). -/
def coreFsub (x : Ctx) (s : State) (d a b : BitVec 5) (w : West) : CoreOut :=
  fltOp x s d a b w fun u v => vadd (isRdn x.rm) u v.negate

/-- FMUL at a core (R154). -/
def coreFmul (x : Ctx) (s : State) (d a b : BitVec 5) (w : West) : CoreOut := fltOp x s d a b w vmul

/-- FDIV at a core (R154). -/
def coreFdiv (x : Ctx) (s : State) (d a b : BitVec 5) (w : West) : CoreOut := fltOp x s d a b w vdiv

/-- An exact product plus an addend (R154): a signalling NaN of either counts, and a product that is NaN stays NaN. -/
def vfmaExact (rdn : Bool) (a b c : Val) : Val × Fl :=
  let (p, f) := vmul a b
  let (z, g) := vadd rdn p c
  (z, f ||| g)

/-- FMA at a core (R154): the addend register is PX c. -/
def coreFma (x : Ctx) (s : State) (d a b : BitVec 5) (w : West) : CoreOut :=
  let p := x.f.px
  withSrcs x s (srcs2 a b w p ++ [.g p.c false]) fun l =>
    doneF x s l d (roundOut p.fd x.rm (vfmaExact (isRdn x.rm) (lowVal p.fa (valA x l a w)) (lowVal p.fb (valB x l b w))
      (lowVal p.fd (rdG l p.c))))

/-- FMIN at a core (R154, R98). -/
def coreFmin (x : Ctx) (s : State) (d a b : BitVec 5) (w : West) : CoreOut := fltOp x s d a b w vmin

/-- FMAX at a core (R154, R98). -/
def coreFmax (x : Ctx) (s : State) (d a b : BitVec 5) (w : West) : CoreOut := fltOp x s d a b w vmax

/-- FEQ at a core (R154, R98). -/
def coreFeq (x : Ctx) (s : State) (d a b : BitVec 5) (w : West) : CoreOut := fltCmp x s d a b w .eq

/-- FLT at a core (R154, R98). -/
def coreFlt (x : Ctx) (s : State) (d a b : BitVec 5) (w : West) : CoreOut := fltCmp x s d a b w .lt

/-- FLE at a core (R154, R98). -/
def coreFle (x : Ctx) (s : State) (d a b : BitVec 5) (w : West) : CoreOut := fltCmp x s d a b w .le

/-- Source of a unary form. -/
def srcs1 (a : BitVec 5) (w : Bool) (p : Px) : List Src := if w then [] else [.g a p.ea]

/-- Value of a unary form's operand. -/
def val1 (x : Ctx) (l : Lane) (a : BitVec 5) (w : Bool) : Word := if w then westG x else rdG l a

/-- The pattern with its sign bit changed by f. -/
def signBit (code : BitVec 4) (w : Word) (f : Bool → Bool) : Nat :=
  let n := codeWidth code.toNat
  w.toNat % 2 ^ (n - 1) + if f (w.getLsbD (n - 1)) then 2 ^ (n - 1) else 0

/-- FABS at a core (R154): a bit operation, no flag. -/
def coreFabs (x : Ctx) (s : State) (d a : BitVec 5) (w : Bool) : CoreOut :=
  withSrcs x s (srcs1 a w x.f.px) fun l =>
    doneG x s l d (BitVec.ofNat 64 (signBit x.f.px.fa (val1 x l a w) fun _ => false))

/-- FNEG at a core (R154): a bit operation, no flag. -/
def coreFneg (x : Ctx) (s : State) (d a : BitVec 5) (w : Bool) : CoreOut :=
  withSrcs x s (srcs1 a w x.f.px) fun l =>
    doneG x s l d (BitVec.ofNat 64 (signBit x.f.px.fa (val1 x l a w) fun b => !b))

/-- FCVTI at a core (R154): the integer result extended to 64 bits by its format. -/
def coreFcvti (x : Ctx) (s : State) (d a : BitVec 5) (w : Bool) : CoreOut :=
  let p := x.f.px
  let fd := p.fd.toNat
  withSrcs x s (srcs1 a w p) fun l =>
    let (q, f) := encodeVal p.fa.toNat fd x.rm (lowVal p.fa (val1 x l a w))
    let r := if codeSigned fd then (word (sext q (codeWidth fd))).toNat else q % 2 ^ codeWidth fd
    doneF x s l d (r, f)

/-- ICVTF at a core (R154). -/
def coreIcvtf (x : Ctx) (s : State) (d a : BitVec 5) (w : Bool) : CoreOut :=
  let p := x.f.px
  withSrcs x s (srcs1 a w p) fun l =>
    doneF x s l d ((fmtOf p.fd.toNat).round x.rm (lowVal p.fa (val1 x l a w)))

/-! Moves (R156). -/

/-- HGET at a core: the head value attached at issue (R21). -/
def coreHget (x : Ctx) (s : State) (d : BitVec 5) : CoreOut := doneG x s (x.lane s) d x.f.hval

/-- TAIL at a core (R30): core 15 appends to the tail queue, waiting while it is full. -/
def coreTail (x : Ctx) (s : State) (a : BitVec 5) : CoreOut :=
  withSrcs x s [.g a x.f.px.ea] fun l =>
    if x.c = 15 then
      if 4 ≤ (getHead s x.r x.sl).tailQ.length then .wait s [] 15
      else .done (modHead s x.r x.sl fun h => { h with tailQ := h.tailQ ++ [rdG l a] })
    else .done s

/-- CMOV at a core (R156): with mk[0] clear, gd keeps value and full/empty state. -/
def coreCmov (x : Ctx) (s : State) (d a : BitVec 5) (m : BitVec 3) : CoreOut :=
  withSrcs x s [.g a x.f.px.ea, .m m] fun l =>
    if (rdM l m).getLsbD 0 then doneG x s l d (rdG l a) else .done s

/-- MOVMG at a core (R156). -/
def coreMovmg (x : Ctx) (s : State) (d : BitVec 5) (m : BitVec 3) (half : Bool) : CoreOut :=
  withSrcs x s [.m m] fun l => doneG x s l d (((rdM l m) >>> (if half then 64 else 0)).setWidth 64)

/-- MOVGM at a core (R156): the other half of mk is unchanged. -/
def coreMovgm (x : Ctx) (s : State) (m : BitVec 3) (a : BitVec 5) (half : Bool) : CoreOut :=
  withSrcs x s [.g a x.f.px.ea] fun l =>
    let old := (rdM l m).toNat
    let v := (rdG l a).toNat
    .done (x.set s (wrM l m (BitVec.ofNat 128 (if half then old % 2 ^ 64 + v * 2 ^ 64 else v + old / 2 ^ 64 * 2 ^ 64))))

end Sys2Proof.Machine
end

