-- ==== Sys2Proof/Machine/IntegerCore.lean ====
section
/-! DEFINITION. What the lane integer instructions do at one core (R150 to R153). -/

namespace Sys2Proof.Machine

/-- A binary integer operation: sources checked in order, the result written to gd (R150, R152). -/
def intOp (x : Ctx) (s : State) (d a b : BitVec 5) (w : West) (f : Word → Word → Word) : CoreOut :=
  withSrcs x s (srcs2 a b w x.f.px) fun l => doneG x s l d (f (valA x l a w) (valB x l b w))

/-- A unary integer operation. -/
def intUn (x : Ctx) (s : State) (d a : BitVec 5) (w : Bool) (f : Word → Word) : CoreOut :=
  let v := if w then West.a else West.no
  withSrcs x s (if w then [] else [.g a x.f.px.ea]) fun l => doneG x s l d (f (valA x l a v))

/-- A binary operation with constant word k as operand b (R50, R151); a poisoned constant word traps POISON (R261). -/
def intConst (x : Ctx) (s : State) (d a : BitVec 5) (k : BitVec 8) (f : Word → Word → Word) : CoreOut :=
  withSrcs x s [.g a x.f.px.ea] fun l =>
    let c := getCore s x.core
    match poolBad c (8 * k.toNat) 8 with
    | some o => .trap s .poison (BitVec.ofNat 64 o)
    | none => doneG x s l d (f (rdG l a) (constWord c k.toNat))

/-- An immediate operation (R153). -/
def intImm (x : Ctx) (s : State) (d a : BitVec 5) (f : Word → Word) : CoreOut :=
  withSrcs x s [.g a x.f.px.ea] fun l => doneG x s l d (f (rdG l a))

/-- ADD at a core (R152). -/
def coreAdd (x : Ctx) (s : State) (d a b : BitVec 5) (w : West) : CoreOut := intOp x s d a b w aluAdd

/-- SUB at a core (R152). -/
def coreSub (x : Ctx) (s : State) (d a b : BitVec 5) (w : West) : CoreOut := intOp x s d a b w aluSub

/-- AND at a core (R152). -/
def coreAnd (x : Ctx) (s : State) (d a b : BitVec 5) (w : West) : CoreOut := intOp x s d a b w aluAnd

/-- OR at a core (R152). -/
def coreOr (x : Ctx) (s : State) (d a b : BitVec 5) (w : West) : CoreOut := intOp x s d a b w aluOr

/-- XOR at a core (R152). -/
def coreXor (x : Ctx) (s : State) (d a b : BitVec 5) (w : West) : CoreOut := intOp x s d a b w aluXor

/-- SHL at a core (R152). -/
def coreShl (x : Ctx) (s : State) (d a b : BitVec 5) (w : West) : CoreOut := intOp x s d a b w aluShl

/-- SHR at a core (R152). -/
def coreShr (x : Ctx) (s : State) (d a b : BitVec 5) (w : West) : CoreOut := intOp x s d a b w aluShr

/-- SAR at a core (R152). -/
def coreSar (x : Ctx) (s : State) (d a b : BitVec 5) (w : West) : CoreOut := intOp x s d a b w aluSar

/-- MUL at a core (R152). -/
def coreMul (x : Ctx) (s : State) (d a b : BitVec 5) (w : West) : CoreOut := intOp x s d a b w aluMul

/-- SLT at a core (R152). -/
def coreSlt (x : Ctx) (s : State) (d a b : BitVec 5) (w : West) : CoreOut := intOp x s d a b w aluSlt

/-- SLTN at a core (R152). -/
def coreSltn (x : Ctx) (s : State) (d a b : BitVec 5) (w : West) : CoreOut := intOp x s d a b w aluSltn

/-- MIN at a core (R152). -/
def coreMin (x : Ctx) (s : State) (d a b : BitVec 5) (w : West) : CoreOut := intOp x s d a b w aluMin

/-- MAX at a core (R152). -/
def coreMax (x : Ctx) (s : State) (d a b : BitVec 5) (w : West) : CoreOut := intOp x s d a b w aluMax

/-- MINN at a core (R152). -/
def coreMinn (x : Ctx) (s : State) (d a b : BitVec 5) (w : West) : CoreOut := intOp x s d a b w aluMinn

/-- MAXN at a core (R152). -/
def coreMaxn (x : Ctx) (s : State) (d a b : BitVec 5) (w : West) : CoreOut := intOp x s d a b w aluMaxn

/-- MULH at a core (R152). -/
def coreMulh (x : Ctx) (s : State) (d a b : BitVec 5) (w : West) : CoreOut := intOp x s d a b w aluMulh

/-- MULHN at a core (R152). -/
def coreMulhn (x : Ctx) (s : State) (d a b : BitVec 5) (w : West) : CoreOut := intOp x s d a b w aluMulhn

/-- DIV at a core (R152). -/
def coreDiv (x : Ctx) (s : State) (d a b : BitVec 5) (w : West) : CoreOut := intOp x s d a b w aluDiv

/-- DIVN at a core (R152). -/
def coreDivn (x : Ctx) (s : State) (d a b : BitVec 5) (w : West) : CoreOut := intOp x s d a b w aluDivn

/-- REM at a core (R152). -/
def coreRem (x : Ctx) (s : State) (d a b : BitVec 5) (w : West) : CoreOut := intOp x s d a b w aluRem

/-- REMN at a core (R152). -/
def coreRemn (x : Ctx) (s : State) (d a b : BitVec 5) (w : West) : CoreOut := intOp x s d a b w aluRemn

/-- CLZ at a core (R152). -/
def coreClz (x : Ctx) (s : State) (d a : BitVec 5) (w : Bool) : CoreOut := intUn x s d a w aluClz

/-- CTZ at a core (R152). -/
def coreCtz (x : Ctx) (s : State) (d a : BitVec 5) (w : Bool) : CoreOut := intUn x s d a w aluCtz

/-- POPC at a core (R152). -/
def corePopc (x : Ctx) (s : State) (d a : BitVec 5) (w : Bool) : CoreOut := intUn x s d a w aluPopc

/-- ADD_CONST at a core (R151, R152). -/
def coreAddConst (x : Ctx) (s : State) (d a : BitVec 5) (k : BitVec 8) : CoreOut := intConst x s d a k aluAdd

/-- SUB_CONST at a core (R151, R152). -/
def coreSubConst (x : Ctx) (s : State) (d a : BitVec 5) (k : BitVec 8) : CoreOut := intConst x s d a k aluSub

/-- AND_CONST at a core (R151, R152). -/
def coreAndConst (x : Ctx) (s : State) (d a : BitVec 5) (k : BitVec 8) : CoreOut := intConst x s d a k aluAnd

/-- OR_CONST at a core (R151, R152). -/
def coreOrConst (x : Ctx) (s : State) (d a : BitVec 5) (k : BitVec 8) : CoreOut := intConst x s d a k aluOr

/-- XOR_CONST at a core (R151, R152). -/
def coreXorConst (x : Ctx) (s : State) (d a : BitVec 5) (k : BitVec 8) : CoreOut := intConst x s d a k aluXor

/-- SHL_CONST at a core (R151, R152). -/
def coreShlConst (x : Ctx) (s : State) (d a : BitVec 5) (k : BitVec 8) : CoreOut := intConst x s d a k aluShl

/-- SHR_CONST at a core (R151, R152). -/
def coreShrConst (x : Ctx) (s : State) (d a : BitVec 5) (k : BitVec 8) : CoreOut := intConst x s d a k aluShr

/-- SAR_CONST at a core (R151, R152). -/
def coreSarConst (x : Ctx) (s : State) (d a : BitVec 5) (k : BitVec 8) : CoreOut := intConst x s d a k aluSar

/-- MUL_CONST at a core (R151, R152). -/
def coreMulConst (x : Ctx) (s : State) (d a : BitVec 5) (k : BitVec 8) : CoreOut := intConst x s d a k aluMul

/-- SLT_CONST at a core (R151, R152). -/
def coreSltConst (x : Ctx) (s : State) (d a : BitVec 5) (k : BitVec 8) : CoreOut := intConst x s d a k aluSlt

/-- SLTN_CONST at a core (R151, R152). -/
def coreSltnConst (x : Ctx) (s : State) (d a : BitVec 5) (k : BitVec 8) : CoreOut := intConst x s d a k aluSltn

/-- MIN_CONST at a core (R151, R152). -/
def coreMinConst (x : Ctx) (s : State) (d a : BitVec 5) (k : BitVec 8) : CoreOut := intConst x s d a k aluMin

/-- MAX_CONST at a core (R151, R152). -/
def coreMaxConst (x : Ctx) (s : State) (d a : BitVec 5) (k : BitVec 8) : CoreOut := intConst x s d a k aluMax

/-- MINN_CONST at a core (R151, R152). -/
def coreMinnConst (x : Ctx) (s : State) (d a : BitVec 5) (k : BitVec 8) : CoreOut := intConst x s d a k aluMinn

/-- MAXN_CONST at a core (R151, R152). -/
def coreMaxnConst (x : Ctx) (s : State) (d a : BitVec 5) (k : BitVec 8) : CoreOut := intConst x s d a k aluMaxn

/-- MULH_CONST at a core (R151, R152). -/
def coreMulhConst (x : Ctx) (s : State) (d a : BitVec 5) (k : BitVec 8) : CoreOut := intConst x s d a k aluMulh

/-- MULHN_CONST at a core (R151, R152). -/
def coreMulhnConst (x : Ctx) (s : State) (d a : BitVec 5) (k : BitVec 8) : CoreOut := intConst x s d a k aluMulhn

/-- DIV_CONST at a core (R151, R152). -/
def coreDivConst (x : Ctx) (s : State) (d a : BitVec 5) (k : BitVec 8) : CoreOut := intConst x s d a k aluDiv

/-- DIVN_CONST at a core (R151, R152). -/
def coreDivnConst (x : Ctx) (s : State) (d a : BitVec 5) (k : BitVec 8) : CoreOut := intConst x s d a k aluDivn

/-- REM_CONST at a core (R151, R152). -/
def coreRemConst (x : Ctx) (s : State) (d a : BitVec 5) (k : BitVec 8) : CoreOut := intConst x s d a k aluRem

/-- REMN_CONST at a core (R151, R152). -/
def coreRemnConst (x : Ctx) (s : State) (d a : BitVec 5) (k : BitVec 8) : CoreOut := intConst x s d a k aluRemn

/-- ADDI at a core (R153). -/
def coreAddi (x : Ctx) (s : State) (d a : BitVec 5) (imm : BitVec 16) : CoreOut :=
  intImm x s d a fun v => aluAdd v (immWord imm)

/-- ANDI at a core (R153). -/
def coreAndi (x : Ctx) (s : State) (d a : BitVec 5) (imm : BitVec 16) : CoreOut :=
  intImm x s d a fun v => aluAnd v (immWord imm)

/-- ORI at a core (R153). -/
def coreOri (x : Ctx) (s : State) (d a : BitVec 5) (imm : BitVec 16) : CoreOut :=
  intImm x s d a fun v => aluOr v (immWord imm)

/-- XORI at a core (R153). -/
def coreXori (x : Ctx) (s : State) (d a : BitVec 5) (imm : BitVec 16) : CoreOut :=
  intImm x s d a fun v => aluXor v (immWord imm)

/-- SHLI at a core (R153). -/
def coreShli (x : Ctx) (s : State) (d a : BitVec 5) (n : BitVec 6) : CoreOut :=
  intImm x s d a fun v => aluShl v (n.setWidth 64)

/-- SHRI at a core (R153). -/
def coreShri (x : Ctx) (s : State) (d a : BitVec 5) (n : BitVec 6) : CoreOut :=
  intImm x s d a fun v => aluShr v (n.setWidth 64)

/-- SARI at a core (R153). -/
def coreSari (x : Ctx) (s : State) (d a : BitVec 5) (n : BitVec 6) : CoreOut :=
  intImm x s d a fun v => aluSar v (n.setWidth 64)

/-- LI at a core (R153): reads no register. -/
def coreLi (x : Ctx) (s : State) (d : BitVec 5) (imm : BitVec 16) : CoreOut := doneG x s (x.lane s) d (immWord imm)

/-- LUI at a core (R153). -/
def coreLui (x : Ctx) (s : State) (d a : BitVec 5) (imm : BitVec 16) : CoreOut := intImm x s d a fun v => aluLui v imm

end Sys2Proof.Machine
end

