-- ==== Sys2Proof/Machine/Special.lean ====
section
/-! DEFINITION. The special functions (R115, R116, R199, R200): exact cases, special values, flags, and approximated results
as a free choice among the values that R115 admits, found by exact fixed-point bounds. -/

namespace Sys2Proof.Machine

/-- Fraction bits of the fixed-point bounds. -/
def fxBits : Nat := 260

/-- 1 in fixed point. -/
def fxOne : Nat := 2 ^ 260

/-- 2 pi in fixed point, truncated. -/
def fxTwoPi : Nat := 11640690460536522376967518168887355604908588074508557758680708835774044622917928

/-- ln 2 in fixed point, truncated. -/
def fxLn2 : Nat := 1284175362975860941795742467300961128543850681785439145697965880086719311618750

/-- log2 e in fixed point, truncated. -/
def fxLog2e : Nat := 2672842766669574211887770024979960511796426922130096802413542443912580169091323

/-- Error allowed for in the bounds, in fixed-point units. -/
def fxErr : Nat := 2 ^ 40

/-- Sum of the terms t, t x / k, t x x / (k (k+1)) ... of an exponential series, n terms. -/
def expSeries (x : Nat) : Nat → Nat → Nat → Nat
  | 0, _, _ => 0
  | n + 1, k, t => t + expSeries x n (k + 1) (t * x / fxOne / k)

/-- 2^f in fixed point for f in [0, 1). -/
def fxExp2 (f : Nat) : Nat := expSeries (f * fxLn2 / fxOne) 70 1 fxOne

/-- Terms of atanh z: z^k / k for odd k. -/
def atanhSeries (z2 : Nat) : Nat → Nat → Nat → Nat
  | 0, _, _ => 0
  | n + 1, k, t => t / k + atanhSeries z2 n (k + 2) (t * z2 / fxOne)

/-- log2 m in fixed point for m in [1, 2). -/
def fxLog2 (m : Nat) : Nat :=
  let z := (m - fxOne) * fxOne / (m + fxOne)
  2 * atanhSeries (z * z / fxOne) 90 1 z * fxOne / fxLn2

/-- Alternating series of sine (k = 1, t = x) or cosine (k = 0, t = 1): positive and negative sums. -/
def trigSeries (x2 : Nat) : Nat → Nat → Nat → Bool → Nat → Nat → Nat × Nat
  | 0, _, _, _, p, q => (p, q)
  | n + 1, k, t, pos, p, q =>
    trigSeries x2 n (k + 2) (t * x2 / fxOne / ((k + 1) * (k + 2))) (!pos) (if pos then p + t else p) (if pos then q else q + t)

/-- Integer square root by bits: the greatest s below 2^n with s * s at most x, from the given start. -/
def isqrtBits (x : Nat) : Nat → Nat → Nat
  | 0, s => s
  | n + 1, s => if (s + 2 ^ n) * (s + 2 ^ n) ≤ x then isqrtBits x n (s + 2 ^ n) else isqrtBits x n s

/-- Floor of the square root. -/
def isqrt (x : Nat) : Nat := isqrtBits x (x.log2 / 2 + 1) 0

/-- A positive number as an integer times a power of two with an even exponent, at least 2^lead. -/
def evenScale (q : Q) (lead : Nat) : Nat × Int :=
  let s : Int := (lead : Int) - (ilog q.n q.d)
  let e := q.e - s
  let s := if e % 2 = 0 then s else s + 1
  ((scaled q.n q.d s).1, q.e - s)

/-- Square root of a positive number, rounded exactly: the root to 80 bits with a sticky bit (R199, R95). -/
def sqrtQ (q : Q) : Q :=
  let (m, e) := evenScale q 160
  let s := isqrt m
  let exact := s * s == m && (let (_, r, _) := scaled q.n q.d (q.e - e); r == 0)
  ⟨false, 2 * s + (if exact then 0 else 1), 1, e / 2 - 1⟩

/-- A bound just below 1/sqrt x for positive x. -/
def rsqrtLo (q : Q) : Q :=
  let (m, e) := evenScale q 160
  ⟨false, isqrt (2 ^ 480 / m), 1, -240 - e / 2⟩

/-- Is a positive number a power of two, and which? -/
def log2Exact (q : Q) : Option Int :=
  if q.d = 1 && q.n = 2 ^ q.n.log2 then some (q.e + q.n.log2) else none

/-- The values of a format within n units in the last place of an exact result (R115), in half units of its spacing: h is the
result's own floor there. Odd ones are values only below the power of two under the result, where the spacing halves
(not among the subnormals, low); above the next power only every fourth is one. cap: the last that may be returned. -/
def admitted (fb n h : Nat) (low : Bool) (cap : Option Nat) : List Int :=
  ((upTo (4 * n)).map fun (i : Nat) => (h : Int) - 2 * n + 1 + i).filter fun c =>
    (if c % 2 = 0 then decide (c ≤ 4 * 2 ^ fb) || c % 4 == 0 else !low && decide (c < 2 * 2 ^ fb)) &&
      (match cap with | some k => decide (c.natAbs ≤ k) | none => true)

/-- The approximated result: a free choice among all the values that R115 admits, those of the other sign among them; overflow,
underflow and inexact flags (R200), the exact result or the chosen one above the largest finite value. A zero has the
exact result's sign. cap: never above 1 (R199). -/
def approx (f : Fmt) (rm : Rm) (n pick : Nat) (cap neg : Bool) (lo : Q) : Nat × Fl :=
  let emin : Int := 1 - (f.bias : Int)
  let e := max (if lo.n = 0 then emin else ilog lo.n lo.d + lo.e) emin
  let h := (scaled lo.n lo.d (lo.e - e + f.fb + 1)).1
  let l := admitted f.fb n h (e == emin) (if cap then some (2 * 2 ^ (f.fb - e).toNat) else none)
  let c := nth l (pick % l.length) 0
  let ovf := (f.overflow rm neg, Fl.of ||| Fl.nx)
  if (f.bias : Int) < e || (e == (f.bias : Int) && decide (2 * (2 * 2 ^ f.fb - 1) ≤ h)) then ovf
  else if c = 0 then ((f.round .rtz (.dyadic neg 0 0)).1, Fl.nx ||| Fl.uf)
  else
    let q : Q := ⟨neg != decide (c < 0), c.natAbs, 1, e - f.fb - 1⟩
    let top := ilog c.natAbs 1 + q.e
    if (f.bias : Int) < top then ovf
    else ((f.roundNum .rtz q).1, Fl.nx ||| Fl.when (decide (top < emin)) Fl.uf)

/-- Pattern of an exact value of the format, with no flag. -/
def exactPat (f : Fmt) (v : Val) : Nat × Fl := ((f.round .rne v).1, 0)

/-- Is the power of two a finite nonzero number of the format? -/
def pow2In (f : Fmt) (k : Int) : Bool := decide (1 - (f.bias : Int) - f.fb ≤ k) && decide (k ≤ f.bias)

/-- VRCP (R199, R200). -/
def fnRcp (f : Fmt) (rm : Rm) (pick : Nat) (v : Val) : Nat × Fl :=
  match v with
  | .nan s => (f.nanPat, Fl.when s Fl.iv)
  | .inf s => exactPat f (.dyadic s 0 0)
  | .num q =>
    if q.n = 0 then (f.infPat q.neg, Fl.dz)
    else match log2Exact q with
      | some k => if pow2In f (-k) then exactPat f (.dyadic q.neg 1 (-k)) else approx f rm 1 pick false q.neg ⟨false, q.d, q.n, -q.e⟩
      | none => approx f rm 1 pick false q.neg ⟨false, q.d, q.n, -q.e⟩

/-- VRSQ (R199, R200). -/
def fnRsq (f : Fmt) (rm : Rm) (pick : Nat) (v : Val) : Nat × Fl :=
  match v with
  | .nan s => (f.nanPat, Fl.when s Fl.iv)
  | .inf s => if s then (f.nanPat, Fl.iv) else exactPat f (.dyadic false 0 0)
  | .num q =>
    if q.n = 0 then (f.infPat q.neg, Fl.dz)
    else if q.neg then (f.nanPat, Fl.iv)
    else match log2Exact q with
      | some k => if k % 2 = 0 && pow2In f (-k / 2) then exactPat f (.dyadic false 1 (-k / 2)) else approx f rm 1 pick false false (rsqrtLo q)
      | none => approx f rm 1 pick false false (rsqrtLo q)

/-- VSQRT: RoundFmt of the exact root (R199, R115). -/
def fnSqrt (f : Fmt) (rm : Rm) (v : Val) : Nat × Fl :=
  match v with
  | .nan s => (f.nanPat, Fl.when s Fl.iv)
  | .inf s => if s then (f.nanPat, Fl.iv) else (f.infPat false, 0)
  | .num q =>
    if q.n = 0 then exactPat f v
    else if q.neg then (f.nanPat, Fl.iv)
    else f.round rm (.num (sqrtQ q))

/-- The integer that a number is, if it is one. -/
def intOf (q : Q) : Option Int :=
  let (lo, r, _) := scaled q.n q.d q.e
  if r = 0 then some (if q.neg then -(lo : Int) else lo) else none

/-- VEXP2 (R199, R200). -/
def fnExp2 (f : Fmt) (rm : Rm) (pick : Nat) (v : Val) : Nat × Fl :=
  match v with
  | .nan s => (f.nanPat, Fl.when s Fl.iv)
  | .inf s => if s then exactPat f (.dyadic false 0 0) else (f.infPat false, 0)
  | .num q =>
    if q.n = 0 then exactPat f (.dyadic false 1 0)
    else
      let big := !(({ q with neg := false } : Q).lt ⟨false, 1000, 1, 0⟩)
      if big then (if q.neg then approx f rm 2 pick false false ⟨false, 0, 1, 0⟩ else (f.overflow rm false, Fl.of ||| Fl.nx))
      else
        let x := (scaled q.n q.d (q.e + fxBits)).1
        let n := x / fxOne
        let fr := x % fxOne
        let (k, fr) : Int × Nat := if !q.neg then (n, fr) else if fr = 0 then (-(n : Int), 0) else (-(n : Int) - 1, fxOne - fr)
        if intOf q = some k && pow2In f k then exactPat f (.dyadic false 1 k)
        else approx f rm 2 pick false false (if fr = 0 then ⟨false, 1, 1, k⟩ else ⟨false, fxExp2 fr - fxErr, 1, k - fxBits⟩)

/-- VLOG2 (R199, R200). -/
def fnLog2 (f : Fmt) (rm : Rm) (pick : Nat) (v : Val) : Nat × Fl :=
  match v with
  | .nan s => (f.nanPat, Fl.when s Fl.iv)
  | .inf s => if s then (f.nanPat, Fl.iv) else (f.infPat false, 0)
  | .num q =>
    if q.n = 0 then (f.infPat true, Fl.dz)
    else if q.neg then (f.nanPat, Fl.iv)
    else match log2Exact q with
      | some k => exactPat f (.ofInt k)
      | none =>
        let l := ilog q.n q.d
        let m := (scaled q.n q.d ((fxBits : Int) - l)).1
        let y : Int := (l + q.e) * (fxOne : Int) + fxLog2 m
        approx f rm 2 pick false (y < 0) ⟨false, y.natAbs - fxErr, 1, -fxBits⟩

/-- sin or cos of |x| below 2^15, in fixed point, with its sign. -/
def fxTrig (cos : Bool) (q : Q) : Int :=
  let x := (scaled q.n q.d (q.e + fxBits)).1 % fxTwoPi
  let (p, n) := if cos then trigSeries (x * x / fxOne) 60 0 fxOne true 0 0 else trigSeries (x * x / fxOne) 60 1 x true 0 0
  (p : Int) - n

/-- VSIN and VCOS (R116, R199, R200). -/
def fnTrig (cos : Bool) (f : Fmt) (rm : Rm) (pick : Nat) (v : Val) : Nat × Fl :=
  match v with
  | .nan s => (f.nanPat, Fl.when s Fl.iv)
  | .inf _ => (f.nanPat, Fl.iv)
  | .num q =>
    if q.n = 0 then (if cos then exactPat f (.dyadic false 1 0) else exactPat f v)
    else if !(({ q with neg := false } : Q).lt ⟨false, 32768, 1, 0⟩) then (f.nanPat, Fl.iv)
    else
      let y := fxTrig cos q
      approx f rm 2 pick true (if cos then y < 0 else (y < 0) != q.neg) ⟨false, y.natAbs - fxErr, 1, -fxBits⟩

/-- VTANH (R199, R200): (1 - t) / (1 + t) with t = e^(-2|x|). -/
def fnTanh (f : Fmt) (rm : Rm) (pick : Nat) (v : Val) : Nat × Fl :=
  match v with
  | .nan s => (f.nanPat, Fl.when s Fl.iv)
  | .inf s => exactPat f (.dyadic s 1 0)
  | .num q =>
    if q.n = 0 then exactPat f v
    else
      let t := if ({ q with neg := false } : Q).lt ⟨false, 100, 1, 0⟩ then
          let z := 2 * (scaled q.n q.d (q.e + fxBits)).1 * fxLog2e / fxOne
          let n := z / fxOne
          let fr := z % fxOne
          if fr = 0 then fxOne / 2 ^ n else fxExp2 (fxOne - fr) / 2 ^ (n + 1)
        else 0
      let y := (fxOne - t) * fxOne / (fxOne + t)
      approx f rm 3 pick true q.neg ⟨false, y - fxErr, 1, -fxBits⟩

end Sys2Proof.Machine
end

