-- ==== Sys2Proof/Machine/VectorCore.lean ====
section
/-! DEFINITION. What the vector instructions do at one core (R182 to R202). -/

namespace Sys2Proof.Machine

/-- The operand vector a: its register or the west word, replicated at core 0 at the width of a format code (R186). -/
def vecA (x : Ctx) (l : Lane) (a : BitVec 5) (w : West) (code : Nat) : Vec := if w = .a then westV x code else rdV l a

/-- The operand vector b. -/
def vecB (x : Ctx) (l : Lane) (b : BitVec 5) (w : West) (code : Nat) : Vec := if w = .b then westV x code else rdV l b

/-- West operand of a unary form. -/
def west1 (w : Bool) : West := if w then .a else .no

/-- Write a vector result with its flags in one step, or take IV at the lowest active element that raises it (R183,
R184, R97). r gives pattern and flags of element j; inactive elements keep or become 0; bits from e x n up are tail. -/
def doneV (x : Ctx) (s : State) (l : Lane) (d : BitVec 5) (n e : Nat) (r : Nat → Nat × Fl) : CoreOut :=
  let mk := rdM l x.f.px.msk
  let old := rdV l d
  let act (j : Nat) : Bool := mk.getLsbD j
  let rs := (upTo e).map fun j => if act j then r j else ((if x.f.px.mz then 0 else elem old n j), 0)
  let fl := rs.foldl (fun f p => f ||| p.2) 0
  if ivTraps l.estat fl then
    .trap s .iv (BitVec.ofNat 64 ((rs.findIdx? fun p => p.2.getLsbD 0).getD 0))
  else .done (putV x (x.set s (orFlags l fl)) d (ofElems n (rs.map (·.1))))

/-- Element width of a code. -/
def wid (c : BitVec 4) : Nat := codeWidth c.toNat

/-- Elements of a width in a register (R182). -/
def count (n : Nat) : Nat := 1024 / n

/-- Signed or natural value of an element in vector integer arithmetic (R182): code 8 is I16. -/
def vecInt (c : BitVec 4) (p : Nat) : Int := if c = 8 || codeSigned c.toNat then sext p (wid c) else (p % 2 ^ wid c : Nat)

/-- An integer result wrapped, or clamped under SAT (R189); no flag. -/
def vecIntOut (c : BitVec 4) (rm : BitVec 3) (z : Int) : Nat × Fl :=
  if rm = 5 then ((clampInt (c = 8 || codeSigned c.toNat) (wid c) z).1, 0) else (wrap z (wid c), 0)

/-- Element by element arithmetic of a binary form, floating or integer by fd (R189). -/
def vecArith (x : Ctx) (fv : Val → Val → Val × Fl) (fi : Int → Int → Int) (va vb : Vec) (j : Nat) : Nat × Fl :=
  let p := x.f.px
  let n := wid p.fd
  if isFloat p.fd then roundOut p.fd x.rm (fv (decodeVal p.fa.toNat (elem va n j)) (decodeVal p.fb.toNat (elem vb n j)))
  else vecIntOut p.fd p.rm (fi (vecInt p.fd (elem va n j)) (vecInt p.fd (elem vb n j)))

/-- A binary vector operation with masking by fd. -/
def vecOp (x : Ctx) (s : State) (d a b : BitVec 5) (w : West) (fv : Val → Val → Val × Fl) (fi : Int → Int → Int) : CoreOut :=
  let p := x.f.px
  withSrcs x s (vsrcs2 a b w p ++ mergeSrc d p) fun l =>
    let va := vecA x l a w p.fa.toNat
    let vb := vecB x l b w p.fb.toNat
    doneV x s l d (wid p.fd) (count (wid p.fd)) (vecArith x fv fi va vb)

/-- The constant word as a vector, n bits in every element (R190); poisoned: POISON (R261). -/
def withConst (x : Ctx) (s : State) (k : BitVec 8) (n : Nat) (go : Vec → CoreOut) : CoreOut :=
  let c := getCore s x.core
  match poolBad c (8 * k.toNat) 8 with
  | some o => .trap s .poison (BitVec.ofNat 64 o)
  | none => go (replicated n (constWord c k.toNat))

/-- The constant form of a binary vector operation (R190). -/
def vecConst (x : Ctx) (s : State) (d a : BitVec 5) (k : BitVec 8) (fv : Val → Val → Val × Fl) (fi : Int → Int → Int) :
    CoreOut :=
  let p := x.f.px
  withSrcs x s ([.v a p.ea] ++ mergeSrc d p) fun l =>
    withConst x s k (wid p.fb) fun vb =>
      doneV x s l d (wid p.fd) (count (wid p.fd)) (vecArith x fv fi (rdV l a) vb)

/-- Integer minimum of vector arithmetic. -/
def intMin (a b : Int) : Int := if a ≤ b then a else b
/-- Integer maximum of vector arithmetic. -/
def intMax (a b : Int) : Int := if b ≤ a then a else b

/-- Floating subtraction. -/
def vsubVal (rdn : Bool) (a b : Val) : Val × Fl := vadd rdn a b.negate

/-- VADD at a core (R189). -/
def coreVadd (x : Ctx) (s : State) (d a b : BitVec 5) (w : West) : CoreOut := vecOp x s d a b w (vadd (isRdn x.rm)) (· + ·)

/-- VSUB at a core (R189). -/
def coreVsub (x : Ctx) (s : State) (d a b : BitVec 5) (w : West) : CoreOut := vecOp x s d a b w (vsubVal (isRdn x.rm)) (· - ·)

/-- VMUL at a core (R189). -/
def coreVmul (x : Ctx) (s : State) (d a b : BitVec 5) (w : West) : CoreOut := vecOp x s d a b w vmul (· * ·)

/-- VMIN at a core (R189). -/
def coreVmin (x : Ctx) (s : State) (d a b : BitVec 5) (w : West) : CoreOut := vecOp x s d a b w vmin intMin

/-- VMAX at a core (R189). -/
def coreVmax (x : Ctx) (s : State) (d a b : BitVec 5) (w : West) : CoreOut := vecOp x s d a b w vmax intMax

/-- VFMA at a core (R189): the addend register is PX c, read whatever the mask. -/
def coreVfma (x : Ctx) (s : State) (d a b : BitVec 5) (w : West) : CoreOut :=
  let p := x.f.px
  let n := wid p.fd
  withSrcs x s (vsrcs2 a b w p ++ [.v p.c false] ++ mergeSrc d p) fun l =>
    let va := vecA x l a w p.fa.toNat
    let vb := vecB x l b w p.fb.toNat
    let vc := rdV l p.c
    doneV x s l d n (count n) fun j =>
      if isFloat p.fd then
        roundOut p.fd x.rm (vfmaExact (isRdn x.rm) (decodeVal p.fa.toNat (elem va n j)) (decodeVal p.fb.toNat (elem vb n j))
          (decodeVal p.fd.toNat (elem vc n j)))
      else vecIntOut p.fd p.rm (vecInt p.fd (elem va n j) * vecInt p.fd (elem vb n j) + vecInt p.fd (elem vc n j))

/-- Source of a unary vector form. -/
def vsrcs1 (a : BitVec 5) (w : Bool) (p : Px) : List Src := if w then [] else [.v a p.ea]

/-- VABS and VNEG: the sign bit of a floating element, or integer arithmetic (R189, R91). -/
def vecSign (x : Ctx) (s : State) (d a : BitVec 5) (w : Bool) (fs : Bool → Bool) (fi : Int → Int) : CoreOut :=
  let p := x.f.px
  let n := wid p.fd
  withSrcs x s (vsrcs1 a w p ++ mergeSrc d p) fun l =>
    let va := vecA x l a (west1 w) p.fa.toNat
    doneV x s l d n (count n) fun j =>
      let e := elem va n j
      if isFloat p.fd then (signBit p.fd (BitVec.ofNat 64 e) fs, 0) else vecIntOut p.fd p.rm (fi (vecInt p.fd e))

/-- VABS at a core (R189). -/
def coreVabs (x : Ctx) (s : State) (d a : BitVec 5) (w : Bool) : CoreOut :=
  vecSign x s d a w (fun _ => false) fun v => if v < 0 then -v else v

/-- VNEG at a core (R189). -/
def coreVneg (x : Ctx) (s : State) (d a : BitVec 5) (w : Bool) : CoreOut := vecSign x s d a w (fun b => !b) fun v => -v

/-! Logic and shifts (R191, R192). -/

/-- A logic operation on 32 elements of 32 bits (R191). -/
def vecLogic (x : Ctx) (s : State) (d a b : BitVec 5) (w : West) (f : Vec → Vec → Vec) : CoreOut :=
  let p := x.f.px
  withSrcs x s (vsrcs2 a b w p ++ mergeSrc d p) fun l =>
    let r := f (vecA x l a w 0) (vecB x l b w 0)
    doneV x s l d 32 32 fun j => (elem r 32 j, 0)

/-- The constant form of a logic operation (R190). -/
def vecLogicConst (x : Ctx) (s : State) (d a : BitVec 5) (k : BitVec 8) (f : Vec → Vec → Vec) : CoreOut :=
  let p := x.f.px
  withSrcs x s ([.v a p.ea] ++ mergeSrc d p) fun l =>
    withConst x s k 32 fun vb =>
      let r := f (rdV l a) vb
      doneV x s l d 32 32 fun j => (elem r 32 j, 0)

/-- VAND at a core (R191). -/
def coreVand (x : Ctx) (s : State) (d a b : BitVec 5) (w : West) : CoreOut := vecLogic x s d a b w (· &&& ·)

/-- VOR at a core (R191). -/
def coreVor (x : Ctx) (s : State) (d a b : BitVec 5) (w : West) : CoreOut := vecLogic x s d a b w (· ||| ·)

/-- VXOR at a core (R191). -/
def coreVxor (x : Ctx) (s : State) (d a b : BitVec 5) (w : West) : CoreOut := vecLogic x s d a b w (· ^^^ ·)

/-- VNOT at a core (R191). -/
def coreVnot (x : Ctx) (s : State) (d a : BitVec 5) (w : Bool) : CoreOut :=
  let p := x.f.px
  withSrcs x s (vsrcs1 a w p ++ mergeSrc d p) fun l =>
    let r := ~~~ vecA x l a (west1 w) 0
    doneV x s l d 32 32 fun j => (elem r 32 j, 0)

/-- VSHL of an n-bit element (R192). -/
def eltShl (n a c : Nat) : Nat := if c < n then a * 2 ^ c % 2 ^ n else 0

/-- VSHR of an n-bit element (R192). -/
def eltShr (n a c : Nat) : Nat := if c < n then a / 2 ^ c else 0

/-- VSAR of an n-bit element (R192). -/
def eltSar (n a c : Nat) : Nat := wrap (sext a n / 2 ^ (min c n)) n

/-- A shift by the width of fd (R192). -/
def vecShift (x : Ctx) (s : State) (d a b : BitVec 5) (w : West) (f : Nat → Nat → Nat → Nat) : CoreOut :=
  let p := x.f.px
  let n := wid p.fd
  withSrcs x s (vsrcs2 a b w p ++ mergeSrc d p) fun l =>
    let va := vecA x l a w 0
    let vb := vecB x l b w 0
    doneV x s l d n (count n) fun j => (f n (elem va n j) (elem vb n j), 0)

/-- The constant form of a shift (R190). -/
def vecShiftConst (x : Ctx) (s : State) (d a : BitVec 5) (k : BitVec 8) (f : Nat → Nat → Nat → Nat) : CoreOut :=
  let p := x.f.px
  let n := wid p.fd
  withSrcs x s ([.v a p.ea] ++ mergeSrc d p) fun l =>
    withConst x s k n fun vb => doneV x s l d n (count n) fun j => (f n (elem (rdV l a) n j) (elem vb n j), 0)

/-- VSHL at a core (R192). -/
def coreVshl (x : Ctx) (s : State) (d a b : BitVec 5) (w : West) : CoreOut := vecShift x s d a b w eltShl

/-- VSHR at a core (R192). -/
def coreVshr (x : Ctx) (s : State) (d a b : BitVec 5) (w : West) : CoreOut := vecShift x s d a b w eltShr

/-- VSAR at a core (R192). -/
def coreVsar (x : Ctx) (s : State) (d a b : BitVec 5) (w : West) : CoreOut := vecShift x s d a b w eltSar

/-- VADD_CONST at a core (R190). -/
def coreVaddConst (x : Ctx) (s : State) (d a : BitVec 5) (k : BitVec 8) : CoreOut := vecConst x s d a k (vadd (isRdn x.rm)) (· + ·)

/-- VSUB_CONST at a core (R190). -/
def coreVsubConst (x : Ctx) (s : State) (d a : BitVec 5) (k : BitVec 8) : CoreOut := vecConst x s d a k (vsubVal (isRdn x.rm)) (· - ·)

/-- VMUL_CONST at a core (R190). -/
def coreVmulConst (x : Ctx) (s : State) (d a : BitVec 5) (k : BitVec 8) : CoreOut := vecConst x s d a k vmul (· * ·)

/-- VMIN_CONST at a core (R190). -/
def coreVminConst (x : Ctx) (s : State) (d a : BitVec 5) (k : BitVec 8) : CoreOut := vecConst x s d a k vmin intMin

/-- VMAX_CONST at a core (R190). -/
def coreVmaxConst (x : Ctx) (s : State) (d a : BitVec 5) (k : BitVec 8) : CoreOut := vecConst x s d a k vmax intMax

/-- VAND_CONST at a core (R190). -/
def coreVandConst (x : Ctx) (s : State) (d a : BitVec 5) (k : BitVec 8) : CoreOut := vecLogicConst x s d a k (· &&& ·)

/-- VOR_CONST at a core (R190). -/
def coreVorConst (x : Ctx) (s : State) (d a : BitVec 5) (k : BitVec 8) : CoreOut := vecLogicConst x s d a k (· ||| ·)

/-- VXOR_CONST at a core (R190). -/
def coreVxorConst (x : Ctx) (s : State) (d a : BitVec 5) (k : BitVec 8) : CoreOut := vecLogicConst x s d a k (· ^^^ ·)

/-- VSHL_CONST at a core (R190). -/
def coreVshlConst (x : Ctx) (s : State) (d a : BitVec 5) (k : BitVec 8) : CoreOut := vecShiftConst x s d a k eltShl

/-- VSHR_CONST at a core (R190). -/
def coreVshrConst (x : Ctx) (s : State) (d a : BitVec 5) (k : BitVec 8) : CoreOut := vecShiftConst x s d a k eltShr

/-- VSAR_CONST at a core (R190). -/
def coreVsarConst (x : Ctx) (s : State) (d a : BitVec 5) (k : BitVec 8) : CoreOut := vecShiftConst x s d a k eltSar

/-! Compare, select and masks (R193 to R195). -/

/-- VCMP at a core (R193): bits from e up become 0, inactive bits keep or become 0. -/
def coreVcmp (x : Ctx) (s : State) (c : CmpCond) (d : BitVec 3) (a b : BitVec 5) (w : West) : CoreOut :=
  let p := x.f.px
  let n := wid p.fa
  let e := count n
  withSrcs x s (vsrcs2 a b w p ++ (if p.msk != 0 && !p.mz then [.m d] else [])) fun l =>
    let va := vecA x l a w p.fa.toNat
    let vb := vecB x l b w p.fb.toNat
    let mk := rdM l p.msk
    let old := rdM l d
    let rs := (upTo e).map fun j =>
      if mk.getLsbD j then cmpVal c (decodeVal p.fa.toNat (elem va n j)) (decodeVal p.fb.toNat (elem vb n j))
      else (if p.mz then false else old.getLsbD j, 0)
    let fl := rs.foldl (fun f q => f ||| q.2) 0
    if ivTraps l.estat fl then .trap s .iv (BitVec.ofNat 64 ((rs.findIdx? fun q => q.2.getLsbD 0).getD 0))
    else .done (x.set s (wrM (orFlags l fl) d (BitVec.ofNat 128 (rs.foldr (fun q acc => (if q.1 then 1 else 0) + 2 * acc) 0))))

/-- VSEL at a core (R194): vd is never read. -/
def coreVsel (x : Ctx) (s : State) (d a b : BitVec 5) (w : West) : CoreOut :=
  let p := x.f.px
  let n := wid p.fd
  withSrcs x s (vsrcs2 a b w p) fun l =>
    let va := vecA x l a w 0
    let vb := vecB x l b w 0
    let mk := rdM l p.msk
    .done (putV x s d (ofElems n ((upTo (count n)).map fun j => if mk.getLsbD j then elem va n j else elem vb n j)))

/-- A binary mask operation (R195). -/
def maskOp (x : Ctx) (s : State) (d a b : BitVec 3) (f : Mask → Mask → Mask) : CoreOut :=
  withSrcs x s [.m a, .m b] fun l => .done (x.set s (wrM l d (f (rdM l a) (rdM l b))))

/-- MAND at a core (R195). -/
def coreMand (x : Ctx) (s : State) (d a b : BitVec 3) : CoreOut := maskOp x s d a b (· &&& ·)

/-- MOR at a core (R195). -/
def coreMor (x : Ctx) (s : State) (d a b : BitVec 3) : CoreOut := maskOp x s d a b (· ||| ·)

/-- MXOR at a core (R195). -/
def coreMxor (x : Ctx) (s : State) (d a b : BitVec 3) : CoreOut := maskOp x s d a b (· ^^^ ·)

/-- MNOT at a core (R195). -/
def coreMnot (x : Ctx) (s : State) (d a : BitVec 3) : CoreOut := maskOp x s d a a fun u _ => ~~~u

/-- MSET at a core (R195). -/
def coreMset (x : Ctx) (s : State) (d : BitVec 3) (a : BitVec 5) : CoreOut :=
  withSrcs x s [.g a false] fun l =>
    .done (x.set s (wrM l d (BitVec.ofNat 128 (2 ^ (min (rdG l a).toNat 128) - 1))))

/-! Conversion and quantisation (R196 to R198). -/

/-- VCVT at a core (R196): the bits above e x w(fd) become 0 whatever mz is. -/
def coreVcvt (x : Ctx) (s : State) (d a : BitVec 5) (w : Bool) : CoreOut :=
  let p := x.f.px
  let na := wid p.fa
  let nd := wid p.fd
  withSrcs x s (vsrcs1 a w p ++ mergeSrc d p) fun l =>
    let va := vecA x l a (west1 w) p.fa.toNat
    doneV x s l d nd (1024 / max na nd) fun j => encodeVal p.fa.toNat p.fd.toNat x.rm (decodeVal p.fa.toNat (elem va na j))

/-- The scale of block k of vb (R197). -/
def scaleOf (fb : BitVec 4) (vb : Vec) (k : Nat) : Val := if fb = 3 then decodeVal 3 (elem vb 8 k) else decodeVal 0 (elem vb 32 k)

/-- The zero point of block k (R197). -/
def zeroPoint (vb : Vec) (k : Nat) : Val := decodeVal 0 (elem vb 32 (8 + k))

/-- VQUANT at a core (R198). -/
def coreVquant (x : Ctx) (s : State) (d a b : BitVec 5) (w : West) : CoreOut :=
  let p := x.f.px
  let na := wid p.fa
  withSrcs x s (vsrcs2 a b w p ++ mergeSrc d p) fun l =>
    let va := vecA x l a w p.fa.toNat
    let vb := vecB x l b w p.fb.toNat
    doneV x s l d 8 (1024 / na) fun j =>
      let (q, f) := vdiv (decodeVal p.fa.toNat (elem va na j)) (scaleOf p.fb vb (j / 32))
      let (q, g) := if p.fd = 7 then vadd (isRdn x.rm) q (zeroPoint vb (j / 32)) else (q, 0)
      let (r, h) := encodeVal 0 p.fd.toNat x.rm q
      (r, f ||| g ||| h)

/-- VDEQ at a core (R198): a D8 scale of the zero code and a NaN scale have rules of their own. -/
def coreVdeq (x : Ctx) (s : State) (d a b : BitVec 5) (w : West) : CoreOut :=
  let p := x.f.px
  let nd := wid p.fd
  withSrcs x s (vsrcs2 a b w p ++ mergeSrc d p) fun l =>
    let va := vecA x l a w p.fa.toNat
    let vb := vecB x l b w p.fb.toNat
    doneV x s l d nd (1024 / nd) fun j =>
      let k := j / 32
      let sc := scaleOf p.fb vb k
      let y := decodeVal p.fa.toNat (elem va 8 j)
      let (y, g) := if p.fa = 7 then vadd (isRdn x.rm) y (zeroPoint vb k).negate else (y, 0)
      let r : Val × Fl :=
        if p.fa = 3 && elem vb 8 k = 0 then
          match y with
          | .num _ => (.dyadic false 0 0, 0)
          | _ => (.nan false, Fl.iv)
        else if sc.isNan then (.nan false, Fl.iv)
        else vmul y sc
      let (q, h) := roundOut p.fd x.rm r
      (q, g ||| h)

/-! Special functions (R199, R200). -/

/-- A unary special function, element by element; its free choice is that of Config, which the rounding mode does not reach
(R115: only the overflow result uses it). -/
def vecFn (x : Ctx) (s : State) (d a : BitVec 5) (w : Bool) (no : Nat) (fn : Fmt → Rm → Nat → Val → Nat × Fl) : CoreOut :=
  let p := x.f.px
  let n := wid p.fd
  withSrcs x s (vsrcs1 a w p ++ mergeSrc d p) fun l =>
    let va := vecA x l a (west1 w) p.fa.toNat
    doneV x s l d n (count n) fun j =>
      let e := elem va n j
      fn (fmtOf p.fd.toNat) x.rm (Config.approxPick no (16 * p.fa.toNat + p.fd.toNat) e) (decodeVal p.fa.toNat e)

/-- VRCP at a core (R199). -/
def coreVrcp (x : Ctx) (s : State) (d a : BitVec 5) (w : Bool) : CoreOut := vecFn x s d a w 0 fnRcp

/-- VRSQ at a core (R199). -/
def coreVrsq (x : Ctx) (s : State) (d a : BitVec 5) (w : Bool) : CoreOut := vecFn x s d a w 1 fnRsq

/-- VSQRT at a core (R199). -/
def coreVsqrt (x : Ctx) (s : State) (d a : BitVec 5) (w : Bool) : CoreOut := vecFn x s d a w 2 fun f rm _ v => fnSqrt f rm v

/-- VDIV at a core (R199). -/
def coreVdiv (x : Ctx) (s : State) (d a b : BitVec 5) (w : West) : CoreOut := vecOp x s d a b w vdiv fun u _ => u

/-- VEXP2 at a core (R199). -/
def coreVexp2 (x : Ctx) (s : State) (d a : BitVec 5) (w : Bool) : CoreOut := vecFn x s d a w 4 fnExp2

/-- VLOG2 at a core (R199). -/
def coreVlog2 (x : Ctx) (s : State) (d a : BitVec 5) (w : Bool) : CoreOut := vecFn x s d a w 5 fnLog2

/-- VSIN at a core (R199). -/
def coreVsin (x : Ctx) (s : State) (d a : BitVec 5) (w : Bool) : CoreOut := vecFn x s d a w 6 (fnTrig false)

/-- VCOS at a core (R199). -/
def coreVcos (x : Ctx) (s : State) (d a : BitVec 5) (w : Bool) : CoreOut := vecFn x s d a w 7 (fnTrig true)

/-- VTANH at a core (R199). -/
def coreVtanh (x : Ctx) (s : State) (d a : BitVec 5) (w : Bool) : CoreOut := vecFn x s d a w 8 fnTanh

/-! Lane operations (R202). -/

/-- VBCAST at a core (R202). -/
def coreVbcast (x : Ctx) (s : State) (d a : BitVec 5) : CoreOut :=
  let p := x.f.px
  let n := wid p.fd
  withSrcs x s ([.g a p.ea] ++ mergeSrc d p) fun l =>
    doneV x s l d n (count n) fun _ => ((rdG l a).toNat % 2 ^ n, 0)

/-- VEXT at a core (R202). -/
def coreVext (x : Ctx) (s : State) (d a b : BitVec 5) : CoreOut :=
  let p := x.f.px
  let n := wid p.fd
  withSrcs x s [.v a p.ea, .g b p.eb] fun l =>
    doneG x s l d (BitVec.ofNat 64 (elem (rdV l a) n ((rdG l b).toNat % count n)))

/-- VINS at a core (R202): vd is a source. -/
def coreVins (x : Ctx) (s : State) (d a b : BitVec 5) : CoreOut :=
  let p := x.f.px
  let n := wid p.fd
  withSrcs x s [.g a p.ea, .g b p.eb, .v d false] fun l =>
    let i := (rdG l b).toNat % count n
    .done (putV x s d (ofElems n ((upTo (count n)).map fun j =>
      if j = i then (rdG l a).toNat % 2 ^ n else elem (rdV l d) n j)))

/-- VPERM at a core (R202). -/
def coreVperm (x : Ctx) (s : State) (d a b : BitVec 5) : CoreOut :=
  let p := x.f.px
  let n := wid p.fd
  withSrcs x s ([.v a p.ea, .v b p.eb] ++ mergeSrc d p) fun l =>
    doneV x s l d n (count n) fun j => (elem (rdV l a) n (elem (rdV l b) n j % count n), 0)

/-- VROT at a core (R202). -/
def coreVrot (x : Ctx) (s : State) (d a b : BitVec 5) : CoreOut :=
  let p := x.f.px
  let n := wid p.fd
  withSrcs x s ([.v a p.ea, .g b p.eb] ++ mergeSrc d p) fun l =>
    doneV x s l d n (count n) fun j => (elem (rdV l a) n ((j + (rdG l b).toNat) % count n), 0)

/-- VIOTA at a core (R202). -/
def coreViota (x : Ctx) (s : State) (d : BitVec 5) : CoreOut :=
  let p := x.f.px
  let n := wid p.fd
  withSrcs x s (mergeSrc d p) fun l => doneV x s l d n (count n) fun j => (j % 2 ^ n, 0)

/-- VPOP at a core (R202). -/
def coreVpop (x : Ctx) (s : State) (d : BitVec 5) (m : BitVec 3) : CoreOut :=
  withSrcs x s [.m m] fun l =>
    doneG x s l d (BitVec.ofNat 64 ((upTo (count (wid x.f.px.fd))).countP fun j => (rdM l m).getLsbD j))

/-! Reduction (R201, R114). -/

/-- A node of the tree: its value, its flags, the first leaf of its span, the lowest index that raised IV. -/
structure RedNode where
  v : Val
  fl : Fl
  first : Nat
  iv : Option Nat

/-- The lower of two optional indexes. -/
def lowerOf (a b : Option Nat) : Option Nat :=
  match a, b with
  | some i, some j => some (min i j)
  | some i, none => some i
  | none, j => j

/-- Combine two adjacent values. -/
def redNode (op : RedOp) (f : Fmt) (rm : Rm) (a b : RedNode) : RedNode :=
  let (z, g) : Val × Fl := match op with
    | .add =>
      let (z, g) := vadd (isRdn rm) a.v b.v
      let (p, h) := f.round rm z
      (f.decode p, g ||| h)
    | .min => vmin a.v b.v
    | .max => vmax a.v b.v
  let here := if g.getLsbD 0 then some a.first else none
  ⟨z, a.fl ||| b.fl ||| g, a.first, lowerOf here (lowerOf a.iv b.iv)⟩

/-- One level of the tree. -/
def redLevel (op : RedOp) (f : Fmt) (rm : Rm) : List RedNode → List RedNode
  | a :: b :: r => redNode op f rm a b :: redLevel op f rm r
  | l => l

/-- The tree, level by level. -/
def redTree (op : RedOp) (f : Fmt) (rm : Rm) : Nat → List RedNode → List RedNode
  | 0, l => l
  | n + 1, l => redTree op f rm n (redLevel op f rm l)

/-- Identity of a reduction (R114). -/
def redIdentity : RedOp → Val
  | .add => .dyadic true 0 0
  | .min => .inf false
  | .max => .inf true

/-- VRED at a core (R201). -/
def coreVred (x : Ctx) (s : State) (op : RedOp) (d a : BitVec 5) : CoreOut :=
  let p := x.f.px
  let n := wid p.fa
  withSrcs x s [.v a p.ea] fun l =>
    let mk := rdM l p.msk
    let leaf (j : Nat) : RedNode :=
      if mk.getLsbD j then
        let v := decodeVal p.fa.toNat (elem (rdV l a) n j)
        if v.isSnan then ⟨.nan false, Fl.iv, j, some j⟩ else ⟨v, 0, j, none⟩
      else ⟨redIdentity op, 0, j, none⟩
    let root := (redTree op (fmtOf p.fd.toNat) x.rm 6 ((upTo (count n)).map leaf)).headD ⟨.nan false, 0, 0, none⟩
    let (r, g) := (fmtOf p.fd.toNat).round x.rm root.v
    let fl := root.fl ||| g
    if ivTraps l.estat fl then .trap s .iv (BitVec.ofNat 64 (root.iv.getD 0))
    else .done (x.set s (orFlags (wrG l d (BitVec.ofNat 64 r)) fl))

end Sys2Proof.Machine
end

