-- ==== Sys2Proof/Machine/CoreExec.lean ====
section
/-! DEFINITION. What each lane instruction does when a core executes it (R22): one direct call per instruction. -/

namespace Sys2Proof.Machine

/-- The effect of a lane instruction at one core. Committing instructions and the traps taken at the head have none here; head
instructions and events never come here. -/
def coreExec (i : Instr) (x : Ctx) (st : State) : CoreOut :=
  match i with
  | .add d a b w => coreAdd x st d a b w
  | .sub d a b w => coreSub x st d a b w
  | .and d a b w => coreAnd x st d a b w
  | .or d a b w => coreOr x st d a b w
  | .xor d a b w => coreXor x st d a b w
  | .shl d a b w => coreShl x st d a b w
  | .shr d a b w => coreShr x st d a b w
  | .sar d a b w => coreSar x st d a b w
  | .mul d a b w => coreMul x st d a b w
  | .slt d a b w => coreSlt x st d a b w
  | .sltn d a b w => coreSltn x st d a b w
  | .min d a b w => coreMin x st d a b w
  | .max d a b w => coreMax x st d a b w
  | .minn d a b w => coreMinn x st d a b w
  | .maxn d a b w => coreMaxn x st d a b w
  | .mulh d a b w => coreMulh x st d a b w
  | .mulhn d a b w => coreMulhn x st d a b w
  | .div d a b w => coreDiv x st d a b w
  | .divn d a b w => coreDivn x st d a b w
  | .rem d a b w => coreRem x st d a b w
  | .remn d a b w => coreRemn x st d a b w
  | .clz d a w => coreClz x st d a w
  | .ctz d a w => coreCtz x st d a w
  | .popc d a w => corePopc x st d a w
  | .addConst d a k => coreAddConst x st d a k
  | .subConst d a k => coreSubConst x st d a k
  | .andConst d a k => coreAndConst x st d a k
  | .orConst d a k => coreOrConst x st d a k
  | .xorConst d a k => coreXorConst x st d a k
  | .shlConst d a k => coreShlConst x st d a k
  | .shrConst d a k => coreShrConst x st d a k
  | .sarConst d a k => coreSarConst x st d a k
  | .mulConst d a k => coreMulConst x st d a k
  | .sltConst d a k => coreSltConst x st d a k
  | .sltnConst d a k => coreSltnConst x st d a k
  | .minConst d a k => coreMinConst x st d a k
  | .maxConst d a k => coreMaxConst x st d a k
  | .minnConst d a k => coreMinnConst x st d a k
  | .maxnConst d a k => coreMaxnConst x st d a k
  | .mulhConst d a k => coreMulhConst x st d a k
  | .mulhnConst d a k => coreMulhnConst x st d a k
  | .divConst d a k => coreDivConst x st d a k
  | .divnConst d a k => coreDivnConst x st d a k
  | .remConst d a k => coreRemConst x st d a k
  | .remnConst d a k => coreRemnConst x st d a k
  | .addi d a imm => coreAddi x st d a imm
  | .andi d a imm => coreAndi x st d a imm
  | .ori d a imm => coreOri x st d a imm
  | .xori d a imm => coreXori x st d a imm
  | .shli d a n => coreShli x st d a n
  | .shri d a n => coreShri x st d a n
  | .sari d a n => coreSari x st d a n
  | .li d imm => coreLi x st d imm
  | .lui d a imm => coreLui x st d a imm
  | .fadd d a b w => coreFadd x st d a b w
  | .fsub d a b w => coreFsub x st d a b w
  | .fmul d a b w => coreFmul x st d a b w
  | .fdiv d a b w => coreFdiv x st d a b w
  | .fma d a b w => coreFma x st d a b w
  | .fmin d a b w => coreFmin x st d a b w
  | .fmax d a b w => coreFmax x st d a b w
  | .feq d a b w => coreFeq x st d a b w
  | .flt d a b w => coreFlt x st d a b w
  | .fle d a b w => coreFle x st d a b w
  | .fabs d a w => coreFabs x st d a w
  | .fneg d a w => coreFneg x st d a w
  | .fcvti d a w => coreFcvti x st d a w
  | .icvtf d a w => coreIcvtf x st d a w
  | .hget d _ => coreHget x st d
  | .tail a => coreTail x st a
  | .cmov d a m => coreCmov x st d a m
  | .movmg d m half => coreMovmg x st d m half
  | .movgm m a half => coreMovgm x st m a half
  | .ld d a off sz acq => coreLd x st d a off sz acq
  | .ldn d a off sz acq => coreLdn x st d a off sz acq
  | .st d a off sz rel => coreSt x st d a off sz rel
  | .ldv d a off acq => coreLdv x st d a off acq
  | .stv d a off rel => coreStv x st d a off rel
  | .ldp d a off sz => coreLdp x st d a off sz
  | .stp d a off sz => coreStp x st d a off sz
  | .ldpv d a off => coreLdpv x st d a off
  | .stpv d a off => coreStpv x st d a off
  | .ldl t a off sz set => coreLdl x st t a off sz set
  | .ldlv t a off set => coreLdlv x st t a off set
  | .take d t set => coreTake x st d t set
  | .takeo d t set => coreTakeo x st d t set
  | .takev d t set => coreTakev x st d t set
  | .lcnt d set => coreLcnt x st d set
  | .ldrop set => coreLdrop x st set
  | .fence => coreFence x st
  | .drainst => coreDrainst x st
  | .bar n => coreBar x st n
  | .bari n a => coreBari x st n a
  | .bara n => coreBara x st n
  | .barw n => coreBarw x st n
  | .vadd d a b w => coreVadd x st d a b w
  | .vsub d a b w => coreVsub x st d a b w
  | .vmul d a b w => coreVmul x st d a b w
  | .vfma d a b w => coreVfma x st d a b w
  | .vmin d a b w => coreVmin x st d a b w
  | .vmax d a b w => coreVmax x st d a b w
  | .vabs d a w => coreVabs x st d a w
  | .vneg d a w => coreVneg x st d a w
  | .vand d a b w => coreVand x st d a b w
  | .vor d a b w => coreVor x st d a b w
  | .vxor d a b w => coreVxor x st d a b w
  | .vnot d a w => coreVnot x st d a w
  | .vshl d a b w => coreVshl x st d a b w
  | .vshr d a b w => coreVshr x st d a b w
  | .vsar d a b w => coreVsar x st d a b w
  | .vcmp c d a b w => coreVcmp x st c d a b w
  | .vsel d a b w => coreVsel x st d a b w
  | .mand d a b => coreMand x st d a b
  | .mor d a b => coreMor x st d a b
  | .mxor d a b => coreMxor x st d a b
  | .mnot d a => coreMnot x st d a
  | .mset d a => coreMset x st d a
  | .vcvt d a w => coreVcvt x st d a w
  | .vquant d a b w => coreVquant x st d a b w
  | .vdeq d a b w => coreVdeq x st d a b w
  | .vrcp d a w => coreVrcp x st d a w
  | .vrsq d a w => coreVrsq x st d a w
  | .vsqrt d a w => coreVsqrt x st d a w
  | .vdiv d a b w => coreVdiv x st d a b w
  | .vexp2 d a w => coreVexp2 x st d a w
  | .vlog2 d a w => coreVlog2 x st d a w
  | .vsin d a w => coreVsin x st d a w
  | .vcos d a w => coreVcos x st d a w
  | .vtanh d a w => coreVtanh x st d a w
  | .vbcast d a => coreVbcast x st d a
  | .vext d a b => coreVext x st d a b
  | .vins d a b => coreVins x st d a b
  | .vperm d a b => coreVperm x st d a b
  | .vrot d a b => coreVrot x st d a b
  | .viota d => coreViota x st d
  | .vpop d m => coreVpop x st d m
  | .vred op d a => coreVred x st op d a
  | .vaddConst d a k => coreVaddConst x st d a k
  | .vsubConst d a k => coreVsubConst x st d a k
  | .vmulConst d a k => coreVmulConst x st d a k
  | .vminConst d a k => coreVminConst x st d a k
  | .vmaxConst d a k => coreVmaxConst x st d a k
  | .vandConst d a k => coreVandConst x st d a k
  | .vorConst d a k => coreVorConst x st d a k
  | .vxorConst d a k => coreVxorConst x st d a k
  | .vshlConst d a k => coreVshlConst x st d a k
  | .vshrConst d a k => coreVshrConst x st d a k
  | .vsarConst d a k => coreVsarConst x st d a k
  | .mdrain d t b => coreMdrain x st d t b
  | .mwait => coreMwait x st
  | .mstat d => coreMstat x st d
  | .rcfg q a b => coreRcfg x st q a b
  | .rstat d q => coreRstat x st d q
  | .hopen force s a => coreHopen x st force s a
  | .hput a b => coreHput x st a b
  | .hshut s => coreHshut x st s
  | .hwait => coreHwait x st
  | .hstat d => coreHstat x st d
  | .copy src dst ch d a b => coreCopy x st src dst ch d a b
  | .cseal => coreCseal x st
  | .cwait n => coreCwait x st n
  | .cptr d ch => coreCptr x st d ch
  | .cjoin a b => coreCjoin x st a b
  | .cleave a => coreCleave x st a
  | .bkptLane _ => .done st
  | .trap _ => .done st
  | .estat d a b => coreEstat x st d a b
  | .dbgr d a => coreDbgr x st d a
  | .dbgw a b => coreDbgw x st a b
  | _ => .done st

end Sys2Proof.Machine
end

