-- ==== Sys2Proof/Machine/Pipeline.lean ====
section
/-! DEFINITION. The wavefront: how lane instructions move along a row (R22 to R26), the check pass and perform step of the
committing ones (R165, R204), and the traps that a core raises before an instruction (R353, R357). -/

namespace Sys2Proof.Machine

/-! Traps due at a core before the strand's next instruction there (R177, R357, R361). -/

/-- The first pending machine event at a core that may be raised at the strand's level (R356). -/
def nextEvent (handler : Bool) (l : List MEvent) : Option MEvent := l.find? fun e => e.at_.isNone && eligible handler e.handler

/-- Take a pending trap of a lane: it is pending no more. -/
def takePending (s : State) (r c sl : Nat) (e : MEvent) (tpc : VAddr) : State :=
  takeTrap (modLane s r c sl fun l => { l with events := l.events.erase e }) r sl e.cause c e.tval tpc

/-- Does a store-fault record of the strand's level stand (R356, R360)? A handler-level one, where there is one, decides. -/
def recordDue (handler : Bool) (l : Lane) : Bool := l.recs.any fun q => eligible handler q.handler

/-- STORE.FAULT at a core (R360, R361). -/
def raiseRecords (s : State) (r c sl : Nat) (pc : VAddr) : State :=
  let l := getLane s r c sl
  takeTrap (reportRecords s r c sl) r sl .storeFault c (storeTval l.recs l.dropped) pc

/-- The pending trap of an instruction before a place of the strand's program order is taken (R357). -/
def earlierTrap (s : State) (r sl issue col : Nat) : Option State :=
  (earliestTrap s r sl issue col).map fun p => takePending s r p.1 sl p.2.1 p.2.2.pc

/-- The trap due at a core before the instruction at pc, issued in a row cycle (R357): that of an earlier instruction, then a machine
event, then STORE.FAULT. -/
def duePending (s : State) (r c sl : Nat) (pc : VAddr) (issue : Nat) : Option State :=
  let h := getHead s r sl
  let l := getLane s r c sl
  (earlierTrap s r sl issue c).or
    (match nextEvent h.handler l.events with
    | some e => some (takePending s r c sl e pc)
    | none => if recordDue h.handler l then some (raiseRecords s r c sl pc) else none)

/-! One instruction at one core. -/

/-- Do the row's clock, a switch of its operating point and a halt let a strand run (R380, R389)? -/
def strandRuns (s : State) (r sl : Nat) : Bool :=
  let x := getRow s r
  x.cur == .run && x.opp == x.oppWant && x.phase == .placed && (!x.halted || x.haltBy == some sl)

/-- May a flight use column c: the strand runs there, no recorded access of it is still to be issued again there (R361), the flight
before it has gone past, and the next queue has room (R23, R26)? before holds the columns of the older flights. -/
def mayUse (s : State) (r sl c : Nat) (before : List Nat) : Bool :=
  strandRuns s r sl && ((getHead s r sl).handler || (getLane s r c sl).retry.isEmpty) && !isIn c (getHead s r sl).stall &&
  before.all (c < ·) && (c == 15 || before.count (c + 1) < 4)

/-- Cycles for which an instruction takes a core's vector unit, 0 for one that is not a vector instruction (R188). -/
def vecCycles : Instr → Nat
  | .vadd _ _ _ _ | .vsub _ _ _ _ | .vmul _ _ _ _ | .vfma _ _ _ _ | .vmin _ _ _ _ | .vmax _ _ _ _ | .vabs _ _ _ | .vneg _ _ _
  | .vand _ _ _ _ | .vor _ _ _ _ | .vxor _ _ _ _ | .vnot _ _ _ | .vshl _ _ _ _ | .vshr _ _ _ _ | .vsar _ _ _ _
  | .vcmp _ _ _ _ _ | .vsel _ _ _ _ | .mand _ _ _ | .mor _ _ _ | .mxor _ _ _ | .mnot _ _ | .mset _ _
  | .vcvt _ _ _ | .vquant _ _ _ _ | .vdeq _ _ _ _
  | .vbcast _ _ | .vext _ _ _ | .vins _ _ _ | .vperm _ _ _ | .vrot _ _ _ | .viota _ | .vpop _ _
  | .vaddConst _ _ _ | .vsubConst _ _ _ | .vmulConst _ _ _ | .vminConst _ _ _ | .vmaxConst _ _ _ | .vandConst _ _ _
  | .vorConst _ _ _ | .vxorConst _ _ _ | .vshlConst _ _ _ | .vshrConst _ _ _ | .vsarConst _ _ _ => 1
  | .vred _ _ _ | .vrcp _ _ _ | .vrsq _ _ _ | .vexp2 _ _ _ | .vlog2 _ _ _ => 2
  | .vsin _ _ _ | .vcos _ _ _ | .vtanh _ _ _ => 4
  | .vdiv _ _ _ _ | .vsqrt _ _ _ => 8
  | _ => 0

/-- Is a core's vector unit free for an instruction (R188)? -/
def vecFree (s : State) (r c : Nat) (i : Instr) : Bool :=
  vecCycles i == 0 || (upTo 8).all fun t => (getLane s r c t).vecUntil ≤ (getRow s r).cycle

/-- A lane whose core executes an instruction that takes the vector unit for several cycles (R188). -/
def vecTaken (i : Instr) (cycle : Nat) (l : Lane) : Lane :=
  if 1 < vecCycles i then { l with vecUntil := cycle + vecCycles i } else l

/-- The mask that a PX names, poisoned (R364). -/
def pxMaskPoison (x : Ctx) (s : State) : Option Word :=
  let m := x.f.px.msk.toNat
  if m != 0 && isIn (0x200 + m) (x.lane s).poison then some (poisonTval 2 m x.sl) else none

/-- A core executes a lane instruction: its mask is checked for poison, then it has its effect, and a vector instruction takes the
core's vector unit (R188). -/
def coreStep (x : Ctx) (s : State) : CoreOut :=
  match pxMaskPoison x s with
  | some v => .trap s .poison v
  | none =>
    match coreExec x.f.instr x s with
    | .done s =>
      .done (if 1 < vecCycles x.f.instr then modLane s x.r x.c x.sl (vecTaken x.f.instr (getRow s x.r).cycle) else s)
    | o => o

/-- The west word that core c captures after executing an instruction (R25): empty until the register is full. -/
inductive West1
  | none | value (v : Vec) | empty | poisoned (tval : Word)

/-- The west word of a flight at a core. -/
def captureWest (x : Ctx) (s : State) : West1 :=
  if x.c = 15 then .none
  else
    let l := x.lane s
    match westReg x.f.instr with
    | none => .none
    | some (true, n) =>
      if vEmpty l n then .empty
      else
        match srcPoison x s l (.v n false) with
        | some v => .poisoned v
        | none => .value (rdV l n)
    | some (false, n) =>
      if gEmpty l n then .empty
      else if isIn n.toNat l.poison then .poisoned (poisonTval 0 n.toNat x.sl)
      else .value ((rdG l n).setWidth 1024)

/-- What a flight's turn at a core comes to. -/
inductive Turn
  /-- executed at core 15 -/
  | over (s : State)
  /-- executed: it stands at the next core -/
  | next (s : State) (f : Flight)
  /-- it stays at the core -/
  | stay (s : State) (f : Flight)
  /-- the strand has trapped, or its task has ended -/
  | trapped (s : State)

/-- A flight that a core has executed goes on with the west word, or is held until the register is full (R25). -/
def afterCore (x : Ctx) (s : State) : Turn :=
  let f := { x.f with begun := [], capture := false, waits := none, age := none }
  match captureWest x s with
  | .none => if x.c = 15 then .over s else .next s { f with col := x.c + 1 }
  | .value v => .next s { f with col := x.c + 1, west := v }
  | .empty => .stay s { f with capture := true }
  | .poisoned v => .trapped (takeFirst s x.r x.sl x.f.issue .poison x.c v x.f.pc)

/-- The machine event that traps a strand at an instruction held in a wait at a core, or the trap of an earlier instruction (R353,
R357: class M is taken at whatever instruction the strand has reached). -/
def heldTrap (s : State) (r c sl : Nat) (pc : VAddr) (issue : Nat) : Option State :=
  (earlierTrap s r sl issue c).or
    ((nextEvent (getHead s r sl).handler (getLane s r c sl).events).map fun e => takePending s r c sl e pc)

/-- What is due at a core before a flight there goes on: nothing but a machine event, or the trap of an earlier instruction, at a DRAINST
that has come to wait, which ends with the record it waits for (R407), unless it waits for a release that the record holds back. DEDUCED,
log 17. -/
def flightDue (s : State) (r sl : Nat) (f : Flight) : Option State :=
  if f.waits.isSome && (match f.instr with | .drainst => true | _ => false) &&
      !(s.reqs.any fun q => q.row == r && q.col == f.col && q.strand == sl && parked s q) then
    heldTrap s r f.col sl f.pc f.issue
  else duePending s r f.col sl f.pc f.issue

/-- A flight's turn at its core (R22 to R26): its west word where it is held for one, else the instruction, where it may use the
core and the vector unit is free. A strand that a halt or switch stops does nothing (R380, R389). -/
def flightTurn (r sl : Nat) (before : List Nat) (f : Flight) (s : State) : Turn :=
  let x : Ctx := ⟨r, sl, f.col, f⟩
  if f.capture then
    if !strandRuns s r sl then .stay s f
    else
      match heldTrap s r f.col sl f.pc f.issue with
      | some s => .trapped s
      | none => afterCore x s
  else if !mayUse s r sl f.col before || !vecFree s r f.col f.instr then .stay s f
  else
    match flightDue s r sl f with
    | some s => .trapped s
    | none =>
      match coreStep x s with
      | .done s => afterCore x s
      | .ended s => .trapped s
      | .wait s begun why => .stay s { f with begun := begun, waits := some why, age := none }
      | .trap s c v => .trapped (takeFirst s r sl f.issue c f.col v f.pc)

/-- Is a flight ready at its core (R22, R283): it may use it, and its sources are full, or a trap is due before it; one that has come
to wait there is ready again once it goes on? -/
def flightReady (r sl : Nat) (before : List Nat) (f : Flight) (s : State) : Bool :=
  !f.capture && mayUse s r sl f.col before && vecFree s r f.col f.instr &&
  ((flightDue s r sl f).isSome ||
    match coreStep ⟨r, sl, f.col, f⟩ s with
    | .wait _ _ why => why != 1 && f.waits.getD 1 == 1
    | _ => true)

/-! Committing lane instructions (R165, R204). -/

/-- The check pass of a committing instruction at one core. -/
def checkExec (i : Instr) (x : Ctx) (st : State) : CheckOut :=
  match i with
  | .amo _ dbl _ d a b => checkAtom x st false false dbl d a b
  | .cas dbl _ d a b => checkAtom x st false true dbl d a b
  | .red _ dbl _ a b => checkAtom x st true false dbl 0 a b
  | .mma _ fmt _ qa qb _ => checkMma x st fmt qa qb
  | .mload _ a b => checkMload x st a b
  | .rpush q a => checkRpush x st q a
  | .htake n q => checkHtake x st n q
  | .copy src dst _ d a b => checkCopy x st src dst d a b
  | .cred _ _ toPool _ d a b => checkCred x st toPool d a b
  | _ => .ok st []

/-- The perform step of a committing instruction at one core, with the operands of its check pass. -/
def performExec (i : Instr) (x : Ctx) (st : State) (ops : List Nat) : PerformOut :=
  match i with
  | .amo op dbl ord d _ _ => performAtom x st .amo op dbl ord d ops
  | .cas dbl ord d _ _ => performAtom x st .cas .swap dbl ord d ops
  | .red op dbl rel _ _ => performAtom x st .red op dbl (if rel then .rel else .plain) 0 ops
  | .mma sr fmt t qa qb rep => performPress x st (.mma sr fmt qa.toNat qb.toNat (rep.toNat + 1)) t.toNat
  | .mzero t => performPress x st .mzero t.toNat
  | .mload t _ _ => performMload x st t.toNat ops
  | .rpush q _ => performRpush x st q ops
  | .htake n q => performHtake x st n q
  | .copy src dst ch d _ _ => performCopy x st src dst ch d ops
  | .cred op fmt toPool ch _ _ _ => performCred x st op fmt toPool ch ops
  | _ => .accepted st

/-- The turn of a committing instruction at a core of its check pass (R165 step 2): true where it has passed there. -/
def checkTurn (r sl : Nat) (k : Commit) (s : State) : Bool × State :=
  let f := k.flight
  if !mayUse s r sl f.col [] then (false, s)
  else
    match duePending s r f.col sl f.pc f.issue with
    | some s => (false, s)
    | none =>
      match checkExec f.instr ⟨r, sl, f.col, f⟩ s with
      | .wait s why => (false, modHead s r sl fun h => { h with commit := some { k with flight := { f with waits := some why, age := none } } })
      | .trap s c v => (false, takeFirst s r sl f.issue c f.col v f.pc)
      | .ok s ops =>
        (true, modHead s r sl fun h => { h with commit := some { k with
          flight := { f with col := f.col + 1, waits := none, age := none }, ops := tput k.ops f.col ops } })

/-- Is a committing instruction ready at a core of its check pass? -/
def checkReady (r sl : Nat) (k : Commit) (s : State) : Bool :=
  let f := k.flight
  mayUse s r sl f.col [] &&
  ((duePending s r f.col sl f.pc f.issue).isSome ||
    match checkExec f.instr ⟨r, sl, f.col, f⟩ s with
    | .wait _ why => why != 1 && f.waits.getD 1 == 1
    | _ => true)

/-- One column of the perform step. A machine event traps the strand where the target does not accept yet (R353). -/
def performAt (r sl : Nat) (s : State) (c : Nat) : State :=
  match (getHead s r sl).commit with
  | none => s
  | some k =>
    let x : Ctx := ⟨r, sl, c, k.flight⟩
    if isIn c k.left && strandRuns s r sl && !isIn c (getHead s r sl).stall then
      match performExec k.flight.instr x s (tget k.ops c []) with
      | .accepted s => modHead s r sl (acceptHead c)
      | .pending s _ => (heldTrap s r c sl k.flight.pc k.flight.issue).getD s
    else s

/-- The perform step of a committing instruction that core 15 has passed: the columns that have not accepted (R165). -/
def pumpPerform (s : State) (r sl : Nat) : State :=
  match (getHead s r sl).commit with
  | none => s
  | some k => if k.flight.col < 16 then s else forCols (performAt r sl) s

/-! A row's cycle (R22, R283): each core executes the oldest ready instruction among its strands' queues. -/

/-- The front of a strand's queue at a core, with its place among the strand's flights (R22). -/
def frontAt (h : Head) (c : Nat) : Option (Flight × Nat) := h.flights.zipIdx.find? fun p => p.1.col == c

/-- The instruction that a strand has at a core: the front of its queue there, or its committing one in the check pass. -/
def standsAt (h : Head) (c : Nat) : Option Flight :=
  match h.commit with
  | some k => if k.flight.col = c then some k.flight else none
  | none => (frontAt h c).map (·.1)

/-- Has a strand nothing at a core that could be ready at once: nothing, or one that waits there? -/
def idleAt (h : Head) (c : Nat) : Bool := (standsAt h c).all fun f => f.waits.isSome || f.capture

/-- Do the other strands leave a core free? -/
def coreFree (s : State) (r sl c : Nat) : Bool := (upTo 8).all fun t => t == sl || idleAt (getHead s r t) c

/-- Put what a flight's turn has come to into the strand's flights. -/
def putTurn (r sl i : Nat) : Turn → State
  | .over s => modHead s r sl fun h => { h with flights := h.flights.eraseIdx i }
  | .next s f | .stay s f => modHead s r sl fun h => { h with flights := h.flights.set i f }
  | .trapped s => s

/-- The turn of a strand at a core. -/
def serveAt (r c : Nat) (s : State) (sl : Nat) : State :=
  let h := getHead s r sl
  match h.commit with
  | some k => if k.flight.col = c then (checkTurn r sl k s).2 else s
  | none =>
    match frontAt h c with
    | some (f, i) => putTurn r sl i (flightTurn r sl ((h.flights.take i).map (·.col)) f s)
    | none => s

/-- The same where nothing is executed: the instruction comes to wait, or goes on waiting. -/
def tryAt (r c : Nat) (s : State) (sl : Nat) : State :=
  let h := getHead s r sl
  match h.commit, frontAt h c with
  | none, some (f, i) =>
    match flightTurn r sl ((h.flights.take i).map (·.col)) f s with
    | .stay s f => putTurn r sl i (.stay s f)
    | _ => s
  | _, _ => s

/-- Is a strand's instruction at a core ready (R22, R283)? -/
def readyAt (s : State) (r c sl : Nat) : Bool :=
  let h := getHead s r sl
  match h.commit with
  | some k => k.flight.col == c && checkReady r sl k s
  | none =>
    match frontAt h c with
    | some (f, i) => flightReady r sl ((h.flights.take i).map (·.col)) f s
    | none => false

/-- The row cycle in which a strand's ready instruction at a core became ready (R283). -/
def ageAt (s : State) (r c sl : Nat) : Nat := ((standsAt (getHead s r sl) c).bind (·.age)).getD (getRow s r).cycle

/-- A ready instruction that is passed over keeps its age (R283). -/
def keepAge (r c : Nat) (s : State) (sl : Nat) : State :=
  let age := some (ageAt s r c sl)
  modHead s r sl fun h =>
    match h.commit with
    | some k => { h with commit := some { k with flight := { k.flight with age := age } } }
    | none =>
      match frontAt h c with
      | some (f, i) => { h with flights := h.flights.set i { f with age := age } }
      | none => h

/-- The slot of the oldest of a core's ready instructions, the lower one of two equally old (R22). -/
def oldest (s : State) (r c : Nat) (slots : List Nat) : Option Nat :=
  slots.foldl (fun b sl => if b.any fun a => ageAt s r c a ≤ ageAt s r c sl then b else some sl) none

/-- One cycle of a core: the west words that are there are captured; of the instructions at the front of the strands' queues the oldest
ready one is executed, the other ready ones keep their age, and the others wait (R22, R25, R283). -/
def coreCycle (r : Nat) (s : State) (c : Nat) : State :=
  let held := (upTo 8).filter fun sl => (standsAt (getHead s r sl) c).any (·.capture)
  let s := held.foldl (serveAt r c) s
  match (upTo 8).filter fun sl => (standsAt (getHead s r sl) c).any (!·.capture) with
  | [] => s
  | [sl] => serveAt r c s sl
  | slots =>
    let ready := slots.filter (readyAt s r c)
    let s := (slots.filter fun sl => !isIn sl ready).foldl (tryAt r c) s
    match oldest s r c ready with
    | none => s
    | some sl => serveAt r c ((ready.filter (· != sl)).foldl (keepAge r c) s) sl

/-- What a strand does in a row's cycle before its cores go on: it takes a landing trap, or that of a refused access, which was kept
pending (R168, R356, R357), its recorded stores are issued again (R361), and a perform step goes on (R165). -/
def strandCycle (r : Nat) (s : State) (sl : Nat) : State :=
  let h := getHead s r sl
  match (if canRewind h && strandRuns s r sl then earlierTrap s r sl ((getRow s r).cycle + 1) 0 else none) with
  | some s => s
  | none => pumpPerform (if strandRuns s r sl && retryDue s r sl then issueRetries s r sl else s) r sl

/-- One cycle of a row's cores, from the east, so that each core executes an instruction after its west neighbour has (R23, R26). -/
def pumpRow (s : State) (r : Nat) : State := (upTo 16).reverse.foldl (coreCycle r) (forSlots (strandCycle r) s)

/-! Issue at the head (R19, R21, R26, R80, R81). -/

/-- The PX fields that stand before the instruction (R66). -/
def pxOf (h : Head) : Px := h.pend.getD Px.none

/-- The head operand of an instruction: HGET's register (R156). -/
def headOperand : Instr → BitVec 4
  | .hget _ a => a
  | _ => 0

/-- TVAL of POISON for a poisoned head register (R364). -/
def headPoisonTval (n : Nat) : Word := 0xFFFF000000000000 + BitVec.ofNat 64 (0x800 + n)

/-- The first poisoned register among h registers that an instruction reads. -/
def headPoison (h : Head) (ns : List Nat) : Option Word :=
  (ns.find? fun n => n != 0 && isIn n h.poison).map fun n => headPoisonTval n

/-- The h registers that a lane instruction's attached values come from (R21). -/
def feedRegs (i : Instr) : List Nat := [(headOperand i).toNat] ++ if (westReg i).isSome then [15] else []

/-- A lane instruction as it leaves the head in a row cycle (R21). -/
def flightOf (cycle : Nat) (h : Head) (i : Instr) : Flight :=
  { instr := i, px := pxOf h, pc := instrAddr h, issue := cycle, feed := rdH h 15, hval := rdH h (headOperand i), drm := h.drm,
    handler := h.handler, region := h.region, col := 0, begun := [], west := 0, capture := false,
    waits := none, age := none }

/-- The strand for which exec runs. -/
def here (s : State) : Nat × Nat := (s.curRow, s.curSlot)

/-- The straight wavefront of an instruction that has issued (R26): it passes every core that nothing else asks for, in the step that
issues it; fuel is the number of columns left. DESIGN CHOICE: the cycles of a wave that nothing meets are one step, log 71. -/
def runFlight (r sl : Nat) (before : List Nat) : Nat → Flight → State → Turn
  | 0, f, s => .stay s f
  | n + 1, f, s =>
    if !coreFree s r sl f.col then .stay s f
    else
      match flightTurn r sl before f s with
      | .next s f => runFlight r sl before n f s
      | o => o

/-- The wavefront of the check pass, in the same way. True where core 15 has passed it. -/
def runCheck (r sl : Nat) : Nat → State → Bool × State
  | 0, s => (true, s)
  | n + 1, s =>
    match (getHead s r sl).commit with
    | none => (false, s)
    | some k =>
      if !coreFree s r sl k.flight.col then (false, s)
      else
        match checkTurn r sl k s with
        | (true, s) => runCheck r sl n s
        | o => o

/-- Issue a lane instruction (R19, R21, R26): nothing while the strand holds an accepted or waiting operation; ILLEGAL where its fields are not allowed (R80), a wait while core 0's queue
holds 4, else it enters the row and the strand goes on. -/
def issueLane (i : Instr) (s : State) : State :=
  let (r, sl) := here s
  let h := getHead s r sl
  if h.commit.isSome || h.wait != .no then s
  else if !laneLegal (pwordOf s r) h.handler i (pxOf h) then illegalWord s r sl (encodeWord i)
  else
    match headPoison h (feedRegs i) with
    | some v => headTrap s r sl .poison v
    | none =>
      if 4 ≤ h.flights.countP fun f => f.col == 0 then s
      else
        let f := flightOf (getRow s r).cycle h i
        let h' := seqNext { h with flights := h.flights ++ [f], why := 0, stepDue := h.stepMode && !h.handler }
        putTurn r sl h.flights.length (runFlight r sl (h.flights.map (·.col)) 16 f (setHead s r sl h'))

/-- Issue a committing lane instruction (R165 step 1, R204): once the strand's earlier lane instructions have executed
everywhere it enters its check pass, and where no core holds it up there, its perform step. -/
def issueCommit (i : Instr) (s : State) : State :=
  let (r, sl) := here s
  let h := getHead s r sl
  if h.commit.isSome || h.wait != .no then s
  else if !laneLegal (pwordOf s r) h.handler i (pxOf h) then illegalWord s r sl (encodeWord i)
  else if !h.flights.isEmpty then setHead s r sl { h with why := 13 }
  else
    let k : Commit := ⟨flightOf (getRow s r).cycle h i, [], upTo 16⟩
    match runCheck r sl 16 (setHead s r sl { h with commit := some k, why := 14 }) with
    | (true, s) => forCols (performAt r sl) s
    | (false, s) => s

end Sys2Proof.Machine
end

