-- ==== Sys2Proof/Machine/Waits.lean ====
section
/-! DEFINITION. When the head can take a strand (R282): the fetch of its next word, what a head instruction waits for, and the traps
that are due before it (R19, R30, R118, R131 to R144, R261, R271, R353, R357, R361). -/

namespace Sys2Proof.Machine

/-! Fetch (R19, R271). -/

/-- The gate of an access of a strand's head at its row's TLB (R270). -/
def headGate (s : State) (place : WalkPlace) (va : Word) (size : Nat) (handler : Bool) : Gate :=
  let (vf, ctx) := ctxOf s place.row
  walkGate s place (getRow s place.row).itlb vf ctx va size (BitVec.allOnes 32) 5 handler

/-- Has a strand's head a miss whose walk has not finished (R270)? Its next word is then not fetched yet, or its access waits. -/
def headWalks (s : State) (r sl : Nat) : Bool :=
  s.walks.any fun w => (w.place == .head r sl || w.place == .fetch r sl) && !w.gone && w.done.isNone

/-- The word at the strand's program counter, and the state with the leaf cached; or the cause and TVAL of a fetch fault. fails: the
pages of walks that the fetch waited for and that failed. -/
def fetchWith (s : State) (fails : List (Nat × Cause)) (r : Nat) (h : Head) : Except (Cause × Word) (State × Nat) :=
  match headXlateWith s fails r .fetch (wordOfAddr h.pc) with
  | .error c => .error (c, wordOfAddr h.pc)
  | .ok (pa, a, e) =>
    if (physBad s pa 4).isSome then .error (.poison, BitVec.ofNat 64 (h.pc.toNat / 64 * 64))
    else .ok (itlbFill s r e, physRdN s (attrKey s a) pa 4)

/-- The word at the strand's program counter where no walk has failed. -/
def fetchWord (s : State) (r : Nat) (h : Head) : Except (Cause × Word) (State × Nat) := fetchWith s [] r h

/-! The traps due before a strand's next instruction at the head (R353, R357). -/

/-- The first pending head event that may be raised at the strand's level (R356), with the others. -/
def nextHeadEvent (handler : Bool) : List (Cause × Word × Bool) → Option ((Cause × Word × Bool) × List (Cause × Word × Bool))
  | [] => none
  | e :: r =>
    if eligible handler e.2.2 then some (e, r)
    else (nextHeadEvent handler r).map fun p => (p.1, e :: p.2)

/-- The trap of the earliest instruction at the strand's cores, all of which are before the head's, else the event at the head
(R357). -/
def headEvent (s : State) (r sl : Nat) : Option State :=
  let h := getHead s r sl
  (earlierTrap s r sl ((getRow s r).cycle + 1) 0).or
    ((nextHeadEvent h.handler h.events).map fun p =>
      takeTrap (setHead s r sl { h with events := p.2 }) r sl p.1.1 31 p.1.2.1 (instrAddr h))

/-- What is pending before the strand's next instruction at the head (R357): a trap of an earlier one, else the machine event of the
lowest place: the head, then the cores from the west. -/
def raiseDue (s : State) (r sl : Nat) : Option State :=
  let h := getHead s r sl
  (headEvent s r sl).or
    ((upTo 16).findSome? fun c => (nextEvent h.handler (getLane s r c sl).events).map fun e => takePending s r c sl e (instrAddr h))

/-- A precise trap that the head learns of while it waits (R118, R357): what is pending before it is taken first. -/
def headTrapDue (s : State) (r sl : Nat) (c : Cause) (tval : Word) : State :=
  (if (getHead s r sl).flights.isEmpty then raiseDue s r sl else none).getD (headTrap s r sl c tval)

/-- Is a machine event due at a strand whose lane work has drained and that may be stopped? -/
def eventDue (s : State) (r sl : Nat) : Bool :=
  let h := getHead s r sl
  h.flights.isEmpty && canRewind h && (raiseDue s r sl).isSome

/-! What head instructions wait for. -/

/-- Partition of a row's job, 0 with none. -/
def partOf (s : State) (r : Nat) : Nat := (getRow s r).part.getD 0

/-- Is work of the strand outstanding that EXIT waits for (R133 step 2)? DESIGN CHOICE: a release that a store-fault record holds back
(R324) does not count among it, so that such an EXIT goes on to its step 3, which reports the record, or at handler level discards it and
the release with it; R133 does not say how its steps meet such a release, log 17. -/
def exitWaits (s : State) (r sl : Nat) : Bool :=
  (s.reqs.any fun q => q.row == r && q.strand == sl && q.col < 16 && isWriteKind q.kind && !parked s q) ||
  (upTo 16).any fun c =>
    let l := getLane s r c sl
    let k := getCore s (coreIx r c)
    !l.openCopies.isEmpty || l.batches.any (fun b => !b.isEmpty) || (k.hputs.any fun p => p.slot == sl) ||
      k.press.any fun q => q.strand == sl

/-- Does a copy still to inject write to a HOST page? -/
def copyToHost (s : State) (r c : Nat) (q : Copy) : Bool :=
  q.dst == .global &&
  (upTo (q.count / 65536 + 2)).any fun i =>
    65536 * i < q.count + 65536 &&
    match laneXlate s r c .write (q.dstVal + BitVec.ofNat 64 (min (65536 * i) (q.count - 64))) with
    | .ok (_, at_, _) => at_.host
    | .error _ => false

/-- Is a write of the strand to a HOST page outstanding (R137 step 2)? -/
def hostWaits (s : State) (r sl : Nat) : Bool :=
  (s.reqs.any fun q => q.row == r && q.strand == sl && (isWriteKind q.kind || q.kind == .granule) && !(q.st == .performed) &&
    !setAside s (getHead s r sl).handler q &&
    (q.st == .walking || q.segs.any fun p => regionOf p.1 == .host)) ||
  (upTo 16).any fun c =>
    let k := getCore s (coreIx r c)
    (k.chans.toList.flatten.filter fun q => q.strand == sl && q.done < q.count).any (copyToHost s r c)

/-- Is a write or HPUT of the strand unacknowledged (R141 step 2), or, since the arrival is a release, a load or the row read of an
HTAKE still to be performed (R318 edge 8, R325)? -/
def releaseDue (s : State) (r sl : Nat) : Bool :=
  (s.reqs.any fun q => q.row == r && q.strand == sl && (isWriteKind q.kind || (plainKind q.kind && !reqDone q)) &&
    !setAside s (getHead s r sl).handler q) ||
  (upTo 16).any fun c =>
    let k := getCore s (coreIx r c)
    (k.hputs.any fun p => p.slot == sl) || k.transfers.any fun t => t.strand == sl && t.data.isNone

/-- Is a task a member of a group of its job, and not on its way out (R140, R142, R291)? -/
def isMember (s : State) (p g task : Nat) : Bool :=
  g < 256 &&
  (match (getPart s p).job with
   | some j => ((tget j.groups g ⟨[], 0, []⟩).members).any (· == task)
   | none => false) &&
  !(s.msgs.any fun m => m.2 == .lower p g task)

/-- Row and slot of a task, and whether its team is resident there (R279). -/
def taskPlace (s : State) (p : Nat) (j : Job) (task : Nat) : Nat × Nat × Bool :=
  let k := strandCount j.launch.pword
  let team := task / k
  let r := (getPart s p).first + team % partRows (getPart s p)
  (r, task % k, (getRow s r).resident == some team)

/-- Is a task past step 2 of its EXIT (R133, R370)? -/
def exiting (s : State) (p task : Nat) : Bool :=
  match (getPart s p).job with
  | some j =>
    let (r, sl, here) := taskPlace s p j task
    here && (getHead s r sl).task == some task && (getHead s r sl).wait == .exit
  | none => false

/-- The other members of a group (R142). -/
def otherMembers (s : State) (p g task : Nat) : List Nat :=
  match (getPart s p).job with
  | some j => ((tget j.groups g ⟨[], 0, []⟩).members).filter fun t => t != task && isMember s p g t
  | none => []

/-! Able to issue (R282). -/

/-- Does a store-fault record stand at some core that is reported before the strand goes on (R177, R356)? -/
def recordsDue (s : State) (r sl : Nat) : Bool := (upTo 16).any fun c => recordDue (getHead s r sl).handler (getLane s r c sl)

/-- The strand's next instruction, where its word can be fetched. -/
def nextInstr (s : State) (r sl : Nat) : Option Instr :=
  let h := getHead s r sl
  match fetchWord s r h with
  | .error _ => none
  | .ok (_, w) =>
    match decode w with
    | .error _ => none
    | .ok i =>
      match h.pend with
      | some p => some (i.withPx p)
      | none => some i

/-- Does what the head has come to wait for, by its WHY (R381), still hold it: the strand's lane work (R118, R131) and EXIT's outstanding
work (R133); the tail queue (R30); a token (R144); the release of an arrival (R141), of MSEND (R143); host writes (R137); members that are exiting
(R142)? A trap that waits for the lane work holds no instruction's wait. -/
def stillWaits (s : State) (r sl : Nat) : Bool :=
  let h := getHead s r sl
  match h.why with
  | 13 => !h.flights.isEmpty || (h.wait == .exit && exitWaits s r sl)
  | 9 => h.tailQ.isEmpty
  | 10 => h.mailbox.isEmpty && !recordsDue s r sl
  | 11 => releaseDue s r sl && !recordsDue s r sl
  | 14 =>
    match nextInstr s r sl with
    | some (.msend _ _) => releaseDue s r sl && !recordsDue s r sl
    | some (.publish _) => hostWaits s r sl && !recordsDue s r sl
    | some (.gkill a) => (otherMembers s (partOf s r) (rdH h a).toNat (h.task.getD 0)).any fun t => exiting s (partOf s r) t
    | _ => false
  | _ => false

/-- Is the next instruction of lane class with core 0's queue full (R26)? -/
def queueFull (s : State) (r sl : Nat) : Bool :=
  4 ≤ ((getHead s r sl).flights.countP fun f => f.col == 0) && (nextInstr s r sl).any (·.isLane)

/-- Can the head take a strand in this cycle: it runs, holds no operation under way, no walk of its head is under way, its waiting
instruction can go on, its lane instruction has room, no recorded access is still to be issued again, and a STEP or head event that is
due finds its lane work done; or a machine event is due? -/
def able (s : State) (r sl : Nat) : Bool :=
  let h := getHead s r sl
  h.task.isSome && strandRuns s r sl &&
  (((h.wait == .no || h.wait == .exit) && h.commit.isNone &&
    (h.flights.isEmpty || !(h.stepDue || (nextHeadEvent h.handler h.events).isSome)) &&
    !headWalks s r sl && !retryDue s r sl && (h.why == 0 || !stillWaits s r sl) && !queueFull s r sl) || eventDue s r sl)

end Sys2Proof.Machine
end

