-- ==== Sys2Proof/Machine/Head.lean ====
section
/-! DEFINITION. The head instructions (R117 to R149): what the row head does for each of them. -/

namespace Sys2Proof.Machine

/-- The outcome of every instruction and event of this model. -/
abbrev Out := Host.Outcome State Fault Refusal

/-! Shared shape (R117 to R120). -/

/-- Run a head instruction: nothing while the strand holds an accepted or waiting operation; ILLEGAL after a PX (R70) or with
fields outside their limits (R120); POISON where an h register read is poisoned (R364); else its effect. -/
def headInstr (i : Instr) (reads : List Nat) (k : Nat → Nat → Head → State) (s : State) : State :=
  let (r, sl) := here s
  let h := getHead s r sl
  if h.commit.isSome || (h.wait != .no && h.wait != .exit) then s
  else if h.pend.isSome || !i.wellFormed then illegalWord s r sl (encodeWord i)
  else
    match headPoison h reads with
    | some v => headTrap s r sl .poison v
    | none => k r sl h

/-- The strand after an instruction at the head that goes on to the sequential successor (R117, R125, R375). -/
def headNext (h : Head) : Head := finishHead (seqNext h)

/-- Finish a head instruction with a new head state. -/
def headDone (s : State) (r sl : Nat) (h : Head) : State := setHead s r sl (headNext h)

/-- Finish a head instruction that jumps. -/
def headJump (s : State) (r sl : Nat) (h : Head) (t : VAddr) : State := setHead s r sl (finishHead (jumpTo h t))

/-- The head waits and tries again: the reason, and the time the wait began (R286, R381). -/
def headWait (s : State) (r sl why : Nat) : State :=
  modHead s r sl fun h => if h.why = why then h else { h with why := why, since := s.now }

/-- Wait as DRAIN (R131), then go on. -/
def afterDrain (s : State) (r sl : Nat) (h : Head) (k : State) : State := if h.flights.isEmpty then k else headWait s r sl 13

/-- A committing head instruction is accepted (R119): the region ends. -/
def headAccept (h : Head) : Head := openRegion (seqNext h)

/-- Finish a committing head instruction. -/
def headCommit (s : State) (r sl : Nat) (h : Head) : State := setHead s r sl (finishHead (headAccept h))

/-! Arithmetic (R121, R122). -/

/-- A register operation at the head (R121). -/
def headAlu (i : Instr) (d a b : BitVec 4) (f : Word → Word → Word) (s : State) : State :=
  headInstr i [a.toNat, b.toNat] (fun r sl h => headDone s r sl (wrH h d (f (rdH h a) (rdH h b)))) s

/-- An immediate operation at the head (R122). -/
def headImm (i : Instr) (d a : BitVec 4) (f : Word → Word) (s : State) : State :=
  headInstr i [a.toNat] (fun r sl h => headDone s r sl (wrH h d (f (rdH h a)))) s

/-- ADD at the head (R121). -/
def execAddHead (d a b : BitVec 4) (s : State) : Out := .next (headAlu (.addHead d a b) d a b aluAdd s)
/-- SUB at the head (R121). -/
def execSubHead (d a b : BitVec 4) (s : State) : Out := .next (headAlu (.subHead d a b) d a b aluSub s)
/-- AND at the head (R121). -/
def execAndHead (d a b : BitVec 4) (s : State) : Out := .next (headAlu (.andHead d a b) d a b aluAnd s)
/-- OR at the head (R121). -/
def execOrHead (d a b : BitVec 4) (s : State) : Out := .next (headAlu (.orHead d a b) d a b aluOr s)
/-- XOR at the head (R121). -/
def execXorHead (d a b : BitVec 4) (s : State) : Out := .next (headAlu (.xorHead d a b) d a b aluXor s)
/-- SHL at the head (R121). -/
def execShlHead (d a b : BitVec 4) (s : State) : Out := .next (headAlu (.shlHead d a b) d a b aluShl s)
/-- SHR at the head (R121). -/
def execShrHead (d a b : BitVec 4) (s : State) : Out := .next (headAlu (.shrHead d a b) d a b aluShr s)
/-- SAR at the head (R121). -/
def execSarHead (d a b : BitVec 4) (s : State) : Out := .next (headAlu (.sarHead d a b) d a b aluSar s)
/-- MUL at the head (R121). -/
def execMulHead (d a b : BitVec 4) (s : State) : Out := .next (headAlu (.mulHead d a b) d a b aluMul s)
/-- SLT at the head (R121). -/
def execSltHead (d a b : BitVec 4) (s : State) : Out := .next (headAlu (.sltHead d a b) d a b aluSlt s)
/-- SLTN at the head (R121). -/
def execSltnHead (d a b : BitVec 4) (s : State) : Out := .next (headAlu (.sltnHead d a b) d a b aluSltn s)
/-- MIN at the head (R121). -/
def execMinHead (d a b : BitVec 4) (s : State) : Out := .next (headAlu (.minHead d a b) d a b aluMin s)
/-- MAX at the head (R121). -/
def execMaxHead (d a b : BitVec 4) (s : State) : Out := .next (headAlu (.maxHead d a b) d a b aluMax s)

/-- ADDI at the head (R122). -/
def execAddiHead (d a : BitVec 4) (imm : BitVec 16) (s : State) : Out :=
  .next (headImm (.addiHead d a imm) d a (fun x => aluAdd x (immWord imm)) s)
/-- ANDI at the head (R122). -/
def execAndiHead (d a : BitVec 4) (imm : BitVec 16) (s : State) : Out :=
  .next (headImm (.andiHead d a imm) d a (fun x => aluAnd x (immWord imm)) s)
/-- ORI at the head (R122). -/
def execOriHead (d a : BitVec 4) (imm : BitVec 16) (s : State) : Out :=
  .next (headImm (.oriHead d a imm) d a (fun x => aluOr x (immWord imm)) s)
/-- XORI at the head (R122). -/
def execXoriHead (d a : BitVec 4) (imm : BitVec 16) (s : State) : Out :=
  .next (headImm (.xoriHead d a imm) d a (fun x => aluXor x (immWord imm)) s)
/-- SHLI at the head (R122). -/
def execShliHead (d a : BitVec 4) (n : BitVec 6) (s : State) : Out :=
  .next (headImm (.shliHead d a n) d a (fun x => aluShl x (n.setWidth 64)) s)
/-- SHRI at the head (R122). -/
def execShriHead (d a : BitVec 4) (n : BitVec 6) (s : State) : Out :=
  .next (headImm (.shriHead d a n) d a (fun x => aluShr x (n.setWidth 64)) s)
/-- SARI at the head (R122). -/
def execSariHead (d a : BitVec 4) (n : BitVec 6) (s : State) : Out :=
  .next (headImm (.sariHead d a n) d a (fun x => aluSar x (n.setWidth 64)) s)
/-- LI at the head (R122). -/
def execLiHead (d : BitVec 4) (imm : BitVec 16) (s : State) : Out :=
  .next (headInstr (.liHead d imm) [] (fun r sl h => headDone s r sl (wrH h d (immWord imm))) s)
/-- LUI at the head (R122). -/
def execLuiHead (d a : BitVec 4) (imm : BitVec 16) (s : State) : Out :=
  .next (headImm (.luiHead d a imm) d a (fun x => aluLui x imm) s)

/-! Branches and jumps (R123 to R127). -/

/-- Target of a branch or jump: the instruction's address plus 4 times a signed offset of n bits (R62). -/
def branchTarget (pc : VAddr) (off n : Nat) : VAddr := pc + BitVec.ofInt 48 (4 * sext off n)

/-- A conditional branch (R123). -/
def headBranch (i : Instr) (a b : BitVec 4) (off : BitVec 12) (cond : Word → Word → Bool) (s : State) : State :=
  headInstr i [a.toNat, b.toNat]
    (fun r sl h => if cond (rdH h a) (rdH h b) then headJump s r sl h (branchTarget h.pc off.toNat 12) else headDone s r sl h) s

/-- BEQ (R123). -/
def execBeq (a b : BitVec 4) (off : BitVec 12) (s : State) : Out := .next (headBranch (.beq a b off) a b off (fun x y => x == y) s)
/-- BNE (R123). -/
def execBne (a b : BitVec 4) (off : BitVec 12) (s : State) : Out := .next (headBranch (.bne a b off) a b off (fun x y => x != y) s)
/-- BLT (R123). -/
def execBlt (a b : BitVec 4) (off : BitVec 12) (s : State) : Out :=
  .next (headBranch (.blt a b off) a b off (fun x y => decide (x.toInt < y.toInt)) s)
/-- BGE (R123). -/
def execBge (a b : BitVec 4) (off : BitVec 12) (s : State) : Out :=
  .next (headBranch (.bge a b off) a b off (fun x y => decide (y.toInt ≤ x.toInt)) s)
/-- BLTN (R123). -/
def execBltn (a b : BitVec 4) (off : BitVec 12) (s : State) : Out :=
  .next (headBranch (.bltn a b off) a b off (fun x y => decide (x.toNat < y.toNat)) s)
/-- BGEN (R123). -/
def execBgen (a b : BitVec 4) (off : BitVec 12) (s : State) : Out :=
  .next (headBranch (.bgen a b off) a b off (fun x y => decide (y.toNat ≤ x.toNat)) s)

/-- JMP (R124). -/
def execJmp (off : BitVec 26) (s : State) : Out :=
  .next (headInstr (.jmp off) [] (fun r sl h => headJump s r sl h (branchTarget h.pc off.toNat 26)) s)

/-- CALL (R124): the link goes to h14. -/
def execCall (off : BitVec 26) (s : State) : Out :=
  .next (headInstr (.call off) []
    (fun r sl h => headJump s r sl (wrH h 14 (wordOfAddr (h.pc + 4))) (branchTarget h.pc off.toNat 26)) s)

/-- May a register value be an instruction address (R124, R139)? -/
def targetOk (w : Word) : Bool := w.toNat % 4 == 0 && w.toNat / 2 ^ 48 == 0

/-- JR (R124): the target is read before the link is written. -/
def execJr (a b : BitVec 4) (s : State) : Out :=
  .next (headInstr (.jr a b) [a.toNat]
    (fun r sl h =>
      let t := rdH h a
      if targetOk t then headJump s r sl (wrH h b (wordOfAddr (h.pc + 4))) (addrOfWord t)
      else headTrap s r sl .fetchTarget t) s)

/-- Is an address inside the body of the active loop (R120, R125)? -/
def inLoop (h : Head) (a : VAddr) : Bool := h.loopc != 0 && h.loops.toNat ≤ a.toNat && a.toNat < h.loope.toNat

/-- LOOP (R125, R120). -/
def execLoop (a : BitVec 4) (off : BitVec 12) (s : State) : Out :=
  .next (headInstr (.loop a off) [a.toNat]
    (fun r sl h =>
      let past := h.pc + BitVec.ofNat 48 (4 * off.toNat)
      if h.handler || inLoop h h.pc then illegalWord s r sl (encodeWord (.loop a off))
      else if rdH h a = 0 then setHead s r sl (finishHead { h with pc := past, skipBreak := none })
      else setHead s r sl (finishHead
        { h with loopc := rdH h a, loops := wordOfAddr (h.pc + 4), loope := wordOfAddr past, pc := h.pc + 4, skipBreak := none,
                 poison := h.poison.filter fun n => !(n == 0x810 || n == 0x811 || n == 0x812) })) s)

/-! Head memory (R128, R129). -/

/-- Address of a head access (R128). -/
def headAddr (h : Head) (a : BitVec 4) (off : BitVec 12) : Word := laneAddr (rdH h a) off.toNat 12 8

/-- Alignment and translation of a head access (R128), which waits for a walk of its page (R270), then the access; since: the time at which
it began to wait. -/
def headAccess (s : State) (r sl : Nat) (k : Acc) (addr : Word) (go : State → Nat → Attr → Nat → State) : State :=
  if addr.toNat % 8 ≠ 0 then headTrap s r sl .memAlign addr
  else
    match headGate s (.head r sl) addr 8 (getHead s r sl).handler with
    | .wait s => s
    | .go s fails since =>
      match headXlateWith s fails r k addr with
      | .error c => headTrap s r sl c addr
      | .ok (pa, at_, e) => go (itlbFill s r e) pa at_ since

/-- LD.d (R128): the strand is held until the value returns. -/
def execLdD (d a : BitVec 4) (off : BitVec 12) (acq : Bool) (s : State) : Out :=
  .next (headInstr (.ldD d a off acq) [a.toNat]
    (fun r sl h =>
      let addr := headAddr h a off
      headAccess s r sl .read addr fun s pa at_ since =>
        let q := { blankReq s .headLoad r 16 sl with
          since := since, va := addr, segs := [(pa, 8)], attr := at_, size := 8, acq := acq, dest := .h d.toNat, bound := boundOf pa }
        let s := modHead (pushReq s q) r sl fun h => { h with wait := .load q.id, why := 0, since := s.now }
        sendReq s q) s)

/-- ST.d (R128): posted once its translation has passed. -/
def execStD (d a : BitVec 4) (off : BitVec 12) (rel : Bool) (s : State) : Out :=
  .next (headInstr (.stD d a off rel) [a.toNat, d.toNat]
    (fun r sl h =>
      let addr := headAddr h a off
      headAccess s r sl .write addr fun s pa at_ since =>
        let q := { blankReq s .headStore r 16 sl with
          since := since, va := addr, segs := [(pa, 8)], attr := at_, size := 8, rel := rel, data := (rdH h d).setWidth 1024, bound := boundOf pa }
        launchReq (headDone (pushReq s q) r sl h) q) s)

/-! Strand control (R130 to R139). -/

/-- DRAIN (R131): FSUM is refreshed (R147). -/
def execDrain (s : State) : Out :=
  .next (headInstr .drain [] (fun r sl h =>
    afterDrain s r sl h (headDone s r sl { h with fsum := rowFlags s r sl })) s)

/-- The other strands of a row that are able to issue (R132, R282). -/
def ableOthers (s : State) (r sl : Nat) : List Nat := (upTo 8).filter fun t => t != sl && able s r t

/-- YIELD (R132): held until the other able strands have issued once, or 8 cycles have passed. -/
def execYield (s : State) : Out :=
  .next (headInstr .yield [] (fun r sl h =>
    let others := ableOthers s r sl
    setHead s r sl { headNext h with
      wait := if others.isEmpty then .no else .yield others ((getRow s r).cycle + 8), why := if others.isEmpty then 0 else 18,
      since := s.now }) s)

/-- The trap of an earlier instruction, or else the pending event or record of the lowest place, the head below core 0, raised at the
head's instruction (R133 step 3, R357). -/
def pendingTrap (s : State) (r sl : Nat) : Option State :=
  (headEvent s r sl).or
    ((upTo 16).findSome? fun c => duePending s r c sl (instrAddr (getHead s r sl)) ((getRow s r).cycle + 1))

/-- Wait as DRAIN, then take what is pending at the strand's cores in the instruction's place (R118, R177), else go on. -/
def afterDrainDue (s : State) (r sl : Nat) (h : Head) (k : State) : State :=
  afterDrain s r sl h ((pendingTrap s r sl).getD k)

/-- EXIT (R133). -/
def execExit (a : BitVec 4) (s : State) : Out :=
  .next (headInstr (.exit a) [a.toNat] (fun r sl h =>
    afterDrain s r sl h
      (if exitWaits s r sl then headWait (setHead s r sl { h with wait := .exit }) r sl 13
      else
        match pendingTrap s r sl with
        | some s => s
        | none => endTask s r sl (statusWord (bits (rdH h a) 0 16) 0))) s)

/-- REGION (R134, R56): REGPC is its own address + 4; the snapshot is taken, with its poison (R364). -/
def execRegion (s : State) : Out :=
  .next (headInstr .region [] (fun r sl h =>
    headDone s r sl { h with region := h.region + 1, regpc := wordOfAddr (h.pc + 4), rloopc := h.loopc, rloops := h.loops,
                             rloope := h.loope, poison := snapPoison h.poison }) s)

/-- PAUSE (R135). -/
def execPause (a : BitVec 4) (s : State) : Out :=
  .next (headInstr (.pause a) [a.toNat] (fun r sl h =>
    let n := min (rdH h a).toNat (2 ^ 24 - 1)
    setHead s r sl { headNext h with
      wait := if n = 0 then .no else .pause ((getRow s r).cycle + n), why := if n = 0 then 0 else 18, since := s.now }) s)

/-- TWAIT (R30). -/
def execTwait (d : BitVec 4) (s : State) : Out :=
  .next (headInstr (.twait d) [] (fun r sl h =>
    match h.tailQ with
    | [] => headWait s r sl 9
    | x :: q => headDone s r sl (wrH { h with tailQ := q } d x)) s)

/-- TILEGET (R136): the request goes to the dispenser of the row's die. -/
def execTileget (d a : BitVec 4) (s : State) : Out :=
  .next (headInstr (.tileget d a) [a.toNat] (fun r sl h =>
    let n := rdH h a
    let die := dieOfRow r
    afterDrainDue s r sl h
      (if 15 < n.toNat || !(s.dispensers.any fun x => x.part == partOf s r && x.die == die && x.num == n.toNat) then
        headTrap s r sl .tileNone n
      else
        let id := s.fresh
        let s := sendMsg s (.tile (partOf s r) r sl die n.toNat d.toNat)
        modHead s r sl fun h => { h with wait := .tile id, why := 14, since := s.now })) s)

/-- PUBLISH (R137): its faults, the wait for the host writes, then the increment. -/
def execPublish (a : BitVec 4) (s : State) : Out :=
  .next (headInstr (.publish a) [a.toNat] (fun r sl h =>
    let addr := rdH h a
    afterDrainDue s r sl h
      (headAccess s r sl .write addr fun s pa at_ since =>
        if !at_.host then headTrap s r sl .publishHost addr
        else if hostWaits s r sl then headWait s r sl 14
        else
          let q := { blankReq s .publish r 16 sl with
            since := since, va := addr, segs := [(pa, 8)], attr := at_, size := 8, rel := true, scope := .sys, bound := boundOf pa }
          let s := modHead (pushReq s q) r sl fun h => { h with wait := .publish q.id, why := 14, since := s.now }
          launchReq s q)) s)

/-- SVC (R138). -/
def execSvc (n : BitVec 10) (s : State) : Out :=
  .next (headInstr (.svc n) [] (fun r sl _ => headTrap s r sl .svc (n.setWidth 64)) s)

/-- Go on where the CSRs with these numbers, which an instruction reads, are not poisoned; else POISON (R364). -/
def csrSound (s : State) (r sl : Nat) (h : Head) (ns : List Nat) (k : State) : State :=
  match ns.find? fun n => isIn (0x800 + n) h.poison with
  | some n => headTrap s r sl .poison (headPoisonTval n)
  | none => k

/-- TRET (R139, R361): ILLEGAL at task level (R120). It reads TVAL, REGPC and the loop snapshot (R364). -/
def execTret (s : State) : Out :=
  .next (headInstr .tret [] (fun r sl h =>
    if !h.handler then illegalWord s r sl (encodeWord .tret)
    else csrSound s r sl h [0x003, 0x005, 0x013, 0x014, 0x015] <| afterDrain s r sl h (leaveHandler (returnPlain s r sl) r sl)) s)

/-- TRET.at (R139, R361): ILLEGAL at task level (R120). It reads SST, TVAL and TPC (R364). -/
def execTretAt (a : BitVec 4) (s : State) : Out :=
  .next (headInstr (.tretAt a) [a.toNat] (fun r sl h =>
    if !h.handler then illegalWord s r sl (encodeWord (.tretAt a))
    else csrSound s r sl h [0x000, 0x003, 0x004] <| afterDrain s r sl h
      (if targetOk (rdH h a) then leaveHandler (returnAt s r sl (addrOfWord (rdH h a))) r sl
      else headTrap s r sl .fetchTarget (rdH h a))) s)

/-! Groups and messages (R140 to R144). -/

/-- Arrive at a group (R141): membership, drain, release, then the message to the home. kind 0 is GBAR. -/
def groupArrive (s : State) (r sl : Nat) (h : Head) (g : Word) (kind d : Nat) (value : Word) : State :=
  let p := partOf s r
  let task := h.task.getD 0
  if !isMember s p g.toNat task then headTrap s r sl .groupMember g
  else afterDrainDue s r sl h
    (if releaseDue s r sl then headWait s r sl 11
    else
      let s := sendMsg s (.arrive p g.toNat task r sl kind value)
      modHead s r sl fun h => { h with wait := .group g.toNat d, why := 11, since := s.now })

/-- GBAR (R141). -/
def execGbar (a : BitVec 4) (s : State) : Out :=
  .next (headInstr (.gbar a) [a.toNat] (fun r sl h => groupArrive s r sl h (rdH h a) 0 0 0) s)

/-- The kind code of a vote. -/
def voteKind : VoteOp → Nat
  | .all => 1 | .any => 2 | .sum => 3 | .min => 4 | .max => 5

/-- GVOTE (R141). -/
def execGvote (op : VoteOp) (d a b : BitVec 4) (s : State) : Out :=
  .next (headInstr (.gvote op d a b) [a.toNat, b.toNat]
    (fun r sl h => groupArrive s r sl h (rdH h b) (voteKind op) d.toNat (rdH h a)) s)

/-- GLEAVE (R142): nothing where the task is no member. -/
def execGleave (a : BitVec 4) (s : State) : Out :=
  .next (headInstr (.gleave a) [a.toNat] (fun r sl h =>
    let p := partOf s r
    let g := (rdH h a).toNat
    let task := h.task.getD 0
    headDone (if isMember s p g task then sendMsg s (.lower p g task) else s) r sl h) s)

/-- A team that is swapped out or not yet placed has ended with its last task (R142): its save place is free. -/
def awayCheck (s : State) (p : Nat) (j : Job) (task : Nat) : State :=
  let k := strandCount j.launch.pword
  let team := task / k
  let (r, _, _) := taskPlace s p j task
  let gone := match (getPart s p).job with
    | some j => (upTo (teamSize j.launch team)).all fun i => j.ended.any fun q => q.1 == k * team + i
    | none => false
  if gone then modRow s r fun x =>
    { x with ended := if isIn team x.ended then x.ended else x.ended ++ [team], images := x.images.filter fun m => m.team != team }
  else s

/-- End another task of the job from outside with an error bit (R142): where it stands. -/
def endOther (s : State) (p task errBit : Nat) : State :=
  match (getPart s p).job with
  | none => s
  | some j =>
    if j.ended.any fun q => q.1 == task then s
    else
      let (r, sl, here) := taskPlace s p j task
      if here && (getHead s r sl).task == some task then stopStrand s r sl errBit
      else
        let s := modJob (leaveGroups s p task) p fun j => { j with ended := tput j.ended task (statusWord 0 errBit) }
        awayCheck (applyHeld s p [task]) p j task

/-- GKILL (R142): ILLEGAL at task level (R120); nothing more than its membership check where the group has no other member; else every
other member ends, one that is past step 2 of its EXIT by itself (R370) while GKILL waits, and the issuing task leaves. -/
def execGkill (a : BitVec 4) (s : State) : Out :=
  .next (headInstr (.gkill a) [a.toNat] (fun r sl h =>
    let p := partOf s r
    let g := rdH h a
    let task := h.task.getD 0
    let others := otherMembers s p g.toNat task
    if !h.handler then illegalWord s r sl (encodeWord (.gkill a))
    else if h.why != 14 && !isMember s p g.toNat task then headTrap s r sl .groupMember g
    else if h.why != 14 && others.isEmpty then headDone s r sl h
    else
      let s := (others.filter fun t => !exiting s p t).foldl (fun s t => endOther s p t 42) s
      if others.any fun t => exiting s p t then headWait s r sl 14
      else headDone (sendMsg s (.lower p g.toNat task)) r sl h) s)

/-- MSEND (R143): drain and release, then the token on its way. -/
def execMsend (a b : BitVec 4) (s : State) : Out :=
  .next (headInstr (.msend a b) [a.toNat, b.toNat] (fun r sl h =>
    afterDrainDue s r sl h
      (if releaseDue s r sl then headWait s r sl 14
      else
        let id := s.fresh
        let s := sendMsg s (.token (partOf s r) r sl (h.task.getD 0) (rdH h a) (rdH h b))
        modHead s r sl fun h => { h with wait := .send id, why := 21, since := s.now })) s)

/-- MRECV (R144): accepted when it takes a token. -/
def execMrecv (d : BitVec 4) (s : State) : Out :=
  .next (headInstr (.mrecv d) [] (fun r sl h =>
    afterDrainDue s r sl h
      (match h.mailbox with
      | [] => headWait s r sl 10
      | x :: q => headCommit s r sl (wrH { h with mailbox := q } d x))) s)

/-- MPROBE (R144). -/
def execMprobe (d : BitVec 4) (s : State) : Out :=
  .next (headInstr (.mprobe d) [] (fun r sl h => headDone s r sl (wrH h d (BitVec.ofNat 64 h.mailbox.length))) s)

/-! Control and status registers (R145 to R149). -/

/-- SST as CSRR reads it (R147). -/
def sstWord (h : Head) : Word :=
  BitVec.ofNat 64 ((if h.handler then 1 else 0) + (if h.stepMode then 2 else 0) + (if h.pp then 4 else 0) +
    16 * h.drm.toNat + 128 * h.fsum.toNat + 2 ^ 32 * h.pxs.toNat)

/-- CYCLE (R146): row cycles during which the task has been placed. -/
def cycleWord (s : State) (r : Nat) (h : Head) : Word := BitVec.ofNat 64 (h.cycles + ((getRow s r).cycle - h.placedAt))

/-- A BKA register by its number. -/
def bkaOf (h : Head) (n : Nat) : Word := h.bka.toList.getD n 0

/-- The value of a CSR (R145). -/
def csrValue (s : State) (r : Nat) (h : Head) : Csr → Word
  | .sst => sstWord h
  | .tvec => h.tvec | .tcause => h.tcause | .tval => h.tval | .tpc => h.tpc | .regpc => h.regpc | .mstatus => h.mstatus
  | .bka0 => bkaOf h 0 | .bka1 => bkaOf h 1 | .bka2 => bkaOf h 2 | .bka3 => bkaOf h 3
  | .loopc => h.loopc | .loops => h.loops | .loope => h.loope
  | .rloopc => h.rloopc | .rloops => h.rloops | .rloope => h.rloope
  | .cycle => cycleWord s r h
  | .hsave0 => h.hsave0 | .hsave1 => h.hsave1

/-- The number of a CSR (R146). -/
def csrNumber : Csr → Nat
  | .sst => 0x000 | .tvec => 0x001 | .tcause => 0x002 | .tval => 0x003 | .tpc => 0x004 | .regpc => 0x005 | .mstatus => 0x006
  | .bka0 => 0x008 | .bka1 => 0x009 | .bka2 => 0x00A | .bka3 => 0x00B
  | .loopc => 0x010 | .loops => 0x011 | .loope => 0x012 | .rloopc => 0x013 | .rloops => 0x014 | .rloope => 0x015
  | .cycle => 0x020 | .hsave0 => 0x030 | .hsave1 => 0x031

/-- May a CSR be written at a level (R146)? -/
def csrWritable (handler : Bool) : Csr → Bool
  | .sst | .tvec | .bka0 | .bka1 | .bka2 | .bka3 => true
  | .cycle => false
  | _ => handler

/-- A breakpoint register value (R149). -/
def bkaWord (w : Word) : Word := w &&& 0x0000FFFFFFFFFFFD

/-- The head with a CSR written, field by field (R145 to R149); at task level SST takes DRM only. -/
def csrPut (h : Head) (c : Csr) (w : Word) : Head :=
  match c with
  | .sst =>
    let drm : BitVec 3 := BitVec.ofNat 3 (bits w 4 3)
    let h := if 1 ≤ bits w 4 3 && bits w 4 3 ≤ 5 then { h with drm := drm } else h
    if h.handler then { h with stepMode := w.getLsbD 1, pp := w.getLsbD 2, pxs := BitVec.ofNat 32 (bits w 32 32) } else h
  | .tvec => { h with tvec := csrAddr w }
  | .tcause => { h with tcause := w &&& 0x1FFFFF }
  | .tval => { h with tval := w }
  | .tpc => { h with tpc := csrAddr w }
  | .regpc => { h with regpc := csrAddr w }
  | .mstatus => { h with mstatus := w &&& 7 }
  | .bka0 => { h with bka := h.bka.set 0 (bkaWord w) }
  | .bka1 => { h with bka := h.bka.set 1 (bkaWord w) }
  | .bka2 => { h with bka := h.bka.set 2 (bkaWord w) }
  | .bka3 => { h with bka := h.bka.set 3 (bkaWord w) }
  | .loopc => { h with loopc := w }
  | .loops => { h with loops := csrAddr w }
  | .loope => { h with loope := csrAddr w }
  | .rloopc => { h with rloopc := w }
  | .rloops => { h with rloops := csrAddr w }
  | .rloope => { h with rloope := csrAddr w }
  | .cycle => h
  | .hsave0 => { h with hsave0 := w }
  | .hsave1 => { h with hsave1 := w }

/-- A head register or CSR is written and loses its poison (R364). -/
def healHead (h : Head) (n : Nat) : Head := { h with poison := h.poison.filter (· != n) }

/-- CSRR (R145, R364). -/
def execCsrr (d : BitVec 4) (c : Csr) (s : State) : Out :=
  .next (headInstr (.csrr d c) [] (fun r sl h =>
    if isIn (0x800 + csrNumber c) h.poison then headTrap s r sl .poison (headPoisonTval (csrNumber c))
    else headDone s r sl (wrH h d (csrValue s r h c))) s)

/-- CSRW (R145): ILLEGAL at a level that may not write the CSR. -/
def execCsrw (c : Csr) (a : BitVec 4) (s : State) : Out :=
  .next (headInstr (.csrw c a) [a.toNat] (fun r sl h =>
    if csrWritable h.handler c then headDone s r sl (healHead (csrPut h c (rdH h a)) (0x800 + csrNumber c))
    else illegalWord s r sl (encodeWord (.csrw c a))) s)

/-- BKPT at the head (R145). -/
def execBkpt (n : BitVec 12) (s : State) : Out :=
  .next (headInstr (.bkpt n) [] (fun r sl _ => headTrap s r sl .bkpt (n.setWidth 64)) s)

/-! The prefix (R66, R70). -/

/-- PX: the head keeps its fields for the next word; ILLEGAL after another PX, with a code outside R66, and in the last word of
the active loop's body (R70). -/
def execPx (p : Px) (s : State) : Out :=
  .next (headInstr (.px p) [] (fun r sl h =>
    if !h.handler && h.loopc != 0 && wordOfAddr (h.pc + 4) == h.loope then illegalWord s r sl (encodeWord (.px p))
    else setHead s r sl { h with pend := some p, pc := h.pc + 4, skipBreak := none }) s)

end Sys2Proof.Machine
end

