-- ==== Sys2Proof/Machine/Fabric2.lean ====
section
/-! DEFINITION. The events of the fabric: walks, accesses at their homes, arrivals, acknowledgements, faults, releases and expired
bounds (R36, R38, R128, R158 to R166, R177, R248, R270, R312, R322 to R324, R337, R344, R368). -/

namespace Sys2Proof.Machine

/-! Landing slots (R38). -/

/-- LANDING_SLOT_GRANT (R38): the landing load that came to wait earliest is granted a slot: its core executes it. -/
def execLandingSlotGrant (core : Nat) (s : State) : Out :=
  .next (match nextWaiter s (core / 16) (core % 16) with
    | some w => serveAt (core / 16) (core % 16) s w.strand
    | none => s)

/-! The record of a link's channel (R383). -/

/-- Bytes of a packet's record in a dump: the link, its kind, the address, the size, the data. DESIGN CHOICE: R383 gives no layout,
log 82. -/
def dumpRecBytes : Nat := 160

/-- Where the packets recorded in a dump follow its images (R383). -/
def dumpTail (s : State) : Nat := s.dbg.dumpBase.toNat + 2228224 * 512

/-- While a dump records a link's channel, an arriving packet is recorded after the images, in arrival order (R383). -/
def dumpRecord (s : State) (link kind pa size : Nat) (data : Vec) : State :=
  match s.dbg.dumpLinks with
  | some ls =>
    if isIn link ls then
      let at_ := dumpTail s + dumpRecBytes * s.dbg.dumpLog.length
      let put (s : State) (o n v : Nat) : State := physWrN s none (at_ + o) n v
      let s := put (put (put (put (put s 0 8 link) 8 8 kind) 16 8 pa) 24 8 size) 32 128 data.toNat
      { s with dbg := { s.dbg with dumpLog := s.dbg.dumpLog ++ [(link, kind, pa, size, data)] } }
    else s
  | none => s

/-- The answer of a peer to an access of this device arrives on a link and is recorded where a dump runs: kind 16 an answer with data, 17
an acknowledgement, 18 a refusal. DESIGN CHOICE: the lowest UP link with a route to the peer (R347), log 82. -/
def dumpAnswer (s : State) (q : Req) : State :=
  if s.dbg.dumpLinks.isNone || q.segs.isEmpty || regionOf (firstPa q) != .peer then s
  else
    match (upTo 12).find? fun l => (getLink s l).st == .up && !isIn (l, peerOf (firstPa q)) s.noRoute with
    | none => s
    | some l =>
      let kind := if q.st != .performed then 18 else if isWriteKind q.kind && q.kind != .amo && q.kind != .cas || q.kind == .granule then 17 else 16
      dumpRecord s l kind (firstPa q) q.size (if kind == 16 then q.data else 0)

/-! Arrivals at the core (R36, R158, R162, R173). -/

/-- The register value of an arrived access (R158, R172). -/
def arrivedWord (q : Req) : Word :=
  let n := 8 * q.size
  let x := q.data.toNat % 2 ^ n
  if q.signed then word (sext x n) else BitVec.ofNat 64 x

/-- The destination of a fill takes the arrived value (R36). -/
def fillDest (q : Req) (l : Lane) : Lane :=
  match q.dest with
  | .g n t => fillG l (BitVec.ofNat 5 n) t (arrivedWord q)
  | .v n t => fillV l (BitVec.ofNat 5 n) t q.data
  | _ => l

/-- The destination of a refused access keeps its value and is full (R158, R348). -/
def keepDest (q : Req) (l : Lane) : Lane :=
  match q.dest with
  | .g n t => keepG l (BitVec.ofNat 5 n) t
  | .v n t => keepV l (BitVec.ofNat 5 n) t
  | _ => l

/-- Is the answer of a request still wanted: its task in place, its fill not discarded by a rewind? -/
def wanted (s : State) (q : Req) : Bool := ownerAlive s q && q.dest != .no

/-- A head event becomes pending (R353). -/
def addHeadEvent (s : State) (q : Req) (cause : Cause) (tval : Word) : State :=
  if ownerAlive s q then modHead s q.row q.strand fun h => { h with events := h.events ++ [(cause, tval, q.handler)] } else s

/-- Is the strand's head still waiting for a load? -/
def headAwaits (s : State) (q : Req) : Bool := ownerAlive s q && (getHead s q.row q.strand).wait == .load q.id

/-- The answer of a head load (R128, R162, R348). A strand that a halt stops takes a refusal as it goes on (R380). -/
def headArrives (s : State) (q : Req) : State :=
  let s := dropReq s q.id
  if !headAwaits s q then s
  else
    match q.st, q.bad with
    | .failed c _, _ =>
      let s := modHead s q.row q.strand fun h => { h with wait := .no }
      if haltStops s q.row q.strand then addHeadEvent s q c q.va else headTrapDue s q.row q.strand c q.va
    | _, some g =>
      addHeadEvent (modHead s q.row q.strand fun h => { h with wait := .no }) q .poison (BitVec.ofNat 64 g)
    | _, none =>
      match q.dest with
      | .h n => modHead s q.row q.strand fun h => headNext (wrH h (BitVec.ofNat 4 n) (arrivedWord q))
      | _ => s

/-- The answer of a load, AMO or CAS reaches its core (R36, R162, R173, R261). A refusal is a trap at the access's own instruction
(R271, R348). -/
def loadArrives (s : State) (q : Req) : State :=
  let s := dropReq s q.id
  if !wanted s q then s
  else
    match q.st, q.bad with
    | .failed c va, _ =>
      addEvent (modLane s q.row q.col q.strand (keepDest q)) q.row q.col q.strand
        ⟨c, va, q.handler, if c = .poison then none else some ⟨q.pc, q.issue, q.region⟩⟩
    | _, some g => addEvent s q.row q.col q.strand ⟨.poison, BitVec.ofNat 64 g, q.handler, none⟩
    | _, none => setFilled s q.row q.col q.strand (fillDest q (getLane s q.row q.col q.strand))

/-- Has the home answered, within the bound (R313, R336), over a way that is open (R334)? -/
def answeredSt (s : State) (q : Req) : Bool := reqDone q && !expired s q && reachable s q

/-- LOAD_ARRIVAL (R36). -/
def execLoadArrival (id : Nat) (s : State) : Out :=
  .next (match findReq s id with
    | some q =>
      if !answeredSt s q then s
      else
        let s := dumpAnswer s q
        match q.kind with
        | .load | .amo | .cas => loadArrives s q
        | .headLoad => headArrives s q
        | _ => s
    | none => s)

/-- LANDING_ARRIVAL (R166, R168): the slot is marked arrived or poisoned. -/
def execLandingArrival (id : Nat) (s : State) : Out :=
  .next (match findReq s id with
    | some q =>
      if q.kind != .landing || !answeredSt s q then s
      else
        let s := dropReq (dumpAnswer s q) id
        match q.dest with
        | .slot set pos =>
          if !ownerAlive s q then s
          else
            match q.st, q.bad with
            | .failed c va, _ => poisonSlot s q.row q.col q.strand set pos q.handler c va
            | _, some g => poisonSlot s q.row q.col q.strand set pos q.handler .poison (BitVec.ofNat 64 g)
            | _, none =>
              slotArrives s q.row q.col q.strand set pos q.handler fun p =>
                { p with st := .arrived, value := q.data &&& BitVec.ofNat 1024 (2 ^ (8 * q.size) - 1) }
        | _ => s
    | none => s)

/-! Acknowledgements and faults of writes (R159, R177, R128, R137, R231). -/

/-- PUBLISH is accepted when its increment is acknowledged (R137). -/
def publishAck (s : State) (q : Req) : State :=
  if ownerAlive s q && (getHead s q.row q.strand).wait == .publish q.id then
    modHead s q.row q.strand fun h => finishHead (headAccept h)
  else s

/-- STORE_ACK (R159): the store retires; releases that waited for it may leave. An acknowledgement after the bound is not taken
(R313). -/
def execStoreAck (id : Nat) (s : State) : Out :=
  .next (match findReq s id with
    | some q =>
      if q.st != .performed || !answeredSt s q then s
      else
        let s := dumpAnswer s q
        match q.kind with
        | .store | .red | .headStore => pushReleases (dropReq s id)
        | .publish => pushReleases (publishAck (dropReq s id) q)
        | .granule => granuleAck s q
        | _ => s
    | none => s)

/-- The kind of record that a store leaves (R360). -/
def recKindOf (q : Req) : RecKind := if q.kind = .red then .red else if q.size = 128 then .stv else .st

/-- The store-fault record of a request (R360); the failing address is that of the lowest failing byte (R271, R272). -/
def recordOf (q : Req) (cause : Cause) (va : Word) : StoreRec :=
  { id := q.id, kind := recKindOf q, va := q.va, fail := va, sz := q.size,
    rel := q.rel, scope := q.scope, data := q.data, mask := q.mask, op := q.op, cause := cause, handler := q.handler, detSeq := q.detSeq }

/-- STORE_FAULT_RETURN (R177): a record, or a head event for a posted ST.d (R128). -/
def execStoreFaultReturn (id : Nat) (s : State) : Out :=
  .next (match findReq s id with
    | some q =>
      if !answeredSt s q then s else
      match q.st with
      | .failed c va =>
        let s := dumpAnswer s q
        match q.kind with
        | .store | .red =>
          let s := dropReq s id
          pushReleases (if ownerAlive s q then fillRecord s q.row q.col q.strand (recordOf q c va) else s)
        | .headStore => pushReleases (addHeadEvent (dropReq s id) q .hstoreFault q.va)
        | .publish =>
          let s := dropReq s id
          pushReleases (if ownerAlive s q && (getHead s q.row q.strand).wait == .publish id then
            addHeadEvent (modHead s q.row q.strand fun h => { h with wait := .no }) q .hstoreFault q.va
          else s)
        | .granule => granuleFault s q c
        | _ => s
      | _ => s
    | none => s)

/-! Walks (R270, R271). -/

/-- A walk: die, function, context, page (R270). -/
structure Walk where
  die : Nat
  vf : Nat
  ctx : Nat
  page : Nat
  deriving DecidableEq

/-- The leaf that a walk finds, put into the TLB of a place that asked for it (R268, R270). -/
def fillPlace (s : State) (e : TlbEntry) : WalkPlace → State
  | .core r c _ | .copy r c _ _ => tlbFill s r c [e]
  | .head r _ | .fetch r _ => itlbFill s r e

/-- Has a miss asked for a walk? -/
def asksWalk (k : Walk) (w : WalkWait) : Bool :=
  w.done.isNone && dieOfRow w.place.row == k.die && w.vf == k.vf && w.ctx == k.ctx && w.page == k.page

/-- Does a posted access wait for a walk? -/
def reqAsks (s : State) (k : Walk) (q : Req) : Bool :=
  q.st == .walking && srcDie q == k.die && q.vf == k.vf && q.ctx == k.ctx && isIn k.page (reqMisses s q)

/-- A walk has finished: every miss that joined it receives its result (R270). A leaf goes into the TLBs of those that asked, also of
an access that is gone. -/
def walkEnds (s : State) (k : Walk) : State :=
  let asked := s.walks.filter (asksWalk k)
  let posted := s.reqs.filter (reqAsks s k)
  let (s, result) : State × Option Cause :=
    match walk s k.vf k.ctx (65536 * k.page) with
    | .error c => (s, some c)
    | .ok e => (posted.foldl (fun s q => tlbFill s q.row q.col [e]) (asked.foldl (fun s w => fillPlace s e w.place) s), none)
  { s with walks := (s.walks.filter fun w => !(asksWalk k w && w.gone)).map fun w =>
      if asksWalk k w then { w with done := some result } else w }

/-- The walks that an event's identifier names: those of the misses of a posted access, or of a miss that waits. -/
def walksNamed (s : State) (id : Nat) : List Walk :=
  match findReq s id with
  | some q => if q.st == .walking && !expired s q then (reqMisses s q).map fun p => ⟨srcDie q, q.vf, q.ctx, p⟩ else []
  | none =>
    match s.walks.find? fun w => w.id == id && w.done.isNone with
    | some w => [⟨dieOfRow w.place.row, w.vf, w.ctx, w.page⟩]
    | none => []

/-- Has one of the 128 walkers of its die taken up a walk (R270)? -/
def walkBegun (s : State) (k : Walk) : Bool := isIn (k.vf, k.ctx, k.page) ((walksOf s k.die).take 128)

/-- Is the fate of a posted access known once some walks have ended: all its misses are among them, or the lower of its pages has
failed (R271, R272)? -/
def fateKnown (s : State) (ks : List Walk) (q : Req) : Bool :=
  let ended (p : Nat) : Bool := isIn (⟨srcDie q, q.vf, q.ctx, p⟩ : Walk) ks
  let miss := reqMisses s q
  q.st == .walking && !expired s q && miss.any ended &&
  (miss.all ended || (ended (miss.headD 0) && (walk s q.vf q.ctx (65536 * miss.headD 0)).toOption.isNone))

/-- The result of a walk in the way of each access (R271). -/
def walkDone (s : State) (q : Req) : State :=
  match findReq s q.id with
  | none => s
  | some q => if q.kind = .landing then resolveLanding s q else resolveReq s q .write

/-- WALK_COMPLETE (R270): the walks of an access, or of one miss, have finished, and every miss that joined them has their results. A posted
access whose pages other walks have found in the meantime goes on. -/
def execWalkComplete (id : Nat) (s : State) : Out :=
  let ks := walksNamed s id
  .next (
    if !ks.all (walkBegun s) then s
    else
      let posted := s.reqs.filter fun q => fateKnown s ks q || (q.id == id && q.st == .walking && !expired s q)
      posted.foldl walkDone (ks.foldl walkEnds s))

/-! Accesses at their homes (R248, R317, R322, R344). -/

/-- An access on its way, within its bound (R312, R336), whose turn has come. -/
def ready (s : State) (q : Req) : Bool := q.st == .sent && mayPerform s q && reachable s q && !expired s q

/-- A copy granule on its way to a global destination, within its bound, whose turn has come. -/
def granuleReady (s : State) (q : Req) : Bool :=
  q.st == .sent && !q.segs.isEmpty && granuleTurn s q && stampOk s q && reachable s q && !expired s q

/-- VAULT_ACCESS (R248): a plain access at its vault, or at a peer's (R348). A physical address in a reserved region exists
nowhere (R264). -/
def execVaultAccess (id : Nat) (s : State) : Out :=
  match findReq s id with
  | none => .next s
  | some q =>
    if regionOf (firstPa q) = .reserved then .fault (.reservedPhysical (firstPa q))
    else .next (
      if regionOf (firstPa q) = .host || crossDie q then s
      else
        match q.kind with
        | .load | .store | .landing | .headLoad | .headStore => if ready s q then performPlain s q else s
        | .granule =>
          if q.red.isNone && granuleReady s q then granulePerform s q else s
        | _ => s)

/-- CROSS_DIE_WRITE (R322, R323): applied once every write that its stamp names has been applied. -/
def execCrossDieWrite (id : Nat) (s : State) : Out :=
  .next (match findReq s id with
    | some q =>
      if crossDie q && (q.kind == .store || q.kind == .headStore) && ready s q && stampOk s q then performPlain s q else s
    | none => s)

/-- Has the operation 64 before one been acknowledged, so that its source may have issued it (R311)? -/
def seqTurn (s : State) (q : Req) : Bool := portFree s (coreIx q.row q.col) q.port q.seq

/-- REDUCTION_APPLY (R312): at a reduction unit, once, or acknowledged again; one whose bound has run out is discarded. -/
def execReductionApply (id : Nat) (s : State) : Out :=
  .next (match findReq s id with
    | some q =>
      match q.kind with
      | .amo | .cas | .red =>
        if q.st == .performed then (if (unitSeen s q).isSome && !expired s q then applyAtom s q else s)
        else if ready s q && stampOk s q && seqTurn s q then applyAtom s q
        else s
      | .granule =>
        match q.red with
        | some (op, fmt) =>
          if !q.segs.isEmpty then (if granuleReady s q then applyCredGlobal s q op fmt else s)
          else if q.st != .sent || !reachable s q || expired s q then s
          else if coreBusy s q.dstCore then holdGranule s q
          else if !granuleTurn s q || !stampOk s q then s
          else applyCredPool s q op fmt
        | none => s
      | _ => s
    | none => s)

/-- DEVICE_HOST_WRITE (R344, R328): a write to a host window is handed to the port; PUBLISH increments its counter there (R137). -/
def execDeviceHostWrite (id : Nat) (s : State) : Out :=
  .next (match findReq s id with
    | some q =>
      if regionOf (firstPa q) != .host then s
      else
        match q.kind with
        | .store | .headStore => if ready s q then performPlain s q else s
        | .granule =>
          if q.red.isNone && granuleReady s q then granulePerform s q else s
        | .publish =>
          if ready s q then
            let pa := bytePa s q 0
            noteWrite (answerReq (physWrN s none pa 8 (physRdN s none pa 8 + 1)) { q with st := .performed }) q
          else s
        | _ => s
    | none => s)

/-- DEVICE_HOST_READ (R344): a device read of a host window; beyond 256 outstanding reads a younger one waits. -/
def execDeviceHostRead (id : Nat) (s : State) : Out :=
  .next (match findReq s id with
    | some q =>
      if regionOf (firstPa q) != .host then s
      else
        match q.kind with
        | .load | .landing | .headLoad =>
          let before := hostReadsBefore s (firstPa q / 2 ^ 30 % 4) q.since (olderReqs s id)
          if ready s q && before < 256 then performPlain s q else s
        | _ => s
    | none => s)

/-! Releases (R324). -/

/-- The older writes of a release's strand at its core that are not performed. -/
def olderWrites (s : State) (q : Req) : List Req :=
  (olderReqs s q.id).filter fun p => sameObserver p q && isWriteKind p.kind && !reqDone p && !setAside s q.handler p

/-- Groups that a release probes: those of the touched mask (Memory Ordering, Holding a release). -/
def probeGroups (s : State) (q : Req) : List Nat :=
  if q.col < 16 then (upTo 64).filter fun g => (getLane s q.row q.col q.strand).touched.getLsbD g else []

/-- RELEASE_PROBE (R324): a held release sends its probes, or its fence markers after a retrain or route change; the mask is
cleared. -/
def execReleaseProbe (id : Nat) (s : State) : Out :=
  .next (match findReq s id with
    | some q =>
      if q.st != .held || (olderWrites s q).any (fun p => p.st == .walking || p.st == .held) then s
      else
        let gs := probeGroups s q
        let s := if q.col < 16 then modLane s q.row q.col q.strand fun l => { l with touched := 0 } else s
        let (s, pkts) := gs.foldl (fun (s, t) g =>
          let (s, p) := newPkt s (srcCode q)
          (s, tput t g p)) (s, ([] : Tbl Pkt))
        pushReleases (putReq s { q with st := .probing gs, since := s.now, probes := pkts })
    | none => s)

/-- PROBE_ANSWER (R324): a group answers once every earlier write of the strand at the core to it has been performed; markers
are answered when every earlier write is. A probe or marker that was dropped has no answer (R334), nor has one after its bound. -/
def execProbeAnswer (id group : Nat) (s : State) : Out :=
  .next (match findReq s id with
    | some q =>
      match q.st with
      | .probing gs =>
        if (tget q.probes group Pkt.new).lost || !routeOpen s (srcCode q) (groupRouter group) || expired s q ||
          (olderWrites s q).any fun p => s.markers || isIn group (groupsOf p.segs) then s
        else pushReleases (putReq s { q with st := .probing (gs.filter (· != group)) })
      | _ => s
    | none => s)

/-! Expired bounds (R336, R337, R368). -/

/-- KIND of DELIVERY (R368). -/
def deliveryKind (q : Req) : Nat :=
  match q.st with
  | .probing _ => 4
  | _ =>
    match q.kind with
    | .load | .landing => 0
    | .store => 1
    | .amo | .cas | .red => 2
    | .granule => 3
    | .headLoad | .headStore | .publish => 5

/-- TVAL of DELIVERY (R368). The ADDR of a copy granule bound for a pool, whose destination has no virtual address, is 0. DESIGN
CHOICE, log 75. -/
def deliveryTval (q : Req) : Word :=
  let addr := match q.st with
    | .probing _ => 0
    | _ => if q.kind = .granule && q.segs.isEmpty then 0 else q.va.toNat % 2 ^ 48
  BitVec.ofNat 64 (addr + 2 ^ 48 * (if q.st = .lost || q.probes.any (·.2.lost) then 1 else 2) + 2 ^ 52 * deliveryKind q)

/-- A committing instruction whose operation of a column expires before acceptance ends unaccepted (R367, R372). -/
def abortCommit (q : Req) (h : Head) : Head :=
  match h.commit with
  | some k => if isIn q.col k.left && tget k.ops q.col [] == [q.id] then { h with commit := none, why := 0 } else h
  | none => h

/-- Does a held release wait for the acknowledgement of a write (R324)? -/
def releaseNeeds (p q : Req) : Bool :=
  p.rel && q.id < p.id && sameObserver p q && isWriteKind q.kind && (match p.st with
    | .walking | .held | .probing _ => true
    | _ => false) &&
  (p.scope == .sys || q.segs.isEmpty || q.segs.any fun u => regionOf u.1 == .cellar)

/-- The head no longer waits for a load or a PUBLISH that has ended without its answer. -/
def endWait (q : Req) (h : Head) : Head :=
  if h.wait = .load q.id || h.wait = .publish q.id then { h with wait := .no } else h

/-- A write's acknowledgement has missed its bound: the releases that wait for it fail, a PUBLISH among them, their own writes are not
performed (R324); the one DELIVERY is that of the write. -/
def failReleases (s : State) (q : Req) : State :=
  let failed := s.reqs.filter fun p => releaseNeeds p q
  failed.foldl (fun s p => modHead (dropReq s p.id) p.row p.strand fun h => endWait p (abortCommit p h)) s

/-- DELIVERY of a request to its requester (R337). The ring bytes reserved for a copy granule stay unwritten, so that their stage
never completes. DESIGN CHOICE: R231 says no more of them, log 74. -/
def deliver (s : State) (q : Req) : State :=
  let tval := deliveryTval q
  let s := failReleases s q
  let s := if q.kind = .granule then granuleAck s q else dropReq s q.id
  let s := pushReleases s
  if !ownerAlive s q then s
  else if 16 ≤ q.col then
    addHeadEvent (modHead s q.row q.strand (endWait q)) q .delivery tval
  else
    addEvent (modHead s q.row q.strand (abortCommit q)) q.row q.col q.strand ⟨.delivery, tval, q.handler, none⟩

/-- DELIVERY of a posted HPUT (R223, R337). Its row has not been written. DESIGN CHOICE: R223 allows the whole row or none, log 80. -/
def hputExpires (s : State) (id : Nat) : State :=
  match s.cores.find? fun p => p.2.hputs.any fun h => h.id == id with
  | none => s
  | some (core, k) =>
    match k.hputs.find? fun h => h.id == id with
    | none => s
    | some h =>
      if s.now < h.issued + 4000 then s
      else
        let s := modCore s core fun k =>
          { k with hputs := k.hputs.filter fun h => h.id != id, opens := k.opens.filter (· != .put id) }
        let r := core / 16
        if (getHead s r h.slot).task.isNone then s
        else addEvent s r (core % 16) h.slot
          ⟨.delivery, lateTval h.va.toNat 3 false, h.handler, none⟩

/-- DELIVERY of a join or prune whose acknowledgement has missed its bound (R236, R337). -/
def joinExpires (s : State) (id : Nat) : State :=
  match s.joins.find? fun j => j.id == id with
  | none => s
  | some j =>
    if s.now < j.since + 4000 then s
    else
      let s := { s with joins := s.joins.filter fun k => k.id != id }
      let r := j.core / 16
      if (getHead s r j.slot).task.isNone then s
      else addEvent s r (j.core % 16) j.slot ⟨.delivery, lateTval 0 3 j.pkt.lost, j.handler, none⟩

/-- Does a strand wait for what a message is to bring: a TILEGET's request, an arrival and its completion, a token (R136, R141, R143)? -/
def awaitsMsg (h : Head) (id : Nat) : Msg → Bool
  | .tile _ _ _ _ _ _ => h.wait == .tile id
  | .token _ _ _ _ _ _ => h.wait == .send id
  | .arrive _ g _ _ _ _ _ | .done _ g _ _ _ _ =>
    match h.wait with
    | .group n _ => n == g
    | _ => false
  | .lower _ _ _ => false

/-- The row and slot of the strand that a message belongs to, and its task; none where its task is not placed. -/
def msgOwner (s : State) : Msg → Option (Nat × Nat)
  | .tile _ r sl _ _ _ => some (r, sl)
  | .token _ r sl _ _ _ => some (r, sl)
  | .arrive p _ task _ _ _ _ | .done p _ task _ _ _ | .lower p _ task =>
    match (getPart s p).job with
    | none => none
    | some j =>
      let (r, sl, here) := taskPlace s p j task
      if here && (getHead s r sl).task == some task then some (r, sl) else none

/-- Does a message concern a task that waits for its group while its team is swapped (R370)? -/
def msgAway (s : State) : Msg → Bool
  | .arrive p _ task _ _ _ _ | .done p _ task _ _ _ =>
    match (getPart s p).job with
    | none => false
    | some j => !(taskPlace s p j task).2.2 && !(j.ended.any fun e => e.1 == task)
  | _ => false

/-- The end of a message that has missed its bound (R336, R337, R368): DELIVERY at the head of the strand whose instruction it belongs to, which
waits no more; for a swapped strand once it is back. -/
def msgExpires (s : State) (id : Nat) : State :=
  match s.msgs.find? fun m => m.1 == id with
  | none => s
  | some (_, m) =>
    if !msgLate s id || msgHeld s id m || msgAway s m then s
    else
      let tval := lateTval 0 5 (tget s.msgPkt id Pkt.new).lost
      let t := dropMsg s id
      match msgOwner s m with
      | none => t
      | some (r, sl) =>
        let h := getHead s r sl
        let told := { h with events := h.events ++ [(.delivery, tval, h.handler)] }
        if awaitsMsg h id m then setHead t r sl { told with wait := .no, why := 0 }
        else
          match m with
          | .lower _ _ _ => setHead t r sl told
          | _ => t

/-- DELIVERY for a miss whose bound runs out while it waits for its walk (R270, R337, R368). -/
def walkExpires (s : State) (id : Nat) : State :=
  match s.walks.find? fun w => w.id == id && w.done.isNone && !w.gone with
  | none => s
  | some w =>
    if s.now < w.since + 4000 then s
    else
      let s := { s with walks := s.walks.filter fun v => v.place != w.place || v.gone }
      let tval := lateTval w.va.toNat w.kind false
      match w.place with
      | .core r c sl => addEvent s r c sl ⟨.delivery, tval, w.handler, none⟩
      | .head r sl | .fetch r sl => modHead s r sl fun h => { h with events := h.events ++ [(.delivery, tval, w.handler)] }
      | .copy _ _ _ n =>
        match frontCopy s n with
        | some (core, c) => copyLost s core c.chan c w.va false
        | none => s

/-- DELIVERY_BOUND_EXPIRY (R337): of a request, or of an HPUT, a copy's source read, a join or prune, a message, a miss. -/
def execDeliveryBoundExpiry (id : Nat) (s : State) : Out :=
  .next (match findReq s id with
    | some q => if expired s q then deliver s q else s
    | none => walkExpires (msgExpires (joinExpires (sourceExpires (hputExpires s id) id) id) id) id)

end Sys2Proof.Machine
end

