-- ==== Sys2Proof/Machine/Hatch.lean ====
section
/-! DEFINITION. The events of the Hatch and the vault (R220, R222, R223, R249 to R255, R259) and of the engines of a core (R211,
R215, R303 to R308). -/

namespace Sys2Proof.Machine

/-! Opens (R220, R249). -/

/-- Is a row powered, so that its engines and vaults serve (R389)? -/
def powered (s : State) (r : Nat) : Bool := (getRow s r).cur != .off

/-- The bank of an open that waits. -/
def openBank (k : Core) : OpenReq → Option Nat
  | .slot n => k.hatch.toList[n]?.map fun h => bankOf h.row
  | .put id => (k.hputs.find? fun p => p.id == id).map fun p => bankOf p.row

/-- May an open of a bank be accepted in a row cycle: 72 cycles after the last one of its bank, 36 after the fourth before it,
and not while its bank is under refresh (R220)? -/
def openAllowed (k : Core) (bank now : Nat) : Bool :=
  (k.accepts.all fun p => p.1 != bank || p.2 + 72 ≤ now) &&
  (match k.accepts[3]? with
   | some p => p.2 + 36 ≤ now
   | none => true) &&
  (match k.refreshing with
   | some (b, _) => b != bank
   | none => true)

/-- The core once the oldest waiting open of a bank has been accepted in a row cycle. -/
def acceptOpen (o : OpenReq) (rest : List OpenReq) (bank now : Nat) (k : Core) : Core :=
  let k := { k with opens := rest, accepts := (bank, now) :: k.accepts.filter fun p => now < p.2 + 72 }
  match o with
  | .slot n => { k with hatch := k.hatch.setIfInBounds n { k.hatch.toList.getD n ⟨.free, 0, 0, none, none, false⟩ with accepted := some now } }
  | .put id => { k with hputs := k.hputs.map fun p => if p.id = id then { p with accepted := some now } else p }

/-- HATCH_OPEN_ACCEPT (R220): opens are accepted in the order in which they executed. -/
def execHatchOpenAccept (core : Nat) (s : State) : Out :=
  .next (
    let k := getCore s core
    let now := (getRow s (core / 16)).cycle
    match k.opens with
    | [] => s
    | o :: rest =>
      match openBank k o with
      | none => modCore s core fun k => { k with opens := rest }
      | some bank => if powered s (core / 16) && openAllowed k bank now then modCore s core (acceptOpen o rest bank now) else s)

/-- Has a slot been accepted at least n row cycles ago? -/
def openSince (h : HatchSlot) (n now : Nat) : Bool :=
  match h.accepted with
  | some t => t + n ≤ now
  | none => false

/-- HATCH_READY (R220): 24 cycles after acceptance. -/
def execHatchReady (core slot : Nat) (s : State) : Out :=
  .next (
    let k := getCore s core
    match k.hatch.toList[slot]? with
    | some h =>
      if h.st == .opening && openSince h 24 (getRow s (core / 16)).cycle then
        modCore s core fun k => { k with hatch := k.hatch.setIfInBounds slot { h with st := .ready } }
      else s
    | none => s)

/-- Has an HTAKE on a slot of a core passed its check there and not been accepted (R220)? -/
def htakeChecked (s : State) (core slot : Nat) : Bool :=
  (upTo 8).any fun sl =>
    match (getHead s (core / 16) sl).commit with
    | some k =>
      (match k.flight.instr with
       | .htake n _ => n.toNat == slot
       | _ => false) && core % 16 < k.flight.col && isIn (core % 16) k.left
    | none => false

/-- HATCH_FORCED_CLOSE (R220, R250): 14,000 cycles after acceptance, once no transfer and no checked HTAKE holds the slot. -/
def execHatchForcedClose (core slot : Nat) (s : State) : Out :=
  .next (
    let k := getCore s core
    match k.hatch.toList[slot]? with
    | some h =>
      if slotHolds h && openSince h 14000 (getRow s (core / 16)).cycle && !htakeChecked s core slot &&
          !(k.transfers.any fun t => t.hatch == slot && t.row == h.row) then
        modCore s core fun k => { k with hatch := k.hatch.setIfInBounds slot { h with st := .closed } }
      else s
    | none => s)

/-! Transfers (R222, R253, R255, R260 to R262). -/

/-- Write one granule of an HTAKE transfer, as it was read at the start, into its ring (R222, R261). -/
def htakeGranule (t : Transfer) (data : Nat × List Nat) (g : Ring) (k : Core) (i : Nat) : Core :=
  let x := t.at_ + 64 * i
  if isIn i data.2 then ringSpoil k g x 64 else ringPut k g x 64 (data.1 / 2 ^ (512 * i) % 2 ^ 512)

/-- The transfer behind one that has ended starts: it reads its row (R222, R249). -/
def nextTransfer (s : State) (now : Nat) : List Transfer → List Transfer
  | [] => []
  | u :: rest => { u with since := max u.since now, data := some (rowNow s u.row u.key) } :: rest

/-- A slot that HSHUT has freed becomes FREE once no transfer of its row is left (R224, R250). -/
def closeShut (k : Core) : Core :=
  let shut (n : Nat) (h : HatchSlot) : Bool := h.shut && !slotMoving k n h
  { k with
    hatch := k.hatch.mapFinIdx fun i h _ => if shut i h then ⟨.free, 0, 0, none, none, false⟩ else h,
    opens := k.opens.filter fun
      | .slot n => !(k.hatch.toList[n]?.any (shut n))
      | .put _ => true }

/-- HTAKE_TRANSFER (R253): the first accepted transfer of the core, whose row was read at one instant as it started, has written it
into its ring; one transfer at a time, 4 cycles each (R249). -/
def execHtakeTransfer (core : Nat) (s : State) : Out :=
  .next (
    let r := core / 16
    let k := getCore s core
    match k.transfers with
    | [] => s
    | t :: rest =>
      if !powered s r || (getRow s r).cycle < t.since + 4 then s
      else
        let g := ringOf (getLane s r (core % 16) t.strand) t.ring
        let data := t.data.getD (rowNow s t.row t.key)
        let s := modCore s core fun k => (upTo 32).foldl (htakeGranule t data g) k
        let s := modLane s r (core % 16) t.strand fun l => setRing l t.ring ((ringOf l t.ring).wrote t.at_ 2048)
        let now := (getRow s r).cycle
        modCore s core fun k => closeShut { k with transfers := nextTransfer s now rest })

/-- HPUT_COMPLETE (R223, R255): 36 cycles after its open was accepted, in the order of acceptance, and within the bound of its
acknowledgement (R336). -/
def execHputComplete (core : Nat) (s : State) : Out :=
  .next (
    let k := getCore s core
    match k.hputs with
    | [] => s
    | p :: rest =>
      match p.accepted with
      | some t =>
        if !powered s (core / 16) || (getRow s (core / 16)).cycle < t + 36 || p.issued + 4000 ≤ s.now then s
        else modCore (hputWrite core s p) core fun k => { k with hputs := rest }
      | none => s)

/-! Refresh and errors (R251, R259). -/

/-- REFRESH_START (R251): a bank passed over goes first once its row is closed; else the next bank of the rotation, every 1,700
cycles, passed over while a slot holds it. -/
def execRefreshStart (vault : Nat) (s : State) : Out :=
  .next (
    let k := getCore s vault
    let now := (getRow s (vault / 16)).cycle
    if k.refreshing.isSome then s
    else
      match k.refreshDue.find? fun b => !bankHeld k none b with
      | some b => modCore s vault fun k => { k with refreshDue := k.refreshDue.filter (· != b), refreshing := some (b, now) }
      | none =>
        if now < k.refreshLast + 1700 then s
        else
          let b := k.refreshNext
          let k := { k with refreshNext := (b + 1) % 64, refreshLast := k.refreshLast + 1700 }
          modCore s vault fun _ =>
            if bankHeld k none b then { k with refreshDue := if isIn b k.refreshDue then k.refreshDue else k.refreshDue ++ [b] }
            else { k with refreshing := some (b, now) })

/-- REFRESH_END (R251): after 180 cycles. -/
def execRefreshEnd (vault : Nat) (s : State) : Out :=
  .next (
    match (getCore s vault).refreshing with
    | some (_, t) =>
      if (getRow s (vault / 16)).cycle < t + 180 then s else modCore s vault fun k => { k with refreshing := none }
    | none => s)

/-- SCRUB (R259): the error that the controller meets in a Cellar granule on a read or a scrub: corrected and counted, or the
granule is poisoned. -/
def execScrub (granule : Nat) (corrected : Bool) (s : State) : Out :=
  .next (
    if regionOf (64 * granule) != .cellar then s
    else if corrected then modCore s (vaultOf (64 * granule)) fun k => { k with errors := k.errors + 1 }
    else physPoison s [granule])

/-! The engines of a core (R211, R215, R303 to R308). -/

/-- PRESS_STEP_START (R211). -/
def execPressStepStart (core : Nat) (s : State) : Out := .next (pressStart s core)

/-- PRESS_STEP_RETIRE (R211). -/
def execPressStepRetire (core : Nat) (s : State) : Out := .next (pressRetire s core)

/-- MDRAIN_READ (R215). -/
def execMdrainRead (core slot : Nat) (s : State) : Out :=
  .next (if slot < 8 && powered s (core / 16) then mdrainRead s core slot else s)

/-- COPY_INJECT (R303): the channel whose turn it is; a halted row injects nothing (R380). -/
def execCopyInject (core ch : Nat) (s : State) : Out :=
  .next (if rowGoing (getRow s (core / 16)) && nextChan s core == some ch then copyInject s core ch else s)

/-- COPY_DELIVER (R304). -/
def execCopyDeliver (id : Nat) (s : State) : Out :=
  .next (match findReq s id with
    | some q => if q.kind == .granule && q.st == .sent then copyDeliver s q else s
    | none => s)

/-- MULTICAST_REPLICATE (R307). -/
def execMulticastReplicate (id : Nat) (s : State) : Out :=
  .next (match findReq s id with
    | some q => if q.kind == .granule && q.st == .sent then replicate s q else s
    | none => s)

/-- MULTICAST_JOIN (R307). -/
def execMulticastJoin (core tag : Nat) (s : State) : Out := .next (joinDone s core (BitVec.ofNat 16 tag))

/-- MULTICAST_PRUNE (R307). -/
def execMulticastPrune (core tag : Nat) (s : State) : Out := .next (pruneDone s core (BitVec.ofNat 16 tag))

end Sys2Proof.Machine
end

