-- ==== Sys2Proof/Machine/Links.lean ====
section
/-! DEFINITION. Routers, bridges, Gararo links and peers at work (R331 to R335, R346 to R348, R351, R383). -/

namespace Sys2Proof.Machine

/-! Links and their errors (R334, R335, R346). -/

/-- Change a Gararo link's registers. -/
def modLink (s : State) (l : Nat) (f : Link → Link) : State := { s with links := tput s.links l (f (getLink s l)) }

/-- The errors of the last second (R334). -/
def recentErrors (now : Nat) (l : List Nat) : List Nat := l.filter fun t => now < t + 1000000000

/-- A link with one more corrected or uncorrectable error: retired beyond 16 uncorrectable or 4,096 corrected ones within one
second (R334). -/
def meshCount (m : MeshLink) (now : Nat) (bad : Bool) : MeshLink :=
  let corr := recentErrors now m.corr
  let uncor := recentErrors now m.uncor
  let m := if bad then { m with corr := corr, uncor := now :: uncor } else { m with corr := now :: corr, uncor := uncor }
  { m with retired := m.retired || decide (16 < m.uncor.length) || decide (4096 < m.corr.length) }

/-- The registers of a Gararo link after a header error: counts since reset, saturating (R351). -/
def linkCount (l : Link) (bad : Bool) : Link :=
  if bad then { l with uncor := min (l.uncor + 1) (2 ^ 16 - 1) } else { l with corr := min (l.corr + 1) (2 ^ 24 - 1) }

/-- Is a packet inside a link? -/
def insideLink (c : Chan) (p : Pkt) : Bool := p.inside.any fun d => linkOf d == linkOf c

/-- A packet that is inside a link is lost with it. -/
def loseIn (c : Chan) (p : Pkt) : Pkt := if insideLink c p then { p with lost := true } else p

/-- The source reads of copies on their way, changed. -/
def modAsks (s : State) (f : Pkt → Pkt) : State :=
  let g (c : Copy) : Copy := { c with ask := c.ask.map fun a => (a.1, f a.2) }
  if s.cores.any fun k => k.2.chans.toList.any fun l => l.any (·.ask.isSome) then
    { s with cores := s.cores.map fun k => (k.1, { k.2 with chans := k.2.chans.map fun l => l.map g }) }
  else s

/-- The packets inside a link that has gone are lost (R334, R347): of requests and their answers, probes and markers, joins and prunes,
messages, and source reads of copies. -/
def loseInside (s : State) (c : Chan) : State :=
  modAsks { s with
    reqs := s.reqs.map fun q =>
      match q.st with
      | .probing _ => { q with probes := q.probes.map fun p => (p.1, loseIn c p.2) }
      | _ => if insideLink c (packetOf q) then { q with st := .lost } else q
    joins := s.joins.map fun j => { j with pkt := loseIn c j.pkt }
    msgPkt := s.msgPkt.map fun p => (p.1, loseIn c p.2) } (loseIn c)

/-- A link is retired: a Gararo link says so in its state; traffic goes another way, releases use fence markers (R334, R347). -/
def retireLink (s : State) (c : Chan) : State :=
  let s := loseInside { setMesh s c { getMesh s c with retired := true } with markers := true } c
  match c with
  | .gararo l => modLink s l fun x => { x with st := .retired }
  | _ => s

/-- A header error on a link (R334): counted, and the link retired beyond its limits. -/
def headerError (s : State) (c : Chan) (bad : Bool) : State :=
  let m := meshCount (getMesh s c) s.now bad
  let s := setMesh s c m
  let s := match c with
    | .gararo l => modLink s l fun x => linkCount x bad
    | _ => s
  if m.retired then retireLink s c else s

/-! Packets on their way (R332, R334). -/

/-- Is it the link that the packet of a request, or of its answer, crosses next: that of its way, or, to a peer, an UP link whose
switch reports a route (R332, R347)? -/
def onPath (s : State) (q : Req) (c : Chan) : Bool :=
  match q.st with
  | .sent | .performed | .failed _ _ =>
    match c with
    | .gararo l => regionOf (firstPa q) == .peer && (getLink s l).st == .up && !isIn (l, peerOf (firstPa q)) s.noRoute
    | _ => (nextHop s q).any (·.1 == c)
  | _ => false

/-- A packet crosses a link, or is dropped there (R334). -/
def hopPkt (c : Chan) (lost : Bool) (p : Pkt) : Pkt :=
  if lost then { p with lost := true } else { p with inside := some c, hops := p.hops + 1 }

/-- Can a packet cross a link next on its trips? -/
def crosses (s : State) (trips : List Nat) (p : Pkt) (c : Chan) : Bool := !p.lost && (hopOf s trips p.hops).any (·.1 == c)

/-- The packet of a request, or of its answer, crosses a link or is dropped there: the request is then lost. -/
def hopReq (q : Req) (c : Chan) (lost : Bool) : Req :=
  if lost then { q with st := .lost }
  else if packetClass q == 1 then { q with back := hopPkt c false q.back }
  else { q with out := hopPkt c false q.out }

/-- A probe or marker of a release crosses a link: that of the lowest group whose way goes over it next. -/
def moveProbe (s : State) (q : Req) (groups : List Nat) (c : Chan) (lost : Bool) : State :=
  match groups.find? fun g => crosses s (probeTrip q g) (tget q.probes g Pkt.new) c with
  | some g => putReq s { q with probes := tput q.probes g (hopPkt c lost (tget q.probes g Pkt.new)) }
  | none => s

/-- The same for a request, its answer, its probes. -/
def moveReq (s : State) (q : Req) (c : Chan) (lost : Bool) : State :=
  match q.st with
  | .probing groups => moveProbe s q groups c lost
  | _ => if onPath s q c then putReq s (hopReq q c lost) else s

/-- The same for a join or prune. -/
def moveJoin (s : State) (id : Nat) (c : Chan) (lost : Bool) : State :=
  { s with joins := s.joins.map fun j =>
      if j.id == id && crosses s (joinTrip s j) j.pkt c then { j with pkt := hopPkt c lost j.pkt } else j }

/-- The same for a message. -/
def moveMsg (s : State) (id : Nat) (c : Chan) (lost : Bool) : State :=
  match s.msgs.find? fun m => m.1 == id with
  | none => s
  | some (_, m) =>
    let p := tget s.msgPkt id Pkt.new
    if !hasReached s id && crosses s (msgTrip s id m) p c then { s with msgPkt := tput s.msgPkt id (hopPkt c lost p) } else s

/-- The same for the read of the next source granule of a copy at the front of its channel, which leaves with it (R344). -/
def moveAsk (s : State) (id : Nat) (c : Chan) (lost : Bool) : State :=
  match frontCopy s id with
  | none => s
  | some (core, k) =>
    if (sourceHome s core k).isNone || copyHeld s k then s
    else
      let s' := if k.ask.isSome then s else askSource s core k
      match (frontCopy s' id).bind (·.2.ask) with
      | none => s
      | some (t, p) =>
        let gararo (l : Nat) : Bool := (sourceAway s core k).any fun pa =>
          regionOf pa == .peer && (getLink s l).st == .up && !isIn (l, peerOf pa) s.noRoute
        let next := match c with
          | .gararo l => !p.lost && gararo l
          | _ => crosses s (askTrip s core k p.num) p c
        if next then modCopy s' core id fun k => { k with ask := some (t, hopPkt c lost p) } else s

/-- A flit has crossed a link: the next one at its head has failed no replay. -/
def replayDone (s : State) (c : Chan) : State :=
  match c with
  | .gararo l => if (getLink s l).replays = 0 then s else modLink s l fun x => { x with replays := 0 }
  | _ => if (getMesh s c).replays = 0 then s else setMesh s c { getMesh s c with replays := 0 }

/-- The packet with an identifier crosses a link, or is dropped there, where the link is the next one on its way. -/
def movePacket (s : State) (id : Nat) (c : Chan) (lost : Bool) : State :=
  match findReq s id with
  | some q => moveReq s q c lost
  | none => moveAsk (moveMsg (moveJoin s id c lost) id c lost) id c lost

/-- ROUTER_HOP (R332, R334): a packet goes on, with its header corrected, or is dropped, be it a request or its answer, a probe or marker,
a join or prune, a message, or the source read of a copy: the sender's bound then expires (R313, R337). DESIGN CHOICE: hops that the
schedule does not name are part of the event at the packet's goal, log 76. -/
def execRouterHop (id : Nat) (fate : HopFate) (s : State) : Out :=
  .next (match fate with
    | .forward c => movePacket (replayDone s c) id c false
    | .corrected c => movePacket (headerError s c false) id c false
    | .dropped c => headerError (movePacket s id c true) c true)

/-- LINK_REPLAY (R335, R346): the flit at the head of a bridge or Gararo link has failed its CRC and is sent again from the buffer, its
duplicate being removed by SEQ; after 8 replays the link retrains. A mesh link has no replay buffer. -/
def execLinkReplay (c : Chan) (s : State) : Out :=
  .next (match c with
    | .gararo l =>
      let x := getLink s l
      if x.st != .up then s
      else if x.replays < 8 then modLink s l fun x => { x with replays := x.replays + 1 }
      else modLink s l fun x => { x with st := .train }
    | .bridge _ _ =>
      let m := getMesh s c
      if m.train || m.retired then s
      else if m.replays < 8 then setMesh s c { m with replays := m.replays + 1 }
      else setMesh s c { m with train := true }
    | .mesh _ _ _ _ => s)

/-- LINK_RETRAIN (R335, R346): a link that failed 8 replays has finished its retrain, which is counted; one that fails it is taken down, a
bridge retired, and what is inside it is lost; releases use fence markers from then on. -/
def execLinkRetrain (c : Chan) (ok : Bool) (s : State) : Out :=
  .next (match c with
    | .gararo l =>
      if (getLink s l).st == .train && 8 ≤ (getLink s l).replays then
        let s := modLink { s with markers := true } l fun x =>
          { x with trains := min (x.trains + 1) (2 ^ 16 - 1), st := if ok then .up else .down, replays := 0 }
        if ok then s else loseInside s c
      else s
    | .bridge _ _ =>
      let m := getMesh s c
      if !m.train then s
      else
        let s := { setMesh s c { m with train := false, replays := 0 } with markers := true }
        if ok then s else retireLink s c
    | .mesh _ _ _ _ => s)

/-- LINK_UP (R346, R351): a link that LINKl.EN has set to train is UP. -/
def execLinkUp (link : Nat) (s : State) : Out :=
  .next (if link < 12 && (getLink s link).st == .train && (getLink s link).replays < 8 && (getLink s link).en then
    modLink s link fun l => { l with st := .up } else s)

/-- ROUTE_CHANGE (R347): a link's switch reports a route to a peer, or none; releases use fence markers from then on. -/
def execRouteChange (report : RouteReport) (s : State) : Out :=
  let route := (report.link, report.peer)
  .next { s with markers := true,
                 noRoute := if report.up then s.noRoute.filter (· != route)
                   else if isIn route s.noRoute then s.noRoute else s.noRoute ++ [route] }

/-! Inbound requests (R348, R351). -/

/-- Does every vault of a range belong to a partition? -/
def rangeInPart (s : State) (p pa size : Nat) : Bool :=
  let x := getPart s p
  let inside (a : Nat) : Bool := x.first ≤ vaultOf a / 16 && vaultOf a / 16 < x.first + partRows x
  x.en && inside pa && inside (pa + size - 1)

/-- Does an import entry admit a request (R351)? -/
def importAdmits (s : State) (i : Import) (peer pa size : Nat) (r w : Bool) : Bool :=
  i.v && i.peer == peer && (!r || i.r) && (!w || i.w) && i.base ≤ pa / 2 ^ 21 && (pa + size - 1) / 2 ^ 21 ≤ i.limit &&
  rangeInPart s i.part pa size

/-- Does a table, or one below it, map a page of a range by an ENC leaf (R265, R266)? Fuel is the number of levels left. -/
def tableEnc (s : State) (pa size : Nat) : Nat → Nat → Nat → Bool
  | 0, _, _ => false
  | n + 1, level, base =>
    let (lo, nb) := levelBits level
    (upTo (2 ^ nb)).any fun i =>
      let pte := memRdN s.mem (base + 8 * i) 8
      let addr := pte / 2 ^ 8 % 2 ^ 44 * 256
      pte % 2 == 1 && (if pte / 2 % 2 == 1 then pte / 2 ^ 6 % 2 == 1 && addr < pa + size && pa < addr + 2 ^ lo
        else tableEnc s pa size n (level + 1) addr)

/-- Does a range touch a frame of an ENC page: one that holds encrypted bytes, or that an ENC leaf of a registered context or of a TLB
maps (R348)? -/
def frameEnc (s : State) (pa size : Nat) : Bool :=
  let near (a : Nat) : Bool := a / 65536 == pa / 65536 || a / 65536 == (pa + size - 1) / 65536
  let leaf (e : TlbEntry) : Bool := e.attr.enc && e.frame < pa + size && pa < e.frame + e.size
  (s.memKeys.any fun p => near p.1) || (s.cores.any fun p => p.2.tlb.any leaf) || (s.rows.any fun p => p.2.itlb.any leaf) ||
  s.vfs.any fun v => v.2.croots.toList.any fun c => c.v && tableEnc s pa size 4 1 (c.root * 8192)

/-- The permissions that a peer request needs: R, W (R348, R267, R271). -/
def peerNeeds : PeerKind → Bool × Bool
  | .read => (true, false)
  | .write => (false, true)
  | .amo _ _ _ _ => (true, true)
  | .cas _ _ _ _ => (true, true)
  | .red _ _ _ _ => (false, true)
  | .cred _ _ _ _ _ _ => (false, true)

/-- Is an inbound peer request admitted (R348)? -/
def peerAdmitted (s : State) (peer pa size : Nat) (r w : Bool) : Bool :=
  1 ≤ size && size ≤ 128 && pa + size ≤ 2 ^ 38 && anyLinkUp s &&
  (s.imports.any fun i => importAdmits s i.2 peer pa size r w) && !frameEnc s pa size

/-- Does a write touch a poisoned granule that it does not cover whole (R262)? -/
def narrowBad (s : State) (pa size : Nat) : Bool :=
  let whole := wholeGranules pa size
  (granules pa size).any fun g => isIn g s.memPoison && !isIn g whole

/-- The write of a request that no page describes (R340, R348) at its vaults; a poisoned granule that it does not cover whole is left
as it is, and nothing is written (R262). -/
def peerWrite (s : State) (pa size : Nat) (data : Nat) : State :=
  if narrowBad s pa size then s
  else physHeal (physWrN s none pa size (data % 2 ^ (8 * size))) (wholeGranules pa size)

/-- An operation of a peer at its vault's reduction unit: applied once, or answered again (R312, R348). new: the bytes that it makes of the
old ones. -/
def peerAtom (s : State) (peer pa size : Nat) (src : Source) (seq : BitVec 16) (gen : BitVec 8) (new : Nat → Nat) : State :=
  let v := vaultOf pa
  match winFind (getCore s v).vaultWin src gen seq with
  | some old => { s with peerAnswer := some (.done peer (old.setWidth 1024)) }
  | none =>
    if (physBad s pa size).isSome then { s with peerAnswer := some (.poison peer) }
    else
      let old := physRdN s none pa size
      let s := modCore (physWrN s none pa size (new old)) v fun k =>
        { k with vaultWin := winEnter k.vaultWin src gen seq (BitVec.ofNat 64 old) }
      { s with peerAnswer := some (.done peer (if size ≤ 8 then BitVec.ofNat 1024 old else 0)) }

/-- An admitted peer request is performed at its vaults and answered (R348, R261, R262): AMO, CAS and RED of an aligned 4- or 8-byte
location, CRED of a 64-byte granule from its copy channel. -/
def peerPerform (s : State) (peer pa size : Nat) (kind : PeerKind) (data : Vec) : State :=
  let word := (size == 4 || size == 8) && pa % size == 0
  let b := data.toNat % 2 ^ (8 * size)
  let refused : State := { s with peerAnswer := some (.refused peer) }
  match kind with
  | .read =>
    if (physBad s pa size).isSome then { s with peerAnswer := some (.poison peer) }
    else { s with peerAnswer := some (.done peer (BitVec.ofNat 1024 (physRdN s none pa size))) }
  | .write =>
    if narrowBad s pa size then { s with peerAnswer := some (.poison peer) }
    else { peerWrite s pa size data.toNat with peerAnswer := some (.done peer 0) }
  | .amo op core seq gen | .red op core seq gen =>
    if word then peerAtom s peer pa size ⟨peer, core, 4⟩ seq gen fun old => amoNew op size old b else refused
  | .cas expect core seq gen =>
    if word then peerAtom s peer pa size ⟨peer, core, 4⟩ seq gen fun old =>
      if old = expect.toNat % 2 ^ (8 * size) then b else old
    else refused
  | .cred op fmt core chan seq gen =>
    if size == 64 && pa % 64 == 0 && chan < 4 then peerAtom s peer pa 64 ⟨peer, core, chan⟩ seq gen fun old => credCombine op fmt old b
    else refused

/-- The kind of an inbound request in a dump's record. DESIGN CHOICE: R383 gives no layout, log 82. -/
def peerCode : PeerKind → Nat
  | .read => 0 | .write => 1 | .amo _ _ _ _ => 2 | .cas _ _ _ _ => 3 | .red _ _ _ _ => 4 | .cred _ _ _ _ _ _ => 5

/-- PEER_REQUEST (R348): performed and answered where an import entry admits it, else refused. -/
def execPeerRequest (src : PeerSource) (pa size : Nat) (kind : PeerKind) (data : BitVec 1024) (s : State) : Out :=
  .next (
    let s := dumpRecord s src.link (peerCode kind) pa size data
    let (r, w) := peerNeeds kind
    if peerAdmitted s src.peer pa size r w then peerPerform s src.peer pa size kind data
    else { s with peerAnswer := some (.refused src.peer) })

end Sys2Proof.Machine
end

