-- ==== Sys2Proof/Machine/Launch.lean ====
section
/-! DEFINITION. Launch queues, the launch record and its checks, the launch tree, and the completion of a job (R273 to R278, R288,
R290, R292, R296, R297). -/

namespace Sys2Proof.Machine

/-! Reads and writes of the root through a context. -/

/-- Does a range of n bytes translate with given permissions, page by page? -/
def rangeOk (s : State) (vf ctx : Nat) (k : Acc) (va n : Nat) : Bool :=
  n = 0 || (upTo ((va % 65536 + n - 1) / 65536 + 1)).all fun i =>
    let a := if i = 0 then va else (va / 65536 + i) * 65536
    a < 2 ^ 64 && match xlate s [] vf ctx k (BitVec.ofNat 64 a) with
      | .ok _ => true
      | .error _ => false

/-- Does a range of n bytes touch a poisoned granule of the Cellar (R259)? -/
def rangeBad (s : State) (vf ctx va n : Nat) : Bool :=
  !s.memPoison.isEmpty && (granules va n).any fun g =>
    match xlate s [] vf ctx .read (BitVec.ofNat 64 (64 * g)) with
    | .ok (pa, _, _) => isIn (pa / 64) s.memPoison
    | .error _ => false

/-- Can the root read a range of n bytes: it translates with R permission and holds no poisoned granule? DESIGN CHOICE: the root's
read of a poisoned granule (R259) counts as a failed fetch, log 83. -/
def rootReads (s : State) (vf ctx va n : Nat) : Bool := rangeOk s vf ctx .read va n && !rangeBad s vf ctx va n

/-- The byte at a virtual address of a context, 0 where it does not translate. -/
def rootByte (s : State) (vf ctx va : Nat) : Nat :=
  match xlate s [] vf ctx .read (BitVec.ofNat 64 va) with
  | .ok (pa, a, _) => (physRd s (attrKey s a) (hostAt s vf pa)).toNat
  | .error _ => 0

/-- The 8-byte word at a virtual address of a context. -/
def rootWord (s : State) (vf ctx va : Nat) : Nat :=
  if va / 4096 = (va + 7) / 4096 then
    match xlate s [] vf ctx .read (BitVec.ofNat 64 va) with
    | .ok (pa, a, _) => physRdN s (attrKey s a) (hostAt s vf pa) 8
    | .error _ => 0
  else (upTo 8).foldr (fun i acc => rootByte s vf ctx (va + i) + 256 * acc) 0

/-! Launch queues (R273, R274). -/

/-- A launch queue of a function. -/
def getQueue (v : Vf) (q : Nat) : Queue := v.queues.toList.getD q Queue.reset

/-- Change a launch queue. -/
def modQueue (s : State) (vf q : Nat) (f : Queue → Queue) : State :=
  modVf s vf fun v => { v with queues := v.queues.setIfInBounds q (f (getQueue v q)) }

/-- An LQTAIL write (R274): the records up to the count are posted, or OVF is set. -/
def lqtailPut (s : State) (vf q : Nat) (v : Word) : State :=
  let n := v.toNat % 2 ^ 32
  modQueue s vf q fun x => if 2 ^ x.log < (n + 2 ^ 32 - x.head) % 2 ^ 32 then { x with ovf := true } else { x with tail := n }

/-- What a write of the host comes to: nothing where the device has not enumerated, since it then stands on no bus (R384, R393). -/
def hostAct (s t : State) : Out := .next (if s.enumerated then t else s)

/-- LQTAIL_WRITE (R274). -/
def execLqtailWrite (vf q : Nat) (v : BitVec 64) (s : State) : Out :=
  hostAct s (if 32 ≤ vf || 4 ≤ q then s else lqtailPut s vf q v)

/-! The launch record (R276). -/

/-- Field of a word of the record. -/
def recBits (w : List Word) (i lo n : Nat) : Nat := bits (w.getD i 0) lo n

/-- The launch record read from its sixteen words (R276). -/
def launchOf (w : List Word) : Launch :=
  { seqOk := recBits w 0 16 1 == 1, irq := recBits w 0 17 1 == 1, vec := recBits w 0 32 16, pc := w.getD 1 0, arg := w.getD 2 0,
    pword := w.getD 3 0, size := recBits w 4 0 25, gridx := recBits w 4 32 25, ctx := recBits w 5 0 8, cimg := w.getD 6 0,
    rimg := w.getD 7 0, gtab := w.getD 8 0, dtab := w.getD 9 0, mbox := w.getD 10 0, spillOff := recBits w 11 0 29,
    spillN := recBits w 11 32 8, done := w.getD 12 0, jobid := w.getD 13 0, slice := recBits w 14 0 17, vbase := w.getD 15 0 }

/-- Are the bits that R276 does not assign 0? -/
def reservedOk (w : List Word) : Bool :=
  recBits w 0 8 8 == 0 && recBits w 0 18 14 == 0 && recBits w 0 48 16 == 0 && recBits w 4 25 7 == 0 && recBits w 4 57 7 == 0 &&
  recBits w 5 8 56 == 0 && recBits w 11 29 3 == 0 && recBits w 11 40 24 == 0 && recBits w 14 17 47 == 0

/-- Is DONE 64-byte aligned, on a writable HOST page (R276, R277)? -/
def doneOk (s : State) (vf : Nat) (l : Launch) : Bool :=
  l.done.toNat % 64 == 0 &&
  match xlate s [] vf l.ctx .write l.done with
  | .ok (_, a, _) => a.host
  | .error _ => false

/-- Alignments, ranges and the MBOX rule of R276, for a partition of n rows. -/
def fieldsOk (l : Launch) (n : Nat) : Bool :=
  l.pc.toNat % 4 == 0 && l.pc.toNat / 2 ^ 48 == 0 && l.vec < 16 && 1 ≤ l.size && l.size ≤ 2 ^ 24 && 1 ≤ l.gridx && l.gridx ≤ 2 ^ 24 &&
  l.cimg.toNat % 64 == 0 && l.rimg.toNat % 64 == 0 && l.mbox.toNat % 128 == 0 && l.spillOff % 2048 == 0 &&
  (l.slice == 0 || (100 ≤ l.slice && l.slice ≤ 100000)) && l.vbase.toNat % 2 ^ 29 == 0 &&
  l.vbase.toNat + 2 ^ 29 * 16 * n ≤ 2 ^ 48 && (l.mbox != 0 || l.size ≤ n * strandCount l.pword)

/-- The partition-word checks (R45). -/
def partitionOk (pw : Word) : Bool :=
  bits pw 16 2 != 3 && tileCount pw ≤ 64 && bits pw 21 43 == 0 && strandCount pw * vregCount pw * 128 ≤ regBytes pw &&
  regBytes pw + 16384 * tileCount pw + 8192 ≤ 2097152

/-! The group table (R290). -/

/-- A group entry: number, range-list address, range count, reserved bits clear. -/
structure GroupEntry where
  num : Nat
  list : Nat
  count : Nat
  clean : Bool

/-- The valid entries of the group table. -/
def groupEntries (s : State) (vf : Nat) (l : Launch) : List GroupEntry :=
  if l.gtab = 0 then []
  else (upTo 256).filterMap fun g =>
    let w1 := rootWord s vf l.ctx (l.gtab.toNat + 16 * g + 8)
    if w1 / 2 ^ 63 = 1 then some ⟨g, rootWord s vf l.ctx (l.gtab.toNat + 16 * g), w1 % 65536, w1 / 65536 % 2 ^ 47 == 0⟩ else none

/-- The ranges of an entry: first task, last task, reserved bits clear. -/
def groupRanges (s : State) (vf : Nat) (l : Launch) (e : GroupEntry) : List (Nat × Nat × Bool) :=
  (upTo e.count).map fun i =>
    let w := rootWord s vf l.ctx (e.list + 8 * i)
    (w % 2 ^ 24, w / 2 ^ 24 % 2 ^ 24, w / 2 ^ 48 == 0)

/-- Are the ranges of an entry ascending and disjoint? -/
def rangesRise : List (Nat × Nat × Bool) → Bool
  | a :: b :: r => a.2.1 < b.1 && rangesRise (b :: r)
  | _ => true

/-- The checks of one entry (R290). -/
def entryOk (size : Nat) (e : GroupEntry) (rs : List (Nat × Nat × Bool)) : Bool :=
  e.clean && e.list % 8 == 0 && (rs.all fun r => r.1 ≤ r.2.1 && r.2.1 < size && r.2.2) && rangesRise rs

/-- The LAUNCH.GROUP check (R290): every entry, and no task in more than four. -/
def groupsOk (s : State) (vf : Nat) (l : Launch) : Bool :=
  let es := (groupEntries s vf l).map fun e => (e, groupRanges s vf l e)
  let holds (t : Nat) (rs : List (Nat × Nat × Bool)) : Bool := rs.any fun r => r.1 ≤ t && t ≤ r.2.1
  (es.all fun p => entryOk l.size p.1 p.2) &&
  es.all fun p => p.2.all fun r => es.countP (fun q => holds r.1 q.2) ≤ 4

/-- The groups of the job, with their members. -/
def groupsOfJob (s : State) (vf : Nat) (l : Launch) : Tbl Group :=
  (groupEntries s vf l).map fun e =>
    (e.num, ⟨(groupRanges s vf l e).flatMap fun r => (upTo (r.2.1 + 1 - r.1)).map (r.1 + ·), 0, []⟩)

/-! The dispenser table (R292). -/

/-- Does a partition hold rows of a die? -/
def holdsDie (x : Part) (die : Nat) : Bool := x.first < 8 * die + 8 && 8 * die < x.first + partRows x

/-- A valid descriptor: its dispenser, and whether it passes the checks. -/
def dispenserAt (s : State) (vf p : Nat) (l : Launch) (n : Nat) : Option (Dispenser × Bool) :=
  let w (i : Nat) : Nat := rootWord s vf l.ctx (l.dtab.toNat + 32 * n + 8 * i)
  if l.dtab = 0 || w 2 / 2 ^ 63 = 0 then none
  else
    let d : Dispenser :=
      { part := p, die := n / 16, num := n % 16, x0 := w 0 % 2 ^ 32, y0 := w 0 / 2 ^ 32, w := w 1 % 2 ^ 32, h := w 1 / 2 ^ 32,
        tw := w 2 % 65536, th := w 2 / 65536 % 65536, next := 0 }
    some (d, d.w != 0 && d.h != 0 && d.tw != 0 && d.th != 0 && w 2 / 2 ^ 32 % 2 ^ 31 == 0 && w 3 == 0)

/-- The descriptors of the dies that a partition holds. -/
def dispensersOf (s : State) (vf p : Nat) (l : Launch) : List (Dispenser × Bool) :=
  ((upTo 64).filter fun n => holdsDie (getPart s p) (n / 16)).filterMap (dispenserAt s vf p l)

/-! Validation (R277, R288). -/

/-- Do the images and tables of a launch translate (LAUNCH.FETCH, R277)? -/
def fetchOk (s : State) (vf n : Nat) (l : Launch) : Bool :=
  rootReads s vf l.ctx l.cimg.toNat 1792 &&
  (l.rimg == 0 || rootReads s vf l.ctx l.rimg.toNat (128 * n)) &&
  (l.gtab == 0 || (rootReads s vf l.ctx l.gtab.toNat 4096 &&
    (groupEntries s vf l).all fun e => rootReads s vf l.ctx e.list (8 * e.count))) &&
  (l.dtab == 0 || rootReads s vf l.ctx l.dtab.toNat 2048) &&
  (l.mbox == 0 || rangeOk s vf l.ctx .both l.mbox.toNat (128 * l.size))

/-- The largest number of teams in the range of a row of an n-row partition. -/
def mostTeams (l : Launch) (n : Nat) : Nat := (teamCount l + n - 1) / n

/-- LCODE of a launch record for a function and partition (R277); 0 passes. -/
def launchCode (s : State) (vf p : Nat) (w : List Word) : Nat :=
  let l := launchOf w
  let n := partRows (getPart s p)
  if recBits w 0 0 8 ≠ 1 then 1
  else if !((getVf s vf).croots.toList.getD l.ctx ⟨false, 0⟩).v then 2
  else if !(reservedOk w && fieldsOk l n && doneOk s vf l) then 3
  else if !partitionOk l.pword then 4
  else if !fetchOk s vf n l then 5
  else if !groupsOk s vf l then 6
  else if !((dispensersOf s vf p l).all fun d => d.2) then 7
  else if !l.seqOk && 1 + s.loftF + l.spillN < mostTeams l n then 8
  else 0

/-! Completion records (R275, R297). -/

/-- Raise an MSI-X vector of a function: its pending bit (R276, R340). -/
def raiseMsix (s : State) (vf vec : Nat) : State :=
  modVf s vf fun v => { v with msixPend := v.msixPend ||| BitVec.ofNat 16 (2 ^ vec) }

/-- Write the completion record of a launch (R297), or report on the queue that it cannot be written (R275). trusted: the record's
DONE may be used. -/
def writeDone (s : State) (vf q : Nat) (l : Launch) (trusted : Bool) (status : Word) (lcode : Nat) (us : Nat) : State :=
  let s := modQueue s vf q fun x => { x with busy := false }
  match trusted && l.done.toNat % 64 == 0, xlate s [] vf l.ctx .write l.done with
  | true, .ok (pa, a, _) =>
    if a.host then
      let pa := hostAt s vf pa
      let s := physWrN s none (pa + 8) 8 status.toNat
      let s := physWrN s none (pa + 16) 8 lcode
      let s := physWrN s none (pa + 24) 8 us
      let s := physWrN s none (pa + 32) 32 0
      let s := physWrN s none pa 8 l.jobid.toNat
      if l.irq && l.vec < 16 then raiseMsix s vf l.vec else s
    else modQueue s vf q fun x => { x with en := false, derr := true, lcode := lcode }
  | _, _ => modQueue s vf q fun x => { x with en := false, derr := true, lcode := lcode }

/-! Fetch (R275). -/

/-- Numbers 4 f + q of the queues that a partition's root may serve next, in round-robin order. -/
def queueOrder (s : State) (p : Nat) : List Nat :=
  let rr := (getPart s p).rr
  (((upTo 128).map fun i => (rr + i) % 128).filter fun n =>
    let v := getVf s (n / 4)
    v.en && v.part == p)

/-- Does a queue hold a posted record? -/
def queuePosted (x : Queue) : Bool := x.en && x.tail != x.head

/-- The job of a launch record that has passed its checks. -/
def newJob (s : State) (vf q p : Nat) (l : Launch) : Job :=
  let n := partRows (getPart s p)
  let w (a : Nat) : Word := BitVec.ofNat 64 (rootWord s vf l.ctx a)
  { vf := vf, queue := q, launch := l, consts := (upTo 224).map fun i => w (l.cimg.toNat + 8 * i),
    rowImgs := (upTo n).map fun r => (upTo 16).map fun i => if l.rimg = 0 then 0 else w (l.rimg.toNat + 128 * r + 8 * i),
    groups := groupsOfJob s vf l, phase := .fetched, since := s.now, toLoad := [], toAck := [], toGo := [],
    toReport := (upTo n).map ((getPart s p).first + ·), status := 0, ended := [] }

/-- Take a posted record of a queue (R275, R277): a valid launch becomes the partition's job, a failed one is reported at once. -/
def takeRecord (s : State) (p n : Nat) : State :=
  let vf := n / 4
  let q := n % 4
  let x := getQueue (getVf s vf) q
  let a := x.base.toNat + 128 * (x.head % 2 ^ x.log)
  let w : List Word := (upTo 16).map fun i => BitVec.ofNat 64 (physRdN s none (busAt s vf (a + 8 * i)) 8)
  let l := launchOf w
  let code := launchCode s vf p w
  let tiles := (dispensersOf s vf p l).map fun d => d.1
  let job := newJob s vf q p l
  let s := modQueue s vf q fun x => { x with head := (x.head + 1) % 2 ^ 32, busy := true }
  let s := modPart s p fun y => { y with rr := (n + 1) % 128 }
  if code = 0 then
    modPart { s with dispensers := s.dispensers ++ tiles } p fun y =>
      { y with job := some job, jstate := .running, saving := false, killDue := false }
  else writeDone s vf q l (2 < code) (BitVec.ofNat 64 (2 ^ 44)) code 0

/-- LAUNCH_FETCH (R275): an idle partition's root takes one posted record. -/
def execLaunchFetch (part : Nat) (s : State) : Out :=
  .next (
    if part < 8 && (getPart s part).en && (getPart s part).job.isNone then
      match (queueOrder s part).find? fun n => queuePosted (getQueue (getVf s (n / 4)) (n % 4)) with
      | some n => takeRecord s part n
      | none => s
    else s)

/-! The launch tree (R278). -/

/-- LOAD_PHASE_START (R278): not before the previous job's reductions can no longer arrive. -/
def execLoadPhaseStart (part : Nat) (s : State) : Out :=
  .next (match (getPart s part).job with
    | some j =>
      if j.phase == .fetched && (getPart s part).quiet ≤ s.now then
        modJob s part fun j => { j with phase := .load, toLoad := j.toReport }
      else s
    | none => s)

/-- The partition whose job a row of it belongs to. -/
def partOfRow (s : State) (r : Nat) : Option Nat :=
  (upTo 8).find? fun p =>
    let x := getPart s p
    x.job.isSome && x.first ≤ r && r < x.first + partRows x

/-- The constant window of a core at launch (R41, R278): its 256 words in order. -/
def windowWords (s : State) (p : Nat) (j : Job) (r c : Nat) : List Word :=
  let n (x : Nat) : Word := BitVec.ofNat 64 x
  let k := r - (getPart s p).first
  let vb := if j.launch.vbase = 0 then 0 else j.launch.vbase + n (2 ^ 29 * (16 * k + c))
  j.consts ++
  [n c, n k, n (dieOfRow r), (Config.physCore (coreIx r c)).setWidth 64, n (coreIx r c), vb, n (strandCount j.launch.pword),
   j.launch.jobid] ++ List.replicate 8 0 ++ j.rowImgs.getD k []

/-- Load one core (R278, R38): the pool cleared with the registers in it (R44), its window written, barriers, Hatch, match table, channel counts, Press queue, landing
counters, launch generation and sequence counters set. -/
def loadCore (s : State) (p : Nat) (j : Job) (r c : Nat) : State :=
  let s := forSlots (fun s sl => modLane s r c sl fun l => { l with v := Vector.replicate 32 0 }) (settleHputs s (coreIx r c))
  modCore s (coreIx r c) fun k =>
    { k with
      pool := ((windowWords s p j r c).zipIdx).foldl (fun m x => memWrN m (8 * x.2) 8 x.1.toNat) [], poolPoison := [],
      bars := Vector.replicate 32 ⟨strandCount j.launch.pword, 0, 0, []⟩, hatch := Vector.replicate 4 ⟨.free, 0, 0, none, none, false⟩,
      opens := [], match_ := [], cptr := Vector.replicate 4 0, press := [], running := none, stepRead := ⟨[], [], [], []⟩,
      issueCtr := 0, arriveCtr := 0, launchGen := k.launchGen + 1, atomSeq := 0, chanSeq := Vector.replicate 4 0 }

/-- LAUNCH_MESSAGE (R278): it reaches a row head, which loads its cores and acknowledges. -/
def execLaunchMessage (row : Nat) (s : State) : Out :=
  .next (match partOfRow s row with
    | none => s
    | some p =>
      match (getPart s p).job with
      | none => s
      | some j =>
        if j.phase == .load && isIn row j.toLoad && powered s row then
          let s := forCols (fun s c => loadCore s p j row c) s
          let s := modRow s row fun x =>
            { x with part := some p, owner := some (j.vf, j.launch.ctx), pword := j.launch.pword, phase := .loaded, resident := none,
                     next := none }
          modJob s p fun j => { j with toLoad := j.toLoad.filter (· != row), toAck := j.toAck ++ [row] }
        else s)

/-- LAUNCH_ACK (R278): once all have arrived the go messages leave. -/
def execLaunchAck (row : Nat) (s : State) : Out :=
  .next (match partOfRow s row with
    | none => s
    | some p =>
      modJob s p fun j =>
        if j.phase == .load && isIn row j.toAck then
          let rest := j.toAck.filter (· != row)
          if rest.isEmpty && j.toLoad.isEmpty then
            { j with toAck := [], phase := .go, toGo := (upTo (partRows (getPart s p))).map ((getPart s p).first + ·) }
          else { j with toAck := rest }
        else j)

/-- GO_MESSAGE (R278, R281): the row places its first team. -/
def execGoMessage (row : Nat) (s : State) : Out :=
  .next (match partOfRow s row with
    | none => s
    | some p =>
      match (getPart s p).job with
      | none => s
      | some j =>
        if j.phase == .go && isIn row j.toGo && powered s row then
          let first := nextTeam s row none
          let s := modJob s p fun j => { j with toGo := j.toGo.filter (· != row) }
          match first with
          | some t => placeTeam s row t
          | none => s
        else s)

/-! Completion of a job (R296, R297). -/

/-- Teams of a row by its partition row in an n-row partition (R279). -/
def teamsAt (l : Launch) (n k : Nat) : List Nat := (upTo ((teamCount l + n - 1 - k) / n)).map fun i => k + n * i

/-- The combined status word of the ended tasks of a row (R297). -/
def rowStatus (j : Job) (teams : List Nat) : Word :=
  (j.ended.filter fun p => isIn (p.1 / strandCount j.launch.pword) teams).foldl (fun a p => statusJoin a p.2) 0

/-- Take the messages of a partition's job out of the fabric. -/
def dropMsgs (s : State) (p : Nat) : State := (s.msgs.filter fun m => msgPart m.2 == p).foldl (fun s m => dropMsg s m.1) s

/-- The job of a partition is complete: its record is written and the partition returns to polling (R275, R297). -/
def finishJob (s : State) (p : Nat) (j : Job) : State :=
  let x := getPart s p
  let s := modPart s p fun x =>
    { x with job := none, jstate := .idle, saving := false, killDue := false, quiet := s.now + x.redBound, redBound := 0 }
  let s := ((upTo (partRows x)).map (x.first + ·)).foldl (fun s r => modRow s r fun y =>
    { y with part := none, phase := .idle, resident := none, started := [], ended := [], images := [], next := none }) s
  let s := dropMsgs { s with dispensers := s.dispensers.filter fun d => d.part != p } p
  writeDone s j.vf j.queue j.launch true j.status 0 ((s.now - j.since) / 1000)

/-- ROW_REPORT (R297): a row all of whose teams have ended reports; the job completes when COUNT equals SIZE. -/
def execRowReport (row : Nat) (s : State) : Out :=
  .next (match partOfRow s row with
    | none => s
    | some p =>
      match (getPart s p).job with
      | none => s
      | some j =>
        let x := getPart s p
        let teams := teamsAt j.launch (partRows x) (row - x.first)
        if isIn row j.toReport && teams.all fun t => isIn t (getRow s row).ended then
          let j := { j with toReport := j.toReport.filter (· != row), status := statusJoin j.status (rowStatus j teams) }
          let s := modPart s p fun x => { x with job := some j }
          if bits j.status 16 25 = j.launch.size then finishJob s p j else s
        else s)

end Sys2Proof.Machine
end

