-- ==== Sys2Proof/Machine/Frames.lean ====
section
/-! DEFINITION. The images of cores in memory (R244, R256 to R258, R260, R287, R388): Loft frames, spill images and dumps hold a
core's pool with its tiles and vector registers, and the firmware's rows. -/

namespace Sys2Proof.Machine

/-! Whose data a row holds (R387, R388). -/

/-- The confidential context whose data a row's cores hold, if it is one: that of the job that last loaded them. -/
def hiddenOwner (s : State) (r : Nat) : Option (Nat × Nat) := (getRow s r).owner.filter fun o => isIn o s.confidential

/-- Does a row run a job of a confidential context (R387, R388)? -/
def rowHidden (s : State) (r : Nat) : Bool := (rowJob s r).isSome && isIn (ctxOf s r) s.confidential

/-- The key under which a row's images are written (R258, R388): one of its confidential context's keys. -/
def rowKey (s : State) (r : Nat) : Option (BitVec 256) :=
  match hiddenOwner s r with
  | some (vf, ctx) => (s.keys.find? fun p => p.2.vf == vf && p.2.ctx == ctx).map (·.2.key)
  | none => none

/-! Where an image lies. -/

/-- The first address of row k of Loft frame f of a vault (R247, R257). -/
def loftRow (s : State) (vault f k : Nat) : Nat :=
  2 ^ 29 * vault + 2 ^ 23 * (k % 64) + 2 ^ 11 * (4096 - 17 * s.loftF + 17 * f + k / 64)

/-- The virtual address of row k of a spill image of a core (R287). -/
def spillVa (s : State) (r c i k : Nat) : Nat :=
  match rowJob s r with
  | some (_, j) => (constWord (getCore s (coreIx r c)) 229).toNat + j.launch.spillOff + 2228224 * i + 2048 * k
  | none => 0

/-- The address and the key of row k of a core's image in a save place (R257, R258, R287). -/
def placeRow (s : State) (r c place k : Nat) : Nat × Option (BitVec 256) :=
  if place < s.loftF then (loftRow s (coreIx r c) place k, rowKey s r)
  else
    let (vf, ctx) := ctxOf s r
    match xlate s [] vf ctx .both (BitVec.ofNat 64 (spillVa s r c (place - s.loftF) k)) with
    | .ok (pa, a, _) => (hostAt s vf pa, attrKey s a)
    | .error _ => (0, none)

/-- Do the pages of a spill image translate with R and W at every core of a row (R287)? -/
def spillOk (s : State) (r place : Nat) : Bool :=
  let (vf, ctx) := ctxOf s r
  (rowJob s r).isSome && (upTo 16).all fun c => rangeOk s vf ctx .both (spillVa s r c (place - s.loftF) 0) 2228224

/-! Writing an image. -/

/-- Replace n bytes from an address by the listed cells, at offsets, under a key. -/
def writeCells (s : State) (key : Option (BitVec 256)) (pa n : Nat) (cells : List Host.Cell) : State :=
  let keys := s.memKeys.filter fun p => p.1 < pa || pa + n ≤ p.1
  { s with mem := cells.foldl (fun m c => memWr m (pa + c.1) c.2) (memClear s.mem pa (pa + n)),
           memKeys := match key with
             | some x => (upTo n).foldl (fun t o => tput t (pa + o) x) keys
             | none => keys }

/-- Write one row of an image, with its poisoned granules (R260). -/
def putRow (s : State) (place : Nat × Option (BitVec 256)) (cells : List Host.Cell) (bad : List Nat) : State :=
  physPoison (physHeal (writeCells s place.2 place.1 2048 cells) (granules place.1 2048)) (bad.map (place.1 / 64 + ·))

/-- The cells of row k of a pool, at their offsets. -/
def rowCells (m : List Host.Cell) (k : Nat) : List Host.Cell :=
  (m.filter fun c => c.1 / 2048 == k).map fun c => (c.1 % 2048, c.2)

/-- The pool of a core as its image shows it (R244, R257): each vector register at its pool address. -/
def fullPool (s : State) (r c : Nat) : List Host.Cell :=
  let pw := (getRow s r).pword
  (upTo (strandCount pw)).foldl (fun m sl =>
    let l := getLane s r c sl
    (upTo (vregCount pw)).foldl (fun m n =>
      if rdV l (BitVec.ofNat 5 n) = 0 then m else memWrN m (vregAddr pw sl n) 128 (rdV l (BitVec.ofNat 5 n)).toNat) m)
    (getCore s (coreIx r c)).pool

/-- The cells of a row of the firmware's part of an image: free bytes (R257). -/
def firmwareCells (n : Nat) : List Host.Cell :=
  (upTo 2048).filterMap fun o =>
    let x : Byte := (Config.freeValue (n + o)).setWidth 8
    if x = 0 then none else some (o, x)

/-- Write the 1,088 rows of a core's image, each at its place (R257). -/
def putImage (s : State) (r c : Nat) (place : Nat → Nat × Option (BitVec 256)) : State :=
  let pool := fullPool s r c
  let bad := (getCore s (coreIx r c)).poolPoison
  let s := (upTo 1024).foldl (fun s k =>
    putRow s (place k) (rowCells pool k) ((bad.filter fun g => g / 32 == k).map (· % 32))) s
  let n := s.free
  let s := (upTo 64).foldl (fun s k => putRow s (place (1024 + k)) (firmwareCells (n + 2048 * k)) []) s
  { s with free := n + 131072 }

/-! Reading an image back. -/

/-- The cells of n bytes from an address as a reader with a key finds them, at their offsets. -/
def readCells (s : State) (key : Option (BitVec 256)) (pa n : Nat) : List Host.Cell :=
  if key.isNone && !(s.memKeys.any fun p => pa ≤ p.1 && p.1 < pa + n) then
    (s.mem.filter fun c => pa ≤ c.1 && c.1 < pa + n).map fun c => (c.1 - pa, c.2)
  else
    (upTo n).filterMap fun o =>
      let x := physRd s key (pa + o)
      if x = 0 then none else some (o, x)

/-- The pool that an image holds. -/
def imagePool (s : State) (place : Nat → Nat × Option (BitVec 256)) : List Host.Cell :=
  (upTo 1024).flatMap fun k => (readCells s (place k).2 (place k).1 2048).map fun c => (2048 * k + c.1, c.2)

/-- The poisoned pool granules that an image holds (R260). -/
def imagePoison (s : State) (place : Nat → Nat × Option (BitVec 256)) : List Nat :=
  if s.memPoison.isEmpty then []
  else (upTo 1024).flatMap fun k =>
    ((upTo 32).filter fun g => isIn ((place k).1 / 64 + g) s.memPoison).map (32 * k + ·)

/-- Has a granule of the firmware's rows of an image been poisoned? -/
def imageBroken (s : State) (place : Nat → Nat × Option (BitVec 256)) : Bool :=
  !s.memPoison.isEmpty && (upTo 64).any fun k => (physBad s (place (1024 + k)).1 2048).isSome

/-- Vector register n of the strand in a slot, out of the pool of an image (R244). -/
def imageVreg (pw : Word) (pool : List Host.Cell) (sl n : Nat) : Vec :=
  if sl < strandCount pw && n < vregCount pw then BitVec.ofNat 1024 (memRdN pool (vregAddr pw sl n) 128) else 0

/-- The pool of an image without its vector registers. -/
def imageScratch (pw : Word) (pool : List Host.Cell) : List Host.Cell :=
  memClear pool (scratchSize pw + 16384 * tileCount pw) (2 ^ 21)

end Sys2Proof.Machine
end

