-- ==== Sys2Proof/Machine/Sched.lean ====
section
/-! DEFINITION. Time slices, the saving and restoring of teams, JCTL, groups, mailboxes, dispensers and timed holds (R132, R135,
R141 to R143, R257, R286 to R295, R302, R306, R309, R341, R369, R370). -/

namespace Sys2Proof.Machine

/-! Stopping a team (R355, R369, R370). -/

/-- May a row's team be stopped now: not halted, no strand at handler level, none in EXIT past its step 2 (R369, R370, R380)? -/
def stopReady (s : State) (r : Nat) : Bool :=
  !(getRow s r).halted && (upTo 8).all fun sl =>
    let h := getHead s r sl
    h.task.isNone || (!h.handler && h.wait != .exit)

/-- Empty a strand's landing sets at a core, with their traps (R168, R171). -/
def dropLanding (r sl : Nat) (s : State) (c : Nat) : State :=
  let s := { s with reqs := s.reqs.map fun q =>
    if q.row == r && q.col == c && q.strand == sl && q.kind == .landing then { q with dest := .no } else q }
  let s := modCore s (coreIx r c) fun k => { k with slotQ := k.slotQ.filter fun w => w.strand != sl }
  modLane s r c sl fun l =>
    let l := { l with land := [], claims := [], events := l.events.filter fun e => !landEvent e }
    dropFills (ticketLives s r c sl l) l

/-- POISON for the first poisoned register among REGPC and the loop snapshot, which a rewind reads (R364). DESIGN CHOICE: at a
pre-emption it is pending at the head, log 79. -/
def rewindPoison (h : Head) : List (Cause × Word × Bool) :=
  ((([0x005, 0x013, 0x014, 0x015].find? fun n => isIn (0x800 + n) h.poison).map fun n => (Cause.poison, headPoisonTval n, h.handler))).toList

/-- Rewind a strand that is pre-empted. Its lane instructions of a region that has ended stay queued, as work that no rewind
discards (R119, R371). DEDUCED, log 84. -/
def rewindForSave (s : State) (r sl : Nat) : State :=
  let h := getHead s r sl
  modHead (rewind s r sl) r sl fun x =>
    { x with flights := h.flights.filter fun f => f.region != h.region, events := x.events ++ rewindPoison h }

/-- Has a committing instruction begun its perform step so that it is saved as it stands (R370)? A CRED that no core's channel has
accepted yet is discarded (R306). DEDUCED, log 73. -/
def performing (k : Commit) : Bool :=
  k.flight.col == 16 &&
  match k.flight.instr with
  | .cred _ _ _ _ _ _ _ => k.left.length < 16
  | _ => true

/-- Stop one strand for a save (R370): it rewinds, unless its operation is registered or in its perform step. -/
def stopForSave (r : Nat) (s : State) (sl : Nat) : State :=
  let h := getHead s r sl
  let keep (s : State) : State := forCols (dropLanding r sl) s
  if h.task.isNone then s
  else
    match h.wait with
    | .group _ _ | .publish _ | .exit => keep s
    | .send id | .tile id => rewindForSave (dropMsg s id) r sl
    | _ => if h.commit.any performing then keep s else rewindForSave s r sl

/-- Stop a row's team for a save (R369 step 1). -/
def startSave (s : State) (r : Nat) (next : Option Nat) : State :=
  modRow (forSlots (stopForSave r) s) r fun x => { x with phase := .save, next := next }

/-! Slices (R286). -/

/-- Length of a slice in ns (R276, R286). -/
def sliceNs (l : Launch) : Nat := 1000 * (if l.slice = 0 then 1000 else l.slice)

/-- End the slice of a row's resident team (R286). -/
def endSlice (s : State) (r t : Nat) : State :=
  match nextTeam s r (some t) with
  | some u => if u = t then modRow s r fun x => { x with sliceAt := s.now } else startSave s r (some u)
  | none => s

/-- Can the slice of a row end at all: a resident team of several, no save under way, the stop not put off? -/
def sliceOpen (s : State) (r : Nat) : Bool :=
  (getRow s r).phase == .placed && 1 < (rowTeams s r).length && stopReady s r && powered s r &&
  match (getRow s r).part with
  | some p => (getPart s p).jstate == .running
  | none => false

/-- SLICE_END (R286). -/
def execSliceEnd (row : Nat) (s : State) : Out :=
  .next (match (getRow s row).resident, rowJob s row with
    | some t, some (_, j) =>
      if sliceOpen s row && (getRow s row).sliceAt + sliceNs j.launch ≤ s.now then endSlice s row t else s
    | _, _ => s)

/-- Has a strand been in GBAR or MRECV for 100 us (R286)? -/
def idleLong (s : State) (r sl : Nat) : Bool :=
  let h := getHead s r sl
  let p := partOf s r
  let gbar := match h.wait, h.task with
    | .group g _, some t =>
      (s.msgs.any fun m => match m.2 with
        | .arrive q g' u _ _ kind _ => q == p && g' == g && u == t && kind == 0
        | _ => false) ||
      (match (getPart s p).job with
       | some j => (tget j.groups g ⟨[], 0, []⟩).arrived.any fun a => a.1 == t && a.2.1 == 0
       | none => false)
    | _, _ => false
  (h.why == 10 || gbar) && h.since + 100000 ≤ s.now

/-- SLICE_IDLE_END (R286). -/
def execSliceIdleEnd (row : Nat) (s : State) : Out :=
  .next (match (getRow s row).resident with
    | some t =>
      if sliceOpen s row && (upTo 8).all fun sl => (getHead s row sl).task.isNone || idleLong s row sl then endSlice s row t else s
    | none => s)

/-! Ending every task of a job (R296, R341, R287). -/

/-- The rows of a partition. -/
def rowsOf (x : Part) : List Nat := (upTo (partRows x)).map (x.first + ·)

/-- End every task of a partition's job with an error bit: swapped and unplaced ones where they stand, then the resident ones. -/
def killJob (s : State) (p errBit : Nat) : State :=
  match (getPart s p).job with
  | none => s
  | some j =>
    let x := getPart s p
    let rows := (upTo (partRows x)).map (x.first + ·)
    let live := rows.flatMap fun r =>
      if (getRow s r).part == some p then (upTo 8).filterMap fun sl => (getHead s r sl).task else []
    let rest := (upTo j.launch.size).filter fun t => !isIn t live
    let s := applyHeld s p rest
    let s := modJob s p fun j => { j with
      ended := (upTo j.launch.size).filterMap fun t =>
        match j.ended.find? fun e => e.1 == t with
        | some e => some e
        | none => if isIn t live then none else some (t, statusWord 0 errBit) }
    let s := rows.foldl (fun s r =>
      let busy := (getRow s r).phase == .save || (getRow s r).phase == .placed
      modRow s r fun y =>
        { y with ended := (teamsAt j.launch (partRows x) (r - x.first)).filter fun t => !(busy && y.resident == some t),
                 images := [], next := none, phase := if busy then .placed else if y.phase == .idle then .idle else .loaded }) s
    let s := modPart s p fun y => { y with jstate := .running, saving := false, killDue := false }
    rows.foldl (fun s r =>
      if (getRow s r).part == some p then
        teamCheck (forSlots (fun s sl => if (getHead s r sl).task.isSome then stopStrand s r sl errBit else s) s) r
      else s) s

/-- Does a row put a pre-emption off: a handler, an EXIT or a halt keeps its team from being stopped (R369, R370, R380)? -/
def rowDelays (s : State) (r : Nat) : Bool := (getRow s r).phase == .placed && !stopReady s r

/-- A save or restore of a partition's job has ended: JCTL.STATE goes on, and a waiting KILL takes effect (R341). KILL does not wait
for a row that puts the save off (R369, R380). DEDUCED, log 85. -/
def checkMoving (s : State) (p : Nat) : State :=
  let x := getPart s p
  match x.job with
  | none => s
  | some j =>
    let rows := (upTo (partRows x)).map fun i => (getRow s (x.first + i)).phase
    let still (f : RowPhase) : Bool := rows.any (· == f)
    if x.jstate != .moving then s
    else if x.saving && x.killDue && (rowsOf x).any (rowDelays s) then killJob s p 43
    else if x.saving then
      if j.phase == .go && j.toGo.isEmpty && !(still .placed || still .save || still .restore) then
        if x.killDue then killJob s p 43 else modPart s p fun x => { x with jstate := .saved, saving := false }
      else s
    else if still .restore then s
    else if x.killDue then killJob s p 43
    else modPart s p fun x => { x with jstate := .running }

/-! Saving and restoring (R257, R287, R302, R306, R369). -/

/-- Have the bounded completions of a row ended (R369 step 2): the running Press step or command has retired (R302), after the MDRAINs
that its strand executed before it (R215)? -/
def completionsDone (s : State) (r : Nat) : Bool :=
  (s.reqs.all fun q => q.row != r || q.kind == .headLoad || parked s q ||
    !(isWriteKind q.kind || q.kind == .granule || q.dest != .no)) &&
  (upTo 16).all fun c =>
    let k := getCore s (coreIx r c)
    k.hputs.isEmpty && k.transfers.isEmpty && k.running.isNone

/-- What the image of a core holds beside its pool (R257): a copy that asked for a source granule asks again (R306). -/
def coreImage (k : Core) : Core :=
  { k with pool := [], poolPoison := [], chans := k.chans.map fun l => l.map fun c => { c with ask := none } }

/-- The image of a row's team (R257), beside the pools with their vector registers, which stand in memory. -/
def imageOf (s : State) (r t place : Nat) : Image :=
  { team := t, place := place,
    heads := (upTo 8).map fun sl =>
      let h := getHead s r sl
      (sl, { h with cycles := h.cycles + ((getRow s r).cycle - h.placedAt) }),
    lanes := (upTo 16).flatMap fun c => (upTo 8).map fun sl => (8 * c + sl, { getLane s r c sl with v := Vector.replicate 32 0 }),
    cores := (upTo 16).map fun c => (c, coreImage (getCore s (coreIx r c))),
    reqs := s.reqs.filter fun q => q.row == r && parked s q, ahead := [] }

/-- A core whose team has been saved. -/
def vacateCore (k : Core) : Core :=
  { k with hatch := Vector.replicate 4 ⟨.free, 0, 0, none, none, false⟩, opens := [], press := [], running := none,
           stepRead := ⟨[], [], [], []⟩, chans := Vector.replicate 4 [], issued := [], match_ := [], slotQ := [] }

/-- Is it a miss of a row? -/
def rowWalk (r : Nat) : WalkPlace → Bool
  | .core a _ _ => a == r
  | .head a _ => a == r
  | .fetch a _ => a == r
  | .copy a _ _ _ => a == r

/-- Save a row's team to a place (R369 step 3): the pools to the frame or spill image of each core (R257, R287), the rest as its
image; its subscriptions are pruned (R309). -/
def saveTeam (s : State) (r t place : Nat) : State :=
  let s := dropWalks (rowWalk r) s
  let img := imageOf s r t place
  let s := forCols (fun s c => putImage s r c (placeRow s r c place)) s
  let s := leaveTags { s with reqs := s.reqs.filter fun q => !(q.row == r && parked s q) } r
  let s := forCols (fun s c =>
    forSlots (fun s sl => setLane s r c sl Lane.reset) (modCore s (coreIx r c) vacateCore)) s
  let s := forSlots (fun s sl => setHead s r sl Head.reset) s
  modRow s r fun x => { x with images := x.images ++ [img], resident := none, phase := .loaded }

/-- The place of a save: the lowest free one, else that of the team that comes in (R287, R289). -/
def savePlace (s : State) (r : Nat) : Option Nat :=
  match freePlace s r, (getRow s r).next with
  | some i, _ => some i
  | none, some u => ((getRow s r).images.find? fun m => m.team == u).map (·.place)
  | none, none => none

/-- Is the partition of a row saving its job under JCTL.PRE? -/
def rowSaving (s : State) (r : Nat) : Bool :=
  match (getRow s r).part with
  | some p => (getPart s p).jstate == .moving && (getPart s p).saving
  | none => false

/-- May a stopped row be saved? Under JCTL.PRE once every row of the partition has stopped and its completions have ended, so that
no granule of the job meets a row whose team has left and does not follow another (R305, R306, R371). -/
def saveReady (s : State) (r : Nat) : Bool :=
  !rowSaving s r ||
  match rowJob s r with
  | some (p, j) => j.phase == .go && j.toGo.isEmpty && (rowsOf (getPart s p)).all fun r' =>
      match (getRow s r').phase with
      | .placed | .restore => false
      | .save => completionsDone s r'
      | _ => true
  | none => true

/-- The pool of a saved team's core, its poisoned granules, and whether its firmware rows are broken (R257, R260): as they stand in its
place, or as they were read ahead. -/
def imageAt (s : State) (r : Nat) (m : Image) (c : Nat) : List Host.Cell × List Nat × Bool :=
  match m.ahead.find? (·.1 == c) with
  | some x => x.2
  | none =>
    let place := placeRow s r c m.place
    (imagePool s place, imagePoison s place, imageBroken s place)

/-- Where no place is free, the team that comes in is read from its place before the team that leaves takes it (R287, R289). -/
def readAhead (s : State) (r : Nat) : State :=
  let x := getRow s r
  let read (m : Image) : Image := { m with ahead := (upTo 16).map fun c => (c, imageAt s r m c) }
  if (freePlace s r).isSome then s
  else modRow s r fun y => { y with images := y.images.map fun m => if x.next == some m.team then read m else m }

/-- The save of a stopped row, and what follows it. -/
def performSave (s : State) (r : Nat) : State :=
  match (getRow s r).resident, savePlace s r with
  | some t, some place =>
    if s.loftF ≤ place && !spillOk s r place then killJob s (partOf s r) 45
    else
      let next := (getRow s r).next
      let s := saveTeam (readAhead s r) r t place
      if rowSaving s r then modRow s r fun x => { x with next := next.orElse fun _ => some t }
      else
        match next with
        | some u => admitTeam s r u
        | none => s
  | _, _ => s

/-- TEAM_SAVE (R369): under JCTL.PRE a row that may now be stopped is stopped; a stopped row whose completions have ended is
saved, under JCTL.PRE together with those of the other rows. -/
def execTeamSave (row : Nat) (s : State) : Out :=
  .next (
    let x := getRow s row
    let s := match x.phase with
      | .placed => if rowSaving s row && stopReady s row && powered s row then startSave s row none else s
      | .save =>
        if rowEmpty s row then teamCheck (modRow s row fun x => { x with phase := .placed }) row
        else if completionsDone s row && powered s row && saveReady s row then performSave s row
        else s
      | _ => s
    match x.part with
    | some p => checkMoving s p
    | none => s)

/-- A saved core put back for a team, its pool read back from its place (R257, R260): what the image holds for strands that have
ended is left out (R142). -/
def restoreCore (dead : List Nat) (pool : List Host.Cell) (bad : List Nat) (i k : Core) : Core :=
  let hatch := i.hatch.map fun h =>
    if h.st == .free || isIn h.owner dead then ⟨.free, 0, 0, none, none, false⟩ else { h with st := .opening, accepted := none }
  { k with
    pool := pool, poolPoison := bad, bars := i.bars, hatch := hatch,
    opens := k.opens ++ ((upTo 4).filter fun n => (hatch.toList[n]?.map (·.st)) == some .opening).map .slot,
    press := i.press.filter fun q => !isIn q.strand dead, running := none, stepRead := ⟨[], [], [], []⟩,
    chans := i.chans.map fun l => l.filter fun c => !isIn c.strand dead,
    issued := k.issued ++ i.issued.filter fun c => !isIn c.strand dead, match_ := i.match_ }

/-- Restore a saved team to its row (R369 step 4): subscriptions joined (R309), slots reopened (R227), queues rebuilt (R302). -/
def restoreTeam (s : State) (r : Nat) (m : Image) : State :=
  let j := rowJob s r
  let gone (t : Option Nat) : Bool := match t, j with
    | some t, some (_, j) => j.ended.any fun e => e.1 == t
    | _, _ => true
  let dead := (upTo 8).filter fun sl => gone (tget m.heads sl Head.reset).task
  let s := forSlots (fun s sl =>
    setHead s r sl (if isIn sl dead then Head.reset else { tget m.heads sl Head.reset with placedAt := (getRow s r).cycle })) s
  let s := forCols (fun s c =>
    let (pool, bad, _) := imageAt s r m c
    let pw := (getRow s r).pword
    let i := tget m.cores c Core.reset
    let s := modCore (settleHputs s (coreIx r c)) (coreIx r c) (restoreCore dead (imageScratch pw pool) bad i)
    let s := forSlots (fun s sl =>
      setLane s r c sl (if isIn sl dead then Lane.reset
        else { tget m.lanes (8 * c + sl) Lane.reset with v := Vector.ofFn fun n => imageVreg pw pool sl n.val })) s
    i.match_.foldl (fun s t => subscribe s (partOf s r) (coreIx r c) t.1) s) s
  let s := { s with reqs := m.reqs.foldl (fun l q => if isIn q.strand dead then l else reqIns { q with since := s.now } l) s.reqs }
  modRow s r fun x =>
    { x with phase := .placed, resident := some m.team, sliceAt := s.now, next := none,
             images := x.images.filter fun i => i.team != m.team }

/-- Bring a saved team back. DESIGN CHOICE, log 86: a spill image whose pages no longer translate ends the job as a failed save does
(R287); an image of which a granule of the firmware's rows is poisoned has lost control state, and its tasks are stopped (R364). -/
def bringTeam (s : State) (r : Nat) (m : Image) : State :=
  if m.ahead.isEmpty && s.loftF ≤ m.place && !spillOk s r m.place then killJob s (partOf s r) 45
  else if (upTo 16).any fun c => (imageAt s r m c).2.2 then
    forSlots (fun s sl => if (getHead s r sl).task.isSome then stopStrand s r sl 41 else s) (restoreTeam s r m)
  else restoreTeam s r m

/-- TEAM_RESTORE (R369): the next team of a row comes back; where GKILL has ended all of it, the row goes on to another. -/
def execTeamRestore (row : Nat) (s : State) : Out :=
  .next (
    let x := getRow s row
    if x.phase != .restore || !powered s row then s
    else
      let s := match x.next with
        | none => modRow s row fun x => { x with phase := .loaded }
        | some u =>
          match x.images.find? fun m => m.team == u with
          | some m => bringTeam s row m
          | none =>
            let s := modRow s row fun x => { x with phase := .loaded, next := none }
            match nextTeam s row (some u) with
            | some v => admitTeam s row v
            | none => s
      match x.part with
      | some p => checkMoving s p
      | none => s)

/-! JCTL (R341). -/

/-- JCTL.KILL: at once, or when a save or restore ends (R341), unless a row puts the save off (R369). -/
def jctlKillAt (s : State) (vf : Nat) : State :=
  let v := getVf s vf
  if vf < 32 && v.en && (getPart s v.part).job.isSome then
    if (getPart s v.part).jstate == .moving then checkMoving (modPart s v.part fun x => { x with killDue := true }) v.part
    else killJob s v.part 43
  else s

/-- Has a row no save place for the team that it holds, takes in, or is saving (R287, R341)? A restore frees the place of its team. -/
def noPlace (s : State) (r : Nat) : Bool :=
  let x := getRow s r
  match x.phase with
  | .placed | .save => (freePlace s r).isNone
  | .restore => (freePlace (modRow s r fun x => { x with images := x.images.filter fun m => some m.team != x.next }) r).isNone
  | _ => false

/-- JCTL.PRE: refused with PREF where a row has no free save place; a row under restore is stopped when its team is back. -/
def jctlPreAt (s : State) (vf : Nat) : State :=
  let v := getVf s vf
  let p := v.part
  let x := getPart s p
  if vf < 32 && v.en && x.job.isSome && x.jstate == .running then
    if (rowsOf x).any (noPlace s) then modPart s p fun x => { x with pref := true }
    else
      let s := modPart s p fun x => { x with jstate := .moving, saving := true }
      let s := (rowsOf x).foldl (fun s r =>
        match (getRow s r).phase with
        | .placed => if stopReady s r && powered s r then startSave s r none else s
        | _ => s) s
      checkMoving s p
  else s

/-- JCTL.RES: the saved teams come back. -/
def jctlResAt (s : State) (vf : Nat) : State :=
  let v := getVf s vf
  let p := v.part
  let x := getPart s p
  if vf < 32 && v.en && x.jstate == .saved then
    let s := modPart s p fun x => { x with jstate := .moving, saving := false }
    let s := (rowsOf x).foldl (fun s r =>
      match (getRow s r).phase, (getRow s r).next with
      | .loaded, some u => admitTeam s r u
      | _, _ => s) s
    checkMoving s p
  else s

/-- JCTL_KILL (R341). -/
def execJctlKill (vf : Nat) (s : State) : Out := hostAct s (jctlKillAt s vf)
/-- JCTL_PRE (R341). -/
def execJctlPre (vf : Nat) (s : State) : Out := hostAct s (jctlPreAt s vf)
/-- JCTL_RES (R341). -/
def execJctlRes (vf : Nat) (s : State) : Out := hostAct s (jctlResAt s vf)

/-! Groups (R141, R291). -/

/-- A group of a partition's job. -/
def getGroup (s : State) (p g : Nat) : Group :=
  match (getPart s p).job with
  | some j => tget j.groups g ⟨[], 0, []⟩
  | none => ⟨[], 0, []⟩

/-- Set a group. -/
def setGroup (s : State) (p g : Nat) (x : Group) : State := modJob s p fun j => { j with groups := tput j.groups g x }

/-- The result of a vote of a kind over the values of its arrivals (R141). -/
def voteResult (kind : Nat) (vs : List Word) : Word :=
  match kind with
  | 1 => if vs.all (· != 0) then 1 else 0
  | 2 => if vs.any (· != 0) then 1 else 0
  | 3 => vs.foldl (· + ·) 0
  | 4 => vs.tail.foldl (fun a b => if b.toInt < a.toInt then b else a) (vs.headD 0)
  | 5 => vs.tail.foldl (fun a b => if a.toInt < b.toInt then b else a) (vs.headD 0)
  | _ => 0

/-- Complete a generation whose arrivals equal its members (R141): a message to every arriving task; a generation with a GBAR
applies the held elements of its members (R372). -/
def groupCheck (s : State) (p g : Nat) : State :=
  let x := getGroup s p g
  if x.arrived.isEmpty || x.arrived.length != x.members.length then s
  else
    let kind := (x.arrived.headD (0, 0, 0)).2.1
    let mixed := x.arrived.any fun a => a.2.1 != kind
    let value := voteResult kind (x.arrived.map fun a => a.2.2)
    let s := setGroup s p g { x with gen := x.gen + 1, arrived := [] }
    let s := if x.arrived.any fun a => a.2.1 == 0 then applyHeld s p (x.arrived.map fun a => a.1) else s
    x.arrived.foldl (fun s a => sendMsg s (.done p g a.1 value mixed (kind != 0))) s

/-- Is a message to the home of a group behind another one there: one that reached it in an earlier cycle, or, for an arrival, a lowering of
the same cycle (R291)? -/
def groupBehind (s : State) (msg p g : Nat) (arrival : Bool) : Bool :=
  let at_ := reachedAt s msg
  s.msgs.any fun m => m.1 != msg && hasReached s m.1 && msgArrives s m.1 m.2 &&
    match m.2 with
    | .arrive p' g' _ _ _ _ _ => p' == p && g' == g && reachedAt s m.1 < at_
    | .lower p' g' _ => p' == p && g' == g && (reachedAt s m.1 < at_ || (arrival && reachedAt s m.1 == at_))
    | _ => false

/-- GROUP_ARRIVAL (R291): an arrival reaches the group's home. -/
def execGroupArrival (msg : Nat) (s : State) : Out :=
  .next (match s.msgs.find? fun m => m.1 == msg with
    | some (_, .arrive p g task row slot kind value) =>
      if !msgArrives s msg (.arrive p g task row slot kind value) || groupBehind s msg p g true then s else
      let s := dropMsg s msg
      let x := getGroup s p g
      if isIn task x.members then groupCheck (setGroup s p g { x with arrived := x.arrived ++ [(task, kind, value)] }) p g else s
    | _ => s)

/-- GROUP_COMPLETION (R141): a completion reaches an arriving task, once its team is resident: the vote's result, the acceptance,
or GROUP.MIXED. -/
def execGroupCompletion (msg : Nat) (s : State) : Out :=
  .next (match s.msgs.find? fun m => m.1 == msg with
    | some (_, .done p g task result mixed vote) =>
      match (getPart s p).job with
      | none => dropMsg s msg
      | some j =>
        let (r, sl, here) := taskPlace s p j task
        let h := getHead s r sl
        if j.ended.any fun e => e.1 == task then dropMsg s msg
        else if !msgArrives s msg (.done p g task result mixed vote) then s
        else if !here || (getRow s r).phase != .placed || h.task != some task then { s with reached := tput s.reached msg s.fresh }
        else
          let s := dropMsg s msg
          match h.wait with
          | .group g' d =>
            if g' != g then s
            else if mixed then
              let h := { h with wait := .no, why := 0 }
              if haltStops s r sl then setHead s r sl { h with events := h.events ++ [(.groupMixed, BitVec.ofNat 64 g, h.handler)] }
              else headTrapDue (setHead s r sl h) r sl .groupMixed (BitVec.ofNat 64 g)
            else
              setHead s r sl (finishHead (headAccept (if vote then wrH h (BitVec.ofNat 4 d) result else h)))
          | _ => s
    | _ => s)

/-- MEMBER_LOWER (R291): a task leaves the group at its home, with an arrival it may have made. -/
def execMemberLower (msg : Nat) (s : State) : Out :=
  .next (match s.msgs.find? fun m => m.1 == msg with
    | some (_, .lower p g task) =>
      if !msgArrives s msg (.lower p g task) || groupBehind s msg p g false then s else
      let s := dropMsg s msg
      let x := getGroup s p g
      groupCheck (setGroup s p g { x with members := x.members.filter (· != task),
                                          arrived := x.arrived.filter fun a => a.1 != task }) p g
    | _ => s)

/-! Mailboxes (R143, R293 to R295). -/

/-- The sender's MSEND is over with a code (R143). -/
def sendDone (s : State) (r sl msg code : Nat) : State :=
  modHead (dropMsg s msg) r sl fun h =>
    finishHead (healHead { headAccept h with mstatus := BitVec.ofNat 64 code } 0x806)

/-- Append a token to the mailbox in a saved image. -/
def imageMail (s : State) (r team sl : Nat) (x : Word) : State :=
  modRow s r fun y => { y with images := y.images.map fun m =>
    if m.team = team then
      let h := tget m.heads sl Head.reset
      { m with heads := tput m.heads sl { h with mailbox := h.mailbox ++ [x] } }
    else m }

/-- A token waits at the receiving head for room (R143). -/
def holdToken (s : State) (msg : Nat) : State := { s with reached := tput s.reached msg s.fresh }

/-- Place a token for a task that has not ended, by the task's state (R293); it waits while its mailbox is full. DESIGN CHOICE: the save of
CODE 1 begins as the team is stopped (R369 step 1), log 97. A poisoned pending record takes none before the task is placed. DESIGN CHOICE,
log 83. -/
def placeToken (s : State) (p : Nat) (j : Job) (r sl msg task : Nat) (x : Word) : State :=
  let (tr, tsl, here) := taskPlace s p j task
  let team := task / strandCount j.launch.pword
  if here then
    let h := getHead s tr tsl
    if 8 ≤ h.mailbox.length then holdToken s msg
    else
      sendDone (setHead s tr tsl { h with mailbox := h.mailbox ++ [x] }) r sl msg (if (getRow s tr).phase == .save then 1 else 0)
  else
    match (getRow s tr).images.find? fun m => m.team == team with
    | some m => if 8 ≤ (tget m.heads tsl Head.reset).mailbox.length then holdToken s msg else sendDone (imageMail s tr team tsl x) r sl msg 1
    | none =>
      let pending := mboxTokens s j task
      if (mboxPlace s j task).isNone || mboxBad s j task || 8 ≤ pending.length then holdToken s msg
      else sendDone (mboxPut s j task (pending ++ [x])) r sl msg 2

/-- MAILBOX_TOKEN (R293): a token reaches the receiving row head. -/
def execMailboxToken (msg : Nat) (s : State) : Out :=
  .next (match s.msgs.find? fun m => m.1 == msg with
    | some (_, .token p r sl sender dst value) =>
      match (getPart s p).job with
      | none => dropMsg s msg
      | some j =>
        if (getHead s r sl).task != some sender || (getHead s r sl).wait != .send msg then dropMsg s msg
        else if !msgArrives s msg (.token p r sl sender dst value) then s
        else if j.launch.size ≤ dst.toNat then sendDone s r sl msg 4
        else if j.ended.any fun e => e.1 == dst.toNat then sendDone s r sl msg 3
        else if dst.toNat = sender && 8 ≤ (getHead s r sl).mailbox.length then sendDone s r sl msg 5
        else placeToken s p j r sl msg dst.toNat value
    | _ => s)

/-! Tile dispensers (R136, R292). -/

/-- The next tile of a dispenser as hd and h(d+1), and the dispenser after it (R136). -/
def nextTile (d : Dispenser) : Word × Word × Dispenser :=
  let nx := (d.w + d.tw - 1) / d.tw
  let ny := (d.h + d.th - 1) / d.th
  if d.next < nx * ny then
    let i := d.next % nx
    let j := d.next / nx
    let w := min d.tw (d.w - d.tw * i)
    let h := min d.th (d.h - d.th * j)
    (BitVec.ofNat 64 ((d.y0 + d.th * j) * 2 ^ 32 + (d.x0 + d.tw * i)), BitVec.ofNat 64 (h * 2 ^ 32 + w),
      { d with next := d.next + 1 })
  else (BitVec.allOnes 64, 0, d)

/-- Does a request of another strand to the same dispenser come first: it reached it in an earlier cycle, or in the same cycle from a lower
row, or a lower slot of the row (R292)? -/
def tileBehind (s : State) (msg p r sl die num : Nat) : Bool :=
  let at_ := reachedAt s msg
  s.msgs.any fun m => m.1 != msg && hasReached s m.1 && msgArrives s m.1 m.2 &&
    match m.2 with
    | .tile p' r' sl' die' num' _ =>
      p' == p && die' == die && num' == num &&
        (reachedAt s m.1 < at_ || (reachedAt s m.1 == at_ && (r' < r || (r' == r && sl' < sl))))
    | _ => false

/-- DISPENSER_REQUEST (R292): a dispenser serves a request; TILEGET is accepted with its grant. -/
def execDispenserRequest (msg : Nat) (s : State) : Out :=
  .next (match s.msgs.find? fun m => m.1 == msg with
    | some (_, .tile p r sl die num d) =>
      if !msgArrives s msg (.tile p r sl die num d) || tileBehind s msg p r sl die num then s else
      let s := dropMsg s msg
      let mine (x : Dispenser) : Bool := x.part == p && x.die == die && x.num == num
      match s.dispensers.find? mine with
      | none => s
      | some x =>
        if (getHead s r sl).wait != .tile msg then s
        else
          let (a, b, y) := nextTile x
          let s := { s with dispensers := s.dispensers.map fun z => if mine z then y else z }
          modHead s r sl fun h =>
            finishHead (headAccept (wrH (wrH h (BitVec.ofNat 4 d) a) (BitVec.ofNat 4 (d + 1)) b))
    | _ => s)

/-! Timed holds (R132, R135). -/

/-- The head of a strand may issue it again. -/
def endHold (h : Head) : Head := { h with wait := .no, why := 0 }

/-- PAUSE_END (R135). -/
def execPauseEnd (row slot : Nat) (s : State) : Out :=
  .next (match (getHead s row slot).wait with
    | .pause n => if slot < 8 && n ≤ (getRow s row).cycle then modHead s row slot endHold else s
    | _ => s)

/-- YIELD_HOLD_END (R132). -/
def execYieldHoldEnd (row slot : Nat) (s : State) : Out :=
  .next (match (getHead s row slot).wait with
    | .yield _ n => if slot < 8 && n ≤ (getRow s row).cycle then modHead s row slot endHold else s
    | _ => s)

end Sys2Proof.Machine
end

