-- ==== Sys2Proof/Machine/Power.lean ====
section
/-! DEFINITION. Renwyn's commands, keys and confidential contexts (R352, R384 to R388), row power, the thermal trip and device reset
(R389 to R393). -/

namespace Sys2Proof.Machine

/-! Renwyn (R352). -/

/-- Bytes of a command buffer at an offset. -/
def bufBytes (s : State) (off n : Nat) : List Byte :=
  (upTo n).map fun i => physRd s none (busAt s 32 (s.rwbuf.toNat + off + i))

/-- Write bytes into the command buffer at an offset. -/
def bufWrite (s : State) (off : Nat) (l : List Byte) : State :=
  (l.zipIdx).foldl (fun s p => physWr s none (busAt s 32 (s.rwbuf.toNat + off + p.2)) p.1) s

/-- A command ends with a code (R352). -/
def rwDone (s : State) (code : Nat) : State := { s with rwbusy := false, rwcode := code }

/-- Is a command under way for a function and context (R352)? -/
def rwPending (s : State) (cmd vf ctx : Nat) : Bool :=
  s.rwbusy && bits s.rwcmd 0 8 == cmd && bits s.rwcmd 8 5 == vf && bits s.rwcmd 16 8 == ctx

/-- Byte i of a number. -/
def byteAt (x i : Nat) : Byte := BitVec.ofNat 8 (x / 256 ^ i)

/-- The bytes of a measurement register, lowest first. -/
def digestBytes (x : BitVec 512) : List Byte := (upTo 64).map (byteAt x.toNat)

/-- The digest of a context's key-slot assignment and confidential bit (R385). -/
def slotDigest (s : State) (vf ctx : Nat) : BitVec 512 :=
  Config.shake256 (Config.slotBytes vf ctx ((s.keys.filter fun p => p.2.vf == vf && p.2.ctx == ctx).map (·.1))
    (isIn (vf, ctx) s.confidential))

/-- The signed part of the attestation report (R385), for a context or none: nonce, measurements, ceiling and version, digest. -/
def reportBody (s : State) (nonce : List Byte) (vf : Nat) (ctx : Option Nat) : List Byte :=
  let word := (Config.firmwareWord &&& 0xFFFFFFFFFFFFF000) ||| 0x960
  (upTo 64).map (fun i => nonce.getD i 0) ++ s.measured.toList.flatMap digestBytes ++ (upTo 8).map (byteAt word.toNat) ++
  match ctx with
  | some c => digestBytes (slotDigest s vf c)
  | none => List.replicate 64 0

/-- The report with its signature, within the buffer (R352, R385). -/
def reportOf (s : State) (nonce : List Byte) (vf : Nat) (ctx : Option Nat) : List Byte :=
  let body := reportBody s nonce vf ctx
  body ++ (upTo (min (3840 - 0x188) (Config.signatureLen body))).map (Config.signatureByte body)

/-- ATTEST (R385): the report of a context, or of none. -/
def execAttest (vf ctx : Nat) (s : State) : Out :=
  .next (
    if !rwPending s 1 vf ctx then s
    else if ctx != 255 && 16 ≤ ctx then rwDone s 2
    else rwDone (bufWrite s 0x100 (reportOf s (bufBytes s 0 64) vf (if ctx = 255 then none else some ctx))) 0)

/-- KEYLOAD (R387): a wrapped key is unwrapped into a slot of the context. -/
def execKeyload (vf ctx : Nat) (s : State) : Out :=
  .next (
    if !rwPending s 2 vf ctx then s
    else
      let kid := ((bufBytes s 0 1).headD 0).toNat
      let conf := ((bufBytes s 1 1).headD 0).getLsbD 0
      let len := physRdN s none (busAt s 32 (s.rwbuf.toNat + 8)) 8
      if 128 ≤ kid || 16 ≤ ctx || 4096 - 64 < len then rwDone s 2
      else if s.keys.any fun p => p.1 == kid && !(p.2.vf == vf && p.2.ctx == ctx) then rwDone s 4
      else
        match Config.unwrapKey (bufBytes s 64 len) with
        | none => rwDone s 3
        | some k =>
          rwDone { s with keys := tput s.keys kid ⟨k, vf, ctx⟩,
                          confidential := if conf && !isIn (vf, ctx) s.confidential then s.confidential ++ [(vf, ctx)]
                            else s.confidential } 0)

/-- Zero the key slots of a context and end its confidentiality (R352, R387). -/
def dropKeys (s : State) (vf ctx : Nat) : State :=
  { s with keys := s.keys.filter fun p => !(p.2.vf == vf && p.2.ctx == ctx),
           confidential := s.confidential.filter (· != (vf, ctx)) }

/-- KEYDROP (R352): refused while the context is registered. -/
def execKeydrop (vf ctx : Nat) (s : State) : Out :=
  .next (
    if !rwPending s 3 vf ctx then s
    else if 16 ≤ ctx then rwDone s 2
    else if ((getVf s vf).croots.toList.getD ctx ⟨false, 0⟩).v then rwDone s 4
    else rwDone (dropKeys s vf ctx) 0)

/-- VAULTERR (R352): the corrected-error counts. -/
def execVaulterr (vf ctx : Nat) (s : State) : Out :=
  .next (
    if !rwPending s 4 vf ctx then s
    else rwDone ((upTo 512).foldl (fun s v => physWrN s none (busAt s 32 (s.rwbuf.toNat + 8 * v)) 8 (getCore s v).errors) s) 0)

/-! Row power (R389 to R391). -/

/-- The code of a commanded state (R389). -/
def powerCode : Power → Nat
  | .run => 0 | .idle => 1 | .off => 2

/-- Worst-case power of the device if a row were commanded to a state and operating point (R390). -/
def powerSum (s : State) (row : Nat) (want : Power) (opp : Nat) : Nat :=
  ((upTo 32).map fun r =>
    if r = row then Config.rowPower r (powerCode want) opp
    else Config.rowPower r (powerCode (getRow s r).want) (getRow s r).oppWant).foldl (· + ·) 0

/-- A core whose power has gone: what belongs to its vault and to the debug block stays (R389). -/
def deadCore (k : Core) : Core :=
  { Core.reset with
    accepts := k.accepts, vaultWin := k.vaultWin, hold := k.hold, errors := k.errors, refreshNext := k.refreshNext,
    refreshLast := k.refreshLast, refreshDue := k.refreshDue, refreshing := k.refreshing, filter := k.filter, wctl := k.wctl,
    launchGen := k.launchGen }

/-- Take the power of a row away (R389). -/
def rowOff (s : State) (r : Nat) : State :=
  let s := forSlots (fun s sl => setHead s r sl Head.reset) s
  let s := forCols (fun s c =>
    forSlots (fun s sl => setLane s r c sl Lane.reset) (modCore s (coreIx r c) deadCore)) s
  let s := leaveTags { s with reqs := s.reqs.filter fun q => q.row != r } r
  modRow s r fun x => { x with want := .off, cur := .off, resident := none, images := [], next := none, itlb := [],
                               phase := if x.phase == .idle then .idle else .loaded }

/-- Is the device row available after bring-up (R393)? -/
def rowAvail (s : State) (r : Nat) : Bool := s.availRows.getLsbD r

/-- A ROWPWR write (R389 to R392). -/
def rowPower (s : State) (row : Nat) (want : Power) (opp : Nat) : State :=
  let opp := opp % 8
  let refuse := modRow s row fun x => { x with refused := true }
  if 32 ≤ row then s
  else if s.plimit < powerSum s row want opp || !rowAvail s row || (want == .off && (partOfRow s row).isSome) ||
      (want == .run && !s.hot.isEmpty) then refuse
  else if want == .off then modRow (rowOff s row) row fun x => { x with oppWant := opp, opp := opp }
  else modRow s row fun x => { x with want := want, cur := want, oppWant := opp }

/-- ROWPWR_RUN (R389). -/
def execRowpwrRun (row opp : Nat) (s : State) : Out := hostAct s (rowPower s row .run opp)
/-- ROWPWR_IDLE (R389). -/
def execRowpwrIdle (row opp : Nat) (s : State) : Out := hostAct s (rowPower s row .idle opp)
/-- ROWPWR_OFF (R391). -/
def execRowpwrOff (row opp : Nat) (s : State) : Out := hostAct s (rowPower s row .off opp)
/-- ROWPWR_OPP (R389): a new operating point in the commanded state. -/
def execRowpwrOpp (row opp : Nat) (s : State) : Out := hostAct s (rowPower s row (getRow s row).want opp)

/-- OPP_SWITCH_DONE (R389): the operating point is in effect and the row issues again. -/
def execOppSwitchDone (row : Nat) (s : State) : Out := .next (modRow s row fun x => { x with opp := x.oppWant })

/-- A PLIMIT write (R390): above the fused ceiling it is ignored. -/
def plimitPut (s : State) (v : Word) : State := if 2400 < bits v 0 12 then s else { s with plimit := bits v 0 12 }

/-- PLIMIT_WRITE (R390). -/
def execPlimitWrite (v : BitVec 64) (s : State) : Out := hostAct s (plimitPut s v)

/-- THERMAL_TRIP (R392): every job's tasks end with HALTED, every row goes OFF. -/
def execThermalTrip (die : Nat) (s : State) : Out :=
  .next (
    let s := (upTo 8).foldl (fun s p => killJob s p 43) s
    let s := (upTo 32).foldl rowOff s
    { s with trip := true, hot := if isIn die s.hot then s.hot else s.hot ++ [die] })

/-! Reset (R384, R393). -/

/-- A measurement register extended by the digest of an image (R384). -/
def extendM (m d : BitVec 512) : BitVec 512 := Config.shake256 (digestBytes m ++ digestBytes d)

/-- The signed boot from a stage on (R384): each image, as its digest and whether its signature holds, is measured and runs; the
first that fails does not run and stops the boot. -/
def bootImages : List (BitVec 512 × Bool) → Nat → Vector (BitVec 512) 4 → Vector (BitVec 512) 4 × Bool
  | [], _, m => (m, true)
  | (d, good) :: rest, k, m =>
    if good then bootImages rest (k + 1) (m.setIfInBounds k (extendM (m.toList.getD k 0) d)) else (m, false)

/-- What a reset does not reach: memory, the host's own, temperatures, and the model's own fields. -/
def afterReset (s : State) : State :=
  { State.reset with
    mem := s.mem, memPoison := s.memPoison, memKeys := s.memKeys, iommu := s.iommu, hot := s.hot,
    fresh := s.fresh, free := s.free, agenda := s.agenda, turn := s.turn, curRow := s.curRow, curSlot := s.curSlot }

/-- Rows that bring-up leaves OFF: those that are not available (R393). -/
def darkRows (s : State) : State :=
  (upTo 32).foldl (fun s r => if rowAvail s r then s else modRow s r fun x => { x with want := .off, cur := .off }) s

/-- DEVICE_RESET (R384, R393): bring-up with the boot images, the verdict of its other steps, the available rows and the Loft frame count.
A step that does not pass stops it: the device does not enumerate, no row is available, and the Loft frame count of the step that is not
reached stays at its reset value. -/
def execDeviceReset (avail : Nat) (boot : Bringup) (s : State) : Out :=
  .next (
    let f := if 1 ≤ boot.loftF && boot.loftF ≤ 32 then boot.loftF else 4
    let (m, booted) := bootImages boot.images 0 (Vector.replicate 4 0)
    let good := booted && boot.passed
    darkRows { afterReset s with
      availRows := if good then BitVec.ofNat 32 avail else 0, loftF := if good then f else 4, measured := m, enumerated := good })

end Sys2Proof.Machine
end

