-- ==== Sys2Proof/Machine/Debug.lean ====
section
/-! DEFINITION. The debug block: step mode, halts, sampling and trace, dumps, watch filters, uncorrectable errors (R364, R375 to
R383, R388). -/

namespace Sys2Proof.Machine

/-- STEP (R375): the stepped instruction has executed everywhere; the trap at the strand's next instruction, unless one of R357 that comes
before it is pending. -/
def execStep (row slot : Nat) (s : State) : Out :=
  .next (
    let h := getHead s row slot
    if row < 32 && slot < 8 && strandRuns s row slot && h.stepDue && h.task.isSome && h.flights.isEmpty && h.commit.isNone && h.wait == .no then
      headTrapDue s row slot .step (wordOfAddr (instrAddr h))
    else s)

/-- XTCTL_HALT (R380); ignored for a confidential context's row (R388). -/
def execXtctlHalt (row : Nat) (s : State) : Out := hostAct s (if row < 32 && !rowHidden s row then haltRow s row none else s)

/-- End a row's halt. -/
def releaseRow (s : State) (r : Nat) : State := modRow s r fun x => { x with halted := false, haltBy := none }

/-- XTCTL_RELEASE (R380). -/
def execXtctlRelease (row : Nat) (s : State) : Out := hostAct s (if row < 32 && !rowHidden s row then releaseRow s row else s)

/-! Sampling (R381). -/

/-- The WHY code of a flight at its column, 0 where it is ready. -/
def flightWhy (s : State) (r sl : Nat) (f : Flight) : Nat :=
  if f.capture then 1
  else
    match coreStep ⟨r, sl, f.col, f⟩ s with
    | .wait _ _ why => why
    | _ => 0

/-- The flight of the lowest column whose front instruction is not ready: reason and column. -/
def lowestWait (s : State) (r sl : Nat) (fs : List Flight) : Nat × Nat :=
  let front (c : Nat) : Option Flight := fs.find? fun f => f.col == c
  match (upTo 16).findSome? fun c =>
    match front c with
    | some f => if flightWhy s r sl f = 0 then none else some (flightWhy s r sl f, c)
    | none => none
  with
  | some p => p
  | none => (0, 31)

/-- The wait of a committing instruction (R381): that of the lowest core where it waits, else that of the head for its acceptance. -/
def commitWhy (s : State) (r sl : Nat) (k : Commit) : Nat × Nat :=
  let at_ (c : Nat) : Ctx := ⟨r, sl, c, k.flight⟩
  if k.flight.col < 16 then
    match checkExec k.flight.instr (at_ k.flight.col) s with
    | .wait _ why => (why, k.flight.col)
    | _ => (14, 31)
  else
    ((upTo 16).findSome? fun c =>
      if !isIn c k.left then none
      else
        match performExec k.flight.instr (at_ c) s (tget k.ops c []) with
        | .pending _ why => some (why, c)
        | .accepted _ => none).getD (14, 31)

/-- WHY and CORE of a placed strand (R381): a committing instruction's wait shows where it waits; DEDUCED, log 25. -/
def whyOf (s : State) (r sl : Nat) : Nat × Nat :=
  let h := getHead s r sl
  match h.commit with
  | some k => commitWhy s r sl k
  | none =>
    if h.why ≠ 0 then (h.why, 31)
    else if haltStops s r sl then (20, 31)
    else lowestWait s r sl h.flights

/-- The entry of a placed strand (R381); a confidential context shows the slot only (R388). -/
def sampleEntry (s : State) (r sl : Nat) : Word :=
  if rowHidden s r then BitVec.ofNat 64 (sl * 2 ^ 56)
  else
    let (why, col) := whyOf s r sl
    BitVec.ofNat 64 ((instrAddr (getHead s r sl)).toNat / 4 + 2 ^ 46 * why + 2 ^ 51 * col + 2 ^ 56 * sl + 2 ^ 59 * r)

/-- A sampling pulse: one record (R381). -/
def samplePulse (s : State) : State :=
  if s.dbg.tren then
    let es := (upTo 32).flatMap fun r => (upTo 8).filterMap fun sl =>
      if (getHead s r sl).task.isSome then some (sampleEntry s r sl) else none
    traceWrite s ([BitVec.ofNat 64 s.now, BitVec.ofNat 64 es.length] ++ List.replicate 6 0 ++ es)
  else s

/-- TRCTL_PULSE (R381). -/
def execTrctlPulse (s : State) : Out := hostAct s (samplePulse s)

/-- SAMPLING_PERIOD (R381): every PERIOD us. -/
def execSamplingPeriod (s : State) : Out :=
  .next (
    let d := s.dbg
    if d.period = 0 || s.now < d.lastPulse + 1000 * d.period then s
    else samplePulse { s with dbg := { d with lastPulse := d.lastPulse + 1000 * d.period } })

/-! Consistent dumps (R383). -/

/-- The UP links. -/
def upLinks (s : State) : List Nat := (upTo 12).filter fun l => (getLink s l).st == .up

/-- Write the image of every core (R383 step 2), in the layout of R257, one after the other. -/
def dumpImages (s : State) : State :=
  (upTo 512).foldl (fun s v =>
    putImage s (v / 16) (v % 16) fun k => (s.dbg.dumpBase.toNat + 2228224 * v + 2048 * k, rowKey s (v / 16))) s

/-- Start a dump (R383): rows halt, images are written, markers leave on every UP link; the channels of the links given are
recorded. -/
def startDump (s : State) (id : Nat) (links : List Nat) : State :=
  let s := (upTo 32).foldl (fun s r => haltRow s r none) s
  let s := dumpImages s
  { s with dbg := { s.dbg with
      dumpId := id, dumpDone := links.isEmpty, dumpLog := [], dumpSent := s.dbg.dumpSent ++ (upLinks s).map fun l => (l, id),
      dumpLinks := if links.isEmpty then none else some links } }

/-- DUMPCTL_GO (R383). -/
def execDumpctlGo (id : Nat) (s : State) : Out := hostAct s (startDump s (id % 65536) (upLinks s))

/-- DUMP_MARKER (R383): a new ID starts a dump; else the link's channel record ends. -/
def execDumpMarker (link id : Nat) (s : State) : Out :=
  .next (
    if (getLink s link).st != .up then s
    else if id % 65536 != s.dbg.dumpId then startDump s (id % 65536) ((upLinks s).filter (· != link))
    else
      match s.dbg.dumpLinks with
      | some l =>
        let l := l.filter (· != link)
        { s with dbg := { s.dbg with dumpLinks := if l.isEmpty then none else some l, dumpDone := l.isEmpty } }
      | none => s)

/-! Watch filters (R376, R378, R379). -/

/-- A filter with one of its 64 words replaced. -/
def filterPut (f : BitVec 4096) (i : Nat) (v : Word) : BitVec 4096 :=
  (f &&& ~~~(BitVec.ofNat 4096 ((2 ^ 64 - 1) * 2 ^ (64 * i)))) ||| BitVec.ofNat 4096 (v.toNat * 2 ^ (64 * i))

/-- A write of WF0 to WF63, or of WCTL as word 64 (R378, R379); ignored for a confidential context's core (R388). -/
def watchPut (s : State) (core word : Nat) (v : Word) : State :=
  if 512 ≤ core || 64 < word || rowHidden s (core / 16) then s
  else modCore s core fun k => if word = 64 then { k with wctl := v &&& 0x3FF } else { k with filter := filterPut k.filter word v }

/-- WATCH_UPDATE (R378). -/
def execWatchUpdate (core word : Nat) (v : BitVec 64) (s : State) : Out := hostAct s (watchPut s core word v)

/-! Uncorrectable errors (R259, R260, R364). -/

/-- A poisoned register of a list. -/
def addPoison (l : List Nat) (n : Nat) : List Nat := if isIn n l then l else l ++ [n]

/-- Stop every task that a row's slots hold now (R364). -/
def stopTeam (s : State) (r : Nat) : State :=
  let ts := (upTo 8).filterMap fun sl => (getHead s r sl).task.map fun t => (sl, t)
  ts.foldl (fun s p => if (getHead s r p.1).task == some p.2 then stopStrand s r p.1 41 else s) s

/-- UNCORRECTABLE_ERROR (R364): a register or granule is poisoned; in control state every task of the row's team is stopped. -/
def execUncorrectableError (t : ErrTarget) (s : State) : Out :=
  .next (match t with
    | .g core slot num =>
      if core < 512 && slot < 8 && 1 ≤ num && num < 32 then modLane s (core / 16) (core % 16) slot fun l => { l with poison := addPoison l.poison num } else s
    | .m core slot num =>
      if core < 512 && slot < 8 && 1 ≤ num && num < 8 then
        modLane s (core / 16) (core % 16) slot fun l => { l with poison := addPoison l.poison (0x200 + num) }
      else s
    | .h row slot num =>
      if row < 32 && slot < 8 && 1 ≤ num && num < 16 then modHead s row slot fun h => { h with poison := addPoison h.poison num } else s
    | .csr row slot num => if row < 32 && slot < 8 then modHead s row slot fun h => { h with poison := addPoison h.poison (0x800 + num) } else s
    | .pool core granule => if core < 512 && granule < 32768 then modCore s core fun k => poolPoisonAdd k [granule] else s
    | .cellar granule => if regionOf (64 * granule) == .cellar then physPoison s [granule] else s
    | .control row => if row < 32 then stopTeam s row else s)

end Sys2Proof.Machine
end

