-- ==== Sys2Proof/Machine/HostRegs.lean ====
section
/-! DEFINITION. The host's registers and apertures: shootdowns, BAR2, partitions, function mapping, and every register without a row
of its own (R273, R339 to R343, R349 to R352, R379, R389, R390, R392). -/

namespace Sys2Proof.Machine

/-! Shootdown (R342). -/

/-- The posted accesses and the misses whose walks have begun (R270). -/
def walksBegun (s : State) : List Nat :=
  ((s.reqs.filter fun q => q.st == .walking).map (·.id) ++ (s.walks.filter fun w => w.done.isNone).map (·.id)).filter fun id =>
    (walksNamed s id).any (walkBegun s)

/-- Has no walk of a list, by access or miss, still to finish? -/
def walksOver (s : State) (ids : List Nat) : Bool :=
  !((s.reqs.any fun q => q.st == .walking && isIn q.id ids) || s.walks.any fun w => w.done.isNone && isIn w.id ids)

/-- An XSHOOT write: ignored while BUSY; else every walk that has begun must finish. -/
def xshootPut (s : State) (vf : Nat) (v : Word) : State :=
  if 32 ≤ vf || (getVf s vf).xbusy then s
  else
    let ctx := bits v 8 8
    modVf s vf fun x =>
      { x with xbusy := true, xall := v.getLsbD 1, xctx := ctx, xva := bits v 16 32 * 65536,
               xwalks := walksBegun s }

/-- XSHOOT_WRITE (R342). -/
def execXshootWrite (vf : Nat) (v : BitVec 64) (s : State) : Out := hostAct s (xshootPut s vf v)

/-- Does a shootdown name a leaf? -/
def shootHits (vf : Nat) (x : Vf) (e : TlbEntry) : Bool :=
  e.vf == vf && e.ctx == x.xctx && (x.xall || (e.page ≤ x.xva + 65535 && x.xva < e.page + e.size))

/-- SHOOTDOWN_COMPLETE (R342): once those walks have finished the TLBs of the partition have dropped the leaves and BUSY falls. -/
def execShootdownComplete (vf : Nat) (s : State) : Out :=
  .next (
    let x := getVf s vf
    if !x.xbusy || !walksOver s x.xwalks then s
    else
      let p := getPart s x.part
      let inside (r : Nat) : Bool := p.first ≤ r && r < p.first + partRows p
      let keep (l : List TlbEntry) : List TlbEntry := l.filter fun e => !shootHits vf x e
      modVf { s with
        cores := s.cores.map fun k => if inside (k.1 / 16) then (k.1, { k.2 with tlb := keep k.2.tlb }) else k
        rows := s.rows.map fun r => if inside r.1 then (r.1, { r.2 with itlb := keep r.2.itlb }) else r }
        vf fun x => { x with xbusy := false, xwalks := [] })

/-! BAR2 (R340). -/

/-- Cellar address of an aperture offset of a partition. -/
def apertureAddr (p : Part) (off : Nat) : Nat := 2 ^ 29 * (16 * p.first) + off

/-- Is an aperture access served: a registered context, within the partition's Cellar, no byte in a Loft row (R340)? -/
def apertureOk (s : State) (vf off size : Nat) : Bool :=
  let v := getVf s vf
  let p := getPart s v.part
  v.en && p.en && (v.croots.toList.getD v.jctx ⟨false, 0⟩).v && off + size ≤ 2 ^ 33 * partRows p &&
  !(inLoft s (apertureAddr p off) || inLoft s (apertureAddr p (off + size - 1)))

/-- An error charged to a function, saturating (R350). -/
def chargeVf (s : State) (vf : Nat) : State := modVf s vf fun v => { v with errors := min (v.errors + 1) (2 ^ 32 - 1) }

/-- The bytes a host read returns; those of a poisoned granule are free values (R259, R340). DESIGN CHOICE: such a read is served and is no
error that is charged to the function, log 98. -/
def apertureRead (s : State) (pa size : Nat) : State × List Byte :=
  let bad := (physBad s pa size).isSome
  let byte (o : Nat) : Nat :=
    if isIn ((pa + o) / 64) s.memPoison then (Config.freeValue (s.free + o)).toNat % 256 else (physRd s none (pa + o)).toNat
  ({ s with free := if bad then s.free + size else s.free }, (upTo size).map fun o => BitVec.ofNat 8 (byte o))

/-- A BAR2 read completes with an answer: its bytes, or a Completer Abort. -/
def hostAnswer (s : State) (vf : Nat) (x : Option (List Byte)) : State := modVf s vf fun v => { v with answer := x }

/-- BAR2_READ (R338, R340): of 1 to 4,096 bytes; the completion stands in the function's record. -/
def execBar2Read (vf off size : Nat) (s : State) : Out :=
  .next (
    if !s.enumerated || 32 ≤ vf || size = 0 || 4096 < size then s
    else if apertureOk s vf off size then
      let (s, x) := apertureRead s (apertureAddr (getPart s (getVf s vf).part) off) size
      hostAnswer s vf (some x)
    else hostAnswer (chargeVf s vf) vf (some (List.replicate size 0xFF)))

/-- BAR2_WRITE (R338, R340): of 1 to 512 bytes, which stand as given, without encryption. DESIGN CHOICE: a write that covers a poisoned
granule only in part writes nothing (R262) and is charged as an error, log 88. -/
def execBar2Write (vf off size data : Nat) (s : State) : Out :=
  .next (
    if !s.enumerated || 32 ≤ vf || size = 0 || 512 < size then s
    else
      let pa := apertureAddr (getPart s (getVf s vf).part) off
      if apertureOk s vf off size && !narrowBad s pa size then peerWrite s pa size data
      else chargeVf s vf)

/-- A BAR2 access misses its bound (R337): a read completes with a Completer Abort; a posted write is discarded and charged. -/
def hostLost (s : State) (vf : Nat) (write : Bool) : State :=
  if !s.enumerated || 32 ≤ vf || !(getVf s vf).en then s
  else if write then chargeVf s vf else hostAnswer s vf none

/-! Partitions and function mapping (R350). -/

/-- Do two row ranges overlap? -/
def rangesMeet (a n b m : Nat) : Bool := a < b + m && b < a + n

/-- Is a PARTp write refused (R350)? Its rows are checked whatever EN is. A FIRST that is no multiple of 4 is refused as well. -/
def partRefused (s : State) (p : Nat) (en : Bool) (first size : Nat) : Bool :=
  let old := getPart s p
  let n := 4 * 2 ^ size
  (old.job.isSome && (old.en != en || old.first != first || old.size != size)) ||
  32 < first + n || first % 4 != 0 || ((upTo n).any fun i => !rowAvail s (first + i)) ||
  (en && (upTo 8).any fun q => q != p && (getPart s q).en && rangesMeet first n (getPart s q).first (partRows (getPart s q)))

/-- A PARTp write (R350). -/
def partPut (s : State) (p : Nat) (v : Word) : State :=
  if 8 ≤ p then s
  else
    let s := if v.getLsbD 24 then modPart s p fun x => { x with refused := false } else s
    if partRefused s p (v.getLsbD 0) (bits v 8 5) (bits v 16 2) then modPart s p fun x => { x with refused := true }
    else modPart s p fun x => { x with en := v.getLsbD 0, first := bits v 8 5, size := bits v 16 2 }

/-- PART_WRITE (R350). -/
def execPartWrite (p : Nat) (v : BitVec 64) (s : State) : Out := hostAct s (partPut s p v)

/-- Has a function a loaded job? -/
def vfLoaded (s : State) (f : Nat) : Bool := (upTo 8).any fun p => ((getPart s p).job.map (·.vf)) == some f

/-- A VFMAPf write (R350). -/
def vfmapPut (s : State) (f : Nat) (v : Word) : State :=
  if 32 ≤ f then s
  else
    let s := if v.getLsbD 16 then modVf s f fun x => { x with refused := false } else s
    if vfLoaded s f || !(getPart s (bits v 8 3)).en then modVf s f fun x => { x with refused := true }
    else modVf s f fun x => { x with en := v.getLsbD 0, part := bits v 8 3 }

/-- VFMAP_WRITE (R350). -/
def execVfmapWrite (f : Nat) (v : BitVec 64) (s : State) : Out := hostAct s (vfmapPut s f v)

/-! Registers of a virtual function (R273, R340 to R343). -/

/-- An LQCTL write (R273). -/
def lqctlPut (v : Word) (x : Queue) : Queue :=
  let log := bits v 8 5
  { x with en := v.getLsbD 0, log := if !x.en && 4 ≤ log && log ≤ 16 then log else x.log,
           ovf := x.ovf && !v.getLsbD 16, derr := x.derr && !v.getLsbD 18 }

/-- A JCTL write (R341). -/
def jctlPut (s : State) (vf : Nat) (v : Word) : State :=
  if v.getLsbD 1 && v.getLsbD 2 then s
  else
    let s := modVf s vf fun x => { x with jctx := bits v 16 8 }
    let s := if v.getLsbD 10 && (getVf s vf).en then modPart s (getVf s vf).part fun x => { x with pref := false } else s
    let s := if v.getLsbD 0 then jctlKillAt s vf else s
    let s := if v.getLsbD 1 then jctlPreAt s vf else s
    if v.getLsbD 2 then jctlResAt s vf else s

/-- Is a job of a function's context loaded (R343)? -/
def ctxLoaded (s : State) (vf ctx : Nat) : Bool :=
  (upTo 8).any fun p => match (getPart s p).job with
    | some j => j.vf == vf && j.launch.ctx == ctx
    | none => false

/-- A CROOTn write (R343); unregistering a context zeroes its key slots (R387). -/
def crootPut (s : State) (vf n : Nat) (v : Word) : State :=
  if ctxLoaded s vf n then s
  else
    let old := ((getVf s vf).croots.toList.getD n ⟨false, 0⟩).v
    let s := if old && !v.getLsbD 0 then dropKeys s vf n else s
    modVf s vf fun x => { x with croots := x.croots.setIfInBounds n ⟨v.getLsbD 0, bits v 13 25⟩ }

/-- Half i of an MSI-X table entry replaced. -/
def msixPut (t : Vector (BitVec 128) 16) (word : Nat) (v : Word) : Vector (BitVec 128) 16 :=
  let e := t.toList.getD (word / 2) 0
  t.setIfInBounds (word / 2) (if word % 2 = 0 then (e.extractLsb' 64 64) ++ v else v ++ (e.extractLsb' 0 64))

/-- A write to a register of a virtual function's BAR0 (R340). -/
def vfRegPut (s : State) (vf off : Nat) (v : Word) : State :=
  if 32 ≤ vf || off % 8 ≠ 0 then s
  else if off < 0x100 then
    let q := off / 0x40
    match off % 0x40 with
    | 0x00 => modQueue s vf q fun x => if x.en then x else { x with base := v &&& 0xFFFFFFFFFFFFFF80 }
    | 0x08 => modQueue s vf q (lqctlPut v)
    | 0x18 => lqtailPut s vf q v
    | _ => s
  else if off = 0x100 then jctlPut s vf v
  else if off = 0x108 then xshootPut s vf v
  else if 0x200 ≤ off && off < 0x280 then crootPut s vf ((off - 0x200) / 8) v
  else if 0x8000 ≤ off && off < 0x8100 then modVf s vf fun x => { x with msix := msixPut x.msix ((off - 0x8000) / 8) v }
  else s

/-! Registers of the physical function (R349 to R352, R389, R390, R392). -/

/-- A LINKl write: EN (R351); the link trains, or is held DOWN. -/
def linkPut (v : Word) (l : Link) : Link :=
  if l.st == .retired then { l with en := v.getLsbD 2 }
  else if v.getLsbD 2 then { l with en := true, st := if l.st == .down then .train else l.st }
  else { l with en := false, st := .down }

/-- A write to a word of an import entry (R351). -/
def importPut (v : Word) (word : Nat) (i : Import) : Import :=
  match word with
  | 0 => { i with v := v.getLsbD 0, r := v.getLsbD 1, w := v.getLsbD 2, part := bits v 8 3, peer := bits v 16 10 }
  | 1 => { i with base := bits v 21 17 }
  | 2 => { i with limit := bits v 21 17 }
  | _ => i

/-- An RWCMD write (R352): ignored while BUSY; an unknown command ends with code 1. -/
def rwcmdPut (s : State) (v : Word) : State :=
  if s.rwbusy then s
  else
    let s := { s with rwcmd := v &&& 0xFF1FFF }
    if 1 ≤ bits v 0 8 && bits v 0 8 ≤ 4 then { s with rwbusy := true } else { s with rwcode := 1 }

/-- A ROWPWR write (R389): STATE 3 is ignored. -/
def rowpwrPut (s : State) (row : Nat) (v : Word) : State :=
  let s := if v.getLsbD 8 then modRow s row fun x => { x with refused := false } else s
  match bits v 0 2 with
  | 0 => rowPower s row .run (bits v 2 3)
  | 1 => rowPower s row .idle (bits v 2 3)
  | 2 => rowPower s row .off (bits v 2 3)
  | _ => s

/-- Is a link UP or in training (R351)? -/
def anyLinkActive (s : State) : Bool := (upTo 12).any fun l => (getLink s l).st == .up || (getLink s l).st == .train

/-- A write to a register of the physical function's BAR0 (R349). -/
def pfRegPut (s : State) (off : Nat) (v : Word) : State :=
  if off % 8 ≠ 0 then s
  else if 0x100 ≤ off && off < 0x140 then partPut s ((off - 0x100) / 8) v
  else if 0x200 ≤ off && off < 0x300 then vfmapPut s ((off - 0x200) / 8) v
  else if 0x300 ≤ off && off < 0x400 then modVf s ((off - 0x300) / 8) fun x => { x with errors := v.toNat % 2 ^ 32 }
  else if off = 0x400 then (if anyLinkActive s then s else { s with peerId := bits v 0 10 })
  else if 0x500 ≤ off && off < 0x560 then modLink s ((off - 0x500) / 8) (linkPut v)
  else if 0x800 ≤ off && off < 0x1000 then
    let i := (off - 0x800) / 32
    { s with imports := tput s.imports i (importPut v (off / 8 % 4) (tget s.imports i ⟨false, false, false, 0, 0, 0, 0⟩)) }
  else if off = 0x1000 then rwcmdPut s v
  else if off = 0x1008 then { s with rwbuf := v &&& 0xFFFFFFFFFFFFF000 }
  else if 0x2000 ≤ off && off < 0x2100 then rowpwrPut s ((off - 0x2000) / 8) v
  else if off = 0x2100 then plimitPut s v
  else if off = 0x2108 then { s with trip := s.trip && !v.getLsbD 0 }
  else if 0x8000 ≤ off && off < 0x8100 then { s with pfMsix := msixPut s.pfMsix ((off - 0x8000) / 8) v }
  else s

/-! Registers of the debug block (R379). -/

/-- An XTCTL write (R379, R380, R388). -/
def xtctlPut (s : State) (row : Nat) (v : Word) : State :=
  if rowHidden s row then s
  else
    let s := modRow s row fun x => { x with arm := v.getLsbD 0, auto_ := v.getLsbD 1, causes := BitVec.ofNat 5 (bits v 2 5) }
    let s := if v.getLsbD 9 then haltRow s row none else s
    if v.getLsbD 10 then releaseRow s row else s

/-- A TRCTL write (R379, R381): setting EN starts TRPTR again. -/
def trctlPut (s : State) (v : Word) : State :=
  let d := s.dbg
  let s := { s with dbg := { d with
    tren := v.getLsbD 0, trptr := if !d.tren && v.getLsbD 0 then 0 else d.trptr, traps := v.getLsbD 1,
    wrap := d.wrap && !v.getLsbD 3, period := bits v 8 24, lastPulse := if bits v 8 24 = d.period then d.lastPulse else s.now } }
  if v.getLsbD 2 then samplePulse s else s

/-- Is it a power of two from 4 KiB to 1 GiB (R379)? -/
def traceSizeOk (n : Nat) : Bool := (upTo 19).any fun i => n == 2 ^ (12 + i)

/-- A write to a register of the debug block (R379). -/
def debugRegPut (s : State) (off : Nat) (v : Word) : State :=
  let d := s.dbg
  if off % 8 ≠ 0 then s
  else if off < 0x80000 then
    watchPut s (off / 0x400) (off % 0x400 / 8) v
  else if off < 0x80200 then (if off % 16 = 0 then xtctlPut s ((off - 0x80000) / 16) v else s)
  else if off = 0x90000 then { s with dbg := { d with trbase := v &&& 0xFFFFFFFFFFFFF000 } }
  else if off = 0x90008 then (if traceSizeOk v.toNat then { s with dbg := { d with trsize := v } } else s)
  else if off = 0x90018 then trctlPut s v
  else if off = 0x90100 then
    if v.getLsbD 0 then startDump s (bits v 16 16) (upLinks s) else { s with dbg := { d with dumpId := bits v 16 16 } }
  else if off = 0x90108 then { s with dbg := { d with dumpBase := v &&& 0x3FFFFFF800 } }
  else s

/-- REGISTER_WRITE (R273, R340, R349, R379): a write to a register by its block and offset; reserved offsets ignore it. -/
def execRegisterWrite (space : RegSpace) (off : Nat) (v : BitVec 64) (s : State) : Out :=
  .next (if !s.enumerated then s else match space with
    | .vf n => vfRegPut s n off v
    | .pf => pfRegPut s off v
    | .debug => debugRegPut s off v)

/-! Reads of registers (R6, R7): a WO or reserved field and a reserved offset read as 0. -/

/-- A field of a register: its lowest bit and its value. -/
def regField (lo x : Nat) : Nat := x * 2 ^ lo

/-- A one-bit field. -/
def regFlag (lo : Nat) (b : Bool) : Nat := if b then 2 ^ lo else 0

/-- A register of a launch queue (R273). -/
def queueValue (x : Queue) (off : Nat) : Nat :=
  match off with
  | 0x00 => x.base.toNat
  | 0x08 => regFlag 0 x.en + regField 8 x.log + regFlag 16 x.ovf + regFlag 17 x.busy + regFlag 18 x.derr + regField 24 (x.lcode % 256)
  | 0x10 => x.head % 2 ^ 32
  | 0x18 => x.tail % 2 ^ 32
  | _ => 0

/-- STATE of JCTL (R341). -/
def jobStateCode : JobState → Nat
  | .idle => 0 | .running => 1 | .moving => 2 | .saved => 3

/-- JCTL of a function (R341); a function that is mapped to no partition has no job. -/
def jctlValue (s : State) (v : Vf) : Nat :=
  let p := getPart s v.part
  (if v.en then regField 8 (jobStateCode p.jstate) + regFlag 10 p.pref else 0) + regField 16 (v.jctx % 256)

/-- XSHOOT of a function (R342). -/
def xshootValue (v : Vf) : Nat := regFlag 0 v.xbusy + regFlag 1 v.xall + regField 8 (v.xctx % 256) + v.xva / 65536 % 2 ^ 32 * 65536

/-- CROOTn (R343). -/
def crootValue (c : Croot) : Nat := regFlag 0 c.v + regField 13 (c.root % 2 ^ 25)

/-- Word i of an MSI-X table (R340, R349). -/
def msixValue (t : Vector (BitVec 128) 16) (i : Nat) : Nat := (t.toList.getD (i / 2) 0).toNat / 2 ^ (64 * (i % 2)) % 2 ^ 64

/-- A register of a virtual function's BAR0 (R340). -/
def vfRegValue (s : State) (vf off : Nat) : Nat :=
  let v := getVf s vf
  if 32 ≤ vf || off % 8 ≠ 0 then 0
  else if off < 0x100 then queueValue (getQueue v (off / 0x40)) (off % 0x40)
  else if off = 0x100 then jctlValue s v
  else if off = 0x108 then xshootValue v
  else if 0x200 ≤ off && off < 0x280 then crootValue (v.croots.toList.getD ((off - 0x200) / 8) ⟨false, 0⟩)
  else if 0x8000 ≤ off && off < 0x8100 then msixValue v.msix ((off - 0x8000) / 8)
  else if off = 0x9000 then v.msixPend.toNat
  else 0

/-- Number of available rows (R350, R393). -/
def rowCount (s : State) : Nat := (upTo 32).countP (rowAvail s)

/-- PARTp (R350). -/
def partValue (x : Part) : Nat := regFlag 0 x.en + regField 8 x.first + regField 16 x.size + regFlag 24 x.refused

/-- VFMAPf (R350). -/
def vfmapValue (v : Vf) : Nat := regFlag 0 v.en + regField 8 v.part + regFlag 16 v.refused

/-- STATE of LINKl (R351). -/
def linkCode : LinkSt → Nat
  | .up => 0 | .train => 1 | .down => 2 | .retired => 3

/-- LINKl (R351). -/
def linkValue (l : Link) : Nat :=
  linkCode l.st + regFlag 2 l.en + regField 8 (l.corr % 2 ^ 24) + regField 32 (l.uncor % 2 ^ 16) + regField 48 (l.trains % 2 ^ 16)

/-- A word of an import entry (R351). -/
def importValue (i : Import) (word : Nat) : Nat :=
  match word with
  | 0 => regFlag 0 i.v + regFlag 1 i.r + regFlag 2 i.w + regField 8 i.part + regField 16 i.peer
  | 1 => regField 21 i.base
  | 2 => regField 21 i.limit
  | _ => 0

/-- ROWPWR of a row (R389). -/
def rowpwrValue (x : Row) : Nat := powerCode x.want + regField 2 x.oppWant + regFlag 8 x.refused + regField 9 (powerCode x.cur)

/-- A register of the physical function's BAR0 (R349 to R352, R389, R390, R392). -/
def pfRegValue (s : State) (off : Nat) : Nat :=
  if off % 8 ≠ 0 then 0
  else if off = 0 then rowCount s + regField 32 s.availRows.toNat
  else if 0x100 ≤ off && off < 0x140 then partValue (getPart s ((off - 0x100) / 8))
  else if 0x200 ≤ off && off < 0x300 then vfmapValue (getVf s ((off - 0x200) / 8))
  else if 0x300 ≤ off && off < 0x400 then (getVf s ((off - 0x300) / 8)).errors
  else if off = 0x400 then s.peerId
  else if 0x500 ≤ off && off < 0x560 then linkValue (getLink s ((off - 0x500) / 8))
  else if 0x800 ≤ off && off < 0x1000 then
    importValue (tget s.imports ((off - 0x800) / 32) ⟨false, false, false, 0, 0, 0, 0⟩) (off / 8 % 4)
  else if off = 0x1000 then s.rwcmd.toNat
  else if off = 0x1008 then s.rwbuf.toNat
  else if off = 0x1010 then regFlag 0 s.rwbusy + regField 8 (s.rwcode % 256)
  else if 0x2000 ≤ off && off < 0x2100 then rowpwrValue (getRow s ((off - 0x2000) / 8))
  else if off = 0x2100 then s.plimit
  else if off = 0x2108 then regFlag 0 s.trip
  else if 0x8000 ≤ off && off < 0x8100 then msixValue s.pfMsix ((off - 0x8000) / 8)
  else if off = 0x9000 then s.pfPend.toNat
  else 0

/-- A filter word or WCTL of a core (R379); 0 for a core of a confidential context (R388). -/
def watchValue (s : State) (core word : Nat) : Nat :=
  if rowHidden s (core / 16) then 0
  else if word < 64 then (getCore s core).filter.toNat / 2 ^ (64 * word) % 2 ^ 64
  else if word = 64 then (getCore s core).wctl.toNat
  else 0

/-- XTCTL of a row (R379); 0 for a row of a confidential context (R388). -/
def xtctlValue (s : State) (r : Nat) : Nat :=
  let x := getRow s r
  if rowHidden s r then 0 else regFlag 0 x.arm + regFlag 1 x.auto_ + regField 2 x.causes.toNat + regFlag 8 x.halted

/-- A register of the debug block (R379). -/
def debugRegValue (s : State) (off : Nat) : Nat :=
  let d := s.dbg
  if off % 8 ≠ 0 then 0
  else if off < 0x80000 then watchValue s (off / 0x400) (off % 0x400 / 8)
  else if off < 0x80200 then (if off % 16 = 0 then xtctlValue s ((off - 0x80000) / 16) else 0)
  else if off = 0x90000 then d.trbase.toNat
  else if off = 0x90008 then d.trsize.toNat
  else if off = 0x90010 then d.trptr
  else if off = 0x90018 then regFlag 0 d.tren + regFlag 1 d.traps + regFlag 3 d.wrap + regField 8 d.period
  else if off = 0x90100 then regFlag 1 d.dumpDone + regField 16 d.dumpId
  else if off = 0x90108 then d.dumpBase.toNat
  else 0

/-- The value that a read of a register returns (R6, R7, R340, R349, R379). -/
def registerRead (s : State) (space : RegSpace) (off : Nat) : Word :=
  BitVec.ofNat 64 (match space with
    | .vf n => vfRegValue s n off
    | .pf => pfRegValue s off
    | .debug => debugRegValue s off)

end Sys2Proof.Machine
end

