-- ==== Sys2Proof/Machine/Lane.lean ====
section
/-! DEFINITION. The lane instructions: each enters the row at the head (R19, R26, R165); its effect at a core is its definition
in the *Core files, reached through coreExec, checkExec and performExec. -/

namespace Sys2Proof.Machine

/-- BKPT.lane and TRAP at the head (R238): a precise trap with TVAL n; at handler level BKPT.lane does nothing. -/
def issueTrap (i : Instr) (n : BitVec 10) (c : Cause) (quiet : Bool) (s : State) : State :=
  let (r, sl) := here s
  let h := getHead s r sl
  if h.commit.isSome || h.wait != .no then s
  else if !laneLegal (pwordOf s r) h.handler i (pxOf h) then illegalWord s r sl (encodeWord i)
  else if h.handler && quiet then headDone s r sl h
  else headTrap s r sl c (n.setWidth 64)

/-- ADD (R152). -/
def execAdd (d a b : BitVec 5) (w : West) (s : State) : Out := .next (issueLane (.add d a b w) s)
/-- SUB (R152). -/
def execSub (d a b : BitVec 5) (w : West) (s : State) : Out := .next (issueLane (.sub d a b w) s)
/-- AND (R152). -/
def execAnd (d a b : BitVec 5) (w : West) (s : State) : Out := .next (issueLane (.and d a b w) s)
/-- OR (R152). -/
def execOr (d a b : BitVec 5) (w : West) (s : State) : Out := .next (issueLane (.or d a b w) s)
/-- XOR (R152). -/
def execXor (d a b : BitVec 5) (w : West) (s : State) : Out := .next (issueLane (.xor d a b w) s)
/-- SHL (R152). -/
def execShl (d a b : BitVec 5) (w : West) (s : State) : Out := .next (issueLane (.shl d a b w) s)
/-- SHR (R152). -/
def execShr (d a b : BitVec 5) (w : West) (s : State) : Out := .next (issueLane (.shr d a b w) s)
/-- SAR (R152). -/
def execSar (d a b : BitVec 5) (w : West) (s : State) : Out := .next (issueLane (.sar d a b w) s)
/-- MUL (R152). -/
def execMul (d a b : BitVec 5) (w : West) (s : State) : Out := .next (issueLane (.mul d a b w) s)
/-- SLT (R152). -/
def execSlt (d a b : BitVec 5) (w : West) (s : State) : Out := .next (issueLane (.slt d a b w) s)
/-- SLTN (R152). -/
def execSltn (d a b : BitVec 5) (w : West) (s : State) : Out := .next (issueLane (.sltn d a b w) s)
/-- MIN (R152). -/
def execMin (d a b : BitVec 5) (w : West) (s : State) : Out := .next (issueLane (.min d a b w) s)
/-- MAX (R152). -/
def execMax (d a b : BitVec 5) (w : West) (s : State) : Out := .next (issueLane (.max d a b w) s)
/-- MINN (R152). -/
def execMinn (d a b : BitVec 5) (w : West) (s : State) : Out := .next (issueLane (.minn d a b w) s)
/-- MAXN (R152). -/
def execMaxn (d a b : BitVec 5) (w : West) (s : State) : Out := .next (issueLane (.maxn d a b w) s)
/-- MULH (R152). -/
def execMulh (d a b : BitVec 5) (w : West) (s : State) : Out := .next (issueLane (.mulh d a b w) s)
/-- MULHN (R152). -/
def execMulhn (d a b : BitVec 5) (w : West) (s : State) : Out := .next (issueLane (.mulhn d a b w) s)
/-- DIV (R152). -/
def execDiv (d a b : BitVec 5) (w : West) (s : State) : Out := .next (issueLane (.div d a b w) s)
/-- DIVN (R152). -/
def execDivn (d a b : BitVec 5) (w : West) (s : State) : Out := .next (issueLane (.divn d a b w) s)
/-- REM (R152). -/
def execRem (d a b : BitVec 5) (w : West) (s : State) : Out := .next (issueLane (.rem d a b w) s)
/-- REMN (R152). -/
def execRemn (d a b : BitVec 5) (w : West) (s : State) : Out := .next (issueLane (.remn d a b w) s)
/-- CLZ (R152). -/
def execClz (d a : BitVec 5) (w : Bool) (s : State) : Out := .next (issueLane (.clz d a w) s)
/-- CTZ (R152). -/
def execCtz (d a : BitVec 5) (w : Bool) (s : State) : Out := .next (issueLane (.ctz d a w) s)
/-- POPC (R152). -/
def execPopc (d a : BitVec 5) (w : Bool) (s : State) : Out := .next (issueLane (.popc d a w) s)
/-- ADD with a constant word (R151). -/
def execAddConst (d a : BitVec 5) (k : BitVec 8) (s : State) : Out := .next (issueLane (.addConst d a k) s)
/-- SUB with a constant word (R151). -/
def execSubConst (d a : BitVec 5) (k : BitVec 8) (s : State) : Out := .next (issueLane (.subConst d a k) s)
/-- AND with a constant word (R151). -/
def execAndConst (d a : BitVec 5) (k : BitVec 8) (s : State) : Out := .next (issueLane (.andConst d a k) s)
/-- OR with a constant word (R151). -/
def execOrConst (d a : BitVec 5) (k : BitVec 8) (s : State) : Out := .next (issueLane (.orConst d a k) s)
/-- XOR with a constant word (R151). -/
def execXorConst (d a : BitVec 5) (k : BitVec 8) (s : State) : Out := .next (issueLane (.xorConst d a k) s)
/-- SHL with a constant word (R151). -/
def execShlConst (d a : BitVec 5) (k : BitVec 8) (s : State) : Out := .next (issueLane (.shlConst d a k) s)
/-- SHR with a constant word (R151). -/
def execShrConst (d a : BitVec 5) (k : BitVec 8) (s : State) : Out := .next (issueLane (.shrConst d a k) s)
/-- SAR with a constant word (R151). -/
def execSarConst (d a : BitVec 5) (k : BitVec 8) (s : State) : Out := .next (issueLane (.sarConst d a k) s)
/-- MUL with a constant word (R151). -/
def execMulConst (d a : BitVec 5) (k : BitVec 8) (s : State) : Out := .next (issueLane (.mulConst d a k) s)
/-- SLT with a constant word (R151). -/
def execSltConst (d a : BitVec 5) (k : BitVec 8) (s : State) : Out := .next (issueLane (.sltConst d a k) s)
/-- SLTN with a constant word (R151). -/
def execSltnConst (d a : BitVec 5) (k : BitVec 8) (s : State) : Out := .next (issueLane (.sltnConst d a k) s)
/-- MIN with a constant word (R151). -/
def execMinConst (d a : BitVec 5) (k : BitVec 8) (s : State) : Out := .next (issueLane (.minConst d a k) s)
/-- MAX with a constant word (R151). -/
def execMaxConst (d a : BitVec 5) (k : BitVec 8) (s : State) : Out := .next (issueLane (.maxConst d a k) s)
/-- MINN with a constant word (R151). -/
def execMinnConst (d a : BitVec 5) (k : BitVec 8) (s : State) : Out := .next (issueLane (.minnConst d a k) s)
/-- MAXN with a constant word (R151). -/
def execMaxnConst (d a : BitVec 5) (k : BitVec 8) (s : State) : Out := .next (issueLane (.maxnConst d a k) s)
/-- MULH with a constant word (R151). -/
def execMulhConst (d a : BitVec 5) (k : BitVec 8) (s : State) : Out := .next (issueLane (.mulhConst d a k) s)
/-- MULHN with a constant word (R151). -/
def execMulhnConst (d a : BitVec 5) (k : BitVec 8) (s : State) : Out := .next (issueLane (.mulhnConst d a k) s)
/-- DIV with a constant word (R151). -/
def execDivConst (d a : BitVec 5) (k : BitVec 8) (s : State) : Out := .next (issueLane (.divConst d a k) s)
/-- DIVN with a constant word (R151). -/
def execDivnConst (d a : BitVec 5) (k : BitVec 8) (s : State) : Out := .next (issueLane (.divnConst d a k) s)
/-- REM with a constant word (R151). -/
def execRemConst (d a : BitVec 5) (k : BitVec 8) (s : State) : Out := .next (issueLane (.remConst d a k) s)
/-- REMN with a constant word (R151). -/
def execRemnConst (d a : BitVec 5) (k : BitVec 8) (s : State) : Out := .next (issueLane (.remnConst d a k) s)
/-- ADDI (R153). -/
def execAddi (d a : BitVec 5) (imm : BitVec 16) (s : State) : Out := .next (issueLane (.addi d a imm) s)
/-- ANDI (R153). -/
def execAndi (d a : BitVec 5) (imm : BitVec 16) (s : State) : Out := .next (issueLane (.andi d a imm) s)
/-- ORI (R153). -/
def execOri (d a : BitVec 5) (imm : BitVec 16) (s : State) : Out := .next (issueLane (.ori d a imm) s)
/-- XORI (R153). -/
def execXori (d a : BitVec 5) (imm : BitVec 16) (s : State) : Out := .next (issueLane (.xori d a imm) s)
/-- SHLI (R153). -/
def execShli (d a : BitVec 5) (n : BitVec 6) (s : State) : Out := .next (issueLane (.shli d a n) s)
/-- SHRI (R153). -/
def execShri (d a : BitVec 5) (n : BitVec 6) (s : State) : Out := .next (issueLane (.shri d a n) s)
/-- SARI (R153). -/
def execSari (d a : BitVec 5) (n : BitVec 6) (s : State) : Out := .next (issueLane (.sari d a n) s)
/-- LI (R153). -/
def execLi (d : BitVec 5) (imm : BitVec 16) (s : State) : Out := .next (issueLane (.li d imm) s)
/-- LUI (R153). -/
def execLui (d a : BitVec 5) (imm : BitVec 16) (s : State) : Out := .next (issueLane (.lui d a imm) s)
/-- FADD (R154). -/
def execFadd (d a b : BitVec 5) (w : West) (s : State) : Out := .next (issueLane (.fadd d a b w) s)
/-- FSUB (R154). -/
def execFsub (d a b : BitVec 5) (w : West) (s : State) : Out := .next (issueLane (.fsub d a b w) s)
/-- FMUL (R154). -/
def execFmul (d a b : BitVec 5) (w : West) (s : State) : Out := .next (issueLane (.fmul d a b w) s)
/-- FDIV (R154). -/
def execFdiv (d a b : BitVec 5) (w : West) (s : State) : Out := .next (issueLane (.fdiv d a b w) s)
/-- FMA (R154). -/
def execFma (d a b : BitVec 5) (w : West) (s : State) : Out := .next (issueLane (.fma d a b w) s)
/-- FMIN (R154). -/
def execFmin (d a b : BitVec 5) (w : West) (s : State) : Out := .next (issueLane (.fmin d a b w) s)
/-- FMAX (R154). -/
def execFmax (d a b : BitVec 5) (w : West) (s : State) : Out := .next (issueLane (.fmax d a b w) s)
/-- FEQ (R154). -/
def execFeq (d a b : BitVec 5) (w : West) (s : State) : Out := .next (issueLane (.feq d a b w) s)
/-- FLT (R154). -/
def execFlt (d a b : BitVec 5) (w : West) (s : State) : Out := .next (issueLane (.flt d a b w) s)
/-- FLE (R154). -/
def execFle (d a b : BitVec 5) (w : West) (s : State) : Out := .next (issueLane (.fle d a b w) s)
/-- FABS (R154). -/
def execFabs (d a : BitVec 5) (w : Bool) (s : State) : Out := .next (issueLane (.fabs d a w) s)
/-- FNEG (R154). -/
def execFneg (d a : BitVec 5) (w : Bool) (s : State) : Out := .next (issueLane (.fneg d a w) s)
/-- FCVTI (R154). -/
def execFcvti (d a : BitVec 5) (w : Bool) (s : State) : Out := .next (issueLane (.fcvti d a w) s)
/-- ICVTF (R154). -/
def execIcvtf (d a : BitVec 5) (w : Bool) (s : State) : Out := .next (issueLane (.icvtf d a w) s)
/-- HGET (R156). -/
def execHget (d : BitVec 5) (a : BitVec 4) (s : State) : Out := .next (issueLane (.hget d a) s)
/-- TAIL (R30). -/
def execTail (a : BitVec 5) (s : State) : Out := .next (issueLane (.tail a) s)
/-- CMOV (R156). -/
def execCmov (d a : BitVec 5) (m : BitVec 3) (s : State) : Out := .next (issueLane (.cmov d a m) s)
/-- MOVMG (R156). -/
def execMovmg (d : BitVec 5) (m : BitVec 3) (half : Bool) (s : State) : Out := .next (issueLane (.movmg d m half) s)
/-- MOVGM (R156). -/
def execMovgm (m : BitVec 3) (a : BitVec 5) (half : Bool) (s : State) : Out := .next (issueLane (.movgm m a half) s)
/-- LD (R158). -/
def execLd (d a : BitVec 5) (off : BitVec 12) (sz : Sz) (acq : Bool) (s : State) : Out :=
  .next (issueLane (.ld d a off sz acq) s)
/-- LDN (R158). -/
def execLdn (d a : BitVec 5) (off : BitVec 12) (sz : Sz) (acq : Bool) (s : State) : Out :=
  .next (issueLane (.ldn d a off sz acq) s)
/-- ST (R159). -/
def execSt (d a : BitVec 5) (off : BitVec 12) (sz : Sz) (rel : Bool) (s : State) : Out :=
  .next (issueLane (.st d a off sz rel) s)
/-- LDV (R161). -/
def execLdv (d a : BitVec 5) (off : BitVec 11) (acq : Bool) (s : State) : Out := .next (issueLane (.ldv d a off acq) s)
/-- STV (R161). -/
def execStv (d a : BitVec 5) (off : BitVec 11) (rel : Bool) (s : State) : Out := .next (issueLane (.stv d a off rel) s)
/-- LDP (R163). -/
def execLdp (d a : BitVec 5) (off : BitVec 12) (sz : Sz) (s : State) : Out := .next (issueLane (.ldp d a off sz) s)
/-- STP (R163). -/
def execStp (d a : BitVec 5) (off : BitVec 12) (sz : Sz) (s : State) : Out := .next (issueLane (.stp d a off sz) s)
/-- LDPV (R163). -/
def execLdpv (d a : BitVec 5) (off : BitVec 12) (s : State) : Out := .next (issueLane (.ldpv d a off) s)
/-- STPV (R163). -/
def execStpv (d a : BitVec 5) (off : BitVec 12) (s : State) : Out := .next (issueLane (.stpv d a off) s)
/-- LDL (R166). -/
def execLdl (t a : BitVec 5) (off : BitVec 11) (sz : Sz) (set : BitVec 2) (s : State) : Out :=
  .next (issueLane (.ldl t a off sz set) s)
/-- LDLV (R166). -/
def execLdlv (t a : BitVec 5) (off : BitVec 11) (set : BitVec 2) (s : State) : Out := .next (issueLane (.ldlv t a off set) s)
/-- TAKE (R167). -/
def execTake (d t : BitVec 5) (set : BitVec 2) (s : State) : Out := .next (issueLane (.take d t set) s)
/-- TAKEO (R167). -/
def execTakeo (d t : BitVec 5) (set : BitVec 2) (s : State) : Out := .next (issueLane (.takeo d t set) s)
/-- TAKEV (R167). -/
def execTakev (d t : BitVec 5) (set : BitVec 2) (s : State) : Out := .next (issueLane (.takev d t set) s)
/-- LCNT (R170). -/
def execLcnt (d : BitVec 5) (set : BitVec 2) (s : State) : Out := .next (issueLane (.lcnt d set) s)
/-- LDROP (R170). -/
def execLdrop (set : BitVec 2) (s : State) : Out := .next (issueLane (.ldrop set) s)
/-- AMO (R172). -/
def execAmo (op : AmoOp) (dbl : Bool) (ord : Ord4) (d a b : BitVec 5) (s : State) : Out :=
  .next (issueCommit (.amo op dbl ord d a b) s)
/-- CAS (R173). -/
def execCas (dbl : Bool) (ord : Ord4) (d a b : BitVec 5) (s : State) : Out := .next (issueCommit (.cas dbl ord d a b) s)
/-- RED (R174). -/
def execRed (op : AmoOp) (dbl rel : Bool) (a b : BitVec 5) (s : State) : Out := .next (issueCommit (.red op dbl rel a b) s)
/-- FENCE (R176). -/
def execFence (s : State) : Out := .next (issueLane .fence s)
/-- DRAINST (R177). -/
def execDrainst (s : State) : Out := .next (issueLane .drainst s)
/-- BAR (R178). -/
def execBar (n : BitVec 5) (s : State) : Out := .next (issueLane (.bar n) s)
/-- BARI (R178). -/
def execBari (n a : BitVec 5) (s : State) : Out := .next (issueLane (.bari n a) s)
/-- BARA (R178). -/
def execBara (n : BitVec 5) (s : State) : Out := .next (issueLane (.bara n) s)
/-- BARW (R178). -/
def execBarw (n : BitVec 5) (s : State) : Out := .next (issueLane (.barw n) s)
/-- VADD (R189). -/
def execVadd (d a b : BitVec 5) (w : West) (s : State) : Out := .next (issueLane (.vadd d a b w) s)
/-- VSUB (R189). -/
def execVsub (d a b : BitVec 5) (w : West) (s : State) : Out := .next (issueLane (.vsub d a b w) s)
/-- VMUL (R189). -/
def execVmul (d a b : BitVec 5) (w : West) (s : State) : Out := .next (issueLane (.vmul d a b w) s)
/-- VFMA (R189). -/
def execVfma (d a b : BitVec 5) (w : West) (s : State) : Out := .next (issueLane (.vfma d a b w) s)
/-- VMIN (R189). -/
def execVmin (d a b : BitVec 5) (w : West) (s : State) : Out := .next (issueLane (.vmin d a b w) s)
/-- VMAX (R189). -/
def execVmax (d a b : BitVec 5) (w : West) (s : State) : Out := .next (issueLane (.vmax d a b w) s)
/-- VABS (R189). -/
def execVabs (d a : BitVec 5) (w : Bool) (s : State) : Out := .next (issueLane (.vabs d a w) s)
/-- VNEG (R189). -/
def execVneg (d a : BitVec 5) (w : Bool) (s : State) : Out := .next (issueLane (.vneg d a w) s)
/-- VAND (R191). -/
def execVand (d a b : BitVec 5) (w : West) (s : State) : Out := .next (issueLane (.vand d a b w) s)
/-- VOR (R191). -/
def execVor (d a b : BitVec 5) (w : West) (s : State) : Out := .next (issueLane (.vor d a b w) s)
/-- VXOR (R191). -/
def execVxor (d a b : BitVec 5) (w : West) (s : State) : Out := .next (issueLane (.vxor d a b w) s)
/-- VNOT (R191). -/
def execVnot (d a : BitVec 5) (w : Bool) (s : State) : Out := .next (issueLane (.vnot d a w) s)
/-- VSHL (R192). -/
def execVshl (d a b : BitVec 5) (w : West) (s : State) : Out := .next (issueLane (.vshl d a b w) s)
/-- VSHR (R192). -/
def execVshr (d a b : BitVec 5) (w : West) (s : State) : Out := .next (issueLane (.vshr d a b w) s)
/-- VSAR (R192). -/
def execVsar (d a b : BitVec 5) (w : West) (s : State) : Out := .next (issueLane (.vsar d a b w) s)
/-- VCMP (R193). -/
def execVcmp (c : CmpCond) (d : BitVec 3) (a b : BitVec 5) (w : West) (s : State) : Out :=
  .next (issueLane (.vcmp c d a b w) s)
/-- VSEL (R194). -/
def execVsel (d a b : BitVec 5) (w : West) (s : State) : Out := .next (issueLane (.vsel d a b w) s)
/-- MAND (R195). -/
def execMand (d a b : BitVec 3) (s : State) : Out := .next (issueLane (.mand d a b) s)
/-- MOR (R195). -/
def execMor (d a b : BitVec 3) (s : State) : Out := .next (issueLane (.mor d a b) s)
/-- MXOR (R195). -/
def execMxor (d a b : BitVec 3) (s : State) : Out := .next (issueLane (.mxor d a b) s)
/-- MNOT (R195). -/
def execMnot (d a : BitVec 3) (s : State) : Out := .next (issueLane (.mnot d a) s)
/-- MSET (R195). -/
def execMset (d : BitVec 3) (a : BitVec 5) (s : State) : Out := .next (issueLane (.mset d a) s)
/-- VCVT (R196). -/
def execVcvt (d a : BitVec 5) (w : Bool) (s : State) : Out := .next (issueLane (.vcvt d a w) s)
/-- VQUANT (R197). -/
def execVquant (d a b : BitVec 5) (w : West) (s : State) : Out := .next (issueLane (.vquant d a b w) s)
/-- VDEQ (R197). -/
def execVdeq (d a b : BitVec 5) (w : West) (s : State) : Out := .next (issueLane (.vdeq d a b w) s)
/-- VRCP (R199). -/
def execVrcp (d a : BitVec 5) (w : Bool) (s : State) : Out := .next (issueLane (.vrcp d a w) s)
/-- VRSQ (R199). -/
def execVrsq (d a : BitVec 5) (w : Bool) (s : State) : Out := .next (issueLane (.vrsq d a w) s)
/-- VSQRT (R199). -/
def execVsqrt (d a : BitVec 5) (w : Bool) (s : State) : Out := .next (issueLane (.vsqrt d a w) s)
/-- VDIV (R199). -/
def execVdiv (d a b : BitVec 5) (w : West) (s : State) : Out := .next (issueLane (.vdiv d a b w) s)
/-- VEXP2 (R199). -/
def execVexp2 (d a : BitVec 5) (w : Bool) (s : State) : Out := .next (issueLane (.vexp2 d a w) s)
/-- VLOG2 (R199). -/
def execVlog2 (d a : BitVec 5) (w : Bool) (s : State) : Out := .next (issueLane (.vlog2 d a w) s)
/-- VSIN (R199). -/
def execVsin (d a : BitVec 5) (w : Bool) (s : State) : Out := .next (issueLane (.vsin d a w) s)
/-- VCOS (R199). -/
def execVcos (d a : BitVec 5) (w : Bool) (s : State) : Out := .next (issueLane (.vcos d a w) s)
/-- VTANH (R199). -/
def execVtanh (d a : BitVec 5) (w : Bool) (s : State) : Out := .next (issueLane (.vtanh d a w) s)
/-- VBCAST (R202). -/
def execVbcast (d a : BitVec 5) (s : State) : Out := .next (issueLane (.vbcast d a) s)
/-- VEXT (R202). -/
def execVext (d a b : BitVec 5) (s : State) : Out := .next (issueLane (.vext d a b) s)
/-- VINS (R202). -/
def execVins (d a b : BitVec 5) (s : State) : Out := .next (issueLane (.vins d a b) s)
/-- VPERM (R202). -/
def execVperm (d a b : BitVec 5) (s : State) : Out := .next (issueLane (.vperm d a b) s)
/-- VROT (R202). -/
def execVrot (d a b : BitVec 5) (s : State) : Out := .next (issueLane (.vrot d a b) s)
/-- VIOTA (R202). -/
def execViota (d : BitVec 5) (s : State) : Out := .next (issueLane (.viota d) s)
/-- VPOP (R202). -/
def execVpop (d : BitVec 5) (m : BitVec 3) (s : State) : Out := .next (issueLane (.vpop d m) s)
/-- VRED (R201). -/
def execVred (op : RedOp) (d a : BitVec 5) (s : State) : Out := .next (issueLane (.vred op d a) s)
/-- VADD with a constant word (R190). -/
def execVaddConst (d a : BitVec 5) (k : BitVec 8) (s : State) : Out := .next (issueLane (.vaddConst d a k) s)
/-- VSUB with a constant word (R190). -/
def execVsubConst (d a : BitVec 5) (k : BitVec 8) (s : State) : Out := .next (issueLane (.vsubConst d a k) s)
/-- VMUL with a constant word (R190). -/
def execVmulConst (d a : BitVec 5) (k : BitVec 8) (s : State) : Out := .next (issueLane (.vmulConst d a k) s)
/-- VMIN with a constant word (R190). -/
def execVminConst (d a : BitVec 5) (k : BitVec 8) (s : State) : Out := .next (issueLane (.vminConst d a k) s)
/-- VMAX with a constant word (R190). -/
def execVmaxConst (d a : BitVec 5) (k : BitVec 8) (s : State) : Out := .next (issueLane (.vmaxConst d a k) s)
/-- VAND with a constant word (R190). -/
def execVandConst (d a : BitVec 5) (k : BitVec 8) (s : State) : Out := .next (issueLane (.vandConst d a k) s)
/-- VOR with a constant word (R190). -/
def execVorConst (d a : BitVec 5) (k : BitVec 8) (s : State) : Out := .next (issueLane (.vorConst d a k) s)
/-- VXOR with a constant word (R190). -/
def execVxorConst (d a : BitVec 5) (k : BitVec 8) (s : State) : Out := .next (issueLane (.vxorConst d a k) s)
/-- VSHL with a constant word (R190). -/
def execVshlConst (d a : BitVec 5) (k : BitVec 8) (s : State) : Out := .next (issueLane (.vshlConst d a k) s)
/-- VSHR with a constant word (R190). -/
def execVshrConst (d a : BitVec 5) (k : BitVec 8) (s : State) : Out := .next (issueLane (.vshrConst d a k) s)
/-- VSAR with a constant word (R190). -/
def execVsarConst (d a : BitVec 5) (k : BitVec 8) (s : State) : Out := .next (issueLane (.vsarConst d a k) s)
/-- MMA (R211). -/
def execMma (sr : Semiring) (fmt : PressFmt) (t : BitVec 6) (qa qb : BitVec 3) (rep : BitVec 4) (s : State) : Out :=
  .next (issueCommit (.mma sr fmt t qa qb rep) s)
/-- MZERO (R214). -/
def execMzero (t : BitVec 6) (s : State) : Out := .next (issueCommit (.mzero t) s)
/-- MLOAD (R214). -/
def execMload (t : BitVec 6) (a b : BitVec 5) (s : State) : Out := .next (issueCommit (.mload t a b) s)
/-- MDRAIN (R215). -/
def execMdrain (d : BitVec 5) (t : BitVec 6) (b : BitVec 5) (s : State) : Out := .next (issueLane (.mdrain d t b) s)
/-- MWAIT (R216). -/
def execMwait (s : State) : Out := .next (issueLane .mwait s)
/-- MSTAT (R217). -/
def execMstat (d : BitVec 5) (s : State) : Out := .next (issueLane (.mstat d) s)
/-- RCFG (R206). -/
def execRcfg (q : BitVec 3) (a b : BitVec 5) (s : State) : Out := .next (issueLane (.rcfg q a b) s)
/-- RPUSH (R207). -/
def execRpush (q : BitVec 3) (a : BitVec 5) (s : State) : Out := .next (issueCommit (.rpush q a) s)
/-- RSTAT (R208). -/
def execRstat (d : BitVec 5) (q : BitVec 3) (s : State) : Out := .next (issueLane (.rstat d q) s)
/-- HOPEN (R221). -/
def execHopen (force : Bool) (slot : BitVec 2) (a : BitVec 5) (s : State) : Out := .next (issueLane (.hopen force slot a) s)
/-- HTAKE (R222). -/
def execHtake (slot : BitVec 2) (q : BitVec 3) (s : State) : Out := .next (issueCommit (.htake slot q) s)
/-- HPUT (R223). -/
def execHput (a b : BitVec 5) (s : State) : Out := .next (issueLane (.hput a b) s)
/-- HSHUT (R224). -/
def execHshut (slot : BitVec 2) (s : State) : Out := .next (issueLane (.hshut slot) s)
/-- HWAIT (R225). -/
def execHwait (s : State) : Out := .next (issueLane .hwait s)
/-- HSTAT (R226). -/
def execHstat (d : BitVec 5) (s : State) : Out := .next (issueLane (.hstat d) s)
/-- COPY (R229). -/
def execCopy (src : CopySrc) (dst : CopyDst) (ch : BitVec 2) (d a b : BitVec 5) (s : State) : Out :=
  .next (if dst = .ring then issueCommit (.copy src dst ch d a b) s else issueLane (.copy src dst ch d a b) s)
/-- CRED (R233). -/
def execCred (op : RedOp) (fmt : CredFmt) (toPool : Bool) (ch : BitVec 2) (d a b : BitVec 5) (s : State) : Out :=
  .next (issueCommit (.cred op fmt toPool ch d a b) s)
/-- CSEAL (R234). -/
def execCseal (s : State) : Out := .next (issueLane .cseal s)
/-- CWAIT (R234). -/
def execCwait (n : BitVec 4) (s : State) : Out := .next (issueLane (.cwait n) s)
/-- CPTR (R235). -/
def execCptr (d : BitVec 5) (ch : BitVec 2) (s : State) : Out := .next (issueLane (.cptr d ch) s)
/-- CJOIN (R236). -/
def execCjoin (a b : BitVec 5) (s : State) : Out := .next (issueLane (.cjoin a b) s)
/-- CLEAVE (R236). -/
def execCleave (a : BitVec 5) (s : State) : Out := .next (issueLane (.cleave a) s)
/-- BKPT.lane (R238). -/
def execBkptLane (n : BitVec 10) (s : State) : Out := .next (issueTrap (.bkptLane n) n .bkpt true s)
/-- TRAP (R238). -/
def execTrap (n : BitVec 10) (s : State) : Out := .next (issueTrap (.trap n) n .trap false s)
/-- ESTAT (R239). -/
def execEstat (d a b : BitVec 5) (s : State) : Out := .next (issueLane (.estat d a b) s)
/-- DBGR (R240). -/
def execDbgr (d a : BitVec 5) (s : State) : Out := .next (issueLane (.dbgr d a) s)
/-- DBGW (R240). -/
def execDbgw (a b : BitVec 5) (s : State) : Out := .next (issueLane (.dbgw a b) s)

end Sys2Proof.Machine
end

