-- ==== Sys2Proof/Machine/Dispatch.lean ====
section
/-! DEFINITION. One arm per instruction and event: a direct call of its meaning. -/

namespace Sys2Proof.Machine

/-- The effect of an instruction or event in a state; an instruction acts for the strand that State names. -/
def exec (i : Instr) (s : State) : Host.Outcome State Fault Refusal :=
  match i with
  | .px p => Sys2Proof.Machine.execPx p s
  | .addHead d a b => Sys2Proof.Machine.execAddHead d a b s
  | .subHead d a b => Sys2Proof.Machine.execSubHead d a b s
  | .andHead d a b => Sys2Proof.Machine.execAndHead d a b s
  | .orHead d a b => Sys2Proof.Machine.execOrHead d a b s
  | .xorHead d a b => Sys2Proof.Machine.execXorHead d a b s
  | .shlHead d a b => Sys2Proof.Machine.execShlHead d a b s
  | .shrHead d a b => Sys2Proof.Machine.execShrHead d a b s
  | .sarHead d a b => Sys2Proof.Machine.execSarHead d a b s
  | .mulHead d a b => Sys2Proof.Machine.execMulHead d a b s
  | .sltHead d a b => Sys2Proof.Machine.execSltHead d a b s
  | .sltnHead d a b => Sys2Proof.Machine.execSltnHead d a b s
  | .minHead d a b => Sys2Proof.Machine.execMinHead d a b s
  | .maxHead d a b => Sys2Proof.Machine.execMaxHead d a b s
  | .addiHead d a imm => Sys2Proof.Machine.execAddiHead d a imm s
  | .andiHead d a imm => Sys2Proof.Machine.execAndiHead d a imm s
  | .oriHead d a imm => Sys2Proof.Machine.execOriHead d a imm s
  | .xoriHead d a imm => Sys2Proof.Machine.execXoriHead d a imm s
  | .shliHead d a n => Sys2Proof.Machine.execShliHead d a n s
  | .shriHead d a n => Sys2Proof.Machine.execShriHead d a n s
  | .sariHead d a n => Sys2Proof.Machine.execSariHead d a n s
  | .liHead d imm => Sys2Proof.Machine.execLiHead d imm s
  | .luiHead d a imm => Sys2Proof.Machine.execLuiHead d a imm s
  | .beq a b off => Sys2Proof.Machine.execBeq a b off s
  | .bne a b off => Sys2Proof.Machine.execBne a b off s
  | .blt a b off => Sys2Proof.Machine.execBlt a b off s
  | .bge a b off => Sys2Proof.Machine.execBge a b off s
  | .bltn a b off => Sys2Proof.Machine.execBltn a b off s
  | .bgen a b off => Sys2Proof.Machine.execBgen a b off s
  | .jmp off => Sys2Proof.Machine.execJmp off s
  | .call off => Sys2Proof.Machine.execCall off s
  | .jr a b => Sys2Proof.Machine.execJr a b s
  | .loop a off => Sys2Proof.Machine.execLoop a off s
  | .ldD d a off acq => Sys2Proof.Machine.execLdD d a off acq s
  | .stD d a off rel => Sys2Proof.Machine.execStD d a off rel s
  | .drain => Sys2Proof.Machine.execDrain s
  | .yield => Sys2Proof.Machine.execYield s
  | .exit a => Sys2Proof.Machine.execExit a s
  | .region => Sys2Proof.Machine.execRegion s
  | .pause a => Sys2Proof.Machine.execPause a s
  | .twait d => Sys2Proof.Machine.execTwait d s
  | .tileget d a => Sys2Proof.Machine.execTileget d a s
  | .publish a => Sys2Proof.Machine.execPublish a s
  | .svc n => Sys2Proof.Machine.execSvc n s
  | .tret => Sys2Proof.Machine.execTret s
  | .tretAt a => Sys2Proof.Machine.execTretAt a s
  | .gbar a => Sys2Proof.Machine.execGbar a s
  | .gvote op d a b => Sys2Proof.Machine.execGvote op d a b s
  | .gleave a => Sys2Proof.Machine.execGleave a s
  | .gkill a => Sys2Proof.Machine.execGkill a s
  | .msend a b => Sys2Proof.Machine.execMsend a b s
  | .mrecv d => Sys2Proof.Machine.execMrecv d s
  | .mprobe d => Sys2Proof.Machine.execMprobe d s
  | .csrr d csr => Sys2Proof.Machine.execCsrr d csr s
  | .csrw csr a => Sys2Proof.Machine.execCsrw csr a s
  | .bkpt n => Sys2Proof.Machine.execBkpt n s
  | .add d a b w => Sys2Proof.Machine.execAdd d a b w s
  | .sub d a b w => Sys2Proof.Machine.execSub d a b w s
  | .and d a b w => Sys2Proof.Machine.execAnd d a b w s
  | .or d a b w => Sys2Proof.Machine.execOr d a b w s
  | .xor d a b w => Sys2Proof.Machine.execXor d a b w s
  | .shl d a b w => Sys2Proof.Machine.execShl d a b w s
  | .shr d a b w => Sys2Proof.Machine.execShr d a b w s
  | .sar d a b w => Sys2Proof.Machine.execSar d a b w s
  | .mul d a b w => Sys2Proof.Machine.execMul d a b w s
  | .slt d a b w => Sys2Proof.Machine.execSlt d a b w s
  | .sltn d a b w => Sys2Proof.Machine.execSltn d a b w s
  | .min d a b w => Sys2Proof.Machine.execMin d a b w s
  | .max d a b w => Sys2Proof.Machine.execMax d a b w s
  | .minn d a b w => Sys2Proof.Machine.execMinn d a b w s
  | .maxn d a b w => Sys2Proof.Machine.execMaxn d a b w s
  | .mulh d a b w => Sys2Proof.Machine.execMulh d a b w s
  | .mulhn d a b w => Sys2Proof.Machine.execMulhn d a b w s
  | .div d a b w => Sys2Proof.Machine.execDiv d a b w s
  | .divn d a b w => Sys2Proof.Machine.execDivn d a b w s
  | .rem d a b w => Sys2Proof.Machine.execRem d a b w s
  | .remn d a b w => Sys2Proof.Machine.execRemn d a b w s
  | .clz d a w => Sys2Proof.Machine.execClz d a w s
  | .ctz d a w => Sys2Proof.Machine.execCtz d a w s
  | .popc d a w => Sys2Proof.Machine.execPopc d a w s
  | .addConst d a k => Sys2Proof.Machine.execAddConst d a k s
  | .subConst d a k => Sys2Proof.Machine.execSubConst d a k s
  | .andConst d a k => Sys2Proof.Machine.execAndConst d a k s
  | .orConst d a k => Sys2Proof.Machine.execOrConst d a k s
  | .xorConst d a k => Sys2Proof.Machine.execXorConst d a k s
  | .shlConst d a k => Sys2Proof.Machine.execShlConst d a k s
  | .shrConst d a k => Sys2Proof.Machine.execShrConst d a k s
  | .sarConst d a k => Sys2Proof.Machine.execSarConst d a k s
  | .mulConst d a k => Sys2Proof.Machine.execMulConst d a k s
  | .sltConst d a k => Sys2Proof.Machine.execSltConst d a k s
  | .sltnConst d a k => Sys2Proof.Machine.execSltnConst d a k s
  | .minConst d a k => Sys2Proof.Machine.execMinConst d a k s
  | .maxConst d a k => Sys2Proof.Machine.execMaxConst d a k s
  | .minnConst d a k => Sys2Proof.Machine.execMinnConst d a k s
  | .maxnConst d a k => Sys2Proof.Machine.execMaxnConst d a k s
  | .mulhConst d a k => Sys2Proof.Machine.execMulhConst d a k s
  | .mulhnConst d a k => Sys2Proof.Machine.execMulhnConst d a k s
  | .divConst d a k => Sys2Proof.Machine.execDivConst d a k s
  | .divnConst d a k => Sys2Proof.Machine.execDivnConst d a k s
  | .remConst d a k => Sys2Proof.Machine.execRemConst d a k s
  | .remnConst d a k => Sys2Proof.Machine.execRemnConst d a k s
  | .addi d a imm => Sys2Proof.Machine.execAddi d a imm s
  | .andi d a imm => Sys2Proof.Machine.execAndi d a imm s
  | .ori d a imm => Sys2Proof.Machine.execOri d a imm s
  | .xori d a imm => Sys2Proof.Machine.execXori d a imm s
  | .shli d a n => Sys2Proof.Machine.execShli d a n s
  | .shri d a n => Sys2Proof.Machine.execShri d a n s
  | .sari d a n => Sys2Proof.Machine.execSari d a n s
  | .li d imm => Sys2Proof.Machine.execLi d imm s
  | .lui d a imm => Sys2Proof.Machine.execLui d a imm s
  | .fadd d a b w => Sys2Proof.Machine.execFadd d a b w s
  | .fsub d a b w => Sys2Proof.Machine.execFsub d a b w s
  | .fmul d a b w => Sys2Proof.Machine.execFmul d a b w s
  | .fdiv d a b w => Sys2Proof.Machine.execFdiv d a b w s
  | .fma d a b w => Sys2Proof.Machine.execFma d a b w s
  | .fmin d a b w => Sys2Proof.Machine.execFmin d a b w s
  | .fmax d a b w => Sys2Proof.Machine.execFmax d a b w s
  | .feq d a b w => Sys2Proof.Machine.execFeq d a b w s
  | .flt d a b w => Sys2Proof.Machine.execFlt d a b w s
  | .fle d a b w => Sys2Proof.Machine.execFle d a b w s
  | .fabs d a w => Sys2Proof.Machine.execFabs d a w s
  | .fneg d a w => Sys2Proof.Machine.execFneg d a w s
  | .fcvti d a w => Sys2Proof.Machine.execFcvti d a w s
  | .icvtf d a w => Sys2Proof.Machine.execIcvtf d a w s
  | .hget d a => Sys2Proof.Machine.execHget d a s
  | .tail a => Sys2Proof.Machine.execTail a s
  | .cmov d a m => Sys2Proof.Machine.execCmov d a m s
  | .movmg d m half => Sys2Proof.Machine.execMovmg d m half s
  | .movgm m a half => Sys2Proof.Machine.execMovgm m a half s
  | .ld d a off sz acq => Sys2Proof.Machine.execLd d a off sz acq s
  | .ldn d a off sz acq => Sys2Proof.Machine.execLdn d a off sz acq s
  | .st d a off sz rel => Sys2Proof.Machine.execSt d a off sz rel s
  | .ldv d a off acq => Sys2Proof.Machine.execLdv d a off acq s
  | .stv d a off rel => Sys2Proof.Machine.execStv d a off rel s
  | .ldp d a off sz => Sys2Proof.Machine.execLdp d a off sz s
  | .stp d a off sz => Sys2Proof.Machine.execStp d a off sz s
  | .ldpv d a off => Sys2Proof.Machine.execLdpv d a off s
  | .stpv d a off => Sys2Proof.Machine.execStpv d a off s
  | .ldl t a off sz set => Sys2Proof.Machine.execLdl t a off sz set s
  | .ldlv t a off set => Sys2Proof.Machine.execLdlv t a off set s
  | .landingSlotGrant core => Sys2Proof.Machine.execLandingSlotGrant core s
  | .take d t set => Sys2Proof.Machine.execTake d t set s
  | .takeo d t set => Sys2Proof.Machine.execTakeo d t set s
  | .takev d t set => Sys2Proof.Machine.execTakev d t set s
  | .lcnt d set => Sys2Proof.Machine.execLcnt d set s
  | .ldrop set => Sys2Proof.Machine.execLdrop set s
  | .amo op dbl ord d a b => Sys2Proof.Machine.execAmo op dbl ord d a b s
  | .cas dbl ord d a b => Sys2Proof.Machine.execCas dbl ord d a b s
  | .red op dbl rel a b => Sys2Proof.Machine.execRed op dbl rel a b s
  | .fence => Sys2Proof.Machine.execFence s
  | .drainst => Sys2Proof.Machine.execDrainst s
  | .bar n => Sys2Proof.Machine.execBar n s
  | .bari n a => Sys2Proof.Machine.execBari n a s
  | .bara n => Sys2Proof.Machine.execBara n s
  | .barw n => Sys2Proof.Machine.execBarw n s
  | .vadd d a b w => Sys2Proof.Machine.execVadd d a b w s
  | .vsub d a b w => Sys2Proof.Machine.execVsub d a b w s
  | .vmul d a b w => Sys2Proof.Machine.execVmul d a b w s
  | .vfma d a b w => Sys2Proof.Machine.execVfma d a b w s
  | .vmin d a b w => Sys2Proof.Machine.execVmin d a b w s
  | .vmax d a b w => Sys2Proof.Machine.execVmax d a b w s
  | .vabs d a w => Sys2Proof.Machine.execVabs d a w s
  | .vneg d a w => Sys2Proof.Machine.execVneg d a w s
  | .vand d a b w => Sys2Proof.Machine.execVand d a b w s
  | .vor d a b w => Sys2Proof.Machine.execVor d a b w s
  | .vxor d a b w => Sys2Proof.Machine.execVxor d a b w s
  | .vnot d a w => Sys2Proof.Machine.execVnot d a w s
  | .vshl d a b w => Sys2Proof.Machine.execVshl d a b w s
  | .vshr d a b w => Sys2Proof.Machine.execVshr d a b w s
  | .vsar d a b w => Sys2Proof.Machine.execVsar d a b w s
  | .vcmp c d a b w => Sys2Proof.Machine.execVcmp c d a b w s
  | .vsel d a b w => Sys2Proof.Machine.execVsel d a b w s
  | .mand d a b => Sys2Proof.Machine.execMand d a b s
  | .mor d a b => Sys2Proof.Machine.execMor d a b s
  | .mxor d a b => Sys2Proof.Machine.execMxor d a b s
  | .mnot d a => Sys2Proof.Machine.execMnot d a s
  | .mset d a => Sys2Proof.Machine.execMset d a s
  | .vcvt d a w => Sys2Proof.Machine.execVcvt d a w s
  | .vquant d a b w => Sys2Proof.Machine.execVquant d a b w s
  | .vdeq d a b w => Sys2Proof.Machine.execVdeq d a b w s
  | .vrcp d a w => Sys2Proof.Machine.execVrcp d a w s
  | .vrsq d a w => Sys2Proof.Machine.execVrsq d a w s
  | .vsqrt d a w => Sys2Proof.Machine.execVsqrt d a w s
  | .vdiv d a b w => Sys2Proof.Machine.execVdiv d a b w s
  | .vexp2 d a w => Sys2Proof.Machine.execVexp2 d a w s
  | .vlog2 d a w => Sys2Proof.Machine.execVlog2 d a w s
  | .vsin d a w => Sys2Proof.Machine.execVsin d a w s
  | .vcos d a w => Sys2Proof.Machine.execVcos d a w s
  | .vtanh d a w => Sys2Proof.Machine.execVtanh d a w s
  | .vbcast d a => Sys2Proof.Machine.execVbcast d a s
  | .vext d a b => Sys2Proof.Machine.execVext d a b s
  | .vins d a b => Sys2Proof.Machine.execVins d a b s
  | .vperm d a b => Sys2Proof.Machine.execVperm d a b s
  | .vrot d a b => Sys2Proof.Machine.execVrot d a b s
  | .viota d => Sys2Proof.Machine.execViota d s
  | .vpop d m => Sys2Proof.Machine.execVpop d m s
  | .vred op d a => Sys2Proof.Machine.execVred op d a s
  | .vaddConst d a k => Sys2Proof.Machine.execVaddConst d a k s
  | .vsubConst d a k => Sys2Proof.Machine.execVsubConst d a k s
  | .vmulConst d a k => Sys2Proof.Machine.execVmulConst d a k s
  | .vminConst d a k => Sys2Proof.Machine.execVminConst d a k s
  | .vmaxConst d a k => Sys2Proof.Machine.execVmaxConst d a k s
  | .vandConst d a k => Sys2Proof.Machine.execVandConst d a k s
  | .vorConst d a k => Sys2Proof.Machine.execVorConst d a k s
  | .vxorConst d a k => Sys2Proof.Machine.execVxorConst d a k s
  | .vshlConst d a k => Sys2Proof.Machine.execVshlConst d a k s
  | .vshrConst d a k => Sys2Proof.Machine.execVshrConst d a k s
  | .vsarConst d a k => Sys2Proof.Machine.execVsarConst d a k s
  | .mma sr fmt t qa qb rep => Sys2Proof.Machine.execMma sr fmt t qa qb rep s
  | .mzero t => Sys2Proof.Machine.execMzero t s
  | .mload t a b => Sys2Proof.Machine.execMload t a b s
  | .mdrain d t b => Sys2Proof.Machine.execMdrain d t b s
  | .mwait => Sys2Proof.Machine.execMwait s
  | .mstat d => Sys2Proof.Machine.execMstat d s
  | .rcfg q a b => Sys2Proof.Machine.execRcfg q a b s
  | .rpush q a => Sys2Proof.Machine.execRpush q a s
  | .rstat d q => Sys2Proof.Machine.execRstat d q s
  | .hopen force slot a => Sys2Proof.Machine.execHopen force slot a s
  | .htake slot q => Sys2Proof.Machine.execHtake slot q s
  | .hput a b => Sys2Proof.Machine.execHput a b s
  | .hshut slot => Sys2Proof.Machine.execHshut slot s
  | .hwait => Sys2Proof.Machine.execHwait s
  | .hstat d => Sys2Proof.Machine.execHstat d s
  | .copy src dst ch d a b => Sys2Proof.Machine.execCopy src dst ch d a b s
  | .cred op fmt toPool ch d a b => Sys2Proof.Machine.execCred op fmt toPool ch d a b s
  | .cseal => Sys2Proof.Machine.execCseal s
  | .cwait n => Sys2Proof.Machine.execCwait n s
  | .cptr d ch => Sys2Proof.Machine.execCptr d ch s
  | .cjoin a b => Sys2Proof.Machine.execCjoin a b s
  | .cleave a => Sys2Proof.Machine.execCleave a s
  | .bkptLane n => Sys2Proof.Machine.execBkptLane n s
  | .trap n => Sys2Proof.Machine.execTrap n s
  | .estat d a b => Sys2Proof.Machine.execEstat d a b s
  | .dbgr d a => Sys2Proof.Machine.execDbgr d a s
  | .dbgw a b => Sys2Proof.Machine.execDbgw a b s
  | .step row slot => Sys2Proof.Machine.execStep row slot s
  | .loadArrival id => Sys2Proof.Machine.execLoadArrival id s
  | .storeAck id => Sys2Proof.Machine.execStoreAck id s
  | .storeFaultReturn id => Sys2Proof.Machine.execStoreFaultReturn id s
  | .landingArrival id => Sys2Proof.Machine.execLandingArrival id s
  | .walkComplete id => Sys2Proof.Machine.execWalkComplete id s
  | .vaultAccess id => Sys2Proof.Machine.execVaultAccess id s
  | .crossDieWrite id => Sys2Proof.Machine.execCrossDieWrite id s
  | .reductionApply id => Sys2Proof.Machine.execReductionApply id s
  | .releaseProbe id => Sys2Proof.Machine.execReleaseProbe id s
  | .probeAnswer id group => Sys2Proof.Machine.execProbeAnswer id group s
  | .hatchOpenAccept core => Sys2Proof.Machine.execHatchOpenAccept core s
  | .hatchReady core slot => Sys2Proof.Machine.execHatchReady core slot s
  | .hatchForcedClose core slot => Sys2Proof.Machine.execHatchForcedClose core slot s
  | .htakeTransfer core => Sys2Proof.Machine.execHtakeTransfer core s
  | .hputComplete core => Sys2Proof.Machine.execHputComplete core s
  | .refreshStart vault => Sys2Proof.Machine.execRefreshStart vault s
  | .refreshEnd vault => Sys2Proof.Machine.execRefreshEnd vault s
  | .scrub granule corrected => Sys2Proof.Machine.execScrub granule corrected s
  | .pressStepStart core => Sys2Proof.Machine.execPressStepStart core s
  | .pressStepRetire core => Sys2Proof.Machine.execPressStepRetire core s
  | .mdrainRead core slot => Sys2Proof.Machine.execMdrainRead core slot s
  | .copyInject core ch => Sys2Proof.Machine.execCopyInject core ch s
  | .copyDeliver id => Sys2Proof.Machine.execCopyDeliver id s
  | .multicastReplicate id => Sys2Proof.Machine.execMulticastReplicate id s
  | .multicastJoin core tag => Sys2Proof.Machine.execMulticastJoin core tag s
  | .multicastPrune core tag => Sys2Proof.Machine.execMulticastPrune core tag s
  | .routerHop id fate => Sys2Proof.Machine.execRouterHop id fate s
  | .linkReplay link => Sys2Proof.Machine.execLinkReplay link s
  | .linkRetrain link ok => Sys2Proof.Machine.execLinkRetrain link ok s
  | .peerRequest src pa size kind data => Sys2Proof.Machine.execPeerRequest src pa size kind data s
  | .deviceHostWrite id => Sys2Proof.Machine.execDeviceHostWrite id s
  | .deviceHostRead id => Sys2Proof.Machine.execDeviceHostRead id s
  | .deliveryBoundExpiry id => Sys2Proof.Machine.execDeliveryBoundExpiry id s
  | .shootdownComplete vf => Sys2Proof.Machine.execShootdownComplete vf s
  | .lqtailWrite vf q v => Sys2Proof.Machine.execLqtailWrite vf q v s
  | .launchFetch part => Sys2Proof.Machine.execLaunchFetch part s
  | .launchMessage row => Sys2Proof.Machine.execLaunchMessage row s
  | .launchAck row => Sys2Proof.Machine.execLaunchAck row s
  | .goMessage row => Sys2Proof.Machine.execGoMessage row s
  | .sliceEnd row => Sys2Proof.Machine.execSliceEnd row s
  | .sliceIdleEnd row => Sys2Proof.Machine.execSliceIdleEnd row s
  | .teamSave row => Sys2Proof.Machine.execTeamSave row s
  | .teamRestore row => Sys2Proof.Machine.execTeamRestore row s
  | .groupArrival msg => Sys2Proof.Machine.execGroupArrival msg s
  | .groupCompletion msg => Sys2Proof.Machine.execGroupCompletion msg s
  | .memberLower msg => Sys2Proof.Machine.execMemberLower msg s
  | .mailboxToken msg => Sys2Proof.Machine.execMailboxToken msg s
  | .dispenserRequest msg => Sys2Proof.Machine.execDispenserRequest msg s
  | .rowReport row => Sys2Proof.Machine.execRowReport row s
  | .jctlKill vf => Sys2Proof.Machine.execJctlKill vf s
  | .jctlPre vf => Sys2Proof.Machine.execJctlPre vf s
  | .jctlRes vf => Sys2Proof.Machine.execJctlRes vf s
  | .xshootWrite vf v => Sys2Proof.Machine.execXshootWrite vf v s
  | .bar2Read vf off size => Sys2Proof.Machine.execBar2Read vf off size s
  | .bar2Write vf off size data => Sys2Proof.Machine.execBar2Write vf off size data s
  | .partWrite p v => Sys2Proof.Machine.execPartWrite p v s
  | .vfmapWrite f v => Sys2Proof.Machine.execVfmapWrite f v s
  | .attest vf ctx => Sys2Proof.Machine.execAttest vf ctx s
  | .keyload vf ctx => Sys2Proof.Machine.execKeyload vf ctx s
  | .keydrop vf ctx => Sys2Proof.Machine.execKeydrop vf ctx s
  | .vaulterr vf ctx => Sys2Proof.Machine.execVaulterr vf ctx s
  | .rowpwrRun row opp => Sys2Proof.Machine.execRowpwrRun row opp s
  | .rowpwrIdle row opp => Sys2Proof.Machine.execRowpwrIdle row opp s
  | .rowpwrOff row opp => Sys2Proof.Machine.execRowpwrOff row opp s
  | .rowpwrOpp row opp => Sys2Proof.Machine.execRowpwrOpp row opp s
  | .oppSwitchDone row => Sys2Proof.Machine.execOppSwitchDone row s
  | .plimitWrite v => Sys2Proof.Machine.execPlimitWrite v s
  | .thermalTrip die => Sys2Proof.Machine.execThermalTrip die s
  | .deviceReset avail boot => Sys2Proof.Machine.execDeviceReset avail boot s
  | .xtctlHalt row => Sys2Proof.Machine.execXtctlHalt row s
  | .xtctlRelease row => Sys2Proof.Machine.execXtctlRelease row s
  | .trctlPulse => Sys2Proof.Machine.execTrctlPulse s
  | .samplingPeriod => Sys2Proof.Machine.execSamplingPeriod s
  | .dumpctlGo id => Sys2Proof.Machine.execDumpctlGo id s
  | .dumpMarker link id => Sys2Proof.Machine.execDumpMarker link id s
  | .watchUpdate core word v => Sys2Proof.Machine.execWatchUpdate core word v s
  | .registerWrite space off v => Sys2Proof.Machine.execRegisterWrite space off v s
  | .pauseEnd row slot => Sys2Proof.Machine.execPauseEnd row slot s
  | .yieldHoldEnd row slot => Sys2Proof.Machine.execYieldHoldEnd row slot s
  | .loadPhaseStart part => Sys2Proof.Machine.execLoadPhaseStart part s
  | .linkUp link => Sys2Proof.Machine.execLinkUp link s
  | .routeChange report => Sys2Proof.Machine.execRouteChange report s
  | .uncorrectableError t => Sys2Proof.Machine.execUncorrectableError t s

end Sys2Proof.Machine
end

