-- ==== Sys2Proof/Machine/Fetch.lean ====
section
/-! DEFINITION. What a step does before exec: the schedule's next move, the head's choice of a strand, breakpoints, and the fetch of
an instruction (R19, R71, R80, R132, R149, R261, R271, R282, R353, R357, R375). -/

namespace Sys2Proof.Machine

/-- What a step comes to: an instruction or event to be executed in a state, or a state. -/
inductive Plan
  | go (i : Instr) (s : State)
  | done (s : State)

/-! Time. -/

/-- The running Press steps of a row read the rows whose cycles have come (R300). -/
def rowReads (s : State) (r : Nat) : State :=
  if s.cores.any fun k => k.1 / 16 == r && k.2.running.isSome then
    forCols (fun s c => match (getCore s (coreIx r c)).running with
      | some t => pressReads s r c ((getRow s r).cycle - t + 1)
      | none => s) s
  else s

/-- One cycle of a row (R5, R282); it is paid back when time passes. -/
def tickRow (x : Row) : Row := if x.cur == .off then x else { x with cycle := x.cycle + 1, ahead := x.ahead + 5 }

/-- ns of time at a row: 3 + OPP fifths of a cycle each (R389). -/
def passRow (ns : Nat) (x : Row) : Row :=
  if x.cur == .off then x
  else
    let gain := ns * (3 + x.opp)
    let f := x.frac + (gain - x.ahead)
    { x with ahead := x.ahead - gain, cycle := x.cycle + f / 5, frac := f % 5 }

/-- Time passes. -/
def passTime (s : State) (ns : Nat) : State :=
  (upTo 32).foldl (fun s r => rowReads (modRow s r (passRow ns)) r) { s with now := s.now + ns }

/-! The choice of a strand (R282). -/

/-- The first able strand after the slot issued last (R282). -/
def pickStrand (s : State) (r : Nat) : Option Nat :=
  let last := (getRow s r).last
  ((upTo 8).map fun i => (last + 1 + i) % 8).find? fun sl => able s r sl

/-- Another strand has issued: a YIELD hold that waited for it alone is over (R132). -/
def yieldSeen (sl : Nat) (h : Head) : Head :=
  match h.wait with
  | .yield slots n =>
    let slots := slots.filter (· != sl)
    if slots.isEmpty then { h with wait := .no, why := 0 } else { h with wait := .yield slots n }
  | _ => h

/-- The state in which a strand's word is read: its row's cycle has begun and the strand is the one that exec acts for. -/
def beginIssue (s : State) (r sl : Nat) : State :=
  { rowReads (modRow s r fun x => { tickRow x with last := sl }) r with curRow := r, curSlot := sl }

/-- The state in which an instruction of a strand issues: the YIELD holds of the other strands have seen it (R132). -/
def issued (s : State) (r sl : Nat) : State :=
  forSlots (fun s t => if t = sl then s else
    match (getHead s r t).wait with
    | .yield _ _ => modHead s r t (yieldSeen sl)
    | _ => s) s

/-! Fetch (R19, R271). -/

/-- A trap at the word itself, between a PX and its instruction where one has been read: the prefix is kept in SST (R71). -/
def betweenTrap (s : State) (r sl : Nat) (c : Cause) (tval : Word) : State :=
  let h := getHead s r sl
  if !h.flights.isEmpty then setHead s r sl { h with why := 13 }
  else
    match h.pend with
    | some p => headTrap (setHead s r sl { h with pend := none, pp := true, pxs := BitVec.ofNat 32 (fmtPx p) }) r sl c tval
    | none => headTrap s r sl c tval

/-- Does an enabled breakpoint match the address of the word (R149), not suppressed (R139)? -/
def breakDue (h : Head) : Bool :=
  !h.handler && h.skipBreak != some h.pc &&
  h.bka.toList.any fun b => b.getLsbD 0 && (b &&& 0xFFFFFFFFFFFC) == wordOfAddr h.pc

/-- The instruction of a word, with the prefix read before it (R69, R80). -/
def planWord (s : State) (r sl w : Nat) : Plan :=
  match decode w with
  | .error _ => .done (illegalWord s r sl w)
  | .ok i =>
    match (getHead s r sl).pend with
    | some p => .go (i.withPx p) (issued s r sl)
    | none => .go i (issued s r sl)

/-- The head takes a strand: a STEP that is due, a machine event, a breakpoint, or the instruction at its program counter, whose word may
wait for a walk (R270). -/
def planStrand (s : State) (r sl : Nat) : Plan :=
  let s := beginIssue s r sl
  let h := getHead s r sl
  if eventDue s r sl then .done ((raiseDue s r sl).getD s)
  else if h.stepDue then .go (.step r sl) s
  else if breakDue h then .done (betweenTrap s r sl .break (wordOfAddr h.pc))
  else
    match headGate s (.fetch r sl) (wordOfAddr h.pc) 4 h.handler with
    | .wait s => .done s
    | .go s fails _ =>
      match fetchWith s fails r h with
      | .error (c, tval) => .done (betweenTrap s r sl c tval)
      | .ok (s, w) => planWord s r sl w

/-- A row's cycle: its lane work goes on, and the head takes the first able strand. -/
def planRow (s : State) (r : Nat) : Plan :=
  let s := pumpRow s r
  match pickStrand s r with
  | some sl => planStrand s r sl
  | none => .done (rowReads (modRow s r tickRow) r)

/-- A peer device's memory changes (R329, R347), byte by byte, where an address is a peer's. -/
def peerStores (s : State) (a : Nat) (bytes : List Byte) : State :=
  (bytes.zipIdx).foldl (fun s p => if regionOf (a + p.2) = .peer then physWr s none (a + p.2) p.1 else s) s

/-- The step's plan: the next move of the schedule, or the cycle of the row whose turn it is. -/
def plan (s : State) : Plan :=
  match s.agenda with
  | [] => planRow s s.turn
  | m :: rest =>
    let s := { s with agenda := rest }
    match m with
    | .event i => if i.isEvent then .go i s else .done s
    | .row r => if r < 32 then planRow s r else .done s
    | .time ns => .done (passTime s ns)
    | .stall r sl cols => if r < 32 && sl < 8 then .done (modHead s r sl fun h => { h with stall := cols }) else .done s
    | .hostMem a bytes => .done ((bytes.zipIdx).foldl (fun s p => physWr s none (hostPa (a + p.2)) p.1) s)
    | .iommu rid page target => .done { s with iommu := tput s.iommu (2 ^ 52 * rid + page) target }
    | .peerMem a bytes => .done (peerStores s a bytes)
    | .cool die => .done { s with hot := s.hot.filter (· != die) }
    | .regRead space off => .done (if s.enumerated then { s with regAnswer := registerRead s space off } else s)
    | .hostLost vf write => .done (hostLost s vf write)
    | .traceLost n => .done { s with dbg := { s.dbg with drops := n } }
    | .reach msgs => .done (reachHomes s msgs)
    | .slowWalks on => .done { s with slowWalks := on }

/-! The first instruction after reset, for the host's check: a job of one task, loaded from outside. -/

/-- The launch of that job: VREGS 2, ACCT 64, REGK 1, one strand. -/
def probeLaunch : Launch :=
  { seqOk := false, irq := false, vec := 0, pc := 0x10000, arg := 0, pword := 0x24001, size := 1, gridx := 1, ctx := 0, cimg := 0,
    rimg := 0, gtab := 0, dtab := 0, mbox := 0, spillOff := 0, spillN := 0, done := 0, jobid := 0, slice := 0, vbase := 0 }

/-- That job, in its go phase. -/
def probeJob : Job :=
  { vf := 0, queue := 0, launch := probeLaunch, consts := [], rowImgs := [], groups := [], phase := .go, since := 0, toLoad := [],
    toAck := [], toGo := [], toReport := [0, 1, 2, 3], status := 0, ended := [] }

/-- Store an 8-byte entry. -/
def probeWord (a x : Nat) (s : State) : State := physWrN s none a 8 x

/-- Page tables of context 0 that map 0x10000 to itself with R, W and X (R265, R266). -/
def probeTables (s : State) : State :=
  probeWord 0x2000 0x4001 (probeWord 0x4000 0x5001 (probeWord 0x5000 0x5801 (probeWord 0x5808 0x1001F s)))

/-- The strand of slot 0 of row 0 at 0x10000, with a prefix already read. -/
def probeHead (pend : Option Px) (h : Head) : Head :=
  { h with task := some 0, pc := if pend.isSome then 0x10004 else 0x10000, pend := pend, flights := [], commit := none, wait := .no,
           stepDue := false, events := [], skipBreak := some (if pend.isSome then 0x10004 else 0x10000) }

/-- The machine with that job in partition 0, its team resident on row 0, and the row's turn next. -/
def probeJobIn (pend : Option Px) (s : State) : State :=
  let s := modPart s 0 fun p => { p with en := true, first := 0, size := 0, job := some probeJob, jstate := .running }
  let s := modVf s 0 fun v => { v with en := true, part := 0, croots := v.croots.set 0 ⟨true, 1⟩ }
  let s := modRow s 0 fun x =>
    { x with want := .run, cur := .run, oppWant := x.opp, part := some 0, phase := .placed, resident := some 0, started := [0],
             halted := false, last := 7 }
  modHead { s with agenda := [], turn := 0 } 0 0 (probeHead pend)

/-- Lay out an instruction of nbits bits whose bits are w: a PX stands before its word. -/
def probeFetch (s : State) (nbits w : Nat) : State :=
  let pend := if nbits ≤ 32 then none else
    match decode (w % 2 ^ 32) with
    | .ok (.px p) => some p
    | _ => none
  probeJobIn pend (physWrN (probeTables s) none 0x10000 8 w)

end Sys2Proof.Machine
end

