-- ==== Sys2Proof/Machine/Step.lean ====
section
/-! DEFINITION. One step of the machine. -/

namespace Sys2Proof.Machine

/-- One step: what the plan gives, executed. -/
def step (s : State) : Host.Outcome State Fault Refusal :=
  match plan s with
  | .go i s => exec i s
  | .done s => .next s

/-- A state with an instruction of nbits bits, whose bits are w, where step fetches its next instruction: a job of one task has
been loaded from outside, and its strand's turn is next. -/
def State.withFetchWord (s : State) (nbits w : Nat) : State := probeFetch s nbits w

end Sys2Proof.Machine
end

