-- ==== Sys2Proof/Laws/PerInstr.lean ====
section
/-! SUPPORT. Families of statements about every instruction as syntax: encoding it and decoding the words gives it back. -/

set_option linter.unusedSimpArgs false
set_option Elab.async false

namespace Sys2Proof.Laws

/-- The instruction that the words of an encoding stand for: one word, or a PX and the word after it (R69, R70). -/
def readWords : List Nat → Option Instr
  | [w] => (decode w).toOption
  | [p, w] =>
    match decode p, decode w with
    | .ok (.px q), .ok i => some (i.withPx q)
    | _, _ => none
  | _ => none

namespace RoundTrip

/-- Decoding the words of a well-formed instruction gives it back; an event has no words. -/
def Statement (i : Instr) : Prop := i.isEvent = false → i.wellFormed = true → readWords (encode i) = some i

/-! Codes of the sub-fields, read back. -/

theorem b2n_lt (b : Bool) : b2n b < 2 := by cases b <;> decide
theorem b2n_one (b : Bool) : (b2n b == 1) = b := by cases b <;> decide
theorem Sz.code_lt (x : Sz) : x.code < 4 := by cases x <;> decide
theorem szOf_code (x : Sz) : szOf x.code = x := by cases x <;> decide
theorem Ord4.code_lt (x : Ord4) : x.code < 4 := by cases x <;> decide
theorem ordOf_code (x : Ord4) : ordOf x.code = x := by cases x <;> decide
theorem AmoOp.code_lt (x : AmoOp) : x.code < 10 := by cases x <;> decide
theorem amoOf_code (x : AmoOp) : amoOf x.code = some x := by cases x <;> decide
theorem VoteOp.code_lt (x : VoteOp) : x.code < 8 := by cases x <;> decide
theorem CmpCond.code_lt (x : CmpCond) : x.code < 8 := by cases x <;> decide
theorem RedOp.code_lt (x : RedOp) : x.code < 4 := by cases x <;> decide
theorem redOf_code (x : RedOp) : redOf x.code = some x := by cases x <;> decide
theorem Semiring.code_lt (x : Semiring) : x.code < 8 := by cases x <;> decide
theorem srOf_code (x : Semiring) : srOf x.code = some x := by cases x <;> decide
theorem PressFmt.code_lt (x : PressFmt) : x.code < 8 := by cases x <;> decide
theorem pfOf_code (x : PressFmt) : pfOf x.code = some x := by cases x <;> decide
theorem CopySrc.code_lt (x : CopySrc) : x.code < 4 := by cases x <;> decide
theorem copySrcOf_code (x : CopySrc) : copySrcOf x.code = some x := by cases x <;> decide
theorem CopyDst.code_lt (x : CopyDst) : x.code < 4 := by cases x <;> decide
theorem copyDstOf_code (x : CopyDst) : copyDstOf x.code (x == .multicast) = some x := by cases x <;> decide
theorem CredFmt.code_lt (x : CredFmt) : x.code < 4 := by cases x <;> decide
theorem credFmtOf_code (x : CredFmt) : credFmtOf x.code = some x := by cases x <;> decide
theorem Csr.code_lt (x : Csr) : x.code < 4096 := by cases x <;> decide
theorem csrOf_code (x : Csr) : csrOf x.code = some x := by cases x <;> decide

/-! What well-formedness says of a register field. -/

theorem pos_of_wf (m : BitVec 3) (x : IllFormed) (h : (if m = 0 then some x else none).isNone = true) : 1 ≤ m.toNat := by
  have : m ≠ 0 := by simpa using h
  have : m.toNat ≠ 0 := fun e => this (BitVec.eq_of_toNat_eq e)
  omega

theorem distinct_of_wf (d t : BitVec 5) (x : IllFormed) (h : (if d = t && d != 0 then some x else none).isNone = true) :
    d.toNat = t.toNat → d.toNat = 0 := by
  intro e
  have e : d = t := BitVec.eq_of_toNat_eq e
  have h : d = 0 := by simpa [e] using h
  simp [h]

theorem even_of_wf (a : BitVec 5) (x : IllFormed) (h : (if a.getLsbD 0 then some x else none).isNone = true) :
    a.toNat % 2 = 0 := by
  have : a.getLsbD 0 = false := by simpa using h
  simp [BitVec.getLsbD, Nat.testBit] at this
  omega

/-! One word at a time. -/

theorem of_word {i : Instr} {w : Nat} (he : encode i = [w]) (h : i.wellFormed = true → decode w = .ok i) : Statement i := by
  intro _ hw
  rw [he]
  simp only [readWords, h hw]
  rfl

theorem G3 (op fn : Nat) (d a b : BitVec 5) (w : West) (ho : op < 64) (hf : fn < 512) :
    let W := fmtR op d.toNat a.toNat b.toNat fn + w.bits
    fld W 26 6 = op ∧ fld W 0 9 = fn ∧ ∀ f, decG3 W f = .ok (f d a b w) := by
  intro W
  have hw : w.bits = 0 ∨ w.bits = 1024 ∨ w.bits = 512 := by cases w <;> simp [West.bits]
  refine ⟨by simp only [W, fld, fmtR]; omega, by simp only [W, fld, fmtR]; omega, fun f => ?_⟩
  have hd : fld W 21 5 = d.toNat := by simp only [W, fld, fmtR]; omega
  have ha : fld W 16 5 = a.toNat := by simp only [W, fld, fmtR]; omega
  have hb : fld W 11 5 = b.toNat := by simp only [W, fld, fmtR]; omega
  have h1 : fld W 10 1 = if w = .a then 1 else 0 := by cases w <;> simp only [W, fld, fmtR, West.bits] <;> simp <;> omega
  have h2 : fld W 9 1 = if w = .b then 1 else 0 := by cases w <;> simp only [W, fld, fmtR, West.bits] <;> simp <;> omega
  generalize W = V at *
  cases w <;> simp [decG3, gr, bit1, need, hd, ha, hb, h1, h2]

theorem G2 (op fn : Nat) (d a : BitVec 5) (w : Bool) (ho : op < 64) (hf : fn < 512) :
    let W := fmtR op d.toNat a.toNat 0 fn + 1024 * b2n w
    fld W 26 6 = op ∧ fld W 0 9 = fn ∧ ∀ f, decG2 W f = .ok (f d a w) := by
  intro W
  have hw := b2n_lt w
  refine ⟨by simp only [W, fld, fmtR]; omega, by simp only [W, fld, fmtR]; omega, fun f => ?_⟩
  have hd : fld W 21 5 = d.toNat := by simp only [W, fld, fmtR]; omega
  have ha : fld W 16 5 = a.toNat := by simp only [W, fld, fmtR]; omega
  have hb : fld W 11 5 = 0 := by simp only [W, fld, fmtR]; omega
  have h1 : fld W 10 1 = b2n w := by simp only [W, fld, fmtR]; omega
  have h2 : fld W 9 1 = 0 := by simp only [W, fld, fmtR]; omega
  generalize W = V at *
  simp [decG2, gr, bit1, need, hd, ha, hb, h1, h2, b2n_one]

theorem GK (op fn : Nat) (d a : BitVec 5) (k : BitVec 8) (ho : op < 64) (hf : fn < 256) :
    let W := fmtI op d.toNat a.toNat (k.toNat * 256 + fn)
    fld W 26 6 = op ∧ fld W 0 8 = fn ∧ ∀ f, decGK W f = .ok (f d a k) := by
  intro W
  refine ⟨by simp only [W, fld, fmtI]; omega, by simp only [W, fld, fmtI]; omega, fun f => ?_⟩
  have hd : fld W 21 5 = d.toNat := by simp only [W, fld, fmtI]; omega
  have ha : fld W 16 5 = a.toNat := by simp only [W, fld, fmtI]; omega
  have hk : fld W 8 8 = k.toNat := by simp only [W, fld, fmtI]; omega
  generalize W = V at *
  simp [decGK, gr, hd, ha, hk]

theorem H3 (op fn : Nat) (d a b : BitVec 4) (ho : op < 64) (hf : fn < 2048) :
    let W := fmtR op d.toNat a.toNat b.toNat fn
    fld W 26 6 = op ∧ fld W 0 11 = fn ∧ ∀ f, decH3 W f = .ok (f d a b) := by
  intro W
  refine ⟨by simp only [W, fld, fmtR]; omega, by simp only [W, fld, fmtR]; omega, fun f => ?_⟩
  have hd : fld W 21 5 = d.toNat := by simp only [W, fld, fmtR]; omega
  have ha : fld W 16 5 = a.toNat := by simp only [W, fld, fmtR]; omega
  have hb : fld W 11 5 = b.toNat := by simp only [W, fld, fmtR]; omega
  have := d.isLt
  have := a.isLt
  have := b.isLt
  generalize W = V at *
  simp [decH3, hOk, hr, need, hd, ha, hb, *]

theorem decode_00 (w : Nat) (h : fld w 26 6 = 0x00) : decode w = decHeadAlu w := by simp only [decode, h]
theorem decode_01 (w : Nat) (h : fld w 26 6 = 0x01) : decode w = decHI w .addiHead := by simp only [decode, h]
theorem decode_02 (w : Nat) (h : fld w 26 6 = 0x02) : decode w = decHI w .andiHead := by simp only [decode, h]
theorem decode_03 (w : Nat) (h : fld w 26 6 = 0x03) : decode w = decHI w .oriHead := by simp only [decode, h]
theorem decode_04 (w : Nat) (h : fld w 26 6 = 0x04) : decode w = decHI w .xoriHead := by simp only [decode, h]
theorem decode_05 (w : Nat) (h : fld w 26 6 = 0x05) : decode w = decHeadShift w := by simp only [decode, h]
theorem decode_06 (w : Nat) (h : fld w 26 6 = 0x06) : decode w = need (hOk w 21) .register (need (fld w 16 5 == 0) .field (.ok (.liHead (hr w 21) (BitVec.ofNat 16 (fld w 0 16))))) := by simp only [decode, h]
theorem decode_07 (w : Nat) (h : fld w 26 6 = 0x07) : decode w = decHI w .luiHead := by simp only [decode, h]
theorem decode_08 (w : Nat) (h : fld w 26 6 = 0x08) : decode w = decBranch w := by simp only [decode, h]
theorem decode_09 (w : Nat) (h : fld w 26 6 = 0x09) : decode w = .ok (.jmp (BitVec.ofNat 26 (fld w 0 26))) := by simp only [decode, h]
theorem decode_0A (w : Nat) (h : fld w 26 6 = 0x0A) : decode w = .ok (.call (BitVec.ofNat 26 (fld w 0 26))) := by simp only [decode, h]
theorem decode_0B (w : Nat) (h : fld w 26 6 = 0x0B) : decode w = decJrLoop w := by simp only [decode, h]
theorem decode_0C (w : Nat) (h : fld w 26 6 = 0x0C) : decode w = decHeadMem w := by simp only [decode, h]
theorem decode_0D (w : Nat) (h : fld w 26 6 = 0x0D) : decode w = decControl w := by simp only [decode, h]
theorem decode_0E (w : Nat) (h : fld w 26 6 = 0x0E) : decode w = decGroup w := by simp only [decode, h]
theorem decode_0F (w : Nat) (h : fld w 26 6 = 0x0F) : decode w = decCsr w := by simp only [decode, h]
theorem decode_10 (w : Nat) (h : fld w 26 6 = 0x10) : decode w = decLaneAlu w := by simp only [decode, h]
theorem decode_11 (w : Nat) (h : fld w 26 6 = 0x11) : decode w = decLaneK w := by simp only [decode, h]
theorem decode_12 (w : Nat) (h : fld w 26 6 = 0x12) : decode w = decGI w .addi := by simp only [decode, h]
theorem decode_13 (w : Nat) (h : fld w 26 6 = 0x13) : decode w = decGI w .andi := by simp only [decode, h]
theorem decode_14 (w : Nat) (h : fld w 26 6 = 0x14) : decode w = decGI w .ori := by simp only [decode, h]
theorem decode_15 (w : Nat) (h : fld w 26 6 = 0x15) : decode w = decGI w .xori := by simp only [decode, h]
theorem decode_16 (w : Nat) (h : fld w 26 6 = 0x16) : decode w = decLaneShift w := by simp only [decode, h]
theorem decode_17 (w : Nat) (h : fld w 26 6 = 0x17) : decode w = need (fld w 16 5 == 0) .field (.ok (.li (gr w 21) (BitVec.ofNat 16 (fld w 0 16)))) := by simp only [decode, h]
theorem decode_18 (w : Nat) (h : fld w 26 6 = 0x18) : decode w = decGI w .lui := by simp only [decode, h]
theorem decode_19 (w : Nat) (h : fld w 26 6 = 0x19) : decode w = decFloat w := by simp only [decode, h]
theorem decode_1A (w : Nat) (h : fld w 26 6 = 0x1A) : decode w = decMove w := by simp only [decode, h]
theorem decode_1B (w : Nat) (h : fld w 26 6 = 0x1B) : decode w = decLd w := by simp only [decode, h]
theorem decode_1C (w : Nat) (h : fld w 26 6 = 0x1C) : decode w = decSt w := by simp only [decode, h]
theorem decode_1D (w : Nat) (h : fld w 26 6 = 0x1D) : decode w = decVecMem w := by simp only [decode, h]
theorem decode_1E (w : Nat) (h : fld w 26 6 = 0x1E) : decode w = decPool w := by simp only [decode, h]
theorem decode_1F (w : Nat) (h : fld w 26 6 = 0x1F) : decode w = decLandLoad w := by simp only [decode, h]
theorem decode_20 (w : Nat) (h : fld w 26 6 = 0x20) : decode w = decLanding w := by simp only [decode, h]
theorem decode_21 (w : Nat) (h : fld w 26 6 = 0x21) : decode w = decAmo w := by simp only [decode, h]
theorem decode_22 (w : Nat) (h : fld w 26 6 = 0x22) : decode w = decRed w := by simp only [decode, h]
theorem decode_23 (w : Nat) (h : fld w 26 6 = 0x23) : decode w = decOrder w := by simp only [decode, h]
theorem decode_24 (w : Nat) (h : fld w 26 6 = 0x24) : decode w = decVecArith w := by simp only [decode, h]
theorem decode_25 (w : Nat) (h : fld w 26 6 = 0x25) : decode w = decVecLogic w := by simp only [decode, h]
theorem decode_26 (w : Nat) (h : fld w 26 6 = 0x26) : decode w = decMask w := by simp only [decode, h]
theorem decode_27 (w : Nat) (h : fld w 26 6 = 0x27) : decode w = decVecCvt w := by simp only [decode, h]
theorem decode_28 (w : Nat) (h : fld w 26 6 = 0x28) : decode w = decVecSpecial w := by simp only [decode, h]
theorem decode_29 (w : Nat) (h : fld w 26 6 = 0x29) : decode w = decVecLane w := by simp only [decode, h]
theorem decode_2A (w : Nat) (h : fld w 26 6 = 0x2A) : decode w = decVred w := by simp only [decode, h]
theorem decode_2B (w : Nat) (h : fld w 26 6 = 0x2B) : decode w = decVecK w := by simp only [decode, h]
theorem decode_2C (w : Nat) (h : fld w 26 6 = 0x2C) : decode w = if bit1 w 10 then decMma w else decPressQ w := by simp only [decode, h]
theorem decode_2D (w : Nat) (h : fld w 26 6 = 0x2D) : decode w = decRing w := by simp only [decode, h]
theorem decode_2E (w : Nat) (h : fld w 26 6 = 0x2E) : decode w = decHatch w := by simp only [decode, h]
theorem decode_2F (w : Nat) (h : fld w 26 6 = 0x2F) : decode w = decCopyEng w := by simp only [decode, h]
theorem decode_30 (w : Nat) (h : fld w 26 6 = 0x30) : decode w = decSystem w := by simp only [decode, h]
theorem decode_3F (w : Nat) (h : fld w 26 6 = 0x3F) : decode w = decPx w := by simp only [decode, h]

theorem px (p : Px) : Statement (.px p) := by
  obtain ⟨msk, mz, rm, fa, fb, fd, ea, eb, c⟩ := p
  refine of_word (w := fmtPx ⟨msk, mz, rm, fa, fb, fd, ea, eb, c⟩) rfl fun hwf => ?_
  have hwf : rm.toNat < 6 ∧ fa.toNat < 14 ∧ fb.toNat < 14 ∧ fd.toNat < 14 := by
    have h : (if rm.toNat < 6 && fa.toNat < 14 && fb.toNat < 14 && fd.toNat < 14 then none
      else some IllFormed.pxField).isNone = true := hwf
    simpa [and_assoc] using h
  have h1 := b2n_lt mz
  have h2 := b2n_lt ea
  have h3 := b2n_lt eb
  generalize hW : fmtPx ⟨msk, mz, rm, fa, fb, fd, ea, eb, c⟩ = W
  have e0 : fld W 26 6 = 63 := by subst hW; simp only [fld, fmtPx]; omega
  have e1 : fld W 23 3 = msk.toNat := by subst hW; simp only [fld, fmtPx]; omega
  have e2 : fld W 22 1 = b2n mz := by subst hW; simp only [fld, fmtPx]; omega
  have e3 : fld W 19 3 = rm.toNat := by subst hW; simp only [fld, fmtPx]; omega
  have e4 : fld W 15 4 = fa.toNat := by subst hW; simp only [fld, fmtPx]; omega
  have e5 : fld W 11 4 = fb.toNat := by subst hW; simp only [fld, fmtPx]; omega
  have e6 : fld W 7 4 = fd.toNat := by subst hW; simp only [fld, fmtPx]; omega
  have e7 : fld W 6 1 = b2n ea := by subst hW; simp only [fld, fmtPx]; omega
  have e8 : fld W 5 1 = b2n eb := by subst hW; simp only [fld, fmtPx]; omega
  have e9 : fld W 0 5 = c.toNat := by subst hW; simp only [fld, fmtPx]; omega
  simp [decode_3F W e0, decPx, e1, e2, e3, e4, e5, e6, e7, e8, e9, hwf, need, bit1, b2n_one]

theorem addHead (d : BitVec 4) (a : BitVec 4) (b : BitVec 4) : Statement (.addHead d a b) := by
  have e := H3 0 0 d a b (by decide) (by decide)
  refine of_word (w := fmtR 0 d.toNat a.toNat b.toNat 0) rfl fun _ => ?_
  generalize fmtR 0 d.toNat a.toNat b.toNat 0 = W at e ⊢
  simp only [decode_00 W e.1, decHeadAlu, e.2.1, e.2.2]

theorem subHead (d : BitVec 4) (a : BitVec 4) (b : BitVec 4) : Statement (.subHead d a b) := by
  have e := H3 0 1 d a b (by decide) (by decide)
  refine of_word (w := fmtR 0 d.toNat a.toNat b.toNat 1) rfl fun _ => ?_
  generalize fmtR 0 d.toNat a.toNat b.toNat 1 = W at e ⊢
  simp only [decode_00 W e.1, decHeadAlu, e.2.1, e.2.2]

theorem andHead (d : BitVec 4) (a : BitVec 4) (b : BitVec 4) : Statement (.andHead d a b) := by
  have e := H3 0 2 d a b (by decide) (by decide)
  refine of_word (w := fmtR 0 d.toNat a.toNat b.toNat 2) rfl fun _ => ?_
  generalize fmtR 0 d.toNat a.toNat b.toNat 2 = W at e ⊢
  simp only [decode_00 W e.1, decHeadAlu, e.2.1, e.2.2]

theorem orHead (d : BitVec 4) (a : BitVec 4) (b : BitVec 4) : Statement (.orHead d a b) := by
  have e := H3 0 3 d a b (by decide) (by decide)
  refine of_word (w := fmtR 0 d.toNat a.toNat b.toNat 3) rfl fun _ => ?_
  generalize fmtR 0 d.toNat a.toNat b.toNat 3 = W at e ⊢
  simp only [decode_00 W e.1, decHeadAlu, e.2.1, e.2.2]

theorem xorHead (d : BitVec 4) (a : BitVec 4) (b : BitVec 4) : Statement (.xorHead d a b) := by
  have e := H3 0 4 d a b (by decide) (by decide)
  refine of_word (w := fmtR 0 d.toNat a.toNat b.toNat 4) rfl fun _ => ?_
  generalize fmtR 0 d.toNat a.toNat b.toNat 4 = W at e ⊢
  simp only [decode_00 W e.1, decHeadAlu, e.2.1, e.2.2]

theorem shlHead (d : BitVec 4) (a : BitVec 4) (b : BitVec 4) : Statement (.shlHead d a b) := by
  have e := H3 0 5 d a b (by decide) (by decide)
  refine of_word (w := fmtR 0 d.toNat a.toNat b.toNat 5) rfl fun _ => ?_
  generalize fmtR 0 d.toNat a.toNat b.toNat 5 = W at e ⊢
  simp only [decode_00 W e.1, decHeadAlu, e.2.1, e.2.2]

theorem shrHead (d : BitVec 4) (a : BitVec 4) (b : BitVec 4) : Statement (.shrHead d a b) := by
  have e := H3 0 6 d a b (by decide) (by decide)
  refine of_word (w := fmtR 0 d.toNat a.toNat b.toNat 6) rfl fun _ => ?_
  generalize fmtR 0 d.toNat a.toNat b.toNat 6 = W at e ⊢
  simp only [decode_00 W e.1, decHeadAlu, e.2.1, e.2.2]

theorem sarHead (d : BitVec 4) (a : BitVec 4) (b : BitVec 4) : Statement (.sarHead d a b) := by
  have e := H3 0 7 d a b (by decide) (by decide)
  refine of_word (w := fmtR 0 d.toNat a.toNat b.toNat 7) rfl fun _ => ?_
  generalize fmtR 0 d.toNat a.toNat b.toNat 7 = W at e ⊢
  simp only [decode_00 W e.1, decHeadAlu, e.2.1, e.2.2]

theorem mulHead (d : BitVec 4) (a : BitVec 4) (b : BitVec 4) : Statement (.mulHead d a b) := by
  have e := H3 0 8 d a b (by decide) (by decide)
  refine of_word (w := fmtR 0 d.toNat a.toNat b.toNat 8) rfl fun _ => ?_
  generalize fmtR 0 d.toNat a.toNat b.toNat 8 = W at e ⊢
  simp only [decode_00 W e.1, decHeadAlu, e.2.1, e.2.2]

theorem sltHead (d : BitVec 4) (a : BitVec 4) (b : BitVec 4) : Statement (.sltHead d a b) := by
  have e := H3 0 9 d a b (by decide) (by decide)
  refine of_word (w := fmtR 0 d.toNat a.toNat b.toNat 9) rfl fun _ => ?_
  generalize fmtR 0 d.toNat a.toNat b.toNat 9 = W at e ⊢
  simp only [decode_00 W e.1, decHeadAlu, e.2.1, e.2.2]

theorem sltnHead (d : BitVec 4) (a : BitVec 4) (b : BitVec 4) : Statement (.sltnHead d a b) := by
  have e := H3 0 10 d a b (by decide) (by decide)
  refine of_word (w := fmtR 0 d.toNat a.toNat b.toNat 10) rfl fun _ => ?_
  generalize fmtR 0 d.toNat a.toNat b.toNat 10 = W at e ⊢
  simp only [decode_00 W e.1, decHeadAlu, e.2.1, e.2.2]

theorem minHead (d : BitVec 4) (a : BitVec 4) (b : BitVec 4) : Statement (.minHead d a b) := by
  have e := H3 0 11 d a b (by decide) (by decide)
  refine of_word (w := fmtR 0 d.toNat a.toNat b.toNat 11) rfl fun _ => ?_
  generalize fmtR 0 d.toNat a.toNat b.toNat 11 = W at e ⊢
  simp only [decode_00 W e.1, decHeadAlu, e.2.1, e.2.2]

theorem maxHead (d : BitVec 4) (a : BitVec 4) (b : BitVec 4) : Statement (.maxHead d a b) := by
  have e := H3 0 12 d a b (by decide) (by decide)
  refine of_word (w := fmtR 0 d.toNat a.toNat b.toNat 12) rfl fun _ => ?_
  generalize fmtR 0 d.toNat a.toNat b.toNat 12 = W at e ⊢
  simp only [decode_00 W e.1, decHeadAlu, e.2.1, e.2.2]

theorem addiHead (d : BitVec 4) (a : BitVec 4) (imm : BitVec 16) : Statement (.addiHead d a imm) := by
  refine of_word (w := fmtI 1 d.toNat a.toNat imm.toNat) rfl fun hwf => ?_
  have hd : d.toNat < 16 := d.isLt
  have ha : a.toNat < 16 := a.isLt
  generalize hW : fmtI 1 d.toNat a.toNat imm.toNat = W
  have e0 : fld W 0 16 = imm.toNat := by subst hW; simp only [fld, fmtI]; omega
  have e1 : fld W 16 5 = a.toNat := by subst hW; simp only [fld, fmtI]; omega
  have e2 : fld W 21 5 = d.toNat := by subst hW; simp only [fld, fmtI]; omega
  have e3 : fld W 26 6 = 1 := by subst hW; simp only [fld, fmtI]; omega
  simp [decode_01 W e3, decHI, e0, e1, e2, hd, ha, need, hOk, hr, gr, bit1, sub, BitVec.ofNat_toNat, b2n_one, szOf_code, ordOf_code, amoOf_code, srOf_code, pfOf_code, copySrcOf_code, redOf_code, credFmtOf_code, csrOf_code]

theorem andiHead (d : BitVec 4) (a : BitVec 4) (imm : BitVec 16) : Statement (.andiHead d a imm) := by
  refine of_word (w := fmtI 2 d.toNat a.toNat imm.toNat) rfl fun hwf => ?_
  have hd : d.toNat < 16 := d.isLt
  have ha : a.toNat < 16 := a.isLt
  generalize hW : fmtI 2 d.toNat a.toNat imm.toNat = W
  have e0 : fld W 0 16 = imm.toNat := by subst hW; simp only [fld, fmtI]; omega
  have e1 : fld W 16 5 = a.toNat := by subst hW; simp only [fld, fmtI]; omega
  have e2 : fld W 21 5 = d.toNat := by subst hW; simp only [fld, fmtI]; omega
  have e3 : fld W 26 6 = 2 := by subst hW; simp only [fld, fmtI]; omega
  simp [decode_02 W e3, decHI, e0, e1, e2, hd, ha, need, hOk, hr, gr, bit1, sub, BitVec.ofNat_toNat, b2n_one, szOf_code, ordOf_code, amoOf_code, srOf_code, pfOf_code, copySrcOf_code, redOf_code, credFmtOf_code, csrOf_code]

theorem oriHead (d : BitVec 4) (a : BitVec 4) (imm : BitVec 16) : Statement (.oriHead d a imm) := by
  refine of_word (w := fmtI 3 d.toNat a.toNat imm.toNat) rfl fun hwf => ?_
  have hd : d.toNat < 16 := d.isLt
  have ha : a.toNat < 16 := a.isLt
  generalize hW : fmtI 3 d.toNat a.toNat imm.toNat = W
  have e0 : fld W 0 16 = imm.toNat := by subst hW; simp only [fld, fmtI]; omega
  have e1 : fld W 16 5 = a.toNat := by subst hW; simp only [fld, fmtI]; omega
  have e2 : fld W 21 5 = d.toNat := by subst hW; simp only [fld, fmtI]; omega
  have e3 : fld W 26 6 = 3 := by subst hW; simp only [fld, fmtI]; omega
  simp [decode_03 W e3, decHI, e0, e1, e2, hd, ha, need, hOk, hr, gr, bit1, sub, BitVec.ofNat_toNat, b2n_one, szOf_code, ordOf_code, amoOf_code, srOf_code, pfOf_code, copySrcOf_code, redOf_code, credFmtOf_code, csrOf_code]

theorem xoriHead (d : BitVec 4) (a : BitVec 4) (imm : BitVec 16) : Statement (.xoriHead d a imm) := by
  refine of_word (w := fmtI 4 d.toNat a.toNat imm.toNat) rfl fun hwf => ?_
  have hd : d.toNat < 16 := d.isLt
  have ha : a.toNat < 16 := a.isLt
  generalize hW : fmtI 4 d.toNat a.toNat imm.toNat = W
  have e0 : fld W 0 16 = imm.toNat := by subst hW; simp only [fld, fmtI]; omega
  have e1 : fld W 16 5 = a.toNat := by subst hW; simp only [fld, fmtI]; omega
  have e2 : fld W 21 5 = d.toNat := by subst hW; simp only [fld, fmtI]; omega
  have e3 : fld W 26 6 = 4 := by subst hW; simp only [fld, fmtI]; omega
  simp [decode_04 W e3, decHI, e0, e1, e2, hd, ha, need, hOk, hr, gr, bit1, sub, BitVec.ofNat_toNat, b2n_one, szOf_code, ordOf_code, amoOf_code, srOf_code, pfOf_code, copySrcOf_code, redOf_code, credFmtOf_code, csrOf_code]

theorem shliHead (d : BitVec 4) (a : BitVec 4) (n : BitVec 6) : Statement (.shliHead d a n) := by
  refine of_word (w := fmtI 5 d.toNat a.toNat (0 + n.toNat)) rfl fun hwf => ?_
  have hd : d.toNat < 16 := d.isLt
  have ha : a.toNat < 16 := a.isLt
  generalize hW : fmtI 5 d.toNat a.toNat (0 + n.toNat) = W
  have e0 : fld W 0 6 = n.toNat := by subst hW; simp only [fld, fmtI]; omega
  have e1 : fld W 6 2 = 0 := by subst hW; simp only [fld, fmtI]; omega
  have e2 : fld W 8 8 = 0 := by subst hW; simp only [fld, fmtI]; omega
  have e3 : fld W 16 5 = a.toNat := by subst hW; simp only [fld, fmtI]; omega
  have e4 : fld W 21 5 = d.toNat := by subst hW; simp only [fld, fmtI]; omega
  have e5 : fld W 26 6 = 5 := by subst hW; simp only [fld, fmtI]; omega
  simp [decode_05 W e5, decHS, decHeadShift, e0, e1, e2, e3, e4, hd, ha, need, hOk, hr, gr, bit1, sub, BitVec.ofNat_toNat, b2n_one, szOf_code, ordOf_code, amoOf_code, srOf_code, pfOf_code, copySrcOf_code, redOf_code, credFmtOf_code, csrOf_code]

theorem shriHead (d : BitVec 4) (a : BitVec 4) (n : BitVec 6) : Statement (.shriHead d a n) := by
  refine of_word (w := fmtI 5 d.toNat a.toNat (256 + n.toNat)) rfl fun hwf => ?_
  have hd : d.toNat < 16 := d.isLt
  have ha : a.toNat < 16 := a.isLt
  generalize hW : fmtI 5 d.toNat a.toNat (256 + n.toNat) = W
  have e0 : fld W 0 6 = n.toNat := by subst hW; simp only [fld, fmtI]; omega
  have e1 : fld W 6 2 = 0 := by subst hW; simp only [fld, fmtI]; omega
  have e2 : fld W 8 8 = 1 := by subst hW; simp only [fld, fmtI]; omega
  have e3 : fld W 16 5 = a.toNat := by subst hW; simp only [fld, fmtI]; omega
  have e4 : fld W 21 5 = d.toNat := by subst hW; simp only [fld, fmtI]; omega
  have e5 : fld W 26 6 = 5 := by subst hW; simp only [fld, fmtI]; omega
  simp [decode_05 W e5, decHS, decHeadShift, e0, e1, e2, e3, e4, hd, ha, need, hOk, hr, gr, bit1, sub, BitVec.ofNat_toNat, b2n_one, szOf_code, ordOf_code, amoOf_code, srOf_code, pfOf_code, copySrcOf_code, redOf_code, credFmtOf_code, csrOf_code]

theorem sariHead (d : BitVec 4) (a : BitVec 4) (n : BitVec 6) : Statement (.sariHead d a n) := by
  refine of_word (w := fmtI 5 d.toNat a.toNat (512 + n.toNat)) rfl fun hwf => ?_
  have hd : d.toNat < 16 := d.isLt
  have ha : a.toNat < 16 := a.isLt
  generalize hW : fmtI 5 d.toNat a.toNat (512 + n.toNat) = W
  have e0 : fld W 0 6 = n.toNat := by subst hW; simp only [fld, fmtI]; omega
  have e1 : fld W 6 2 = 0 := by subst hW; simp only [fld, fmtI]; omega
  have e2 : fld W 8 8 = 2 := by subst hW; simp only [fld, fmtI]; omega
  have e3 : fld W 16 5 = a.toNat := by subst hW; simp only [fld, fmtI]; omega
  have e4 : fld W 21 5 = d.toNat := by subst hW; simp only [fld, fmtI]; omega
  have e5 : fld W 26 6 = 5 := by subst hW; simp only [fld, fmtI]; omega
  simp [decode_05 W e5, decHS, decHeadShift, e0, e1, e2, e3, e4, hd, ha, need, hOk, hr, gr, bit1, sub, BitVec.ofNat_toNat, b2n_one, szOf_code, ordOf_code, amoOf_code, srOf_code, pfOf_code, copySrcOf_code, redOf_code, credFmtOf_code, csrOf_code]

theorem liHead (d : BitVec 4) (imm : BitVec 16) : Statement (.liHead d imm) := by
  refine of_word (w := fmtI 6 d.toNat 0 imm.toNat) rfl fun hwf => ?_
  have hd : d.toNat < 16 := d.isLt
  generalize hW : fmtI 6 d.toNat 0 imm.toNat = W
  have e0 : fld W 0 16 = imm.toNat := by subst hW; simp only [fld, fmtI]; omega
  have e1 : fld W 16 5 = 0 := by subst hW; simp only [fld, fmtI]; omega
  have e2 : fld W 21 5 = d.toNat := by subst hW; simp only [fld, fmtI]; omega
  have e3 : fld W 26 6 = 6 := by subst hW; simp only [fld, fmtI]; omega
  simp [decode_06 W e3, e0, e1, e2, hd, need, hOk, hr, gr, bit1, sub, BitVec.ofNat_toNat, b2n_one, szOf_code, ordOf_code, amoOf_code, srOf_code, pfOf_code, copySrcOf_code, redOf_code, credFmtOf_code, csrOf_code]

theorem luiHead (d : BitVec 4) (a : BitVec 4) (imm : BitVec 16) : Statement (.luiHead d a imm) := by
  refine of_word (w := fmtI 7 d.toNat a.toNat imm.toNat) rfl fun hwf => ?_
  have hd : d.toNat < 16 := d.isLt
  have ha : a.toNat < 16 := a.isLt
  generalize hW : fmtI 7 d.toNat a.toNat imm.toNat = W
  have e0 : fld W 0 16 = imm.toNat := by subst hW; simp only [fld, fmtI]; omega
  have e1 : fld W 16 5 = a.toNat := by subst hW; simp only [fld, fmtI]; omega
  have e2 : fld W 21 5 = d.toNat := by subst hW; simp only [fld, fmtI]; omega
  have e3 : fld W 26 6 = 7 := by subst hW; simp only [fld, fmtI]; omega
  simp [decode_07 W e3, decHI, e0, e1, e2, hd, ha, need, hOk, hr, gr, bit1, sub, BitVec.ofNat_toNat, b2n_one, szOf_code, ordOf_code, amoOf_code, srOf_code, pfOf_code, copySrcOf_code, redOf_code, credFmtOf_code, csrOf_code]

theorem beq (a : BitVec 4) (b : BitVec 4) (off : BitVec 12) : Statement (.beq a b off) := by
  refine of_word (w := fmtB 8 0 a.toNat b.toNat off.toNat) rfl fun hwf => ?_
  have ha : a.toNat < 16 := a.isLt
  have hb : b.toNat < 16 := b.isLt
  generalize hW : fmtB 8 0 a.toNat b.toNat off.toNat = W
  have e0 : fld W 0 12 = off.toNat := by subst hW; simp only [fld, fmtB]; omega
  have e1 : fld W 12 5 = b.toNat := by subst hW; simp only [fld, fmtB]; omega
  have e2 : fld W 17 5 = a.toNat := by subst hW; simp only [fld, fmtB]; omega
  have e3 : fld W 22 4 = 0 := by subst hW; simp only [fld, fmtB]; omega
  have e4 : fld W 26 6 = 8 := by subst hW; simp only [fld, fmtB]; omega
  simp [decode_08 W e4, decBranch, decHB, e0, e1, e2, e3, ha, hb, need, hOk, hr, gr, bit1, sub, BitVec.ofNat_toNat, b2n_one, szOf_code, ordOf_code, amoOf_code, srOf_code, pfOf_code, copySrcOf_code, redOf_code, credFmtOf_code, csrOf_code]

theorem bne (a : BitVec 4) (b : BitVec 4) (off : BitVec 12) : Statement (.bne a b off) := by
  refine of_word (w := fmtB 8 1 a.toNat b.toNat off.toNat) rfl fun hwf => ?_
  have ha : a.toNat < 16 := a.isLt
  have hb : b.toNat < 16 := b.isLt
  generalize hW : fmtB 8 1 a.toNat b.toNat off.toNat = W
  have e0 : fld W 0 12 = off.toNat := by subst hW; simp only [fld, fmtB]; omega
  have e1 : fld W 12 5 = b.toNat := by subst hW; simp only [fld, fmtB]; omega
  have e2 : fld W 17 5 = a.toNat := by subst hW; simp only [fld, fmtB]; omega
  have e3 : fld W 22 4 = 1 := by subst hW; simp only [fld, fmtB]; omega
  have e4 : fld W 26 6 = 8 := by subst hW; simp only [fld, fmtB]; omega
  simp [decode_08 W e4, decBranch, decHB, e0, e1, e2, e3, ha, hb, need, hOk, hr, gr, bit1, sub, BitVec.ofNat_toNat, b2n_one, szOf_code, ordOf_code, amoOf_code, srOf_code, pfOf_code, copySrcOf_code, redOf_code, credFmtOf_code, csrOf_code]

theorem blt (a : BitVec 4) (b : BitVec 4) (off : BitVec 12) : Statement (.blt a b off) := by
  refine of_word (w := fmtB 8 2 a.toNat b.toNat off.toNat) rfl fun hwf => ?_
  have ha : a.toNat < 16 := a.isLt
  have hb : b.toNat < 16 := b.isLt
  generalize hW : fmtB 8 2 a.toNat b.toNat off.toNat = W
  have e0 : fld W 0 12 = off.toNat := by subst hW; simp only [fld, fmtB]; omega
  have e1 : fld W 12 5 = b.toNat := by subst hW; simp only [fld, fmtB]; omega
  have e2 : fld W 17 5 = a.toNat := by subst hW; simp only [fld, fmtB]; omega
  have e3 : fld W 22 4 = 2 := by subst hW; simp only [fld, fmtB]; omega
  have e4 : fld W 26 6 = 8 := by subst hW; simp only [fld, fmtB]; omega
  simp [decode_08 W e4, decBranch, decHB, e0, e1, e2, e3, ha, hb, need, hOk, hr, gr, bit1, sub, BitVec.ofNat_toNat, b2n_one, szOf_code, ordOf_code, amoOf_code, srOf_code, pfOf_code, copySrcOf_code, redOf_code, credFmtOf_code, csrOf_code]

theorem bge (a : BitVec 4) (b : BitVec 4) (off : BitVec 12) : Statement (.bge a b off) := by
  refine of_word (w := fmtB 8 3 a.toNat b.toNat off.toNat) rfl fun hwf => ?_
  have ha : a.toNat < 16 := a.isLt
  have hb : b.toNat < 16 := b.isLt
  generalize hW : fmtB 8 3 a.toNat b.toNat off.toNat = W
  have e0 : fld W 0 12 = off.toNat := by subst hW; simp only [fld, fmtB]; omega
  have e1 : fld W 12 5 = b.toNat := by subst hW; simp only [fld, fmtB]; omega
  have e2 : fld W 17 5 = a.toNat := by subst hW; simp only [fld, fmtB]; omega
  have e3 : fld W 22 4 = 3 := by subst hW; simp only [fld, fmtB]; omega
  have e4 : fld W 26 6 = 8 := by subst hW; simp only [fld, fmtB]; omega
  simp [decode_08 W e4, decBranch, decHB, e0, e1, e2, e3, ha, hb, need, hOk, hr, gr, bit1, sub, BitVec.ofNat_toNat, b2n_one, szOf_code, ordOf_code, amoOf_code, srOf_code, pfOf_code, copySrcOf_code, redOf_code, credFmtOf_code, csrOf_code]

theorem bltn (a : BitVec 4) (b : BitVec 4) (off : BitVec 12) : Statement (.bltn a b off) := by
  refine of_word (w := fmtB 8 4 a.toNat b.toNat off.toNat) rfl fun hwf => ?_
  have ha : a.toNat < 16 := a.isLt
  have hb : b.toNat < 16 := b.isLt
  generalize hW : fmtB 8 4 a.toNat b.toNat off.toNat = W
  have e0 : fld W 0 12 = off.toNat := by subst hW; simp only [fld, fmtB]; omega
  have e1 : fld W 12 5 = b.toNat := by subst hW; simp only [fld, fmtB]; omega
  have e2 : fld W 17 5 = a.toNat := by subst hW; simp only [fld, fmtB]; omega
  have e3 : fld W 22 4 = 4 := by subst hW; simp only [fld, fmtB]; omega
  have e4 : fld W 26 6 = 8 := by subst hW; simp only [fld, fmtB]; omega
  simp [decode_08 W e4, decBranch, decHB, e0, e1, e2, e3, ha, hb, need, hOk, hr, gr, bit1, sub, BitVec.ofNat_toNat, b2n_one, szOf_code, ordOf_code, amoOf_code, srOf_code, pfOf_code, copySrcOf_code, redOf_code, credFmtOf_code, csrOf_code]

theorem bgen (a : BitVec 4) (b : BitVec 4) (off : BitVec 12) : Statement (.bgen a b off) := by
  refine of_word (w := fmtB 8 5 a.toNat b.toNat off.toNat) rfl fun hwf => ?_
  have ha : a.toNat < 16 := a.isLt
  have hb : b.toNat < 16 := b.isLt
  generalize hW : fmtB 8 5 a.toNat b.toNat off.toNat = W
  have e0 : fld W 0 12 = off.toNat := by subst hW; simp only [fld, fmtB]; omega
  have e1 : fld W 12 5 = b.toNat := by subst hW; simp only [fld, fmtB]; omega
  have e2 : fld W 17 5 = a.toNat := by subst hW; simp only [fld, fmtB]; omega
  have e3 : fld W 22 4 = 5 := by subst hW; simp only [fld, fmtB]; omega
  have e4 : fld W 26 6 = 8 := by subst hW; simp only [fld, fmtB]; omega
  simp [decode_08 W e4, decBranch, decHB, e0, e1, e2, e3, ha, hb, need, hOk, hr, gr, bit1, sub, BitVec.ofNat_toNat, b2n_one, szOf_code, ordOf_code, amoOf_code, srOf_code, pfOf_code, copySrcOf_code, redOf_code, credFmtOf_code, csrOf_code]

theorem jmp (off : BitVec 26) : Statement (.jmp off) := by
  refine of_word (w := 9 * 67108864 + off.toNat) rfl fun hwf => ?_
  generalize hW : 9 * 67108864 + off.toNat = W
  have e0 : fld W 0 26 = off.toNat := by subst hW; simp only [fld]; omega
  have e1 : fld W 26 6 = 9 := by subst hW; simp only [fld]; omega
  simp [decode_09 W e1, e0, need, hOk, hr, gr, bit1, sub, BitVec.ofNat_toNat, b2n_one, szOf_code, ordOf_code, amoOf_code, srOf_code, pfOf_code, copySrcOf_code, redOf_code, credFmtOf_code, csrOf_code]

theorem call (off : BitVec 26) : Statement (.call off) := by
  refine of_word (w := 10 * 67108864 + off.toNat) rfl fun hwf => ?_
  generalize hW : 10 * 67108864 + off.toNat = W
  have e0 : fld W 0 26 = off.toNat := by subst hW; simp only [fld]; omega
  have e1 : fld W 26 6 = 10 := by subst hW; simp only [fld]; omega
  simp [decode_0A W e1, e0, need, hOk, hr, gr, bit1, sub, BitVec.ofNat_toNat, b2n_one, szOf_code, ordOf_code, amoOf_code, srOf_code, pfOf_code, copySrcOf_code, redOf_code, credFmtOf_code, csrOf_code]

theorem jr (a : BitVec 4) (b : BitVec 4) : Statement (.jr a b) := by
  refine of_word (w := fmtB 11 0 a.toNat b.toNat 0) rfl fun hwf => ?_
  have ha : a.toNat < 16 := a.isLt
  have hb : b.toNat < 16 := b.isLt
  generalize hW : fmtB 11 0 a.toNat b.toNat 0 = W
  have e0 : fld W 0 12 = 0 := by subst hW; simp only [fld, fmtB]; omega
  have e1 : fld W 12 5 = b.toNat := by subst hW; simp only [fld, fmtB]; omega
  have e2 : fld W 17 5 = a.toNat := by subst hW; simp only [fld, fmtB]; omega
  have e3 : fld W 22 4 = 0 := by subst hW; simp only [fld, fmtB]; omega
  have e4 : fld W 26 6 = 11 := by subst hW; simp only [fld, fmtB]; omega
  simp [decode_0B W e4, decJrLoop, e0, e1, e2, e3, ha, hb, need, hOk, hr, gr, bit1, sub, BitVec.ofNat_toNat, b2n_one, szOf_code, ordOf_code, amoOf_code, srOf_code, pfOf_code, copySrcOf_code, redOf_code, credFmtOf_code, csrOf_code]

theorem loop (a : BitVec 4) (off : BitVec 12) : Statement (.loop a off) := by
  refine of_word (w := fmtB 11 1 a.toNat 0 off.toNat) rfl fun hwf => ?_
  have ha : a.toNat < 16 := a.isLt
  have hwf : 2 ≤ off.toNat ∧ off.toNat ≤ 2047 := by
    have h : (if 2 ≤ off.toNat && off.toNat ≤ 2047 then none else some IllFormed.loopOffset).isNone = true := hwf
    simpa using h
  generalize hW : fmtB 11 1 a.toNat 0 off.toNat = W
  have e0 : fld W 0 12 = off.toNat := by subst hW; simp only [fld, fmtB]; omega
  have e1 : fld W 12 5 = 0 := by subst hW; simp only [fld, fmtB]; omega
  have e2 : fld W 17 5 = a.toNat := by subst hW; simp only [fld, fmtB]; omega
  have e3 : fld W 22 4 = 1 := by subst hW; simp only [fld, fmtB]; omega
  have e4 : fld W 26 6 = 11 := by subst hW; simp only [fld, fmtB]; omega
  simp [decode_0B W e4, decJrLoop, e0, e1, e2, e3, ha, need, hOk, hr, gr, bit1, sub, BitVec.ofNat_toNat, b2n_one, szOf_code, ordOf_code, amoOf_code, srOf_code, pfOf_code, copySrcOf_code, redOf_code, credFmtOf_code, csrOf_code, hwf]

theorem ldD (d : BitVec 4) (a : BitVec 4) (off : BitVec 12) (acq : Bool) : Statement (.ldD d a off acq) := by
  cases acq
  · refine of_word (w := fmtM 12 d.toNat a.toNat off.toNat 0 (0)) rfl fun hwf => ?_
    have hd : d.toNat < 16 := d.isLt
    have ha : a.toNat < 16 := a.isLt
    generalize hW : fmtM 12 d.toNat a.toNat off.toNat 0 (0) = W
    have e0 : fld W 0 4 = 0 := by subst hW; simp only [fld, fmtM]; omega
    have e1 : fld W 4 12 = off.toNat := by subst hW; simp only [fld, fmtM]; omega
    have e2 : fld W 16 5 = a.toNat := by subst hW; simp only [fld, fmtM]; omega
    have e3 : fld W 21 5 = d.toNat := by subst hW; simp only [fld, fmtM]; omega
    have e4 : fld W 26 6 = 12 := by subst hW; simp only [fld, fmtM]; omega
    simp [decode_0C W e4, decHeadMem, e0, e1, e2, e3, hd, ha, need, hOk, hr, gr, bit1, sub, BitVec.ofNat_toNat, b2n_one, szOf_code, ordOf_code, amoOf_code, srOf_code, pfOf_code, copySrcOf_code, redOf_code, credFmtOf_code, csrOf_code]
  · refine of_word (w := fmtM 12 d.toNat a.toNat off.toNat 0 (1)) rfl fun hwf => ?_
    have hd : d.toNat < 16 := d.isLt
    have ha : a.toNat < 16 := a.isLt
    generalize hW : fmtM 12 d.toNat a.toNat off.toNat 0 (1) = W
    have e0 : fld W 0 4 = 1 := by subst hW; simp only [fld, fmtM]; omega
    have e1 : fld W 4 12 = off.toNat := by subst hW; simp only [fld, fmtM]; omega
    have e2 : fld W 16 5 = a.toNat := by subst hW; simp only [fld, fmtM]; omega
    have e3 : fld W 21 5 = d.toNat := by subst hW; simp only [fld, fmtM]; omega
    have e4 : fld W 26 6 = 12 := by subst hW; simp only [fld, fmtM]; omega
    simp [decode_0C W e4, decHeadMem, e0, e1, e2, e3, hd, ha, need, hOk, hr, gr, bit1, sub, BitVec.ofNat_toNat, b2n_one, szOf_code, ordOf_code, amoOf_code, srOf_code, pfOf_code, copySrcOf_code, redOf_code, credFmtOf_code, csrOf_code]

theorem stD (d : BitVec 4) (a : BitVec 4) (off : BitVec 12) (rel : Bool) : Statement (.stD d a off rel) := by
  cases rel
  · refine of_word (w := fmtM 12 d.toNat a.toNat off.toNat 1 (2 * 0)) rfl fun hwf => ?_
    have hd : d.toNat < 16 := d.isLt
    have ha : a.toNat < 16 := a.isLt
    generalize hW : fmtM 12 d.toNat a.toNat off.toNat 1 (2 * 0) = W
    have e0 : fld W 0 4 = 4 := by subst hW; simp only [fld, fmtM]; omega
    have e1 : fld W 4 12 = off.toNat := by subst hW; simp only [fld, fmtM]; omega
    have e2 : fld W 16 5 = a.toNat := by subst hW; simp only [fld, fmtM]; omega
    have e3 : fld W 21 5 = d.toNat := by subst hW; simp only [fld, fmtM]; omega
    have e4 : fld W 26 6 = 12 := by subst hW; simp only [fld, fmtM]; omega
    simp [decode_0C W e4, decHeadMem, e0, e1, e2, e3, hd, ha, need, hOk, hr, gr, bit1, sub, BitVec.ofNat_toNat, b2n_one, szOf_code, ordOf_code, amoOf_code, srOf_code, pfOf_code, copySrcOf_code, redOf_code, credFmtOf_code, csrOf_code]
  · refine of_word (w := fmtM 12 d.toNat a.toNat off.toNat 1 (2 * 1)) rfl fun hwf => ?_
    have hd : d.toNat < 16 := d.isLt
    have ha : a.toNat < 16 := a.isLt
    generalize hW : fmtM 12 d.toNat a.toNat off.toNat 1 (2 * 1) = W
    have e0 : fld W 0 4 = 6 := by subst hW; simp only [fld, fmtM]; omega
    have e1 : fld W 4 12 = off.toNat := by subst hW; simp only [fld, fmtM]; omega
    have e2 : fld W 16 5 = a.toNat := by subst hW; simp only [fld, fmtM]; omega
    have e3 : fld W 21 5 = d.toNat := by subst hW; simp only [fld, fmtM]; omega
    have e4 : fld W 26 6 = 12 := by subst hW; simp only [fld, fmtM]; omega
    simp [decode_0C W e4, decHeadMem, e0, e1, e2, e3, hd, ha, need, hOk, hr, gr, bit1, sub, BitVec.ofNat_toNat, b2n_one, szOf_code, ordOf_code, amoOf_code, srOf_code, pfOf_code, copySrcOf_code, redOf_code, credFmtOf_code, csrOf_code]

theorem drain : Statement .drain := by
  refine of_word (w := fmtR 13 0 0 0 0) rfl fun hwf => ?_
  generalize hW : fmtR 13 0 0 0 0 = W
  have e0 : fld W 0 11 = 0 := by subst hW; simp only [fld, fmtR]; omega
  have e1 : fld W 11 15 = 0 := by subst hW; simp only [fld, fmtR]; omega
  have e2 : fld W 26 6 = 13 := by subst hW; simp only [fld, fmtR]; omega
  simp [decode_0D W e2, decControl, e0, e1, need, hOk, hr, gr, bit1, sub, BitVec.ofNat_toNat, b2n_one, szOf_code, ordOf_code, amoOf_code, srOf_code, pfOf_code, copySrcOf_code, redOf_code, credFmtOf_code, csrOf_code]

theorem yield : Statement .yield := by
  refine of_word (w := fmtR 13 0 0 0 1) rfl fun hwf => ?_
  generalize hW : fmtR 13 0 0 0 1 = W
  have e0 : fld W 0 11 = 1 := by subst hW; simp only [fld, fmtR]; omega
  have e1 : fld W 11 15 = 0 := by subst hW; simp only [fld, fmtR]; omega
  have e2 : fld W 26 6 = 13 := by subst hW; simp only [fld, fmtR]; omega
  simp [decode_0D W e2, decControl, e0, e1, need, hOk, hr, gr, bit1, sub, BitVec.ofNat_toNat, b2n_one, szOf_code, ordOf_code, amoOf_code, srOf_code, pfOf_code, copySrcOf_code, redOf_code, credFmtOf_code, csrOf_code]

theorem exit (a : BitVec 4) : Statement (.exit a) := by
  refine of_word (w := fmtR 13 0 a.toNat 0 2) rfl fun hwf => ?_
  have ha : a.toNat < 16 := a.isLt
  generalize hW : fmtR 13 0 a.toNat 0 2 = W
  have e0 : fld W 0 11 = 2 := by subst hW; simp only [fld, fmtR]; omega
  have e1 : fld W 11 5 = 0 := by subst hW; simp only [fld, fmtR]; omega
  have e2 : fld W 16 5 = a.toNat := by subst hW; simp only [fld, fmtR]; omega
  have e3 : fld W 21 5 = 0 := by subst hW; simp only [fld, fmtR]; omega
  have e4 : fld W 26 6 = 13 := by subst hW; simp only [fld, fmtR]; omega
  simp [decode_0D W e4, decControl, e0, e1, e2, e3, ha, need, hOk, hr, gr, bit1, sub, BitVec.ofNat_toNat, b2n_one, szOf_code, ordOf_code, amoOf_code, srOf_code, pfOf_code, copySrcOf_code, redOf_code, credFmtOf_code, csrOf_code]

theorem region : Statement .region := by
  refine of_word (w := fmtR 13 0 0 0 3) rfl fun hwf => ?_
  generalize hW : fmtR 13 0 0 0 3 = W
  have e0 : fld W 0 11 = 3 := by subst hW; simp only [fld, fmtR]; omega
  have e1 : fld W 11 15 = 0 := by subst hW; simp only [fld, fmtR]; omega
  have e2 : fld W 26 6 = 13 := by subst hW; simp only [fld, fmtR]; omega
  simp [decode_0D W e2, decControl, e0, e1, need, hOk, hr, gr, bit1, sub, BitVec.ofNat_toNat, b2n_one, szOf_code, ordOf_code, amoOf_code, srOf_code, pfOf_code, copySrcOf_code, redOf_code, credFmtOf_code, csrOf_code]

theorem pause (a : BitVec 4) : Statement (.pause a) := by
  refine of_word (w := fmtR 13 0 a.toNat 0 4) rfl fun hwf => ?_
  have ha : a.toNat < 16 := a.isLt
  generalize hW : fmtR 13 0 a.toNat 0 4 = W
  have e0 : fld W 0 11 = 4 := by subst hW; simp only [fld, fmtR]; omega
  have e1 : fld W 11 5 = 0 := by subst hW; simp only [fld, fmtR]; omega
  have e2 : fld W 16 5 = a.toNat := by subst hW; simp only [fld, fmtR]; omega
  have e3 : fld W 21 5 = 0 := by subst hW; simp only [fld, fmtR]; omega
  have e4 : fld W 26 6 = 13 := by subst hW; simp only [fld, fmtR]; omega
  simp [decode_0D W e4, decControl, e0, e1, e2, e3, ha, need, hOk, hr, gr, bit1, sub, BitVec.ofNat_toNat, b2n_one, szOf_code, ordOf_code, amoOf_code, srOf_code, pfOf_code, copySrcOf_code, redOf_code, credFmtOf_code, csrOf_code]

theorem twait (d : BitVec 4) : Statement (.twait d) := by
  refine of_word (w := fmtR 13 d.toNat 0 0 5) rfl fun hwf => ?_
  have hd : d.toNat < 16 := d.isLt
  generalize hW : fmtR 13 d.toNat 0 0 5 = W
  have e0 : fld W 0 11 = 5 := by subst hW; simp only [fld, fmtR]; omega
  have e1 : fld W 11 5 = 0 := by subst hW; simp only [fld, fmtR]; omega
  have e2 : fld W 16 5 = 0 := by subst hW; simp only [fld, fmtR]; omega
  have e3 : fld W 21 5 = d.toNat := by subst hW; simp only [fld, fmtR]; omega
  have e4 : fld W 26 6 = 13 := by subst hW; simp only [fld, fmtR]; omega
  simp [decode_0D W e4, decControl, e0, e1, e2, e3, hd, need, hOk, hr, gr, bit1, sub, BitVec.ofNat_toNat, b2n_one, szOf_code, ordOf_code, amoOf_code, srOf_code, pfOf_code, copySrcOf_code, redOf_code, credFmtOf_code, csrOf_code]

theorem tileget (d : BitVec 4) (a : BitVec 4) : Statement (.tileget d a) := by
  refine of_word (w := fmtR 13 d.toNat a.toNat 0 6) rfl fun hwf => ?_
  have hd : d.toNat < 16 := d.isLt
  have ha : a.toNat < 16 := a.isLt
  have hwf : 1 ≤ d.toNat ∧ d.toNat ≤ 14 := by
    have h : (if 1 ≤ d.toNat && d.toNat ≤ 14 then none else some IllFormed.tilegetRegister).isNone = true := hwf
    simpa using h
  generalize hW : fmtR 13 d.toNat a.toNat 0 6 = W
  have e0 : fld W 0 11 = 6 := by subst hW; simp only [fld, fmtR]; omega
  have e1 : fld W 11 5 = 0 := by subst hW; simp only [fld, fmtR]; omega
  have e2 : fld W 16 5 = a.toNat := by subst hW; simp only [fld, fmtR]; omega
  have e3 : fld W 21 5 = d.toNat := by subst hW; simp only [fld, fmtR]; omega
  have e4 : fld W 26 6 = 13 := by subst hW; simp only [fld, fmtR]; omega
  simp [decode_0D W e4, decControl, e0, e1, e2, e3, hd, ha, need, hOk, hr, gr, bit1, sub, BitVec.ofNat_toNat, b2n_one, szOf_code, ordOf_code, amoOf_code, srOf_code, pfOf_code, copySrcOf_code, redOf_code, credFmtOf_code, csrOf_code, hwf]

theorem publish (a : BitVec 4) : Statement (.publish a) := by
  refine of_word (w := fmtR 13 0 a.toNat 0 7) rfl fun hwf => ?_
  have ha : a.toNat < 16 := a.isLt
  generalize hW : fmtR 13 0 a.toNat 0 7 = W
  have e0 : fld W 0 11 = 7 := by subst hW; simp only [fld, fmtR]; omega
  have e1 : fld W 11 5 = 0 := by subst hW; simp only [fld, fmtR]; omega
  have e2 : fld W 16 5 = a.toNat := by subst hW; simp only [fld, fmtR]; omega
  have e3 : fld W 21 5 = 0 := by subst hW; simp only [fld, fmtR]; omega
  have e4 : fld W 26 6 = 13 := by subst hW; simp only [fld, fmtR]; omega
  simp [decode_0D W e4, decControl, e0, e1, e2, e3, ha, need, hOk, hr, gr, bit1, sub, BitVec.ofNat_toNat, b2n_one, szOf_code, ordOf_code, amoOf_code, srOf_code, pfOf_code, copySrcOf_code, redOf_code, credFmtOf_code, csrOf_code]

theorem svc (n : BitVec 10) : Statement (.svc n) := by
  refine of_word (w := fmtR 13 0 0 0 8 + n.toNat * 2048) rfl fun hwf => ?_
  generalize hW : fmtR 13 0 0 0 8 + n.toNat * 2048 = W
  have e0 : fld W 0 11 = 8 := by subst hW; simp only [fld, fmtR]; omega
  have e1 : fld W 11 10 = n.toNat := by subst hW; simp only [fld, fmtR]; omega
  have e2 : fld W 21 5 = 0 := by subst hW; simp only [fld, fmtR]; omega
  have e3 : fld W 26 6 = 13 := by subst hW; simp only [fld, fmtR]; omega
  simp [decode_0D W e3, decControl, e0, e1, e2, need, hOk, hr, gr, bit1, sub, BitVec.ofNat_toNat, b2n_one, szOf_code, ordOf_code, amoOf_code, srOf_code, pfOf_code, copySrcOf_code, redOf_code, credFmtOf_code, csrOf_code]

theorem tret : Statement .tret := by
  refine of_word (w := fmtR 13 0 0 0 9) rfl fun hwf => ?_
  generalize hW : fmtR 13 0 0 0 9 = W
  have e0 : fld W 0 11 = 9 := by subst hW; simp only [fld, fmtR]; omega
  have e1 : fld W 11 15 = 0 := by subst hW; simp only [fld, fmtR]; omega
  have e2 : fld W 26 6 = 13 := by subst hW; simp only [fld, fmtR]; omega
  simp [decode_0D W e2, decControl, e0, e1, need, hOk, hr, gr, bit1, sub, BitVec.ofNat_toNat, b2n_one, szOf_code, ordOf_code, amoOf_code, srOf_code, pfOf_code, copySrcOf_code, redOf_code, credFmtOf_code, csrOf_code]

theorem tretAt (a : BitVec 4) : Statement (.tretAt a) := by
  refine of_word (w := fmtR 13 0 a.toNat 0 10) rfl fun hwf => ?_
  have ha : a.toNat < 16 := a.isLt
  generalize hW : fmtR 13 0 a.toNat 0 10 = W
  have e0 : fld W 0 11 = 10 := by subst hW; simp only [fld, fmtR]; omega
  have e1 : fld W 11 5 = 0 := by subst hW; simp only [fld, fmtR]; omega
  have e2 : fld W 16 5 = a.toNat := by subst hW; simp only [fld, fmtR]; omega
  have e3 : fld W 21 5 = 0 := by subst hW; simp only [fld, fmtR]; omega
  have e4 : fld W 26 6 = 13 := by subst hW; simp only [fld, fmtR]; omega
  simp [decode_0D W e4, decControl, e0, e1, e2, e3, ha, need, hOk, hr, gr, bit1, sub, BitVec.ofNat_toNat, b2n_one, szOf_code, ordOf_code, amoOf_code, srOf_code, pfOf_code, copySrcOf_code, redOf_code, credFmtOf_code, csrOf_code]

theorem gbar (a : BitVec 4) : Statement (.gbar a) := by
  refine of_word (w := fmtR 14 0 a.toNat 0 0) rfl fun hwf => ?_
  have ha : a.toNat < 16 := a.isLt
  generalize hW : fmtR 14 0 a.toNat 0 0 = W
  have e0 : fld W 0 11 = 0 := by subst hW; simp only [fld, fmtR]; omega
  have e1 : fld W 11 5 = 0 := by subst hW; simp only [fld, fmtR]; omega
  have e2 : fld W 16 5 = a.toNat := by subst hW; simp only [fld, fmtR]; omega
  have e3 : fld W 21 5 = 0 := by subst hW; simp only [fld, fmtR]; omega
  have e4 : fld W 26 6 = 14 := by subst hW; simp only [fld, fmtR]; omega
  simp [decode_0E W e4, decGroup, e0, e1, e2, e3, ha, need, hOk, hr, gr, bit1, sub, BitVec.ofNat_toNat, b2n_one, szOf_code, ordOf_code, amoOf_code, srOf_code, pfOf_code, copySrcOf_code, redOf_code, credFmtOf_code, csrOf_code]

theorem gvote (op : VoteOp) (d : BitVec 4) (a : BitVec 4) (b : BitVec 4) : Statement (.gvote op d a b) := by
  cases op
  · refine of_word (w := fmtR 14 d.toNat a.toNat b.toNat 1) rfl fun hwf => ?_
    have hd : d.toNat < 16 := d.isLt
    have ha : a.toNat < 16 := a.isLt
    have hb : b.toNat < 16 := b.isLt
    generalize hW : fmtR 14 d.toNat a.toNat b.toNat 1 = W
    have e0 : fld W 0 11 = 1 := by subst hW; simp only [fld, fmtR]; omega
    have e1 : fld W 11 5 = b.toNat := by subst hW; simp only [fld, fmtR]; omega
    have e2 : fld W 16 5 = a.toNat := by subst hW; simp only [fld, fmtR]; omega
    have e3 : fld W 21 5 = d.toNat := by subst hW; simp only [fld, fmtR]; omega
    have e4 : fld W 26 6 = 14 := by subst hW; simp only [fld, fmtR]; omega
    simp [decode_0E W e4, decGroup, decH3, e0, e1, e2, e3, hd, ha, hb, need, hOk, hr, gr, bit1, sub, BitVec.ofNat_toNat, b2n_one, szOf_code, ordOf_code, amoOf_code, srOf_code, pfOf_code, copySrcOf_code, redOf_code, credFmtOf_code, csrOf_code]
  · refine of_word (w := fmtR 14 d.toNat a.toNat b.toNat 2) rfl fun hwf => ?_
    have hd : d.toNat < 16 := d.isLt
    have ha : a.toNat < 16 := a.isLt
    have hb : b.toNat < 16 := b.isLt
    generalize hW : fmtR 14 d.toNat a.toNat b.toNat 2 = W
    have e0 : fld W 0 11 = 2 := by subst hW; simp only [fld, fmtR]; omega
    have e1 : fld W 11 5 = b.toNat := by subst hW; simp only [fld, fmtR]; omega
    have e2 : fld W 16 5 = a.toNat := by subst hW; simp only [fld, fmtR]; omega
    have e3 : fld W 21 5 = d.toNat := by subst hW; simp only [fld, fmtR]; omega
    have e4 : fld W 26 6 = 14 := by subst hW; simp only [fld, fmtR]; omega
    simp [decode_0E W e4, decGroup, decH3, e0, e1, e2, e3, hd, ha, hb, need, hOk, hr, gr, bit1, sub, BitVec.ofNat_toNat, b2n_one, szOf_code, ordOf_code, amoOf_code, srOf_code, pfOf_code, copySrcOf_code, redOf_code, credFmtOf_code, csrOf_code]
  · refine of_word (w := fmtR 14 d.toNat a.toNat b.toNat 3) rfl fun hwf => ?_
    have hd : d.toNat < 16 := d.isLt
    have ha : a.toNat < 16 := a.isLt
    have hb : b.toNat < 16 := b.isLt
    generalize hW : fmtR 14 d.toNat a.toNat b.toNat 3 = W
    have e0 : fld W 0 11 = 3 := by subst hW; simp only [fld, fmtR]; omega
    have e1 : fld W 11 5 = b.toNat := by subst hW; simp only [fld, fmtR]; omega
    have e2 : fld W 16 5 = a.toNat := by subst hW; simp only [fld, fmtR]; omega
    have e3 : fld W 21 5 = d.toNat := by subst hW; simp only [fld, fmtR]; omega
    have e4 : fld W 26 6 = 14 := by subst hW; simp only [fld, fmtR]; omega
    simp [decode_0E W e4, decGroup, decH3, e0, e1, e2, e3, hd, ha, hb, need, hOk, hr, gr, bit1, sub, BitVec.ofNat_toNat, b2n_one, szOf_code, ordOf_code, amoOf_code, srOf_code, pfOf_code, copySrcOf_code, redOf_code, credFmtOf_code, csrOf_code]
  · refine of_word (w := fmtR 14 d.toNat a.toNat b.toNat 4) rfl fun hwf => ?_
    have hd : d.toNat < 16 := d.isLt
    have ha : a.toNat < 16 := a.isLt
    have hb : b.toNat < 16 := b.isLt
    generalize hW : fmtR 14 d.toNat a.toNat b.toNat 4 = W
    have e0 : fld W 0 11 = 4 := by subst hW; simp only [fld, fmtR]; omega
    have e1 : fld W 11 5 = b.toNat := by subst hW; simp only [fld, fmtR]; omega
    have e2 : fld W 16 5 = a.toNat := by subst hW; simp only [fld, fmtR]; omega
    have e3 : fld W 21 5 = d.toNat := by subst hW; simp only [fld, fmtR]; omega
    have e4 : fld W 26 6 = 14 := by subst hW; simp only [fld, fmtR]; omega
    simp [decode_0E W e4, decGroup, decH3, e0, e1, e2, e3, hd, ha, hb, need, hOk, hr, gr, bit1, sub, BitVec.ofNat_toNat, b2n_one, szOf_code, ordOf_code, amoOf_code, srOf_code, pfOf_code, copySrcOf_code, redOf_code, credFmtOf_code, csrOf_code]
  · refine of_word (w := fmtR 14 d.toNat a.toNat b.toNat 5) rfl fun hwf => ?_
    have hd : d.toNat < 16 := d.isLt
    have ha : a.toNat < 16 := a.isLt
    have hb : b.toNat < 16 := b.isLt
    generalize hW : fmtR 14 d.toNat a.toNat b.toNat 5 = W
    have e0 : fld W 0 11 = 5 := by subst hW; simp only [fld, fmtR]; omega
    have e1 : fld W 11 5 = b.toNat := by subst hW; simp only [fld, fmtR]; omega
    have e2 : fld W 16 5 = a.toNat := by subst hW; simp only [fld, fmtR]; omega
    have e3 : fld W 21 5 = d.toNat := by subst hW; simp only [fld, fmtR]; omega
    have e4 : fld W 26 6 = 14 := by subst hW; simp only [fld, fmtR]; omega
    simp [decode_0E W e4, decGroup, decH3, e0, e1, e2, e3, hd, ha, hb, need, hOk, hr, gr, bit1, sub, BitVec.ofNat_toNat, b2n_one, szOf_code, ordOf_code, amoOf_code, srOf_code, pfOf_code, copySrcOf_code, redOf_code, credFmtOf_code, csrOf_code]

theorem gleave (a : BitVec 4) : Statement (.gleave a) := by
  refine of_word (w := fmtR 14 0 a.toNat 0 6) rfl fun hwf => ?_
  have ha : a.toNat < 16 := a.isLt
  generalize hW : fmtR 14 0 a.toNat 0 6 = W
  have e0 : fld W 0 11 = 6 := by subst hW; simp only [fld, fmtR]; omega
  have e1 : fld W 11 5 = 0 := by subst hW; simp only [fld, fmtR]; omega
  have e2 : fld W 16 5 = a.toNat := by subst hW; simp only [fld, fmtR]; omega
  have e3 : fld W 21 5 = 0 := by subst hW; simp only [fld, fmtR]; omega
  have e4 : fld W 26 6 = 14 := by subst hW; simp only [fld, fmtR]; omega
  simp [decode_0E W e4, decGroup, e0, e1, e2, e3, ha, need, hOk, hr, gr, bit1, sub, BitVec.ofNat_toNat, b2n_one, szOf_code, ordOf_code, amoOf_code, srOf_code, pfOf_code, copySrcOf_code, redOf_code, credFmtOf_code, csrOf_code]

theorem gkill (a : BitVec 4) : Statement (.gkill a) := by
  refine of_word (w := fmtR 14 0 a.toNat 0 7) rfl fun hwf => ?_
  have ha : a.toNat < 16 := a.isLt
  generalize hW : fmtR 14 0 a.toNat 0 7 = W
  have e0 : fld W 0 11 = 7 := by subst hW; simp only [fld, fmtR]; omega
  have e1 : fld W 11 5 = 0 := by subst hW; simp only [fld, fmtR]; omega
  have e2 : fld W 16 5 = a.toNat := by subst hW; simp only [fld, fmtR]; omega
  have e3 : fld W 21 5 = 0 := by subst hW; simp only [fld, fmtR]; omega
  have e4 : fld W 26 6 = 14 := by subst hW; simp only [fld, fmtR]; omega
  simp [decode_0E W e4, decGroup, e0, e1, e2, e3, ha, need, hOk, hr, gr, bit1, sub, BitVec.ofNat_toNat, b2n_one, szOf_code, ordOf_code, amoOf_code, srOf_code, pfOf_code, copySrcOf_code, redOf_code, credFmtOf_code, csrOf_code]

theorem msend (a : BitVec 4) (b : BitVec 4) : Statement (.msend a b) := by
  refine of_word (w := fmtR 14 0 a.toNat b.toNat 8) rfl fun hwf => ?_
  have ha : a.toNat < 16 := a.isLt
  have hb : b.toNat < 16 := b.isLt
  generalize hW : fmtR 14 0 a.toNat b.toNat 8 = W
  have e0 : fld W 0 11 = 8 := by subst hW; simp only [fld, fmtR]; omega
  have e1 : fld W 11 5 = b.toNat := by subst hW; simp only [fld, fmtR]; omega
  have e2 : fld W 16 5 = a.toNat := by subst hW; simp only [fld, fmtR]; omega
  have e3 : fld W 21 5 = 0 := by subst hW; simp only [fld, fmtR]; omega
  have e4 : fld W 26 6 = 14 := by subst hW; simp only [fld, fmtR]; omega
  simp [decode_0E W e4, decGroup, e0, e1, e2, e3, ha, hb, need, hOk, hr, gr, bit1, sub, BitVec.ofNat_toNat, b2n_one, szOf_code, ordOf_code, amoOf_code, srOf_code, pfOf_code, copySrcOf_code, redOf_code, credFmtOf_code, csrOf_code]

theorem mrecv (d : BitVec 4) : Statement (.mrecv d) := by
  refine of_word (w := fmtR 14 d.toNat 0 0 9) rfl fun hwf => ?_
  have hd : d.toNat < 16 := d.isLt
  generalize hW : fmtR 14 d.toNat 0 0 9 = W
  have e0 : fld W 0 11 = 9 := by subst hW; simp only [fld, fmtR]; omega
  have e1 : fld W 11 5 = 0 := by subst hW; simp only [fld, fmtR]; omega
  have e2 : fld W 16 5 = 0 := by subst hW; simp only [fld, fmtR]; omega
  have e3 : fld W 21 5 = d.toNat := by subst hW; simp only [fld, fmtR]; omega
  have e4 : fld W 26 6 = 14 := by subst hW; simp only [fld, fmtR]; omega
  simp [decode_0E W e4, decGroup, e0, e1, e2, e3, hd, need, hOk, hr, gr, bit1, sub, BitVec.ofNat_toNat, b2n_one, szOf_code, ordOf_code, amoOf_code, srOf_code, pfOf_code, copySrcOf_code, redOf_code, credFmtOf_code, csrOf_code]

theorem mprobe (d : BitVec 4) : Statement (.mprobe d) := by
  refine of_word (w := fmtR 14 d.toNat 0 0 10) rfl fun hwf => ?_
  have hd : d.toNat < 16 := d.isLt
  generalize hW : fmtR 14 d.toNat 0 0 10 = W
  have e0 : fld W 0 11 = 10 := by subst hW; simp only [fld, fmtR]; omega
  have e1 : fld W 11 5 = 0 := by subst hW; simp only [fld, fmtR]; omega
  have e2 : fld W 16 5 = 0 := by subst hW; simp only [fld, fmtR]; omega
  have e3 : fld W 21 5 = d.toNat := by subst hW; simp only [fld, fmtR]; omega
  have e4 : fld W 26 6 = 14 := by subst hW; simp only [fld, fmtR]; omega
  simp [decode_0E W e4, decGroup, e0, e1, e2, e3, hd, need, hOk, hr, gr, bit1, sub, BitVec.ofNat_toNat, b2n_one, szOf_code, ordOf_code, amoOf_code, srOf_code, pfOf_code, copySrcOf_code, redOf_code, credFmtOf_code, csrOf_code]

theorem csrr_read (d : BitVec 4) (k : Nat) (c : Csr) (W : Nat) (hc : csrOf k = some c) (e0 : fld W 0 12 = k) (e1 : fld W 12 4 = 0)
    (e2 : fld W 16 5 = 0) (e3 : fld W 21 5 = d.toNat) (e4 : fld W 26 6 = 15) : decode W = .ok (.csrr d c) := by
  have hd : d.toNat < 16 := d.isLt
  rw [decode_0F W e4]
  simp [decCsr, e0, e1, e2, e3, hd, need, hOk, hr, Sys2Proof.sub, hc]

theorem csrr_word (d : BitVec 4) (k : Nat) (c : Csr) (hk : k < 4096) (hc : csrOf k = some c) :
    decode (fmtI 15 d.toNat 0 k) = .ok (.csrr d c) := by
  have := d.isLt
  have e0 : fld (fmtI 15 d.toNat 0 k) 0 12 = k := by simp only [fld, fmtI]; omega
  have e1 : fld (fmtI 15 d.toNat 0 k) 12 4 = 0 := by simp only [fld, fmtI]; omega
  have e2 : fld (fmtI 15 d.toNat 0 k) 16 5 = 0 := by simp only [fld, fmtI]; omega
  have e3 : fld (fmtI 15 d.toNat 0 k) 21 5 = d.toNat := by simp only [fld, fmtI]; omega
  have e4 : fld (fmtI 15 d.toNat 0 k) 26 6 = 15 := by simp only [fld, fmtI]; omega
  exact csrr_read d k c _ hc e0 e1 e2 e3 e4

theorem csrr (d : BitVec 4) (csr : Csr) : Statement (.csrr d csr) :=
  of_word (w := fmtI 15 d.toNat 0 csr.code) rfl fun _ => csrr_word d csr.code csr (Csr.code_lt csr) (csrOf_code csr)

theorem csrw (csr : Csr) (a : BitVec 4) : Statement (.csrw csr a) := by
  refine of_word (w := fmtI 15 0 a.toNat (4096 + csr.code)) rfl fun hwf => ?_
  have := Csr.code_lt csr
  have ha : a.toNat < 16 := a.isLt
  generalize hW : fmtI 15 0 a.toNat (4096 + csr.code) = W
  have e0 : fld W 0 12 = csr.code := by subst hW; simp only [fld, fmtI]; omega
  have e1 : fld W 12 4 = 1 := by subst hW; simp only [fld, fmtI]; omega
  have e2 : fld W 16 5 = a.toNat := by subst hW; simp only [fld, fmtI]; omega
  have e3 : fld W 21 5 = 0 := by subst hW; simp only [fld, fmtI]; omega
  have e4 : fld W 26 6 = 15 := by subst hW; simp only [fld, fmtI]; omega
  simp [decode_0F W e4, decCsr, e0, e1, e2, e3, ha, need, hOk, hr, gr, bit1, sub, BitVec.ofNat_toNat, b2n_one, szOf_code, ordOf_code, amoOf_code, srOf_code, pfOf_code, copySrcOf_code, redOf_code, credFmtOf_code, csrOf_code]

theorem bkpt (n : BitVec 12) : Statement (.bkpt n) := by
  refine of_word (w := fmtI 15 0 0 (8192 + n.toNat)) rfl fun hwf => ?_
  generalize hW : fmtI 15 0 0 (8192 + n.toNat) = W
  have e0 : fld W 0 12 = n.toNat := by subst hW; simp only [fld, fmtI]; omega
  have e1 : fld W 12 4 = 2 := by subst hW; simp only [fld, fmtI]; omega
  have e2 : fld W 16 10 = 0 := by subst hW; simp only [fld, fmtI]; omega
  have e3 : fld W 26 6 = 15 := by subst hW; simp only [fld, fmtI]; omega
  simp [decode_0F W e3, decCsr, e0, e1, e2, need, hOk, hr, gr, bit1, sub, BitVec.ofNat_toNat, b2n_one, szOf_code, ordOf_code, amoOf_code, srOf_code, pfOf_code, copySrcOf_code, redOf_code, credFmtOf_code, csrOf_code]

theorem add (d : BitVec 5) (a : BitVec 5) (b : BitVec 5) (w : West) : Statement (.add d a b w) := by
  have e := G3 16 0 d a b w (by decide) (by decide)
  refine of_word (w := fmtR 16 d.toNat a.toNat b.toNat 0 + w.bits) rfl fun _ => ?_
  generalize fmtR 16 d.toNat a.toNat b.toNat 0 + w.bits = W at e ⊢
  simp only [decode_10 W e.1, decLaneAlu, e.2.1, e.2.2]

theorem sub (d : BitVec 5) (a : BitVec 5) (b : BitVec 5) (w : West) : Statement (.sub d a b w) := by
  have e := G3 16 1 d a b w (by decide) (by decide)
  refine of_word (w := fmtR 16 d.toNat a.toNat b.toNat 1 + w.bits) rfl fun _ => ?_
  generalize fmtR 16 d.toNat a.toNat b.toNat 1 + w.bits = W at e ⊢
  simp only [decode_10 W e.1, decLaneAlu, e.2.1, e.2.2]

theorem and (d : BitVec 5) (a : BitVec 5) (b : BitVec 5) (w : West) : Statement (.and d a b w) := by
  have e := G3 16 2 d a b w (by decide) (by decide)
  refine of_word (w := fmtR 16 d.toNat a.toNat b.toNat 2 + w.bits) rfl fun _ => ?_
  generalize fmtR 16 d.toNat a.toNat b.toNat 2 + w.bits = W at e ⊢
  simp only [decode_10 W e.1, decLaneAlu, e.2.1, e.2.2]

theorem or (d : BitVec 5) (a : BitVec 5) (b : BitVec 5) (w : West) : Statement (.or d a b w) := by
  have e := G3 16 3 d a b w (by decide) (by decide)
  refine of_word (w := fmtR 16 d.toNat a.toNat b.toNat 3 + w.bits) rfl fun _ => ?_
  generalize fmtR 16 d.toNat a.toNat b.toNat 3 + w.bits = W at e ⊢
  simp only [decode_10 W e.1, decLaneAlu, e.2.1, e.2.2]

theorem xor (d : BitVec 5) (a : BitVec 5) (b : BitVec 5) (w : West) : Statement (.xor d a b w) := by
  have e := G3 16 4 d a b w (by decide) (by decide)
  refine of_word (w := fmtR 16 d.toNat a.toNat b.toNat 4 + w.bits) rfl fun _ => ?_
  generalize fmtR 16 d.toNat a.toNat b.toNat 4 + w.bits = W at e ⊢
  simp only [decode_10 W e.1, decLaneAlu, e.2.1, e.2.2]

theorem shl (d : BitVec 5) (a : BitVec 5) (b : BitVec 5) (w : West) : Statement (.shl d a b w) := by
  have e := G3 16 5 d a b w (by decide) (by decide)
  refine of_word (w := fmtR 16 d.toNat a.toNat b.toNat 5 + w.bits) rfl fun _ => ?_
  generalize fmtR 16 d.toNat a.toNat b.toNat 5 + w.bits = W at e ⊢
  simp only [decode_10 W e.1, decLaneAlu, e.2.1, e.2.2]

theorem shr (d : BitVec 5) (a : BitVec 5) (b : BitVec 5) (w : West) : Statement (.shr d a b w) := by
  have e := G3 16 6 d a b w (by decide) (by decide)
  refine of_word (w := fmtR 16 d.toNat a.toNat b.toNat 6 + w.bits) rfl fun _ => ?_
  generalize fmtR 16 d.toNat a.toNat b.toNat 6 + w.bits = W at e ⊢
  simp only [decode_10 W e.1, decLaneAlu, e.2.1, e.2.2]

theorem sar (d : BitVec 5) (a : BitVec 5) (b : BitVec 5) (w : West) : Statement (.sar d a b w) := by
  have e := G3 16 7 d a b w (by decide) (by decide)
  refine of_word (w := fmtR 16 d.toNat a.toNat b.toNat 7 + w.bits) rfl fun _ => ?_
  generalize fmtR 16 d.toNat a.toNat b.toNat 7 + w.bits = W at e ⊢
  simp only [decode_10 W e.1, decLaneAlu, e.2.1, e.2.2]

theorem mul (d : BitVec 5) (a : BitVec 5) (b : BitVec 5) (w : West) : Statement (.mul d a b w) := by
  have e := G3 16 8 d a b w (by decide) (by decide)
  refine of_word (w := fmtR 16 d.toNat a.toNat b.toNat 8 + w.bits) rfl fun _ => ?_
  generalize fmtR 16 d.toNat a.toNat b.toNat 8 + w.bits = W at e ⊢
  simp only [decode_10 W e.1, decLaneAlu, e.2.1, e.2.2]

theorem slt (d : BitVec 5) (a : BitVec 5) (b : BitVec 5) (w : West) : Statement (.slt d a b w) := by
  have e := G3 16 9 d a b w (by decide) (by decide)
  refine of_word (w := fmtR 16 d.toNat a.toNat b.toNat 9 + w.bits) rfl fun _ => ?_
  generalize fmtR 16 d.toNat a.toNat b.toNat 9 + w.bits = W at e ⊢
  simp only [decode_10 W e.1, decLaneAlu, e.2.1, e.2.2]

theorem sltn (d : BitVec 5) (a : BitVec 5) (b : BitVec 5) (w : West) : Statement (.sltn d a b w) := by
  have e := G3 16 10 d a b w (by decide) (by decide)
  refine of_word (w := fmtR 16 d.toNat a.toNat b.toNat 10 + w.bits) rfl fun _ => ?_
  generalize fmtR 16 d.toNat a.toNat b.toNat 10 + w.bits = W at e ⊢
  simp only [decode_10 W e.1, decLaneAlu, e.2.1, e.2.2]

theorem min (d : BitVec 5) (a : BitVec 5) (b : BitVec 5) (w : West) : Statement (.min d a b w) := by
  have e := G3 16 11 d a b w (by decide) (by decide)
  refine of_word (w := fmtR 16 d.toNat a.toNat b.toNat 11 + w.bits) rfl fun _ => ?_
  generalize fmtR 16 d.toNat a.toNat b.toNat 11 + w.bits = W at e ⊢
  simp only [decode_10 W e.1, decLaneAlu, e.2.1, e.2.2]

theorem max (d : BitVec 5) (a : BitVec 5) (b : BitVec 5) (w : West) : Statement (.max d a b w) := by
  have e := G3 16 12 d a b w (by decide) (by decide)
  refine of_word (w := fmtR 16 d.toNat a.toNat b.toNat 12 + w.bits) rfl fun _ => ?_
  generalize fmtR 16 d.toNat a.toNat b.toNat 12 + w.bits = W at e ⊢
  simp only [decode_10 W e.1, decLaneAlu, e.2.1, e.2.2]

theorem minn (d : BitVec 5) (a : BitVec 5) (b : BitVec 5) (w : West) : Statement (.minn d a b w) := by
  have e := G3 16 13 d a b w (by decide) (by decide)
  refine of_word (w := fmtR 16 d.toNat a.toNat b.toNat 13 + w.bits) rfl fun _ => ?_
  generalize fmtR 16 d.toNat a.toNat b.toNat 13 + w.bits = W at e ⊢
  simp only [decode_10 W e.1, decLaneAlu, e.2.1, e.2.2]

theorem maxn (d : BitVec 5) (a : BitVec 5) (b : BitVec 5) (w : West) : Statement (.maxn d a b w) := by
  have e := G3 16 14 d a b w (by decide) (by decide)
  refine of_word (w := fmtR 16 d.toNat a.toNat b.toNat 14 + w.bits) rfl fun _ => ?_
  generalize fmtR 16 d.toNat a.toNat b.toNat 14 + w.bits = W at e ⊢
  simp only [decode_10 W e.1, decLaneAlu, e.2.1, e.2.2]

theorem mulh (d : BitVec 5) (a : BitVec 5) (b : BitVec 5) (w : West) : Statement (.mulh d a b w) := by
  have e := G3 16 15 d a b w (by decide) (by decide)
  refine of_word (w := fmtR 16 d.toNat a.toNat b.toNat 15 + w.bits) rfl fun _ => ?_
  generalize fmtR 16 d.toNat a.toNat b.toNat 15 + w.bits = W at e ⊢
  simp only [decode_10 W e.1, decLaneAlu, e.2.1, e.2.2]

theorem mulhn (d : BitVec 5) (a : BitVec 5) (b : BitVec 5) (w : West) : Statement (.mulhn d a b w) := by
  have e := G3 16 16 d a b w (by decide) (by decide)
  refine of_word (w := fmtR 16 d.toNat a.toNat b.toNat 16 + w.bits) rfl fun _ => ?_
  generalize fmtR 16 d.toNat a.toNat b.toNat 16 + w.bits = W at e ⊢
  simp only [decode_10 W e.1, decLaneAlu, e.2.1, e.2.2]

theorem div (d : BitVec 5) (a : BitVec 5) (b : BitVec 5) (w : West) : Statement (.div d a b w) := by
  have e := G3 16 17 d a b w (by decide) (by decide)
  refine of_word (w := fmtR 16 d.toNat a.toNat b.toNat 17 + w.bits) rfl fun _ => ?_
  generalize fmtR 16 d.toNat a.toNat b.toNat 17 + w.bits = W at e ⊢
  simp only [decode_10 W e.1, decLaneAlu, e.2.1, e.2.2]

theorem divn (d : BitVec 5) (a : BitVec 5) (b : BitVec 5) (w : West) : Statement (.divn d a b w) := by
  have e := G3 16 18 d a b w (by decide) (by decide)
  refine of_word (w := fmtR 16 d.toNat a.toNat b.toNat 18 + w.bits) rfl fun _ => ?_
  generalize fmtR 16 d.toNat a.toNat b.toNat 18 + w.bits = W at e ⊢
  simp only [decode_10 W e.1, decLaneAlu, e.2.1, e.2.2]

theorem rem (d : BitVec 5) (a : BitVec 5) (b : BitVec 5) (w : West) : Statement (.rem d a b w) := by
  have e := G3 16 19 d a b w (by decide) (by decide)
  refine of_word (w := fmtR 16 d.toNat a.toNat b.toNat 19 + w.bits) rfl fun _ => ?_
  generalize fmtR 16 d.toNat a.toNat b.toNat 19 + w.bits = W at e ⊢
  simp only [decode_10 W e.1, decLaneAlu, e.2.1, e.2.2]

theorem remn (d : BitVec 5) (a : BitVec 5) (b : BitVec 5) (w : West) : Statement (.remn d a b w) := by
  have e := G3 16 20 d a b w (by decide) (by decide)
  refine of_word (w := fmtR 16 d.toNat a.toNat b.toNat 20 + w.bits) rfl fun _ => ?_
  generalize fmtR 16 d.toNat a.toNat b.toNat 20 + w.bits = W at e ⊢
  simp only [decode_10 W e.1, decLaneAlu, e.2.1, e.2.2]

theorem clz (d : BitVec 5) (a : BitVec 5) (w : Bool) : Statement (.clz d a w) := by
  have e := G2 16 21 d a w (by decide) (by decide)
  refine of_word (w := fmtR 16 d.toNat a.toNat 0 21 + 1024 * b2n w) rfl fun _ => ?_
  generalize fmtR 16 d.toNat a.toNat 0 21 + 1024 * b2n w = W at e ⊢
  simp only [decode_10 W e.1, decLaneAlu, e.2.1, e.2.2]

theorem ctz (d : BitVec 5) (a : BitVec 5) (w : Bool) : Statement (.ctz d a w) := by
  have e := G2 16 22 d a w (by decide) (by decide)
  refine of_word (w := fmtR 16 d.toNat a.toNat 0 22 + 1024 * b2n w) rfl fun _ => ?_
  generalize fmtR 16 d.toNat a.toNat 0 22 + 1024 * b2n w = W at e ⊢
  simp only [decode_10 W e.1, decLaneAlu, e.2.1, e.2.2]

theorem popc (d : BitVec 5) (a : BitVec 5) (w : Bool) : Statement (.popc d a w) := by
  have e := G2 16 23 d a w (by decide) (by decide)
  refine of_word (w := fmtR 16 d.toNat a.toNat 0 23 + 1024 * b2n w) rfl fun _ => ?_
  generalize fmtR 16 d.toNat a.toNat 0 23 + 1024 * b2n w = W at e ⊢
  simp only [decode_10 W e.1, decLaneAlu, e.2.1, e.2.2]

theorem addConst (d : BitVec 5) (a : BitVec 5) (k : BitVec 8) : Statement (.addConst d a k) := by
  have e := GK 17 0 d a k (by decide) (by decide)
  refine of_word (w := fmtI 17 d.toNat a.toNat (k.toNat * 256 + 0)) rfl fun _ => ?_
  generalize fmtI 17 d.toNat a.toNat (k.toNat * 256 + 0) = W at e ⊢
  simp only [decode_11 W e.1, decLaneK, e.2.1, e.2.2]

theorem subConst (d : BitVec 5) (a : BitVec 5) (k : BitVec 8) : Statement (.subConst d a k) := by
  have e := GK 17 1 d a k (by decide) (by decide)
  refine of_word (w := fmtI 17 d.toNat a.toNat (k.toNat * 256 + 1)) rfl fun _ => ?_
  generalize fmtI 17 d.toNat a.toNat (k.toNat * 256 + 1) = W at e ⊢
  simp only [decode_11 W e.1, decLaneK, e.2.1, e.2.2]

theorem andConst (d : BitVec 5) (a : BitVec 5) (k : BitVec 8) : Statement (.andConst d a k) := by
  have e := GK 17 2 d a k (by decide) (by decide)
  refine of_word (w := fmtI 17 d.toNat a.toNat (k.toNat * 256 + 2)) rfl fun _ => ?_
  generalize fmtI 17 d.toNat a.toNat (k.toNat * 256 + 2) = W at e ⊢
  simp only [decode_11 W e.1, decLaneK, e.2.1, e.2.2]

theorem orConst (d : BitVec 5) (a : BitVec 5) (k : BitVec 8) : Statement (.orConst d a k) := by
  have e := GK 17 3 d a k (by decide) (by decide)
  refine of_word (w := fmtI 17 d.toNat a.toNat (k.toNat * 256 + 3)) rfl fun _ => ?_
  generalize fmtI 17 d.toNat a.toNat (k.toNat * 256 + 3) = W at e ⊢
  simp only [decode_11 W e.1, decLaneK, e.2.1, e.2.2]

theorem xorConst (d : BitVec 5) (a : BitVec 5) (k : BitVec 8) : Statement (.xorConst d a k) := by
  have e := GK 17 4 d a k (by decide) (by decide)
  refine of_word (w := fmtI 17 d.toNat a.toNat (k.toNat * 256 + 4)) rfl fun _ => ?_
  generalize fmtI 17 d.toNat a.toNat (k.toNat * 256 + 4) = W at e ⊢
  simp only [decode_11 W e.1, decLaneK, e.2.1, e.2.2]

theorem shlConst (d : BitVec 5) (a : BitVec 5) (k : BitVec 8) : Statement (.shlConst d a k) := by
  have e := GK 17 5 d a k (by decide) (by decide)
  refine of_word (w := fmtI 17 d.toNat a.toNat (k.toNat * 256 + 5)) rfl fun _ => ?_
  generalize fmtI 17 d.toNat a.toNat (k.toNat * 256 + 5) = W at e ⊢
  simp only [decode_11 W e.1, decLaneK, e.2.1, e.2.2]

theorem shrConst (d : BitVec 5) (a : BitVec 5) (k : BitVec 8) : Statement (.shrConst d a k) := by
  have e := GK 17 6 d a k (by decide) (by decide)
  refine of_word (w := fmtI 17 d.toNat a.toNat (k.toNat * 256 + 6)) rfl fun _ => ?_
  generalize fmtI 17 d.toNat a.toNat (k.toNat * 256 + 6) = W at e ⊢
  simp only [decode_11 W e.1, decLaneK, e.2.1, e.2.2]

theorem sarConst (d : BitVec 5) (a : BitVec 5) (k : BitVec 8) : Statement (.sarConst d a k) := by
  have e := GK 17 7 d a k (by decide) (by decide)
  refine of_word (w := fmtI 17 d.toNat a.toNat (k.toNat * 256 + 7)) rfl fun _ => ?_
  generalize fmtI 17 d.toNat a.toNat (k.toNat * 256 + 7) = W at e ⊢
  simp only [decode_11 W e.1, decLaneK, e.2.1, e.2.2]

theorem mulConst (d : BitVec 5) (a : BitVec 5) (k : BitVec 8) : Statement (.mulConst d a k) := by
  have e := GK 17 8 d a k (by decide) (by decide)
  refine of_word (w := fmtI 17 d.toNat a.toNat (k.toNat * 256 + 8)) rfl fun _ => ?_
  generalize fmtI 17 d.toNat a.toNat (k.toNat * 256 + 8) = W at e ⊢
  simp only [decode_11 W e.1, decLaneK, e.2.1, e.2.2]

theorem sltConst (d : BitVec 5) (a : BitVec 5) (k : BitVec 8) : Statement (.sltConst d a k) := by
  have e := GK 17 9 d a k (by decide) (by decide)
  refine of_word (w := fmtI 17 d.toNat a.toNat (k.toNat * 256 + 9)) rfl fun _ => ?_
  generalize fmtI 17 d.toNat a.toNat (k.toNat * 256 + 9) = W at e ⊢
  simp only [decode_11 W e.1, decLaneK, e.2.1, e.2.2]

theorem sltnConst (d : BitVec 5) (a : BitVec 5) (k : BitVec 8) : Statement (.sltnConst d a k) := by
  have e := GK 17 10 d a k (by decide) (by decide)
  refine of_word (w := fmtI 17 d.toNat a.toNat (k.toNat * 256 + 10)) rfl fun _ => ?_
  generalize fmtI 17 d.toNat a.toNat (k.toNat * 256 + 10) = W at e ⊢
  simp only [decode_11 W e.1, decLaneK, e.2.1, e.2.2]

theorem minConst (d : BitVec 5) (a : BitVec 5) (k : BitVec 8) : Statement (.minConst d a k) := by
  have e := GK 17 11 d a k (by decide) (by decide)
  refine of_word (w := fmtI 17 d.toNat a.toNat (k.toNat * 256 + 11)) rfl fun _ => ?_
  generalize fmtI 17 d.toNat a.toNat (k.toNat * 256 + 11) = W at e ⊢
  simp only [decode_11 W e.1, decLaneK, e.2.1, e.2.2]

theorem maxConst (d : BitVec 5) (a : BitVec 5) (k : BitVec 8) : Statement (.maxConst d a k) := by
  have e := GK 17 12 d a k (by decide) (by decide)
  refine of_word (w := fmtI 17 d.toNat a.toNat (k.toNat * 256 + 12)) rfl fun _ => ?_
  generalize fmtI 17 d.toNat a.toNat (k.toNat * 256 + 12) = W at e ⊢
  simp only [decode_11 W e.1, decLaneK, e.2.1, e.2.2]

theorem minnConst (d : BitVec 5) (a : BitVec 5) (k : BitVec 8) : Statement (.minnConst d a k) := by
  have e := GK 17 13 d a k (by decide) (by decide)
  refine of_word (w := fmtI 17 d.toNat a.toNat (k.toNat * 256 + 13)) rfl fun _ => ?_
  generalize fmtI 17 d.toNat a.toNat (k.toNat * 256 + 13) = W at e ⊢
  simp only [decode_11 W e.1, decLaneK, e.2.1, e.2.2]

theorem maxnConst (d : BitVec 5) (a : BitVec 5) (k : BitVec 8) : Statement (.maxnConst d a k) := by
  have e := GK 17 14 d a k (by decide) (by decide)
  refine of_word (w := fmtI 17 d.toNat a.toNat (k.toNat * 256 + 14)) rfl fun _ => ?_
  generalize fmtI 17 d.toNat a.toNat (k.toNat * 256 + 14) = W at e ⊢
  simp only [decode_11 W e.1, decLaneK, e.2.1, e.2.2]

theorem mulhConst (d : BitVec 5) (a : BitVec 5) (k : BitVec 8) : Statement (.mulhConst d a k) := by
  have e := GK 17 15 d a k (by decide) (by decide)
  refine of_word (w := fmtI 17 d.toNat a.toNat (k.toNat * 256 + 15)) rfl fun _ => ?_
  generalize fmtI 17 d.toNat a.toNat (k.toNat * 256 + 15) = W at e ⊢
  simp only [decode_11 W e.1, decLaneK, e.2.1, e.2.2]

theorem mulhnConst (d : BitVec 5) (a : BitVec 5) (k : BitVec 8) : Statement (.mulhnConst d a k) := by
  have e := GK 17 16 d a k (by decide) (by decide)
  refine of_word (w := fmtI 17 d.toNat a.toNat (k.toNat * 256 + 16)) rfl fun _ => ?_
  generalize fmtI 17 d.toNat a.toNat (k.toNat * 256 + 16) = W at e ⊢
  simp only [decode_11 W e.1, decLaneK, e.2.1, e.2.2]

theorem divConst (d : BitVec 5) (a : BitVec 5) (k : BitVec 8) : Statement (.divConst d a k) := by
  have e := GK 17 17 d a k (by decide) (by decide)
  refine of_word (w := fmtI 17 d.toNat a.toNat (k.toNat * 256 + 17)) rfl fun _ => ?_
  generalize fmtI 17 d.toNat a.toNat (k.toNat * 256 + 17) = W at e ⊢
  simp only [decode_11 W e.1, decLaneK, e.2.1, e.2.2]

theorem divnConst (d : BitVec 5) (a : BitVec 5) (k : BitVec 8) : Statement (.divnConst d a k) := by
  have e := GK 17 18 d a k (by decide) (by decide)
  refine of_word (w := fmtI 17 d.toNat a.toNat (k.toNat * 256 + 18)) rfl fun _ => ?_
  generalize fmtI 17 d.toNat a.toNat (k.toNat * 256 + 18) = W at e ⊢
  simp only [decode_11 W e.1, decLaneK, e.2.1, e.2.2]

theorem remConst (d : BitVec 5) (a : BitVec 5) (k : BitVec 8) : Statement (.remConst d a k) := by
  have e := GK 17 19 d a k (by decide) (by decide)
  refine of_word (w := fmtI 17 d.toNat a.toNat (k.toNat * 256 + 19)) rfl fun _ => ?_
  generalize fmtI 17 d.toNat a.toNat (k.toNat * 256 + 19) = W at e ⊢
  simp only [decode_11 W e.1, decLaneK, e.2.1, e.2.2]

theorem remnConst (d : BitVec 5) (a : BitVec 5) (k : BitVec 8) : Statement (.remnConst d a k) := by
  have e := GK 17 20 d a k (by decide) (by decide)
  refine of_word (w := fmtI 17 d.toNat a.toNat (k.toNat * 256 + 20)) rfl fun _ => ?_
  generalize fmtI 17 d.toNat a.toNat (k.toNat * 256 + 20) = W at e ⊢
  simp only [decode_11 W e.1, decLaneK, e.2.1, e.2.2]

theorem addi (d : BitVec 5) (a : BitVec 5) (imm : BitVec 16) : Statement (.addi d a imm) := by
  refine of_word (w := fmtI 18 d.toNat a.toNat imm.toNat) rfl fun hwf => ?_
  generalize hW : fmtI 18 d.toNat a.toNat imm.toNat = W
  have e0 : fld W 0 16 = imm.toNat := by subst hW; simp only [fld, fmtI]; omega
  have e1 : fld W 16 5 = a.toNat := by subst hW; simp only [fld, fmtI]; omega
  have e2 : fld W 21 5 = d.toNat := by subst hW; simp only [fld, fmtI]; omega
  have e3 : fld W 26 6 = 18 := by subst hW; simp only [fld, fmtI]; omega
  simp [decode_12 W e3, decGI, e0, e1, e2, need, hOk, hr, gr, bit1, sub, BitVec.ofNat_toNat, b2n_one, szOf_code, ordOf_code, amoOf_code, srOf_code, pfOf_code, copySrcOf_code, redOf_code, credFmtOf_code, csrOf_code]

theorem andi (d : BitVec 5) (a : BitVec 5) (imm : BitVec 16) : Statement (.andi d a imm) := by
  refine of_word (w := fmtI 19 d.toNat a.toNat imm.toNat) rfl fun hwf => ?_
  generalize hW : fmtI 19 d.toNat a.toNat imm.toNat = W
  have e0 : fld W 0 16 = imm.toNat := by subst hW; simp only [fld, fmtI]; omega
  have e1 : fld W 16 5 = a.toNat := by subst hW; simp only [fld, fmtI]; omega
  have e2 : fld W 21 5 = d.toNat := by subst hW; simp only [fld, fmtI]; omega
  have e3 : fld W 26 6 = 19 := by subst hW; simp only [fld, fmtI]; omega
  simp [decode_13 W e3, decGI, e0, e1, e2, need, hOk, hr, gr, bit1, sub, BitVec.ofNat_toNat, b2n_one, szOf_code, ordOf_code, amoOf_code, srOf_code, pfOf_code, copySrcOf_code, redOf_code, credFmtOf_code, csrOf_code]

theorem ori (d : BitVec 5) (a : BitVec 5) (imm : BitVec 16) : Statement (.ori d a imm) := by
  refine of_word (w := fmtI 20 d.toNat a.toNat imm.toNat) rfl fun hwf => ?_
  generalize hW : fmtI 20 d.toNat a.toNat imm.toNat = W
  have e0 : fld W 0 16 = imm.toNat := by subst hW; simp only [fld, fmtI]; omega
  have e1 : fld W 16 5 = a.toNat := by subst hW; simp only [fld, fmtI]; omega
  have e2 : fld W 21 5 = d.toNat := by subst hW; simp only [fld, fmtI]; omega
  have e3 : fld W 26 6 = 20 := by subst hW; simp only [fld, fmtI]; omega
  simp [decode_14 W e3, decGI, e0, e1, e2, need, hOk, hr, gr, bit1, sub, BitVec.ofNat_toNat, b2n_one, szOf_code, ordOf_code, amoOf_code, srOf_code, pfOf_code, copySrcOf_code, redOf_code, credFmtOf_code, csrOf_code]

theorem xori (d : BitVec 5) (a : BitVec 5) (imm : BitVec 16) : Statement (.xori d a imm) := by
  refine of_word (w := fmtI 21 d.toNat a.toNat imm.toNat) rfl fun hwf => ?_
  generalize hW : fmtI 21 d.toNat a.toNat imm.toNat = W
  have e0 : fld W 0 16 = imm.toNat := by subst hW; simp only [fld, fmtI]; omega
  have e1 : fld W 16 5 = a.toNat := by subst hW; simp only [fld, fmtI]; omega
  have e2 : fld W 21 5 = d.toNat := by subst hW; simp only [fld, fmtI]; omega
  have e3 : fld W 26 6 = 21 := by subst hW; simp only [fld, fmtI]; omega
  simp [decode_15 W e3, decGI, e0, e1, e2, need, hOk, hr, gr, bit1, sub, BitVec.ofNat_toNat, b2n_one, szOf_code, ordOf_code, amoOf_code, srOf_code, pfOf_code, copySrcOf_code, redOf_code, credFmtOf_code, csrOf_code]

theorem shli (d : BitVec 5) (a : BitVec 5) (n : BitVec 6) : Statement (.shli d a n) := by
  refine of_word (w := fmtI 22 d.toNat a.toNat (0 + n.toNat)) rfl fun hwf => ?_
  generalize hW : fmtI 22 d.toNat a.toNat (0 + n.toNat) = W
  have e0 : fld W 0 6 = n.toNat := by subst hW; simp only [fld, fmtI]; omega
  have e1 : fld W 6 2 = 0 := by subst hW; simp only [fld, fmtI]; omega
  have e2 : fld W 8 8 = 0 := by subst hW; simp only [fld, fmtI]; omega
  have e3 : fld W 16 5 = a.toNat := by subst hW; simp only [fld, fmtI]; omega
  have e4 : fld W 21 5 = d.toNat := by subst hW; simp only [fld, fmtI]; omega
  have e5 : fld W 26 6 = 22 := by subst hW; simp only [fld, fmtI]; omega
  simp [decode_16 W e5, decGS, decLaneShift, e0, e1, e2, e3, e4, need, hOk, hr, gr, bit1, sub, BitVec.ofNat_toNat, b2n_one, szOf_code, ordOf_code, amoOf_code, srOf_code, pfOf_code, copySrcOf_code, redOf_code, credFmtOf_code, csrOf_code]

theorem shri (d : BitVec 5) (a : BitVec 5) (n : BitVec 6) : Statement (.shri d a n) := by
  refine of_word (w := fmtI 22 d.toNat a.toNat (256 + n.toNat)) rfl fun hwf => ?_
  generalize hW : fmtI 22 d.toNat a.toNat (256 + n.toNat) = W
  have e0 : fld W 0 6 = n.toNat := by subst hW; simp only [fld, fmtI]; omega
  have e1 : fld W 6 2 = 0 := by subst hW; simp only [fld, fmtI]; omega
  have e2 : fld W 8 8 = 1 := by subst hW; simp only [fld, fmtI]; omega
  have e3 : fld W 16 5 = a.toNat := by subst hW; simp only [fld, fmtI]; omega
  have e4 : fld W 21 5 = d.toNat := by subst hW; simp only [fld, fmtI]; omega
  have e5 : fld W 26 6 = 22 := by subst hW; simp only [fld, fmtI]; omega
  simp [decode_16 W e5, decGS, decLaneShift, e0, e1, e2, e3, e4, need, hOk, hr, gr, bit1, sub, BitVec.ofNat_toNat, b2n_one, szOf_code, ordOf_code, amoOf_code, srOf_code, pfOf_code, copySrcOf_code, redOf_code, credFmtOf_code, csrOf_code]

theorem sari (d : BitVec 5) (a : BitVec 5) (n : BitVec 6) : Statement (.sari d a n) := by
  refine of_word (w := fmtI 22 d.toNat a.toNat (512 + n.toNat)) rfl fun hwf => ?_
  generalize hW : fmtI 22 d.toNat a.toNat (512 + n.toNat) = W
  have e0 : fld W 0 6 = n.toNat := by subst hW; simp only [fld, fmtI]; omega
  have e1 : fld W 6 2 = 0 := by subst hW; simp only [fld, fmtI]; omega
  have e2 : fld W 8 8 = 2 := by subst hW; simp only [fld, fmtI]; omega
  have e3 : fld W 16 5 = a.toNat := by subst hW; simp only [fld, fmtI]; omega
  have e4 : fld W 21 5 = d.toNat := by subst hW; simp only [fld, fmtI]; omega
  have e5 : fld W 26 6 = 22 := by subst hW; simp only [fld, fmtI]; omega
  simp [decode_16 W e5, decGS, decLaneShift, e0, e1, e2, e3, e4, need, hOk, hr, gr, bit1, sub, BitVec.ofNat_toNat, b2n_one, szOf_code, ordOf_code, amoOf_code, srOf_code, pfOf_code, copySrcOf_code, redOf_code, credFmtOf_code, csrOf_code]

theorem li (d : BitVec 5) (imm : BitVec 16) : Statement (.li d imm) := by
  refine of_word (w := fmtI 23 d.toNat 0 imm.toNat) rfl fun hwf => ?_
  generalize hW : fmtI 23 d.toNat 0 imm.toNat = W
  have e0 : fld W 0 16 = imm.toNat := by subst hW; simp only [fld, fmtI]; omega
  have e1 : fld W 16 5 = 0 := by subst hW; simp only [fld, fmtI]; omega
  have e2 : fld W 21 5 = d.toNat := by subst hW; simp only [fld, fmtI]; omega
  have e3 : fld W 26 6 = 23 := by subst hW; simp only [fld, fmtI]; omega
  simp [decode_17 W e3, e0, e1, e2, need, hOk, hr, gr, bit1, sub, BitVec.ofNat_toNat, b2n_one, szOf_code, ordOf_code, amoOf_code, srOf_code, pfOf_code, copySrcOf_code, redOf_code, credFmtOf_code, csrOf_code]

theorem lui (d : BitVec 5) (a : BitVec 5) (imm : BitVec 16) : Statement (.lui d a imm) := by
  refine of_word (w := fmtI 24 d.toNat a.toNat imm.toNat) rfl fun hwf => ?_
  generalize hW : fmtI 24 d.toNat a.toNat imm.toNat = W
  have e0 : fld W 0 16 = imm.toNat := by subst hW; simp only [fld, fmtI]; omega
  have e1 : fld W 16 5 = a.toNat := by subst hW; simp only [fld, fmtI]; omega
  have e2 : fld W 21 5 = d.toNat := by subst hW; simp only [fld, fmtI]; omega
  have e3 : fld W 26 6 = 24 := by subst hW; simp only [fld, fmtI]; omega
  simp [decode_18 W e3, decGI, e0, e1, e2, need, hOk, hr, gr, bit1, sub, BitVec.ofNat_toNat, b2n_one, szOf_code, ordOf_code, amoOf_code, srOf_code, pfOf_code, copySrcOf_code, redOf_code, credFmtOf_code, csrOf_code]

theorem fadd (d : BitVec 5) (a : BitVec 5) (b : BitVec 5) (w : West) : Statement (.fadd d a b w) := by
  have e := G3 25 0 d a b w (by decide) (by decide)
  refine of_word (w := fmtR 25 d.toNat a.toNat b.toNat 0 + w.bits) rfl fun _ => ?_
  generalize fmtR 25 d.toNat a.toNat b.toNat 0 + w.bits = W at e ⊢
  simp only [decode_19 W e.1, decFloat, e.2.1, e.2.2]

theorem fsub (d : BitVec 5) (a : BitVec 5) (b : BitVec 5) (w : West) : Statement (.fsub d a b w) := by
  have e := G3 25 1 d a b w (by decide) (by decide)
  refine of_word (w := fmtR 25 d.toNat a.toNat b.toNat 1 + w.bits) rfl fun _ => ?_
  generalize fmtR 25 d.toNat a.toNat b.toNat 1 + w.bits = W at e ⊢
  simp only [decode_19 W e.1, decFloat, e.2.1, e.2.2]

theorem fmul (d : BitVec 5) (a : BitVec 5) (b : BitVec 5) (w : West) : Statement (.fmul d a b w) := by
  have e := G3 25 2 d a b w (by decide) (by decide)
  refine of_word (w := fmtR 25 d.toNat a.toNat b.toNat 2 + w.bits) rfl fun _ => ?_
  generalize fmtR 25 d.toNat a.toNat b.toNat 2 + w.bits = W at e ⊢
  simp only [decode_19 W e.1, decFloat, e.2.1, e.2.2]

theorem fdiv (d : BitVec 5) (a : BitVec 5) (b : BitVec 5) (w : West) : Statement (.fdiv d a b w) := by
  have e := G3 25 3 d a b w (by decide) (by decide)
  refine of_word (w := fmtR 25 d.toNat a.toNat b.toNat 3 + w.bits) rfl fun _ => ?_
  generalize fmtR 25 d.toNat a.toNat b.toNat 3 + w.bits = W at e ⊢
  simp only [decode_19 W e.1, decFloat, e.2.1, e.2.2]

theorem fma (d : BitVec 5) (a : BitVec 5) (b : BitVec 5) (w : West) : Statement (.fma d a b w) := by
  have e := G3 25 4 d a b w (by decide) (by decide)
  refine of_word (w := fmtR 25 d.toNat a.toNat b.toNat 4 + w.bits) rfl fun _ => ?_
  generalize fmtR 25 d.toNat a.toNat b.toNat 4 + w.bits = W at e ⊢
  simp only [decode_19 W e.1, decFloat, e.2.1, e.2.2]

theorem fmin (d : BitVec 5) (a : BitVec 5) (b : BitVec 5) (w : West) : Statement (.fmin d a b w) := by
  have e := G3 25 5 d a b w (by decide) (by decide)
  refine of_word (w := fmtR 25 d.toNat a.toNat b.toNat 5 + w.bits) rfl fun _ => ?_
  generalize fmtR 25 d.toNat a.toNat b.toNat 5 + w.bits = W at e ⊢
  simp only [decode_19 W e.1, decFloat, e.2.1, e.2.2]

theorem fmax (d : BitVec 5) (a : BitVec 5) (b : BitVec 5) (w : West) : Statement (.fmax d a b w) := by
  have e := G3 25 6 d a b w (by decide) (by decide)
  refine of_word (w := fmtR 25 d.toNat a.toNat b.toNat 6 + w.bits) rfl fun _ => ?_
  generalize fmtR 25 d.toNat a.toNat b.toNat 6 + w.bits = W at e ⊢
  simp only [decode_19 W e.1, decFloat, e.2.1, e.2.2]

theorem feq (d : BitVec 5) (a : BitVec 5) (b : BitVec 5) (w : West) : Statement (.feq d a b w) := by
  have e := G3 25 7 d a b w (by decide) (by decide)
  refine of_word (w := fmtR 25 d.toNat a.toNat b.toNat 7 + w.bits) rfl fun _ => ?_
  generalize fmtR 25 d.toNat a.toNat b.toNat 7 + w.bits = W at e ⊢
  simp only [decode_19 W e.1, decFloat, e.2.1, e.2.2]

theorem flt (d : BitVec 5) (a : BitVec 5) (b : BitVec 5) (w : West) : Statement (.flt d a b w) := by
  have e := G3 25 8 d a b w (by decide) (by decide)
  refine of_word (w := fmtR 25 d.toNat a.toNat b.toNat 8 + w.bits) rfl fun _ => ?_
  generalize fmtR 25 d.toNat a.toNat b.toNat 8 + w.bits = W at e ⊢
  simp only [decode_19 W e.1, decFloat, e.2.1, e.2.2]

theorem fle (d : BitVec 5) (a : BitVec 5) (b : BitVec 5) (w : West) : Statement (.fle d a b w) := by
  have e := G3 25 9 d a b w (by decide) (by decide)
  refine of_word (w := fmtR 25 d.toNat a.toNat b.toNat 9 + w.bits) rfl fun _ => ?_
  generalize fmtR 25 d.toNat a.toNat b.toNat 9 + w.bits = W at e ⊢
  simp only [decode_19 W e.1, decFloat, e.2.1, e.2.2]

theorem fabs (d : BitVec 5) (a : BitVec 5) (w : Bool) : Statement (.fabs d a w) := by
  have e := G2 25 10 d a w (by decide) (by decide)
  refine of_word (w := fmtR 25 d.toNat a.toNat 0 10 + 1024 * b2n w) rfl fun _ => ?_
  generalize fmtR 25 d.toNat a.toNat 0 10 + 1024 * b2n w = W at e ⊢
  simp only [decode_19 W e.1, decFloat, e.2.1, e.2.2]

theorem fneg (d : BitVec 5) (a : BitVec 5) (w : Bool) : Statement (.fneg d a w) := by
  have e := G2 25 11 d a w (by decide) (by decide)
  refine of_word (w := fmtR 25 d.toNat a.toNat 0 11 + 1024 * b2n w) rfl fun _ => ?_
  generalize fmtR 25 d.toNat a.toNat 0 11 + 1024 * b2n w = W at e ⊢
  simp only [decode_19 W e.1, decFloat, e.2.1, e.2.2]

theorem fcvti (d : BitVec 5) (a : BitVec 5) (w : Bool) : Statement (.fcvti d a w) := by
  have e := G2 25 12 d a w (by decide) (by decide)
  refine of_word (w := fmtR 25 d.toNat a.toNat 0 12 + 1024 * b2n w) rfl fun _ => ?_
  generalize fmtR 25 d.toNat a.toNat 0 12 + 1024 * b2n w = W at e ⊢
  simp only [decode_19 W e.1, decFloat, e.2.1, e.2.2]

theorem icvtf (d : BitVec 5) (a : BitVec 5) (w : Bool) : Statement (.icvtf d a w) := by
  have e := G2 25 13 d a w (by decide) (by decide)
  refine of_word (w := fmtR 25 d.toNat a.toNat 0 13 + 1024 * b2n w) rfl fun _ => ?_
  generalize fmtR 25 d.toNat a.toNat 0 13 + 1024 * b2n w = W at e ⊢
  simp only [decode_19 W e.1, decFloat, e.2.1, e.2.2]

theorem hget (d : BitVec 5) (a : BitVec 4) : Statement (.hget d a) := by
  refine of_word (w := fmtR 26 d.toNat a.toNat 0 0) rfl fun hwf => ?_
  have ha : a.toNat < 16 := a.isLt
  generalize hW : fmtR 26 d.toNat a.toNat 0 0 = W
  have e0 : fld W 0 11 = 0 := by subst hW; simp only [fld, fmtR]; omega
  have e1 : fld W 11 5 = 0 := by subst hW; simp only [fld, fmtR]; omega
  have e2 : fld W 16 5 = a.toNat := by subst hW; simp only [fld, fmtR]; omega
  have e3 : fld W 21 5 = d.toNat := by subst hW; simp only [fld, fmtR]; omega
  have e4 : fld W 26 6 = 26 := by subst hW; simp only [fld, fmtR]; omega
  simp [decode_1A W e4, decMove, e0, e1, e2, e3, ha, need, hOk, hr, gr, bit1, sub, BitVec.ofNat_toNat, b2n_one, szOf_code, ordOf_code, amoOf_code, srOf_code, pfOf_code, copySrcOf_code, redOf_code, credFmtOf_code, csrOf_code]

theorem tail (a : BitVec 5) : Statement (.tail a) := by
  refine of_word (w := fmtR 26 0 a.toNat 0 1) rfl fun hwf => ?_
  generalize hW : fmtR 26 0 a.toNat 0 1 = W
  have e0 : fld W 0 11 = 1 := by subst hW; simp only [fld, fmtR]; omega
  have e1 : fld W 11 5 = 0 := by subst hW; simp only [fld, fmtR]; omega
  have e2 : fld W 16 5 = a.toNat := by subst hW; simp only [fld, fmtR]; omega
  have e3 : fld W 21 5 = 0 := by subst hW; simp only [fld, fmtR]; omega
  have e4 : fld W 26 6 = 26 := by subst hW; simp only [fld, fmtR]; omega
  simp [decode_1A W e4, decMove, e0, e1, e2, e3, need, hOk, hr, gr, bit1, sub, BitVec.ofNat_toNat, b2n_one, szOf_code, ordOf_code, amoOf_code, srOf_code, pfOf_code, copySrcOf_code, redOf_code, credFmtOf_code, csrOf_code]

theorem cmov (d : BitVec 5) (a : BitVec 5) (m : BitVec 3) : Statement (.cmov d a m) := by
  refine of_word (w := fmtR 26 d.toNat a.toNat m.toNat 2) rfl fun hwf => ?_
  generalize hW : fmtR 26 d.toNat a.toNat m.toNat 2 = W
  have e0 : fld W 0 11 = 2 := by subst hW; simp only [fld, fmtR]; omega
  have e1 : fld W 11 3 = m.toNat := by subst hW; simp only [fld, fmtR]; omega
  have e2 : fld W 14 2 = 0 := by subst hW; simp only [fld, fmtR]; omega
  have e3 : fld W 16 5 = a.toNat := by subst hW; simp only [fld, fmtR]; omega
  have e4 : fld W 21 5 = d.toNat := by subst hW; simp only [fld, fmtR]; omega
  have e5 : fld W 26 6 = 26 := by subst hW; simp only [fld, fmtR]; omega
  simp [decode_1A W e5, decMove, e0, e1, e2, e3, e4, need, hOk, hr, gr, bit1, sub, BitVec.ofNat_toNat, b2n_one, szOf_code, ordOf_code, amoOf_code, srOf_code, pfOf_code, copySrcOf_code, redOf_code, credFmtOf_code, csrOf_code]

theorem movmg (d : BitVec 5) (m : BitVec 3) (half : Bool) : Statement (.movmg d m half) := by
  refine of_word (w := fmtR 26 d.toNat m.toNat (b2n half) 3) rfl fun hwf => ?_
  have := b2n_lt half
  generalize hW : fmtR 26 d.toNat m.toNat (b2n half) 3 = W
  have e0 : fld W 0 11 = 3 := by subst hW; simp only [fld, fmtR]; omega
  have e1 : fld W 11 1 = (b2n half) := by subst hW; simp only [fld, fmtR]; omega
  have e2 : fld W 12 4 = 0 := by subst hW; simp only [fld, fmtR]; omega
  have e3 : fld W 16 3 = m.toNat := by subst hW; simp only [fld, fmtR]; omega
  have e4 : fld W 19 2 = 0 := by subst hW; simp only [fld, fmtR]; omega
  have e5 : fld W 21 5 = d.toNat := by subst hW; simp only [fld, fmtR]; omega
  have e6 : fld W 26 6 = 26 := by subst hW; simp only [fld, fmtR]; omega
  simp [decode_1A W e6, decMove, e0, e1, e2, e3, e4, e5, need, hOk, hr, gr, bit1, sub, BitVec.ofNat_toNat, b2n_one, szOf_code, ordOf_code, amoOf_code, srOf_code, pfOf_code, copySrcOf_code, redOf_code, credFmtOf_code, csrOf_code]

theorem movgm (m : BitVec 3) (a : BitVec 5) (half : Bool) : Statement (.movgm m a half) := by
  refine of_word (w := fmtR 26 m.toNat a.toNat (b2n half) 4) rfl fun hwf => ?_
  have := b2n_lt half
  have hwf : 1 ≤ m.toNat := pos_of_wf _ _ hwf
  have hm : m.toNat ≤ 7 := Nat.le_of_lt_succ m.isLt
  generalize hW : fmtR 26 m.toNat a.toNat (b2n half) 4 = W
  have e0 : fld W 0 11 = 4 := by subst hW; simp only [fld, fmtR]; omega
  have e1 : fld W 11 1 = (b2n half) := by subst hW; simp only [fld, fmtR]; omega
  have e2 : fld W 12 4 = 0 := by subst hW; simp only [fld, fmtR]; omega
  have e3 : fld W 16 5 = a.toNat := by subst hW; simp only [fld, fmtR]; omega
  have e4 : fld W 21 3 = m.toNat := by subst hW; simp only [fld, fmtR]; omega
  have e5 : fld W 21 5 = m.toNat := by subst hW; simp only [fld, fmtR]; omega
  have e6 : fld W 26 6 = 26 := by subst hW; simp only [fld, fmtR]; omega
  simp [decode_1A W e6, decMove, e0, e1, e2, e3, e4, e5, need, hOk, hr, gr, bit1, sub, BitVec.ofNat_toNat, b2n_one, szOf_code, ordOf_code, amoOf_code, srOf_code, pfOf_code, copySrcOf_code, redOf_code, credFmtOf_code, csrOf_code, hwf, hm]

theorem ld (d : BitVec 5) (a : BitVec 5) (off : BitVec 12) (sz : Sz) (acq : Bool) : Statement (.ld d a off sz acq) := by
  refine of_word (w := fmtM 27 d.toNat a.toNat off.toNat sz.code (b2n acq)) rfl fun hwf => ?_
  have := Sz.code_lt sz
  have := b2n_lt acq
  generalize hW : fmtM 27 d.toNat a.toNat off.toNat sz.code (b2n acq) = W
  have e0 : fld W 0 1 = (b2n acq) := by subst hW; simp only [fld, fmtM]; omega
  have e1 : fld W 0 2 = (b2n acq) := by subst hW; simp only [fld, fmtM]; omega
  have e2 : fld W 2 2 = sz.code := by subst hW; simp only [fld, fmtM]; omega
  have e3 : fld W 4 12 = off.toNat := by subst hW; simp only [fld, fmtM]; omega
  have e4 : fld W 16 5 = a.toNat := by subst hW; simp only [fld, fmtM]; omega
  have e5 : fld W 21 5 = d.toNat := by subst hW; simp only [fld, fmtM]; omega
  have e6 : fld W 26 6 = 27 := by subst hW; simp only [fld, fmtM]; omega
  have hb : b2n acq ≤ 1 := by omega
  simp [decode_1B W e6, decLd, e0, e1, e2, e3, e4, e5, need, gr, bit1, b2n_one, szOf_code, hb]

theorem ldn (d : BitVec 5) (a : BitVec 5) (off : BitVec 12) (sz : Sz) (acq : Bool) : Statement (.ldn d a off sz acq) := by
  intro _ _
  have hp : decode (fmtPx ({ Px.none with fd := sz.natCode } : Px)) = .ok (.px { Px.none with fd := sz.natCode }) := by
    cases sz <;> decide
  have := Sz.code_lt sz
  have hb := b2n_lt acq
  show readWords [fmtPx { Px.none with fd := sz.natCode }, fmtM 27 d.toNat a.toNat off.toNat sz.code (b2n acq)] = _
  have hl : decode (fmtM 27 d.toNat a.toNat off.toNat sz.code (b2n acq)) = .ok (.ld d a off sz acq) := by
    generalize hW : fmtM 27 d.toNat a.toNat off.toNat sz.code (b2n acq) = W
    have e0 : fld W 26 6 = 27 := by subst hW; simp only [fld, fmtM]; omega
    have e1 : fld W 0 2 = b2n acq := by subst hW; simp only [fld, fmtM]; omega
    have e2 : fld W 21 5 = d.toNat := by subst hW; simp only [fld, fmtM]; omega
    have e3 : fld W 16 5 = a.toNat := by subst hW; simp only [fld, fmtM]; omega
    have e4 : fld W 4 12 = off.toNat := by subst hW; simp only [fld, fmtM]; omega
    have e5 : fld W 2 2 = sz.code := by subst hW; simp only [fld, fmtM]; omega
    have e6 : fld W 0 1 = b2n acq := by subst hW; simp only [fld, fmtM]; omega
    simp [decode_1B W e0, decLd, e1, e2, e3, e4, e5, e6, need, gr, bit1, szOf_code, b2n_one, hb]
  simp only [readWords, hp, hl]
  cases sz <;> rfl

theorem st (d : BitVec 5) (a : BitVec 5) (off : BitVec 12) (sz : Sz) (rel : Bool) : Statement (.st d a off sz rel) := by
  refine of_word (w := fmtM 28 d.toNat a.toNat off.toNat sz.code (2 * b2n rel)) rfl fun hwf => ?_
  have := Sz.code_lt sz
  have := b2n_lt rel
  generalize hW : fmtM 28 d.toNat a.toNat off.toNat sz.code (2 * b2n rel) = W
  have e0 : fld W 0 1 = 0 := by subst hW; simp only [fld, fmtM]; omega
  have e1 : fld W 1 1 = (b2n rel) := by subst hW; simp only [fld, fmtM]; omega
  have e2 : fld W 2 2 = sz.code := by subst hW; simp only [fld, fmtM]; omega
  have e3 : fld W 4 12 = off.toNat := by subst hW; simp only [fld, fmtM]; omega
  have e4 : fld W 16 5 = a.toNat := by subst hW; simp only [fld, fmtM]; omega
  have e5 : fld W 21 5 = d.toNat := by subst hW; simp only [fld, fmtM]; omega
  have e6 : fld W 26 6 = 28 := by subst hW; simp only [fld, fmtM]; omega
  simp [decode_1C W e6, decSt, e0, e1, e2, e3, e4, e5, need, hOk, hr, gr, bit1, sub, BitVec.ofNat_toNat, b2n_one, szOf_code, ordOf_code, amoOf_code, srOf_code, pfOf_code, copySrcOf_code, redOf_code, credFmtOf_code, csrOf_code]

theorem ldv (d : BitVec 5) (a : BitVec 5) (off : BitVec 11) (acq : Bool) : Statement (.ldv d a off acq) := by
  cases acq
  · refine of_word (w := fmtI 29 d.toNat a.toNat (off.toNat * 32 + 0)) rfl fun hwf => ?_
    generalize hW : fmtI 29 d.toNat a.toNat (off.toNat * 32 + 0) = W
    have e0 : fld W 0 5 = 0 := by subst hW; simp only [fld, fmtI]; omega
    have e1 : fld W 5 11 = off.toNat := by subst hW; simp only [fld, fmtI]; omega
    have e2 : fld W 16 5 = a.toNat := by subst hW; simp only [fld, fmtI]; omega
    have e3 : fld W 21 5 = d.toNat := by subst hW; simp only [fld, fmtI]; omega
    have e4 : fld W 26 6 = 29 := by subst hW; simp only [fld, fmtI]; omega
    simp [decode_1D W e4, decVecMem, e0, e1, e2, e3, need, hOk, hr, gr, bit1, sub, BitVec.ofNat_toNat, b2n_one, szOf_code, ordOf_code, amoOf_code, srOf_code, pfOf_code, copySrcOf_code, redOf_code, credFmtOf_code, csrOf_code]
  · refine of_word (w := fmtI 29 d.toNat a.toNat (off.toNat * 32 + 1)) rfl fun hwf => ?_
    generalize hW : fmtI 29 d.toNat a.toNat (off.toNat * 32 + 1) = W
    have e0 : fld W 0 5 = 1 := by subst hW; simp only [fld, fmtI]; omega
    have e1 : fld W 5 11 = off.toNat := by subst hW; simp only [fld, fmtI]; omega
    have e2 : fld W 16 5 = a.toNat := by subst hW; simp only [fld, fmtI]; omega
    have e3 : fld W 21 5 = d.toNat := by subst hW; simp only [fld, fmtI]; omega
    have e4 : fld W 26 6 = 29 := by subst hW; simp only [fld, fmtI]; omega
    simp [decode_1D W e4, decVecMem, e0, e1, e2, e3, need, hOk, hr, gr, bit1, sub, BitVec.ofNat_toNat, b2n_one, szOf_code, ordOf_code, amoOf_code, srOf_code, pfOf_code, copySrcOf_code, redOf_code, credFmtOf_code, csrOf_code]

theorem stv (d : BitVec 5) (a : BitVec 5) (off : BitVec 11) (rel : Bool) : Statement (.stv d a off rel) := by
  cases rel
  · refine of_word (w := fmtI 29 d.toNat a.toNat (off.toNat * 32 + 16 + 2 * 0)) rfl fun hwf => ?_
    generalize hW : fmtI 29 d.toNat a.toNat (off.toNat * 32 + 16 + 2 * 0) = W
    have e0 : fld W 0 5 = 16 := by subst hW; simp only [fld, fmtI]; omega
    have e1 : fld W 5 11 = off.toNat := by subst hW; simp only [fld, fmtI]; omega
    have e2 : fld W 16 5 = a.toNat := by subst hW; simp only [fld, fmtI]; omega
    have e3 : fld W 21 5 = d.toNat := by subst hW; simp only [fld, fmtI]; omega
    have e4 : fld W 26 6 = 29 := by subst hW; simp only [fld, fmtI]; omega
    simp [decode_1D W e4, decVecMem, e0, e1, e2, e3, need, hOk, hr, gr, bit1, sub, BitVec.ofNat_toNat, b2n_one, szOf_code, ordOf_code, amoOf_code, srOf_code, pfOf_code, copySrcOf_code, redOf_code, credFmtOf_code, csrOf_code]
  · refine of_word (w := fmtI 29 d.toNat a.toNat (off.toNat * 32 + 16 + 2 * 1)) rfl fun hwf => ?_
    generalize hW : fmtI 29 d.toNat a.toNat (off.toNat * 32 + 16 + 2 * 1) = W
    have e0 : fld W 0 5 = 18 := by subst hW; simp only [fld, fmtI]; omega
    have e1 : fld W 5 11 = off.toNat := by subst hW; simp only [fld, fmtI]; omega
    have e2 : fld W 16 5 = a.toNat := by subst hW; simp only [fld, fmtI]; omega
    have e3 : fld W 21 5 = d.toNat := by subst hW; simp only [fld, fmtI]; omega
    have e4 : fld W 26 6 = 29 := by subst hW; simp only [fld, fmtI]; omega
    simp [decode_1D W e4, decVecMem, e0, e1, e2, e3, need, hOk, hr, gr, bit1, sub, BitVec.ofNat_toNat, b2n_one, szOf_code, ordOf_code, amoOf_code, srOf_code, pfOf_code, copySrcOf_code, redOf_code, credFmtOf_code, csrOf_code]

theorem ldp (d : BitVec 5) (a : BitVec 5) (off : BitVec 12) (sz : Sz) : Statement (.ldp d a off sz) := by
  refine of_word (w := fmtM 30 d.toNat a.toNat off.toNat sz.code 0) rfl fun hwf => ?_
  have := Sz.code_lt sz
  generalize hW : fmtM 30 d.toNat a.toNat off.toNat sz.code 0 = W
  have e0 : fld W 0 2 = 0 := by subst hW; simp only [fld, fmtM]; omega
  have e1 : fld W 2 2 = sz.code := by subst hW; simp only [fld, fmtM]; omega
  have e2 : fld W 4 12 = off.toNat := by subst hW; simp only [fld, fmtM]; omega
  have e3 : fld W 16 5 = a.toNat := by subst hW; simp only [fld, fmtM]; omega
  have e4 : fld W 21 5 = d.toNat := by subst hW; simp only [fld, fmtM]; omega
  have e5 : fld W 26 6 = 30 := by subst hW; simp only [fld, fmtM]; omega
  simp [decode_1E W e5, decPool, e0, e1, e2, e3, e4, need, hOk, hr, gr, bit1, sub, BitVec.ofNat_toNat, b2n_one, szOf_code, ordOf_code, amoOf_code, srOf_code, pfOf_code, copySrcOf_code, redOf_code, credFmtOf_code, csrOf_code]

theorem stp (d : BitVec 5) (a : BitVec 5) (off : BitVec 12) (sz : Sz) : Statement (.stp d a off sz) := by
  refine of_word (w := fmtM 30 d.toNat a.toNat off.toNat sz.code 1) rfl fun hwf => ?_
  have := Sz.code_lt sz
  generalize hW : fmtM 30 d.toNat a.toNat off.toNat sz.code 1 = W
  have e0 : fld W 0 2 = 1 := by subst hW; simp only [fld, fmtM]; omega
  have e1 : fld W 2 2 = sz.code := by subst hW; simp only [fld, fmtM]; omega
  have e2 : fld W 4 12 = off.toNat := by subst hW; simp only [fld, fmtM]; omega
  have e3 : fld W 16 5 = a.toNat := by subst hW; simp only [fld, fmtM]; omega
  have e4 : fld W 21 5 = d.toNat := by subst hW; simp only [fld, fmtM]; omega
  have e5 : fld W 26 6 = 30 := by subst hW; simp only [fld, fmtM]; omega
  simp [decode_1E W e5, decPool, e0, e1, e2, e3, e4, need, hOk, hr, gr, bit1, sub, BitVec.ofNat_toNat, b2n_one, szOf_code, ordOf_code, amoOf_code, srOf_code, pfOf_code, copySrcOf_code, redOf_code, credFmtOf_code, csrOf_code]

theorem ldpv (d : BitVec 5) (a : BitVec 5) (off : BitVec 12) : Statement (.ldpv d a off) := by
  refine of_word (w := fmtM 30 d.toNat a.toNat off.toNat 3 2) rfl fun hwf => ?_
  generalize hW : fmtM 30 d.toNat a.toNat off.toNat 3 2 = W
  have e0 : fld W 0 2 = 2 := by subst hW; simp only [fld, fmtM]; omega
  have e1 : fld W 2 2 = 3 := by subst hW; simp only [fld, fmtM]; omega
  have e2 : fld W 4 12 = off.toNat := by subst hW; simp only [fld, fmtM]; omega
  have e3 : fld W 16 5 = a.toNat := by subst hW; simp only [fld, fmtM]; omega
  have e4 : fld W 21 5 = d.toNat := by subst hW; simp only [fld, fmtM]; omega
  have e5 : fld W 26 6 = 30 := by subst hW; simp only [fld, fmtM]; omega
  simp [decode_1E W e5, decPool, e0, e1, e2, e3, e4, need, hOk, hr, gr, bit1, sub, BitVec.ofNat_toNat, b2n_one, szOf_code, ordOf_code, amoOf_code, srOf_code, pfOf_code, copySrcOf_code, redOf_code, credFmtOf_code, csrOf_code]

theorem stpv (d : BitVec 5) (a : BitVec 5) (off : BitVec 12) : Statement (.stpv d a off) := by
  refine of_word (w := fmtM 30 d.toNat a.toNat off.toNat 3 3) rfl fun hwf => ?_
  generalize hW : fmtM 30 d.toNat a.toNat off.toNat 3 3 = W
  have e0 : fld W 0 2 = 3 := by subst hW; simp only [fld, fmtM]; omega
  have e1 : fld W 2 2 = 3 := by subst hW; simp only [fld, fmtM]; omega
  have e2 : fld W 4 12 = off.toNat := by subst hW; simp only [fld, fmtM]; omega
  have e3 : fld W 16 5 = a.toNat := by subst hW; simp only [fld, fmtM]; omega
  have e4 : fld W 21 5 = d.toNat := by subst hW; simp only [fld, fmtM]; omega
  have e5 : fld W 26 6 = 30 := by subst hW; simp only [fld, fmtM]; omega
  simp [decode_1E W e5, decPool, e0, e1, e2, e3, e4, need, hOk, hr, gr, bit1, sub, BitVec.ofNat_toNat, b2n_one, szOf_code, ordOf_code, amoOf_code, srOf_code, pfOf_code, copySrcOf_code, redOf_code, credFmtOf_code, csrOf_code]

theorem ldl (t : BitVec 5) (a : BitVec 5) (off : BitVec 11) (sz : Sz) (set : BitVec 2) : Statement (.ldl t a off sz set) := by
  refine of_word (w := fmtI 31 t.toNat a.toNat (off.toNat * 32 + sz.code * 4 + set.toNat)) rfl fun hwf => ?_
  have := Sz.code_lt sz
  generalize hW : fmtI 31 t.toNat a.toNat (off.toNat * 32 + sz.code * 4 + set.toNat) = W
  have e0 : fld W 0 2 = set.toNat := by subst hW; simp only [fld, fmtI]; omega
  have e1 : fld W 2 2 = sz.code := by subst hW; simp only [fld, fmtI]; omega
  have e2 : fld W 4 1 = 0 := by subst hW; simp only [fld, fmtI]; omega
  have e3 : fld W 5 11 = off.toNat := by subst hW; simp only [fld, fmtI]; omega
  have e4 : fld W 16 5 = a.toNat := by subst hW; simp only [fld, fmtI]; omega
  have e5 : fld W 21 5 = t.toNat := by subst hW; simp only [fld, fmtI]; omega
  have e6 : fld W 26 6 = 31 := by subst hW; simp only [fld, fmtI]; omega
  simp [decode_1F W e6, decLandLoad, e0, e1, e2, e3, e4, e5, need, hOk, hr, gr, bit1, sub, BitVec.ofNat_toNat, b2n_one, szOf_code, ordOf_code, amoOf_code, srOf_code, pfOf_code, copySrcOf_code, redOf_code, credFmtOf_code, csrOf_code]

theorem ldlv (t : BitVec 5) (a : BitVec 5) (off : BitVec 11) (set : BitVec 2) : Statement (.ldlv t a off set) := by
  refine of_word (w := fmtI 31 t.toNat a.toNat (off.toNat * 32 + 28 + set.toNat)) rfl fun hwf => ?_
  generalize hW : fmtI 31 t.toNat a.toNat (off.toNat * 32 + 28 + set.toNat) = W
  have e0 : fld W 0 2 = set.toNat := by subst hW; simp only [fld, fmtI]; omega
  have e1 : fld W 2 2 = 3 := by subst hW; simp only [fld, fmtI]; omega
  have e2 : fld W 4 1 = 1 := by subst hW; simp only [fld, fmtI]; omega
  have e3 : fld W 5 11 = off.toNat := by subst hW; simp only [fld, fmtI]; omega
  have e4 : fld W 16 5 = a.toNat := by subst hW; simp only [fld, fmtI]; omega
  have e5 : fld W 21 5 = t.toNat := by subst hW; simp only [fld, fmtI]; omega
  have e6 : fld W 26 6 = 31 := by subst hW; simp only [fld, fmtI]; omega
  simp [decode_1F W e6, decLandLoad, e0, e1, e2, e3, e4, e5, need, hOk, hr, gr, bit1, sub, BitVec.ofNat_toNat, b2n_one, szOf_code, ordOf_code, amoOf_code, srOf_code, pfOf_code, copySrcOf_code, redOf_code, credFmtOf_code, csrOf_code]

theorem landingSlotGrant (core : Nat) : Statement (.landingSlotGrant core) := fun h _ => nomatch h
theorem take (d : BitVec 5) (t : BitVec 5) (set : BitVec 2) : Statement (.take d t set) := by
  refine of_word (w := fmtR 32 d.toNat t.toNat set.toNat 0) rfl fun hwf => ?_
  have hwf : d.toNat = t.toNat → d.toNat = 0 := distinct_of_wf _ _ _ hwf
  generalize hW : fmtR 32 d.toNat t.toNat set.toNat 0 = W
  have e0 : fld W 0 11 = 0 := by subst hW; simp only [fld, fmtR]; omega
  have e1 : fld W 11 2 = set.toNat := by subst hW; simp only [fld, fmtR]; omega
  have e2 : fld W 13 3 = 0 := by subst hW; simp only [fld, fmtR]; omega
  have e3 : fld W 16 5 = t.toNat := by subst hW; simp only [fld, fmtR]; omega
  have e4 : fld W 21 5 = d.toNat := by subst hW; simp only [fld, fmtR]; omega
  have e5 : fld W 26 6 = 32 := by subst hW; simp only [fld, fmtR]; omega
  have hne : (d.toNat != t.toNat || d.toNat == 0) = true := by
    by_cases h : d.toNat = t.toNat
    · simp [hwf h]
    · simp [h]
  simp only [decode_20 W e5, decLanding, e0, e1, e2, e3, e4, need, hne, gr, BitVec.ofNat_toNat]
  simp

theorem takeo (d : BitVec 5) (t : BitVec 5) (set : BitVec 2) : Statement (.takeo d t set) := by
  refine of_word (w := fmtR 32 d.toNat t.toNat set.toNat 1) rfl fun hwf => ?_
  have hwf : d.toNat = t.toNat → d.toNat = 0 := distinct_of_wf _ _ _ hwf
  generalize hW : fmtR 32 d.toNat t.toNat set.toNat 1 = W
  have e0 : fld W 0 11 = 1 := by subst hW; simp only [fld, fmtR]; omega
  have e1 : fld W 11 2 = set.toNat := by subst hW; simp only [fld, fmtR]; omega
  have e2 : fld W 13 3 = 0 := by subst hW; simp only [fld, fmtR]; omega
  have e3 : fld W 16 5 = t.toNat := by subst hW; simp only [fld, fmtR]; omega
  have e4 : fld W 21 5 = d.toNat := by subst hW; simp only [fld, fmtR]; omega
  have e5 : fld W 26 6 = 32 := by subst hW; simp only [fld, fmtR]; omega
  have hne : (d.toNat != t.toNat || d.toNat == 0) = true := by
    by_cases h : d.toNat = t.toNat
    · simp [hwf h]
    · simp [h]
  simp only [decode_20 W e5, decLanding, e0, e1, e2, e3, e4, need, hne, gr, BitVec.ofNat_toNat]
  simp

theorem takev (d : BitVec 5) (t : BitVec 5) (set : BitVec 2) : Statement (.takev d t set) := by
  refine of_word (w := fmtR 32 d.toNat t.toNat set.toNat 2) rfl fun hwf => ?_
  generalize hW : fmtR 32 d.toNat t.toNat set.toNat 2 = W
  have e0 : fld W 0 11 = 2 := by subst hW; simp only [fld, fmtR]; omega
  have e1 : fld W 11 2 = set.toNat := by subst hW; simp only [fld, fmtR]; omega
  have e2 : fld W 13 3 = 0 := by subst hW; simp only [fld, fmtR]; omega
  have e3 : fld W 16 5 = t.toNat := by subst hW; simp only [fld, fmtR]; omega
  have e4 : fld W 21 5 = d.toNat := by subst hW; simp only [fld, fmtR]; omega
  have e5 : fld W 26 6 = 32 := by subst hW; simp only [fld, fmtR]; omega
  simp [decode_20 W e5, decLanding, e0, e1, e2, e3, e4, need, hOk, hr, gr, bit1, sub, BitVec.ofNat_toNat, b2n_one, szOf_code, ordOf_code, amoOf_code, srOf_code, pfOf_code, copySrcOf_code, redOf_code, credFmtOf_code, csrOf_code]

theorem lcnt (d : BitVec 5) (set : BitVec 2) : Statement (.lcnt d set) := by
  refine of_word (w := fmtR 32 d.toNat 0 set.toNat 3) rfl fun hwf => ?_
  generalize hW : fmtR 32 d.toNat 0 set.toNat 3 = W
  have e0 : fld W 0 11 = 3 := by subst hW; simp only [fld, fmtR]; omega
  have e1 : fld W 11 2 = set.toNat := by subst hW; simp only [fld, fmtR]; omega
  have e2 : fld W 13 3 = 0 := by subst hW; simp only [fld, fmtR]; omega
  have e3 : fld W 16 5 = 0 := by subst hW; simp only [fld, fmtR]; omega
  have e4 : fld W 21 5 = d.toNat := by subst hW; simp only [fld, fmtR]; omega
  have e5 : fld W 26 6 = 32 := by subst hW; simp only [fld, fmtR]; omega
  simp [decode_20 W e5, decLanding, e0, e1, e2, e3, e4, need, hOk, hr, gr, bit1, sub, BitVec.ofNat_toNat, b2n_one, szOf_code, ordOf_code, amoOf_code, srOf_code, pfOf_code, copySrcOf_code, redOf_code, credFmtOf_code, csrOf_code]

theorem ldrop (set : BitVec 2) : Statement (.ldrop set) := by
  refine of_word (w := fmtR 32 0 0 set.toNat 4) rfl fun hwf => ?_
  generalize hW : fmtR 32 0 0 set.toNat 4 = W
  have e0 : fld W 0 11 = 4 := by subst hW; simp only [fld, fmtR]; omega
  have e1 : fld W 11 2 = set.toNat := by subst hW; simp only [fld, fmtR]; omega
  have e2 : fld W 13 3 = 0 := by subst hW; simp only [fld, fmtR]; omega
  have e3 : fld W 16 10 = 0 := by subst hW; simp only [fld, fmtR]; omega
  have e4 : fld W 26 6 = 32 := by subst hW; simp only [fld, fmtR]; omega
  simp [decode_20 W e4, decLanding, e0, e1, e2, e3, need, hOk, hr, gr, bit1, sub, BitVec.ofNat_toNat, b2n_one, szOf_code, ordOf_code, amoOf_code, srOf_code, pfOf_code, copySrcOf_code, redOf_code, credFmtOf_code, csrOf_code]

theorem amo_read (op : AmoOp) (dbl : Bool) (ord : Ord4) (x m o : Nat) (d a b : BitVec 5) (W : Nat) (hx : x < 10)
    (hm : (m == 1) = dbl) (ho : ordOf o = ord) (hop : amoOf x = some op) (hf : (op != .fadd || !dbl) = true)
    (e0 : fld W 0 4 = x) (e1 : fld W 4 1 = m) (e2 : fld W 4 2 = m + 2) (e3 : fld W 6 2 = o) (e4 : fld W 8 1 = 0)
    (e5 : fld W 9 2 = 0) (e6 : fld W 11 5 = b.toNat) (e7 : fld W 16 5 = a.toNat) (e8 : fld W 21 5 = d.toNat)
    (e9 : fld W 26 6 = 33) : decode W = .ok (.amo op dbl ord d a b) := by
  have hne : x ≠ 15 := by omega
  rw [decode_21 W e9]
  simp only [decAmo, e0, e1, e2, e3, e4, e5, e6, e7, e8, need, gr, bit1, Sys2Proof.sub, hm, ho, hop, hne, hf, BitVec.ofNat_toNat,
    BitVec.setWidth_eq]
  simp

theorem amo_word (op : AmoOp) (dbl : Bool) (ord : Ord4) (x m o : Nat) (d a b : BitVec 5) (hx : x < 10) (hm2 : m < 2) (ho4 : o < 4)
    (hm : (m == 1) = dbl) (ho : ordOf o = ord) (hop : amoOf x = some op) (hf : (op != .fadd || !dbl) = true) :
    decode (fmtR 33 d.toNat a.toNat b.toNat (o * 64 + 32 + 16 * m + x)) = .ok (.amo op dbl ord d a b) := by
  have := d.isLt
  have := a.isLt
  have := b.isLt
  refine amo_read op dbl ord x m o d a b _ hx hm ho hop hf ?_ ?_ ?_ ?_ ?_ ?_ ?_ ?_ ?_ ?_ <;> simp only [fld, fmtR] <;> omega

theorem amo (op : AmoOp) (dbl : Bool) (ord : Ord4) (d : BitVec 5) (a : BitVec 5) (b : BitVec 5) : Statement (.amo op dbl ord d a b) := by
  refine of_word (w := fmtR 33 d.toNat a.toNat b.toNat (ord.code * 64 + 32 + 16 * b2n dbl + op.code)) rfl fun hwf => ?_
  have hwf : op = .fadd → dbl = false := by
    have h : (if op == .fadd && dbl then some IllFormed.atomic else none).isNone = true := hwf
    simpa using h
  have hf : (op != .fadd || !dbl) = true := by
    by_cases h : op = .fadd
    · simp [hwf h]
    · simp [h]
  exact amo_word op dbl ord _ _ _ d a b (AmoOp.code_lt op) (b2n_lt dbl) (Ord4.code_lt ord) (b2n_one dbl) (ordOf_code ord)
    (amoOf_code op) hf

theorem cas (dbl : Bool) (ord : Ord4) (d : BitVec 5) (a : BitVec 5) (b : BitVec 5) : Statement (.cas dbl ord d a b) := by
  refine of_word (w := fmtR 33 d.toNat a.toNat b.toNat (ord.code * 64 + 32 + 16 * b2n dbl + 15)) rfl fun hwf => ?_
  have := Ord4.code_lt ord
  have := b2n_lt dbl
  generalize hW : fmtR 33 d.toNat a.toNat b.toNat (ord.code * 64 + 32 + 16 * b2n dbl + 15) = W
  have e0 : fld W 0 4 = 15 := by subst hW; simp only [fld, fmtR]; omega
  have e1 : fld W 4 1 = (b2n dbl) := by subst hW; simp only [fld, fmtR]; omega
  have e2 : fld W 4 2 = (b2n dbl) + 2 := by subst hW; simp only [fld, fmtR]; omega
  have e3 : fld W 6 2 = ord.code := by subst hW; simp only [fld, fmtR]; omega
  have e4 : fld W 8 1 = 0 := by subst hW; simp only [fld, fmtR]; omega
  have e5 : fld W 9 2 = 0 := by subst hW; simp only [fld, fmtR]; omega
  have e6 : fld W 11 5 = b.toNat := by subst hW; simp only [fld, fmtR]; omega
  have e7 : fld W 16 5 = a.toNat := by subst hW; simp only [fld, fmtR]; omega
  have e8 : fld W 21 5 = d.toNat := by subst hW; simp only [fld, fmtR]; omega
  have e9 : fld W 26 6 = 33 := by subst hW; simp only [fld, fmtR]; omega
  simp [decode_21 W e9, decAmo, e0, e1, e2, e3, e4, e5, e6, e7, e8, need, hOk, hr, gr, bit1, sub, BitVec.ofNat_toNat, b2n_one, szOf_code, ordOf_code, amoOf_code, srOf_code, pfOf_code, copySrcOf_code, redOf_code, credFmtOf_code, csrOf_code]

theorem red (op : AmoOp) (dbl : Bool) (rel : Bool) (a : BitVec 5) (b : BitVec 5) : Statement (.red op dbl rel a b) := by
  refine of_word (w := fmtR 34 0 a.toNat b.toNat (128 * b2n rel + 32 + 16 * b2n dbl + op.code)) rfl fun hwf => ?_
  have := AmoOp.code_lt op
  have := b2n_lt dbl
  have := b2n_lt rel
  have hwf : (op = .fadd → dbl = false) ∧ op.isRed = true := by
    have h : (if (op == .minn || op == .maxn || op == .swap) || (op == .fadd && dbl) then some IllFormed.atomic else none).isNone
      = true := hwf
    cases op <;> simp_all [AmoOp.isRed]
  generalize hW : fmtR 34 0 a.toNat b.toNat (128 * b2n rel + 32 + 16 * b2n dbl + op.code) = W
  have e0 : fld W 0 4 = op.code := by subst hW; simp only [fld, fmtR]; omega
  have e1 : fld W 4 1 = (b2n dbl) := by subst hW; simp only [fld, fmtR]; omega
  have e2 : fld W 4 2 = (b2n dbl) + 2 := by subst hW; simp only [fld, fmtR]; omega
  have e3 : fld W 6 1 = 0 := by subst hW; simp only [fld, fmtR]; omega
  have e4 : fld W 7 1 = (b2n rel) := by subst hW; simp only [fld, fmtR]; omega
  have e5 : fld W 8 1 = 0 := by subst hW; simp only [fld, fmtR]; omega
  have e6 : fld W 9 2 = 0 := by subst hW; simp only [fld, fmtR]; omega
  have e7 : fld W 11 5 = b.toNat := by subst hW; simp only [fld, fmtR]; omega
  have e8 : fld W 16 5 = a.toNat := by subst hW; simp only [fld, fmtR]; omega
  have e9 : fld W 21 5 = 0 := by subst hW; simp only [fld, fmtR]; omega
  have e10 : fld W 26 6 = 34 := by subst hW; simp only [fld, fmtR]; omega
  have hf : (op != .fadd || !dbl) = true := by
    by_cases h : op = .fadd
    · simp [hwf.1 h]
    · simp [h]
  rw [decode_22 W e10]
  simp only [decRed, e0, e1, e2, e3, e4, e5, e6, e7, e8, e9, need, gr, bit1, Sys2Proof.sub, b2n_one, amoOf_code, hwf.2, hf]
  simp

theorem fence : Statement .fence := by
  refine of_word (w := fmtR 35 0 0 0 0) rfl fun hwf => ?_
  generalize hW : fmtR 35 0 0 0 0 = W
  have e0 : fld W 0 11 = 0 := by subst hW; simp only [fld, fmtR]; omega
  have e1 : fld W 11 15 = 0 := by subst hW; simp only [fld, fmtR]; omega
  have e2 : fld W 26 6 = 35 := by subst hW; simp only [fld, fmtR]; omega
  simp [decode_23 W e2, decOrder, e0, e1, need, hOk, hr, gr, bit1, sub, BitVec.ofNat_toNat, b2n_one, szOf_code, ordOf_code, amoOf_code, srOf_code, pfOf_code, copySrcOf_code, redOf_code, credFmtOf_code, csrOf_code]

theorem drainst : Statement .drainst := by
  refine of_word (w := fmtR 35 0 0 0 1) rfl fun hwf => ?_
  generalize hW : fmtR 35 0 0 0 1 = W
  have e0 : fld W 0 11 = 1 := by subst hW; simp only [fld, fmtR]; omega
  have e1 : fld W 11 15 = 0 := by subst hW; simp only [fld, fmtR]; omega
  have e2 : fld W 26 6 = 35 := by subst hW; simp only [fld, fmtR]; omega
  simp [decode_23 W e2, decOrder, e0, e1, need, hOk, hr, gr, bit1, sub, BitVec.ofNat_toNat, b2n_one, szOf_code, ordOf_code, amoOf_code, srOf_code, pfOf_code, copySrcOf_code, redOf_code, credFmtOf_code, csrOf_code]

theorem bar (n : BitVec 5) : Statement (.bar n) := by
  refine of_word (w := fmtR 35 0 0 n.toNat 2) rfl fun hwf => ?_
  generalize hW : fmtR 35 0 0 n.toNat 2 = W
  have e0 : fld W 0 11 = 2 := by subst hW; simp only [fld, fmtR]; omega
  have e1 : fld W 11 5 = n.toNat := by subst hW; simp only [fld, fmtR]; omega
  have e2 : fld W 16 10 = 0 := by subst hW; simp only [fld, fmtR]; omega
  have e3 : fld W 26 6 = 35 := by subst hW; simp only [fld, fmtR]; omega
  simp [decode_23 W e3, decOrder, e0, e1, e2, need, hOk, hr, gr, bit1, sub, BitVec.ofNat_toNat, b2n_one, szOf_code, ordOf_code, amoOf_code, srOf_code, pfOf_code, copySrcOf_code, redOf_code, credFmtOf_code, csrOf_code]

theorem bari (n : BitVec 5) (a : BitVec 5) : Statement (.bari n a) := by
  refine of_word (w := fmtR 35 0 a.toNat n.toNat 3) rfl fun hwf => ?_
  generalize hW : fmtR 35 0 a.toNat n.toNat 3 = W
  have e0 : fld W 0 11 = 3 := by subst hW; simp only [fld, fmtR]; omega
  have e1 : fld W 11 5 = n.toNat := by subst hW; simp only [fld, fmtR]; omega
  have e2 : fld W 16 5 = a.toNat := by subst hW; simp only [fld, fmtR]; omega
  have e3 : fld W 21 5 = 0 := by subst hW; simp only [fld, fmtR]; omega
  have e4 : fld W 26 6 = 35 := by subst hW; simp only [fld, fmtR]; omega
  simp [decode_23 W e4, decOrder, e0, e1, e2, e3, need, hOk, hr, gr, bit1, sub, BitVec.ofNat_toNat, b2n_one, szOf_code, ordOf_code, amoOf_code, srOf_code, pfOf_code, copySrcOf_code, redOf_code, credFmtOf_code, csrOf_code]

theorem bara (n : BitVec 5) : Statement (.bara n) := by
  refine of_word (w := fmtR 35 0 0 n.toNat 4) rfl fun hwf => ?_
  generalize hW : fmtR 35 0 0 n.toNat 4 = W
  have e0 : fld W 0 11 = 4 := by subst hW; simp only [fld, fmtR]; omega
  have e1 : fld W 11 5 = n.toNat := by subst hW; simp only [fld, fmtR]; omega
  have e2 : fld W 16 10 = 0 := by subst hW; simp only [fld, fmtR]; omega
  have e3 : fld W 26 6 = 35 := by subst hW; simp only [fld, fmtR]; omega
  simp [decode_23 W e3, decOrder, e0, e1, e2, need, hOk, hr, gr, bit1, sub, BitVec.ofNat_toNat, b2n_one, szOf_code, ordOf_code, amoOf_code, srOf_code, pfOf_code, copySrcOf_code, redOf_code, credFmtOf_code, csrOf_code]

theorem barw (n : BitVec 5) : Statement (.barw n) := by
  refine of_word (w := fmtR 35 0 0 n.toNat 5) rfl fun hwf => ?_
  generalize hW : fmtR 35 0 0 n.toNat 5 = W
  have e0 : fld W 0 11 = 5 := by subst hW; simp only [fld, fmtR]; omega
  have e1 : fld W 11 5 = n.toNat := by subst hW; simp only [fld, fmtR]; omega
  have e2 : fld W 16 10 = 0 := by subst hW; simp only [fld, fmtR]; omega
  have e3 : fld W 26 6 = 35 := by subst hW; simp only [fld, fmtR]; omega
  simp [decode_23 W e3, decOrder, e0, e1, e2, need, hOk, hr, gr, bit1, sub, BitVec.ofNat_toNat, b2n_one, szOf_code, ordOf_code, amoOf_code, srOf_code, pfOf_code, copySrcOf_code, redOf_code, credFmtOf_code, csrOf_code]

theorem vadd (d : BitVec 5) (a : BitVec 5) (b : BitVec 5) (w : West) : Statement (.vadd d a b w) := by
  have e := G3 36 0 d a b w (by decide) (by decide)
  refine of_word (w := fmtR 36 d.toNat a.toNat b.toNat 0 + w.bits) rfl fun _ => ?_
  generalize fmtR 36 d.toNat a.toNat b.toNat 0 + w.bits = W at e ⊢
  simp only [decode_24 W e.1, decVecArith, e.2.1, e.2.2]

theorem vsub (d : BitVec 5) (a : BitVec 5) (b : BitVec 5) (w : West) : Statement (.vsub d a b w) := by
  have e := G3 36 1 d a b w (by decide) (by decide)
  refine of_word (w := fmtR 36 d.toNat a.toNat b.toNat 1 + w.bits) rfl fun _ => ?_
  generalize fmtR 36 d.toNat a.toNat b.toNat 1 + w.bits = W at e ⊢
  simp only [decode_24 W e.1, decVecArith, e.2.1, e.2.2]

theorem vmul (d : BitVec 5) (a : BitVec 5) (b : BitVec 5) (w : West) : Statement (.vmul d a b w) := by
  have e := G3 36 2 d a b w (by decide) (by decide)
  refine of_word (w := fmtR 36 d.toNat a.toNat b.toNat 2 + w.bits) rfl fun _ => ?_
  generalize fmtR 36 d.toNat a.toNat b.toNat 2 + w.bits = W at e ⊢
  simp only [decode_24 W e.1, decVecArith, e.2.1, e.2.2]

theorem vfma (d : BitVec 5) (a : BitVec 5) (b : BitVec 5) (w : West) : Statement (.vfma d a b w) := by
  have e := G3 36 3 d a b w (by decide) (by decide)
  refine of_word (w := fmtR 36 d.toNat a.toNat b.toNat 3 + w.bits) rfl fun _ => ?_
  generalize fmtR 36 d.toNat a.toNat b.toNat 3 + w.bits = W at e ⊢
  simp only [decode_24 W e.1, decVecArith, e.2.1, e.2.2]

theorem vmin (d : BitVec 5) (a : BitVec 5) (b : BitVec 5) (w : West) : Statement (.vmin d a b w) := by
  have e := G3 36 4 d a b w (by decide) (by decide)
  refine of_word (w := fmtR 36 d.toNat a.toNat b.toNat 4 + w.bits) rfl fun _ => ?_
  generalize fmtR 36 d.toNat a.toNat b.toNat 4 + w.bits = W at e ⊢
  simp only [decode_24 W e.1, decVecArith, e.2.1, e.2.2]

theorem vmax (d : BitVec 5) (a : BitVec 5) (b : BitVec 5) (w : West) : Statement (.vmax d a b w) := by
  have e := G3 36 5 d a b w (by decide) (by decide)
  refine of_word (w := fmtR 36 d.toNat a.toNat b.toNat 5 + w.bits) rfl fun _ => ?_
  generalize fmtR 36 d.toNat a.toNat b.toNat 5 + w.bits = W at e ⊢
  simp only [decode_24 W e.1, decVecArith, e.2.1, e.2.2]

theorem vabs (d : BitVec 5) (a : BitVec 5) (w : Bool) : Statement (.vabs d a w) := by
  have e := G2 36 6 d a w (by decide) (by decide)
  refine of_word (w := fmtR 36 d.toNat a.toNat 0 6 + 1024 * b2n w) rfl fun _ => ?_
  generalize fmtR 36 d.toNat a.toNat 0 6 + 1024 * b2n w = W at e ⊢
  simp only [decode_24 W e.1, decVecArith, e.2.1, e.2.2]

theorem vneg (d : BitVec 5) (a : BitVec 5) (w : Bool) : Statement (.vneg d a w) := by
  have e := G2 36 7 d a w (by decide) (by decide)
  refine of_word (w := fmtR 36 d.toNat a.toNat 0 7 + 1024 * b2n w) rfl fun _ => ?_
  generalize fmtR 36 d.toNat a.toNat 0 7 + 1024 * b2n w = W at e ⊢
  simp only [decode_24 W e.1, decVecArith, e.2.1, e.2.2]

theorem vand (d : BitVec 5) (a : BitVec 5) (b : BitVec 5) (w : West) : Statement (.vand d a b w) := by
  have e := G3 37 0 d a b w (by decide) (by decide)
  refine of_word (w := fmtR 37 d.toNat a.toNat b.toNat 0 + w.bits) rfl fun _ => ?_
  generalize fmtR 37 d.toNat a.toNat b.toNat 0 + w.bits = W at e ⊢
  simp only [decode_25 W e.1, decVecLogic, e.2.1, e.2.2]

theorem vor (d : BitVec 5) (a : BitVec 5) (b : BitVec 5) (w : West) : Statement (.vor d a b w) := by
  have e := G3 37 1 d a b w (by decide) (by decide)
  refine of_word (w := fmtR 37 d.toNat a.toNat b.toNat 1 + w.bits) rfl fun _ => ?_
  generalize fmtR 37 d.toNat a.toNat b.toNat 1 + w.bits = W at e ⊢
  simp only [decode_25 W e.1, decVecLogic, e.2.1, e.2.2]

theorem vxor (d : BitVec 5) (a : BitVec 5) (b : BitVec 5) (w : West) : Statement (.vxor d a b w) := by
  have e := G3 37 2 d a b w (by decide) (by decide)
  refine of_word (w := fmtR 37 d.toNat a.toNat b.toNat 2 + w.bits) rfl fun _ => ?_
  generalize fmtR 37 d.toNat a.toNat b.toNat 2 + w.bits = W at e ⊢
  simp only [decode_25 W e.1, decVecLogic, e.2.1, e.2.2]

theorem vnot (d : BitVec 5) (a : BitVec 5) (w : Bool) : Statement (.vnot d a w) := by
  have e := G2 37 3 d a w (by decide) (by decide)
  refine of_word (w := fmtR 37 d.toNat a.toNat 0 3 + 1024 * b2n w) rfl fun _ => ?_
  generalize fmtR 37 d.toNat a.toNat 0 3 + 1024 * b2n w = W at e ⊢
  simp only [decode_25 W e.1, decVecLogic, e.2.1, e.2.2]

theorem vshl (d : BitVec 5) (a : BitVec 5) (b : BitVec 5) (w : West) : Statement (.vshl d a b w) := by
  have e := G3 37 4 d a b w (by decide) (by decide)
  refine of_word (w := fmtR 37 d.toNat a.toNat b.toNat 4 + w.bits) rfl fun _ => ?_
  generalize fmtR 37 d.toNat a.toNat b.toNat 4 + w.bits = W at e ⊢
  simp only [decode_25 W e.1, decVecLogic, e.2.1, e.2.2]

theorem vshr (d : BitVec 5) (a : BitVec 5) (b : BitVec 5) (w : West) : Statement (.vshr d a b w) := by
  have e := G3 37 5 d a b w (by decide) (by decide)
  refine of_word (w := fmtR 37 d.toNat a.toNat b.toNat 5 + w.bits) rfl fun _ => ?_
  generalize fmtR 37 d.toNat a.toNat b.toNat 5 + w.bits = W at e ⊢
  simp only [decode_25 W e.1, decVecLogic, e.2.1, e.2.2]

theorem vsar (d : BitVec 5) (a : BitVec 5) (b : BitVec 5) (w : West) : Statement (.vsar d a b w) := by
  have e := G3 37 6 d a b w (by decide) (by decide)
  refine of_word (w := fmtR 37 d.toNat a.toNat b.toNat 6 + w.bits) rfl fun _ => ?_
  generalize fmtR 37 d.toNat a.toNat b.toNat 6 + w.bits = W at e ⊢
  simp only [decode_25 W e.1, decVecLogic, e.2.1, e.2.2]

theorem vcmp_word (c : CmpCond) (k : Nat) (d : BitVec 3) (a b : BitVec 5) (w : West) (hk : k = c.code) (hd : 1 ≤ d.toNat) :
    decode (fmtR 38 d.toNat a.toNat b.toNat k + w.bits) = .ok (.vcmp c d a b w) := by
  have hm : d.toNat ≤ 7 := Nat.le_of_lt_succ d.isLt
  have hk8 : k < 8 := hk ▸ CmpCond.code_lt c
  have hw : w.bits = 0 ∨ w.bits = 1024 ∨ w.bits = 512 := by cases w <;> simp [West.bits]
  have h5 : (d.setWidth 5).toNat = d.toNat := by simp; omega
  have g := G3 38 k (d.setWidth 5) a b w (by omega) (by omega)
  simp only [h5] at g
  obtain ⟨e1, e0, g⟩ := g
  have e2 : fld (fmtR 38 d.toNat a.toNat b.toNat k + w.bits) 21 5 = d.toNat := by simp only [fld, fmtR]; omega
  have e3 : fld (fmtR 38 d.toNat a.toNat b.toNat k + w.bits) 21 3 = d.toNat := by simp only [fld, fmtR]; omega
  generalize fmtR 38 d.toNat a.toNat b.toNat k + w.bits = W at *
  have v : decVcmp W c = .ok (.vcmp c d a b w) := by simp [decVcmp, e2, e3, need, g, hd, hm]
  rw [decode_26 W e1, ← v]
  cases c <;> simp only [decMask, e0, hk, CmpCond.code]

theorem vcmp (c : CmpCond) (d : BitVec 3) (a : BitVec 5) (b : BitVec 5) (w : West) : Statement (.vcmp c d a b w) :=
  of_word (w := fmtR 38 d.toNat a.toNat b.toNat c.code + w.bits) rfl fun hwf => vcmp_word c _ d a b w rfl (pos_of_wf _ _ hwf)

theorem vsel (d : BitVec 5) (a : BitVec 5) (b : BitVec 5) (w : West) : Statement (.vsel d a b w) := by
  have e := G3 38 16 d a b w (by decide) (by decide)
  refine of_word (w := fmtR 38 d.toNat a.toNat b.toNat 16 + w.bits) rfl fun _ => ?_
  generalize fmtR 38 d.toNat a.toNat b.toNat 16 + w.bits = W at e ⊢
  simp only [decode_26 W e.1, decMask, e.2.1, e.2.2]

theorem mand (d : BitVec 3) (a : BitVec 3) (b : BitVec 3) : Statement (.mand d a b) := by
  refine of_word (w := fmtR 38 d.toNat a.toNat b.toNat 32) rfl fun hwf => ?_
  have hwf : 1 ≤ d.toNat := pos_of_wf _ _ hwf
  have hm : d.toNat ≤ 7 := Nat.le_of_lt_succ d.isLt
  generalize hW : fmtR 38 d.toNat a.toNat b.toNat 32 = W
  have e0 : fld W 0 9 = 32 := by subst hW; simp only [fld, fmtR]; omega
  have e1 : fld W 9 2 = 0 := by subst hW; simp only [fld, fmtR]; omega
  have e2 : fld W 11 3 = b.toNat := by subst hW; simp only [fld, fmtR]; omega
  have e3 : fld W 14 2 = 0 := by subst hW; simp only [fld, fmtR]; omega
  have e4 : fld W 16 3 = a.toNat := by subst hW; simp only [fld, fmtR]; omega
  have e5 : fld W 19 2 = 0 := by subst hW; simp only [fld, fmtR]; omega
  have e6 : fld W 21 3 = d.toNat := by subst hW; simp only [fld, fmtR]; omega
  have e7 : fld W 21 5 = d.toNat := by subst hW; simp only [fld, fmtR]; omega
  have e8 : fld W 26 6 = 38 := by subst hW; simp only [fld, fmtR]; omega
  simp [decode_26 W e8, decM3, decMask, e0, e1, e2, e3, e4, e5, e6, e7, need, hOk, hr, gr, bit1, sub, BitVec.ofNat_toNat, b2n_one, szOf_code, ordOf_code, amoOf_code, srOf_code, pfOf_code, copySrcOf_code, redOf_code, credFmtOf_code, csrOf_code, hwf, hm]

theorem mor (d : BitVec 3) (a : BitVec 3) (b : BitVec 3) : Statement (.mor d a b) := by
  refine of_word (w := fmtR 38 d.toNat a.toNat b.toNat 33) rfl fun hwf => ?_
  have hwf : 1 ≤ d.toNat := pos_of_wf _ _ hwf
  have hm : d.toNat ≤ 7 := Nat.le_of_lt_succ d.isLt
  generalize hW : fmtR 38 d.toNat a.toNat b.toNat 33 = W
  have e0 : fld W 0 9 = 33 := by subst hW; simp only [fld, fmtR]; omega
  have e1 : fld W 9 2 = 0 := by subst hW; simp only [fld, fmtR]; omega
  have e2 : fld W 11 3 = b.toNat := by subst hW; simp only [fld, fmtR]; omega
  have e3 : fld W 14 2 = 0 := by subst hW; simp only [fld, fmtR]; omega
  have e4 : fld W 16 3 = a.toNat := by subst hW; simp only [fld, fmtR]; omega
  have e5 : fld W 19 2 = 0 := by subst hW; simp only [fld, fmtR]; omega
  have e6 : fld W 21 3 = d.toNat := by subst hW; simp only [fld, fmtR]; omega
  have e7 : fld W 21 5 = d.toNat := by subst hW; simp only [fld, fmtR]; omega
  have e8 : fld W 26 6 = 38 := by subst hW; simp only [fld, fmtR]; omega
  simp [decode_26 W e8, decM3, decMask, e0, e1, e2, e3, e4, e5, e6, e7, need, hOk, hr, gr, bit1, sub, BitVec.ofNat_toNat, b2n_one, szOf_code, ordOf_code, amoOf_code, srOf_code, pfOf_code, copySrcOf_code, redOf_code, credFmtOf_code, csrOf_code, hwf, hm]

theorem mxor (d : BitVec 3) (a : BitVec 3) (b : BitVec 3) : Statement (.mxor d a b) := by
  refine of_word (w := fmtR 38 d.toNat a.toNat b.toNat 34) rfl fun hwf => ?_
  have hwf : 1 ≤ d.toNat := pos_of_wf _ _ hwf
  have hm : d.toNat ≤ 7 := Nat.le_of_lt_succ d.isLt
  generalize hW : fmtR 38 d.toNat a.toNat b.toNat 34 = W
  have e0 : fld W 0 9 = 34 := by subst hW; simp only [fld, fmtR]; omega
  have e1 : fld W 9 2 = 0 := by subst hW; simp only [fld, fmtR]; omega
  have e2 : fld W 11 3 = b.toNat := by subst hW; simp only [fld, fmtR]; omega
  have e3 : fld W 14 2 = 0 := by subst hW; simp only [fld, fmtR]; omega
  have e4 : fld W 16 3 = a.toNat := by subst hW; simp only [fld, fmtR]; omega
  have e5 : fld W 19 2 = 0 := by subst hW; simp only [fld, fmtR]; omega
  have e6 : fld W 21 3 = d.toNat := by subst hW; simp only [fld, fmtR]; omega
  have e7 : fld W 21 5 = d.toNat := by subst hW; simp only [fld, fmtR]; omega
  have e8 : fld W 26 6 = 38 := by subst hW; simp only [fld, fmtR]; omega
  simp [decode_26 W e8, decM3, decMask, e0, e1, e2, e3, e4, e5, e6, e7, need, hOk, hr, gr, bit1, sub, BitVec.ofNat_toNat, b2n_one, szOf_code, ordOf_code, amoOf_code, srOf_code, pfOf_code, copySrcOf_code, redOf_code, credFmtOf_code, csrOf_code, hwf, hm]

theorem mnot (d : BitVec 3) (a : BitVec 3) : Statement (.mnot d a) := by
  refine of_word (w := fmtR 38 d.toNat a.toNat 0 35) rfl fun hwf => ?_
  have hwf : 1 ≤ d.toNat := pos_of_wf _ _ hwf
  have hm : d.toNat ≤ 7 := Nat.le_of_lt_succ d.isLt
  generalize hW : fmtR 38 d.toNat a.toNat 0 35 = W
  have e0 : fld W 0 9 = 35 := by subst hW; simp only [fld, fmtR]; omega
  have e1 : fld W 9 2 = 0 := by subst hW; simp only [fld, fmtR]; omega
  have e2 : fld W 11 3 = 0 := by subst hW; simp only [fld, fmtR]; omega
  have e3 : fld W 11 5 = 0 := by subst hW; simp only [fld, fmtR]; omega
  have e4 : fld W 14 2 = 0 := by subst hW; simp only [fld, fmtR]; omega
  have e5 : fld W 16 3 = a.toNat := by subst hW; simp only [fld, fmtR]; omega
  have e6 : fld W 19 2 = 0 := by subst hW; simp only [fld, fmtR]; omega
  have e7 : fld W 21 3 = d.toNat := by subst hW; simp only [fld, fmtR]; omega
  have e8 : fld W 21 5 = d.toNat := by subst hW; simp only [fld, fmtR]; omega
  have e9 : fld W 26 6 = 38 := by subst hW; simp only [fld, fmtR]; omega
  simp [decode_26 W e9, decM3, decMask, e0, e1, e2, e3, e4, e5, e6, e7, e8, need, hOk, hr, gr, bit1, sub, BitVec.ofNat_toNat, b2n_one, szOf_code, ordOf_code, amoOf_code, srOf_code, pfOf_code, copySrcOf_code, redOf_code, credFmtOf_code, csrOf_code, hwf, hm]

theorem mset (d : BitVec 3) (a : BitVec 5) : Statement (.mset d a) := by
  refine of_word (w := fmtR 38 d.toNat a.toNat 0 36) rfl fun hwf => ?_
  have hwf : 1 ≤ d.toNat := pos_of_wf _ _ hwf
  have hm : d.toNat ≤ 7 := Nat.le_of_lt_succ d.isLt
  generalize hW : fmtR 38 d.toNat a.toNat 0 36 = W
  have e0 : fld W 0 9 = 36 := by subst hW; simp only [fld, fmtR]; omega
  have e1 : fld W 9 2 = 0 := by subst hW; simp only [fld, fmtR]; omega
  have e2 : fld W 11 5 = 0 := by subst hW; simp only [fld, fmtR]; omega
  have e3 : fld W 16 5 = a.toNat := by subst hW; simp only [fld, fmtR]; omega
  have e4 : fld W 21 3 = d.toNat := by subst hW; simp only [fld, fmtR]; omega
  have e5 : fld W 21 5 = d.toNat := by subst hW; simp only [fld, fmtR]; omega
  have e6 : fld W 26 6 = 38 := by subst hW; simp only [fld, fmtR]; omega
  simp [decode_26 W e6, decMask, e0, e1, e2, e3, e4, e5, need, hOk, hr, gr, bit1, sub, BitVec.ofNat_toNat, b2n_one, szOf_code, ordOf_code, amoOf_code, srOf_code, pfOf_code, copySrcOf_code, redOf_code, credFmtOf_code, csrOf_code, hwf, hm]

theorem vcvt (d : BitVec 5) (a : BitVec 5) (w : Bool) : Statement (.vcvt d a w) := by
  have e := G2 39 0 d a w (by decide) (by decide)
  refine of_word (w := fmtR 39 d.toNat a.toNat 0 0 + 1024 * b2n w) rfl fun _ => ?_
  generalize fmtR 39 d.toNat a.toNat 0 0 + 1024 * b2n w = W at e ⊢
  simp only [decode_27 W e.1, decVecCvt, e.2.1, e.2.2]

theorem vquant (d : BitVec 5) (a : BitVec 5) (b : BitVec 5) (w : West) : Statement (.vquant d a b w) := by
  have e := G3 39 1 d a b w (by decide) (by decide)
  refine of_word (w := fmtR 39 d.toNat a.toNat b.toNat 1 + w.bits) rfl fun _ => ?_
  generalize fmtR 39 d.toNat a.toNat b.toNat 1 + w.bits = W at e ⊢
  simp only [decode_27 W e.1, decVecCvt, e.2.1, e.2.2]

theorem vdeq (d : BitVec 5) (a : BitVec 5) (b : BitVec 5) (w : West) : Statement (.vdeq d a b w) := by
  have e := G3 39 2 d a b w (by decide) (by decide)
  refine of_word (w := fmtR 39 d.toNat a.toNat b.toNat 2 + w.bits) rfl fun _ => ?_
  generalize fmtR 39 d.toNat a.toNat b.toNat 2 + w.bits = W at e ⊢
  simp only [decode_27 W e.1, decVecCvt, e.2.1, e.2.2]

theorem vrcp (d : BitVec 5) (a : BitVec 5) (w : Bool) : Statement (.vrcp d a w) := by
  have e := G2 40 0 d a w (by decide) (by decide)
  refine of_word (w := fmtR 40 d.toNat a.toNat 0 0 + 1024 * b2n w) rfl fun _ => ?_
  generalize fmtR 40 d.toNat a.toNat 0 0 + 1024 * b2n w = W at e ⊢
  simp only [decode_28 W e.1, decVecSpecial, e.2.1, e.2.2]

theorem vrsq (d : BitVec 5) (a : BitVec 5) (w : Bool) : Statement (.vrsq d a w) := by
  have e := G2 40 1 d a w (by decide) (by decide)
  refine of_word (w := fmtR 40 d.toNat a.toNat 0 1 + 1024 * b2n w) rfl fun _ => ?_
  generalize fmtR 40 d.toNat a.toNat 0 1 + 1024 * b2n w = W at e ⊢
  simp only [decode_28 W e.1, decVecSpecial, e.2.1, e.2.2]

theorem vsqrt (d : BitVec 5) (a : BitVec 5) (w : Bool) : Statement (.vsqrt d a w) := by
  have e := G2 40 2 d a w (by decide) (by decide)
  refine of_word (w := fmtR 40 d.toNat a.toNat 0 2 + 1024 * b2n w) rfl fun _ => ?_
  generalize fmtR 40 d.toNat a.toNat 0 2 + 1024 * b2n w = W at e ⊢
  simp only [decode_28 W e.1, decVecSpecial, e.2.1, e.2.2]

theorem vdiv (d : BitVec 5) (a : BitVec 5) (b : BitVec 5) (w : West) : Statement (.vdiv d a b w) := by
  have e := G3 40 3 d a b w (by decide) (by decide)
  refine of_word (w := fmtR 40 d.toNat a.toNat b.toNat 3 + w.bits) rfl fun _ => ?_
  generalize fmtR 40 d.toNat a.toNat b.toNat 3 + w.bits = W at e ⊢
  simp only [decode_28 W e.1, decVecSpecial, e.2.1, e.2.2]

theorem vexp2 (d : BitVec 5) (a : BitVec 5) (w : Bool) : Statement (.vexp2 d a w) := by
  have e := G2 40 4 d a w (by decide) (by decide)
  refine of_word (w := fmtR 40 d.toNat a.toNat 0 4 + 1024 * b2n w) rfl fun _ => ?_
  generalize fmtR 40 d.toNat a.toNat 0 4 + 1024 * b2n w = W at e ⊢
  simp only [decode_28 W e.1, decVecSpecial, e.2.1, e.2.2]

theorem vlog2 (d : BitVec 5) (a : BitVec 5) (w : Bool) : Statement (.vlog2 d a w) := by
  have e := G2 40 5 d a w (by decide) (by decide)
  refine of_word (w := fmtR 40 d.toNat a.toNat 0 5 + 1024 * b2n w) rfl fun _ => ?_
  generalize fmtR 40 d.toNat a.toNat 0 5 + 1024 * b2n w = W at e ⊢
  simp only [decode_28 W e.1, decVecSpecial, e.2.1, e.2.2]

theorem vsin (d : BitVec 5) (a : BitVec 5) (w : Bool) : Statement (.vsin d a w) := by
  have e := G2 40 6 d a w (by decide) (by decide)
  refine of_word (w := fmtR 40 d.toNat a.toNat 0 6 + 1024 * b2n w) rfl fun _ => ?_
  generalize fmtR 40 d.toNat a.toNat 0 6 + 1024 * b2n w = W at e ⊢
  simp only [decode_28 W e.1, decVecSpecial, e.2.1, e.2.2]

theorem vcos (d : BitVec 5) (a : BitVec 5) (w : Bool) : Statement (.vcos d a w) := by
  have e := G2 40 7 d a w (by decide) (by decide)
  refine of_word (w := fmtR 40 d.toNat a.toNat 0 7 + 1024 * b2n w) rfl fun _ => ?_
  generalize fmtR 40 d.toNat a.toNat 0 7 + 1024 * b2n w = W at e ⊢
  simp only [decode_28 W e.1, decVecSpecial, e.2.1, e.2.2]

theorem vtanh (d : BitVec 5) (a : BitVec 5) (w : Bool) : Statement (.vtanh d a w) := by
  have e := G2 40 8 d a w (by decide) (by decide)
  refine of_word (w := fmtR 40 d.toNat a.toNat 0 8 + 1024 * b2n w) rfl fun _ => ?_
  generalize fmtR 40 d.toNat a.toNat 0 8 + 1024 * b2n w = W at e ⊢
  simp only [decode_28 W e.1, decVecSpecial, e.2.1, e.2.2]

theorem vbcast (d : BitVec 5) (a : BitVec 5) : Statement (.vbcast d a) := by
  refine of_word (w := fmtR 41 d.toNat a.toNat 0 0) rfl fun hwf => ?_
  generalize hW : fmtR 41 d.toNat a.toNat 0 0 = W
  have e0 : fld W 0 11 = 0 := by subst hW; simp only [fld, fmtR]; omega
  have e1 : fld W 11 5 = 0 := by subst hW; simp only [fld, fmtR]; omega
  have e2 : fld W 16 5 = a.toNat := by subst hW; simp only [fld, fmtR]; omega
  have e3 : fld W 21 5 = d.toNat := by subst hW; simp only [fld, fmtR]; omega
  have e4 : fld W 26 6 = 41 := by subst hW; simp only [fld, fmtR]; omega
  simp [decode_29 W e4, decVecLane, e0, e1, e2, e3, need, hOk, hr, gr, bit1, sub, BitVec.ofNat_toNat, b2n_one, szOf_code, ordOf_code, amoOf_code, srOf_code, pfOf_code, copySrcOf_code, redOf_code, credFmtOf_code, csrOf_code]

theorem vext (d : BitVec 5) (a : BitVec 5) (b : BitVec 5) : Statement (.vext d a b) := by
  refine of_word (w := fmtR 41 d.toNat a.toNat b.toNat 1) rfl fun hwf => ?_
  generalize hW : fmtR 41 d.toNat a.toNat b.toNat 1 = W
  have e0 : fld W 0 11 = 1 := by subst hW; simp only [fld, fmtR]; omega
  have e1 : fld W 11 5 = b.toNat := by subst hW; simp only [fld, fmtR]; omega
  have e2 : fld W 16 5 = a.toNat := by subst hW; simp only [fld, fmtR]; omega
  have e3 : fld W 21 5 = d.toNat := by subst hW; simp only [fld, fmtR]; omega
  have e4 : fld W 26 6 = 41 := by subst hW; simp only [fld, fmtR]; omega
  simp [decode_29 W e4, decVecLane, e0, e1, e2, e3, need, hOk, hr, gr, bit1, sub, BitVec.ofNat_toNat, b2n_one, szOf_code, ordOf_code, amoOf_code, srOf_code, pfOf_code, copySrcOf_code, redOf_code, credFmtOf_code, csrOf_code]

theorem vins (d : BitVec 5) (a : BitVec 5) (b : BitVec 5) : Statement (.vins d a b) := by
  refine of_word (w := fmtR 41 d.toNat a.toNat b.toNat 2) rfl fun hwf => ?_
  generalize hW : fmtR 41 d.toNat a.toNat b.toNat 2 = W
  have e0 : fld W 0 11 = 2 := by subst hW; simp only [fld, fmtR]; omega
  have e1 : fld W 11 5 = b.toNat := by subst hW; simp only [fld, fmtR]; omega
  have e2 : fld W 16 5 = a.toNat := by subst hW; simp only [fld, fmtR]; omega
  have e3 : fld W 21 5 = d.toNat := by subst hW; simp only [fld, fmtR]; omega
  have e4 : fld W 26 6 = 41 := by subst hW; simp only [fld, fmtR]; omega
  simp [decode_29 W e4, decVecLane, e0, e1, e2, e3, need, hOk, hr, gr, bit1, sub, BitVec.ofNat_toNat, b2n_one, szOf_code, ordOf_code, amoOf_code, srOf_code, pfOf_code, copySrcOf_code, redOf_code, credFmtOf_code, csrOf_code]

theorem vperm (d : BitVec 5) (a : BitVec 5) (b : BitVec 5) : Statement (.vperm d a b) := by
  refine of_word (w := fmtR 41 d.toNat a.toNat b.toNat 3) rfl fun hwf => ?_
  generalize hW : fmtR 41 d.toNat a.toNat b.toNat 3 = W
  have e0 : fld W 0 11 = 3 := by subst hW; simp only [fld, fmtR]; omega
  have e1 : fld W 11 5 = b.toNat := by subst hW; simp only [fld, fmtR]; omega
  have e2 : fld W 16 5 = a.toNat := by subst hW; simp only [fld, fmtR]; omega
  have e3 : fld W 21 5 = d.toNat := by subst hW; simp only [fld, fmtR]; omega
  have e4 : fld W 26 6 = 41 := by subst hW; simp only [fld, fmtR]; omega
  simp [decode_29 W e4, decVecLane, e0, e1, e2, e3, need, hOk, hr, gr, bit1, sub, BitVec.ofNat_toNat, b2n_one, szOf_code, ordOf_code, amoOf_code, srOf_code, pfOf_code, copySrcOf_code, redOf_code, credFmtOf_code, csrOf_code]

theorem vrot (d : BitVec 5) (a : BitVec 5) (b : BitVec 5) : Statement (.vrot d a b) := by
  refine of_word (w := fmtR 41 d.toNat a.toNat b.toNat 4) rfl fun hwf => ?_
  generalize hW : fmtR 41 d.toNat a.toNat b.toNat 4 = W
  have e0 : fld W 0 11 = 4 := by subst hW; simp only [fld, fmtR]; omega
  have e1 : fld W 11 5 = b.toNat := by subst hW; simp only [fld, fmtR]; omega
  have e2 : fld W 16 5 = a.toNat := by subst hW; simp only [fld, fmtR]; omega
  have e3 : fld W 21 5 = d.toNat := by subst hW; simp only [fld, fmtR]; omega
  have e4 : fld W 26 6 = 41 := by subst hW; simp only [fld, fmtR]; omega
  simp [decode_29 W e4, decVecLane, e0, e1, e2, e3, need, hOk, hr, gr, bit1, sub, BitVec.ofNat_toNat, b2n_one, szOf_code, ordOf_code, amoOf_code, srOf_code, pfOf_code, copySrcOf_code, redOf_code, credFmtOf_code, csrOf_code]

theorem viota (d : BitVec 5) : Statement (.viota d) := by
  refine of_word (w := fmtR 41 d.toNat 0 0 5) rfl fun hwf => ?_
  generalize hW : fmtR 41 d.toNat 0 0 5 = W
  have e0 : fld W 0 11 = 5 := by subst hW; simp only [fld, fmtR]; omega
  have e1 : fld W 11 10 = 0 := by subst hW; simp only [fld, fmtR]; omega
  have e2 : fld W 21 5 = d.toNat := by subst hW; simp only [fld, fmtR]; omega
  have e3 : fld W 26 6 = 41 := by subst hW; simp only [fld, fmtR]; omega
  simp [decode_29 W e3, decVecLane, e0, e1, e2, need, hOk, hr, gr, bit1, sub, BitVec.ofNat_toNat, b2n_one, szOf_code, ordOf_code, amoOf_code, srOf_code, pfOf_code, copySrcOf_code, redOf_code, credFmtOf_code, csrOf_code]

theorem vpop (d : BitVec 5) (m : BitVec 3) : Statement (.vpop d m) := by
  refine of_word (w := fmtR 41 d.toNat m.toNat 0 6) rfl fun hwf => ?_
  generalize hW : fmtR 41 d.toNat m.toNat 0 6 = W
  have e0 : fld W 0 11 = 6 := by subst hW; simp only [fld, fmtR]; omega
  have e1 : fld W 11 5 = 0 := by subst hW; simp only [fld, fmtR]; omega
  have e2 : fld W 16 3 = m.toNat := by subst hW; simp only [fld, fmtR]; omega
  have e3 : fld W 19 2 = 0 := by subst hW; simp only [fld, fmtR]; omega
  have e4 : fld W 21 5 = d.toNat := by subst hW; simp only [fld, fmtR]; omega
  have e5 : fld W 26 6 = 41 := by subst hW; simp only [fld, fmtR]; omega
  simp [decode_29 W e5, decVecLane, e0, e1, e2, e3, e4, need, hOk, hr, gr, bit1, sub, BitVec.ofNat_toNat, b2n_one, szOf_code, ordOf_code, amoOf_code, srOf_code, pfOf_code, copySrcOf_code, redOf_code, credFmtOf_code, csrOf_code]

theorem vred (op : RedOp) (d : BitVec 5) (a : BitVec 5) : Statement (.vred op d a) := by
  cases op
  · refine of_word (w := fmtR 42 d.toNat a.toNat 0 0) rfl fun hwf => ?_
    generalize hW : fmtR 42 d.toNat a.toNat 0 0 = W
    have e0 : fld W 0 11 = 0 := by subst hW; simp only [fld, fmtR]; omega
    have e1 : fld W 11 5 = 0 := by subst hW; simp only [fld, fmtR]; omega
    have e2 : fld W 16 5 = a.toNat := by subst hW; simp only [fld, fmtR]; omega
    have e3 : fld W 21 5 = d.toNat := by subst hW; simp only [fld, fmtR]; omega
    have e4 : fld W 26 6 = 42 := by subst hW; simp only [fld, fmtR]; omega
    simp [decode_2A W e4, decVred, e0, e1, e2, e3, need, hOk, hr, gr, bit1, sub, BitVec.ofNat_toNat, b2n_one, szOf_code, ordOf_code, amoOf_code, srOf_code, pfOf_code, copySrcOf_code, redOf_code, credFmtOf_code, csrOf_code]
  · refine of_word (w := fmtR 42 d.toNat a.toNat 0 1) rfl fun hwf => ?_
    generalize hW : fmtR 42 d.toNat a.toNat 0 1 = W
    have e0 : fld W 0 11 = 1 := by subst hW; simp only [fld, fmtR]; omega
    have e1 : fld W 11 5 = 0 := by subst hW; simp only [fld, fmtR]; omega
    have e2 : fld W 16 5 = a.toNat := by subst hW; simp only [fld, fmtR]; omega
    have e3 : fld W 21 5 = d.toNat := by subst hW; simp only [fld, fmtR]; omega
    have e4 : fld W 26 6 = 42 := by subst hW; simp only [fld, fmtR]; omega
    simp [decode_2A W e4, decVred, e0, e1, e2, e3, need, hOk, hr, gr, bit1, sub, BitVec.ofNat_toNat, b2n_one, szOf_code, ordOf_code, amoOf_code, srOf_code, pfOf_code, copySrcOf_code, redOf_code, credFmtOf_code, csrOf_code]
  · refine of_word (w := fmtR 42 d.toNat a.toNat 0 2) rfl fun hwf => ?_
    generalize hW : fmtR 42 d.toNat a.toNat 0 2 = W
    have e0 : fld W 0 11 = 2 := by subst hW; simp only [fld, fmtR]; omega
    have e1 : fld W 11 5 = 0 := by subst hW; simp only [fld, fmtR]; omega
    have e2 : fld W 16 5 = a.toNat := by subst hW; simp only [fld, fmtR]; omega
    have e3 : fld W 21 5 = d.toNat := by subst hW; simp only [fld, fmtR]; omega
    have e4 : fld W 26 6 = 42 := by subst hW; simp only [fld, fmtR]; omega
    simp [decode_2A W e4, decVred, e0, e1, e2, e3, need, hOk, hr, gr, bit1, sub, BitVec.ofNat_toNat, b2n_one, szOf_code, ordOf_code, amoOf_code, srOf_code, pfOf_code, copySrcOf_code, redOf_code, credFmtOf_code, csrOf_code]

theorem vaddConst (d : BitVec 5) (a : BitVec 5) (k : BitVec 8) : Statement (.vaddConst d a k) := by
  have e := GK 43 0 d a k (by decide) (by decide)
  refine of_word (w := fmtI 43 d.toNat a.toNat (k.toNat * 256 + 0)) rfl fun _ => ?_
  generalize fmtI 43 d.toNat a.toNat (k.toNat * 256 + 0) = W at e ⊢
  simp only [decode_2B W e.1, decVecK, e.2.1, e.2.2]

theorem vsubConst (d : BitVec 5) (a : BitVec 5) (k : BitVec 8) : Statement (.vsubConst d a k) := by
  have e := GK 43 1 d a k (by decide) (by decide)
  refine of_word (w := fmtI 43 d.toNat a.toNat (k.toNat * 256 + 1)) rfl fun _ => ?_
  generalize fmtI 43 d.toNat a.toNat (k.toNat * 256 + 1) = W at e ⊢
  simp only [decode_2B W e.1, decVecK, e.2.1, e.2.2]

theorem vmulConst (d : BitVec 5) (a : BitVec 5) (k : BitVec 8) : Statement (.vmulConst d a k) := by
  have e := GK 43 2 d a k (by decide) (by decide)
  refine of_word (w := fmtI 43 d.toNat a.toNat (k.toNat * 256 + 2)) rfl fun _ => ?_
  generalize fmtI 43 d.toNat a.toNat (k.toNat * 256 + 2) = W at e ⊢
  simp only [decode_2B W e.1, decVecK, e.2.1, e.2.2]

theorem vminConst (d : BitVec 5) (a : BitVec 5) (k : BitVec 8) : Statement (.vminConst d a k) := by
  have e := GK 43 4 d a k (by decide) (by decide)
  refine of_word (w := fmtI 43 d.toNat a.toNat (k.toNat * 256 + 4)) rfl fun _ => ?_
  generalize fmtI 43 d.toNat a.toNat (k.toNat * 256 + 4) = W at e ⊢
  simp only [decode_2B W e.1, decVecK, e.2.1, e.2.2]

theorem vmaxConst (d : BitVec 5) (a : BitVec 5) (k : BitVec 8) : Statement (.vmaxConst d a k) := by
  have e := GK 43 5 d a k (by decide) (by decide)
  refine of_word (w := fmtI 43 d.toNat a.toNat (k.toNat * 256 + 5)) rfl fun _ => ?_
  generalize fmtI 43 d.toNat a.toNat (k.toNat * 256 + 5) = W at e ⊢
  simp only [decode_2B W e.1, decVecK, e.2.1, e.2.2]

theorem vandConst (d : BitVec 5) (a : BitVec 5) (k : BitVec 8) : Statement (.vandConst d a k) := by
  have e := GK 43 16 d a k (by decide) (by decide)
  refine of_word (w := fmtI 43 d.toNat a.toNat (k.toNat * 256 + 16)) rfl fun _ => ?_
  generalize fmtI 43 d.toNat a.toNat (k.toNat * 256 + 16) = W at e ⊢
  simp only [decode_2B W e.1, decVecK, e.2.1, e.2.2]

theorem vorConst (d : BitVec 5) (a : BitVec 5) (k : BitVec 8) : Statement (.vorConst d a k) := by
  have e := GK 43 17 d a k (by decide) (by decide)
  refine of_word (w := fmtI 43 d.toNat a.toNat (k.toNat * 256 + 17)) rfl fun _ => ?_
  generalize fmtI 43 d.toNat a.toNat (k.toNat * 256 + 17) = W at e ⊢
  simp only [decode_2B W e.1, decVecK, e.2.1, e.2.2]

theorem vxorConst (d : BitVec 5) (a : BitVec 5) (k : BitVec 8) : Statement (.vxorConst d a k) := by
  have e := GK 43 18 d a k (by decide) (by decide)
  refine of_word (w := fmtI 43 d.toNat a.toNat (k.toNat * 256 + 18)) rfl fun _ => ?_
  generalize fmtI 43 d.toNat a.toNat (k.toNat * 256 + 18) = W at e ⊢
  simp only [decode_2B W e.1, decVecK, e.2.1, e.2.2]

theorem vshlConst (d : BitVec 5) (a : BitVec 5) (k : BitVec 8) : Statement (.vshlConst d a k) := by
  have e := GK 43 20 d a k (by decide) (by decide)
  refine of_word (w := fmtI 43 d.toNat a.toNat (k.toNat * 256 + 20)) rfl fun _ => ?_
  generalize fmtI 43 d.toNat a.toNat (k.toNat * 256 + 20) = W at e ⊢
  simp only [decode_2B W e.1, decVecK, e.2.1, e.2.2]

theorem vshrConst (d : BitVec 5) (a : BitVec 5) (k : BitVec 8) : Statement (.vshrConst d a k) := by
  have e := GK 43 21 d a k (by decide) (by decide)
  refine of_word (w := fmtI 43 d.toNat a.toNat (k.toNat * 256 + 21)) rfl fun _ => ?_
  generalize fmtI 43 d.toNat a.toNat (k.toNat * 256 + 21) = W at e ⊢
  simp only [decode_2B W e.1, decVecK, e.2.1, e.2.2]

theorem vsarConst (d : BitVec 5) (a : BitVec 5) (k : BitVec 8) : Statement (.vsarConst d a k) := by
  have e := GK 43 22 d a k (by decide) (by decide)
  refine of_word (w := fmtI 43 d.toNat a.toNat (k.toNat * 256 + 22)) rfl fun _ => ?_
  generalize fmtI 43 d.toNat a.toNat (k.toNat * 256 + 22) = W at e ⊢
  simp only [decode_2B W e.1, decVecK, e.2.1, e.2.2]

theorem mma_read (sr : Semiring) (fmt : PressFmt) (x y lo hi : Nat) (qa qb : BitVec 3) (rep : BitVec 4) (W : Nat)
    (hs : srOf x = some sr) (hf : pfOf y = some fmt) (ok : mmaOk sr fmt qa qb = true)
    (e0 : fld W 26 6 = 44) (e1 : fld W 10 1 = 1) (e2 : fld W 20 1 = 0) (e3 : fld W 14 2 = 0) (e4 : fld W 7 3 = x)
    (e5 : fld W 4 3 = y) (e6 : fld W 16 3 = qa.toNat) (e7 : fld W 11 3 = qb.toNat) (e8 : fld W 19 1 = hi)
    (e9 : fld W 21 5 = lo) (e10 : fld W 0 4 = rep.toNat) :
    decode W = .ok (.mma sr fmt (BitVec.ofNat 6 (hi * 32 + lo)) qa qb rep) := by
  rw [decode_2C W e0]
  simp only [bit1, e1, decMma, e2, e3, e4, e5, e6, e7, e8, e9, e10, need, Sys2Proof.sub, hs, hf, BitVec.ofNat_toNat,
    BitVec.setWidth_eq, ok]
  rfl

theorem mma_word (sr : Semiring) (fmt : PressFmt) (x y lo hi : Nat) (qa qb : BitVec 3) (rep : BitVec 4) (hx : x < 8) (hy : y < 8)
    (hs : srOf x = some sr) (hf : pfOf y = some fmt) (hl : lo < 32) (hh : hi < 2) (ok : mmaOk sr fmt qa qb = true) :
    decode (fmtR 44 lo (hi * 8 + qa.toNat) qb.toNat (1024 + x * 128 + y * 16 + rep.toNat)) =
      .ok (.mma sr fmt (BitVec.ofNat 6 (hi * 32 + lo)) qa qb rep) := by
  have := qa.isLt
  have := qb.isLt
  have := rep.isLt
  have e0 : fld (fmtR 44 lo (hi * 8 + qa.toNat) qb.toNat (1024 + x * 128 + y * 16 + rep.toNat)) 26 6 = 44 := by simp only [fld, fmtR]; omega
  have e1 : fld (fmtR 44 lo (hi * 8 + qa.toNat) qb.toNat (1024 + x * 128 + y * 16 + rep.toNat)) 10 1 = 1 := by simp only [fld, fmtR]; omega
  have e2 : fld (fmtR 44 lo (hi * 8 + qa.toNat) qb.toNat (1024 + x * 128 + y * 16 + rep.toNat)) 20 1 = 0 := by simp only [fld, fmtR]; omega
  have e3 : fld (fmtR 44 lo (hi * 8 + qa.toNat) qb.toNat (1024 + x * 128 + y * 16 + rep.toNat)) 14 2 = 0 := by simp only [fld, fmtR]; omega
  have e4 : fld (fmtR 44 lo (hi * 8 + qa.toNat) qb.toNat (1024 + x * 128 + y * 16 + rep.toNat)) 7 3 = x := by simp only [fld, fmtR]; omega
  have e5 : fld (fmtR 44 lo (hi * 8 + qa.toNat) qb.toNat (1024 + x * 128 + y * 16 + rep.toNat)) 4 3 = y := by simp only [fld, fmtR]; omega
  have e6 : fld (fmtR 44 lo (hi * 8 + qa.toNat) qb.toNat (1024 + x * 128 + y * 16 + rep.toNat)) 16 3 = qa.toNat := by simp only [fld, fmtR]; omega
  have e7 : fld (fmtR 44 lo (hi * 8 + qa.toNat) qb.toNat (1024 + x * 128 + y * 16 + rep.toNat)) 11 3 = qb.toNat := by simp only [fld, fmtR]; omega
  have e8 : fld (fmtR 44 lo (hi * 8 + qa.toNat) qb.toNat (1024 + x * 128 + y * 16 + rep.toNat)) 19 1 = hi := by simp only [fld, fmtR]; omega
  have e9 : fld (fmtR 44 lo (hi * 8 + qa.toNat) qb.toNat (1024 + x * 128 + y * 16 + rep.toNat)) 21 5 = lo := by simp only [fld, fmtR]; omega
  have e10 : fld (fmtR 44 lo (hi * 8 + qa.toNat) qb.toNat (1024 + x * 128 + y * 16 + rep.toNat)) 0 4 = rep.toNat := by simp only [fld, fmtR]; omega
  exact mma_read sr fmt x y lo hi qa qb rep _ hs hf ok e0 e1 e2 e3 e4 e5 e6 e7 e8 e9 e10

theorem mma (sr : Semiring) (fmt : PressFmt) (t : BitVec 6) (qa : BitVec 3) (qb : BitVec 3) (rep : BitVec 4) :
    Statement (.mma sr fmt t qa qb rep) := by
  refine of_word (w := fmtR 44 (t.toNat % 32) (t.toNat / 32 * 8 + qa.toNat) qb.toNat
    (1024 + sr.code * 128 + fmt.code * 16 + rep.toNat)) rfl fun hwf => ?_
  have ok : mmaOk sr fmt qa qb = true := by
    have h : (if mmaOk sr fmt qa qb then none else some IllFormed.mma).isNone = true := hwf
    simpa using h
  have ht := t.isLt
  rw [mma_word sr fmt sr.code fmt.code (t.toNat % 32) (t.toNat / 32) qa qb rep (Semiring.code_lt sr) (PressFmt.code_lt fmt)
    (srOf_code sr) (pfOf_code fmt) (by omega) (by omega) ok, show t.toNat / 32 * 32 + t.toNat % 32 = t.toNat by omega,
    BitVec.ofNat_toNat, BitVec.setWidth_eq]

theorem mzero (t : BitVec 6) : Statement (.mzero t) := by
  refine of_word (w := fmtR 44 0 0 0 t.toNat) rfl fun hwf => ?_
  generalize hW : fmtR 44 0 0 0 t.toNat = W
  have e0 : fld W 0 4 = (t.toNat % 16) := by subst hW; simp only [fld, fmtR]; omega
  have e1 : fld W 0 6 = t.toNat := by subst hW; simp only [fld, fmtR]; omega
  have e2 : fld W 4 3 = (t.toNat / 16) := by subst hW; simp only [fld, fmtR]; omega
  have e3 : fld W 6 1 = 0 := by subst hW; simp only [fld, fmtR]; omega
  have e4 : fld W 7 3 = 0 := by subst hW; simp only [fld, fmtR]; omega
  have e5 : fld W 10 1 = 0 := by subst hW; simp only [fld, fmtR]; omega
  have e6 : fld W 11 3 = 0 := by subst hW; simp only [fld, fmtR]; omega
  have e7 : fld W 11 15 = 0 := by subst hW; simp only [fld, fmtR]; omega
  have e8 : fld W 14 2 = 0 := by subst hW; simp only [fld, fmtR]; omega
  have e9 : fld W 16 3 = 0 := by subst hW; simp only [fld, fmtR]; omega
  have e10 : fld W 19 1 = 0 := by subst hW; simp only [fld, fmtR]; omega
  have e11 : fld W 20 1 = 0 := by subst hW; simp only [fld, fmtR]; omega
  have e12 : fld W 21 5 = 0 := by subst hW; simp only [fld, fmtR]; omega
  have e13 : fld W 26 6 = 44 := by subst hW; simp only [fld, fmtR]; omega
  simp [decode_2C W e13, decMma, decPressQ, e0, e1, e2, e3, e4, e5, e6, e7, e8, e9, e10, e11, e12, need, hOk, hr, gr, bit1, sub, BitVec.ofNat_toNat, b2n_one, szOf_code, ordOf_code, amoOf_code, srOf_code, pfOf_code, copySrcOf_code, redOf_code, credFmtOf_code, csrOf_code]

theorem mload (t : BitVec 6) (a : BitVec 5) (b : BitVec 5) : Statement (.mload t a b) := by
  refine of_word (w := fmtR 44 0 a.toNat b.toNat (128 + t.toNat)) rfl fun hwf => ?_
  have hwf : a.toNat % 2 = 0 := even_of_wf _ _ hwf
  generalize hW : fmtR 44 0 a.toNat b.toNat (128 + t.toNat) = W
  have e0 : fld W 0 4 = (t.toNat % 16) := by subst hW; simp only [fld, fmtR]; omega
  have e1 : fld W 0 6 = t.toNat := by subst hW; simp only [fld, fmtR]; omega
  have e2 : fld W 4 3 = (t.toNat / 16) := by subst hW; simp only [fld, fmtR]; omega
  have e3 : fld W 6 1 = 0 := by subst hW; simp only [fld, fmtR]; omega
  have e4 : fld W 7 3 = 1 := by subst hW; simp only [fld, fmtR]; omega
  have e5 : fld W 10 1 = 0 := by subst hW; simp only [fld, fmtR]; omega
  have e6 : fld W 11 3 = (b.toNat % 8) := by subst hW; simp only [fld, fmtR]; omega
  have e7 : fld W 11 5 = b.toNat := by subst hW; simp only [fld, fmtR]; omega
  have e8 : fld W 14 2 = (b.toNat / 8) := by subst hW; simp only [fld, fmtR]; omega
  have e9 : fld W 16 1 = (a.toNat % 2) := by subst hW; simp only [fld, fmtR]; omega
  have e10 : fld W 16 3 = (a.toNat % 8) := by subst hW; simp only [fld, fmtR]; omega
  have e11 : fld W 16 5 = a.toNat := by subst hW; simp only [fld, fmtR]; omega
  have e12 : fld W 19 1 = ((a.toNat % 16) / 8) := by subst hW; simp only [fld, fmtR]; omega
  have e13 : fld W 20 1 = (a.toNat / 16) := by subst hW; simp only [fld, fmtR]; omega
  have e14 : fld W 21 5 = 0 := by subst hW; simp only [fld, fmtR]; omega
  have e15 : fld W 26 6 = 44 := by subst hW; simp only [fld, fmtR]; omega
  simp [decode_2C W e15, decMma, decPressQ, e0, e1, e2, e3, e4, e5, e6, e7, e8, e9, e10, e11, e12, e13, e14, need, hOk, hr, gr, bit1, sub, BitVec.ofNat_toNat, b2n_one, szOf_code, ordOf_code, amoOf_code, srOf_code, pfOf_code, copySrcOf_code, redOf_code, credFmtOf_code, csrOf_code, hwf]

theorem mdrain (d : BitVec 5) (t : BitVec 6) (b : BitVec 5) : Statement (.mdrain d t b) := by
  refine of_word (w := fmtR 44 d.toNat 0 b.toNat (256 + t.toNat)) rfl fun hwf => ?_
  have hwf : d.toNat % 2 = 0 := even_of_wf _ _ hwf
  generalize hW : fmtR 44 d.toNat 0 b.toNat (256 + t.toNat) = W
  have e0 : fld W 0 4 = (t.toNat % 16) := by subst hW; simp only [fld, fmtR]; omega
  have e1 : fld W 0 6 = t.toNat := by subst hW; simp only [fld, fmtR]; omega
  have e2 : fld W 4 3 = (t.toNat / 16) := by subst hW; simp only [fld, fmtR]; omega
  have e3 : fld W 6 1 = 0 := by subst hW; simp only [fld, fmtR]; omega
  have e4 : fld W 7 3 = 2 := by subst hW; simp only [fld, fmtR]; omega
  have e5 : fld W 10 1 = 0 := by subst hW; simp only [fld, fmtR]; omega
  have e6 : fld W 11 3 = (b.toNat % 8) := by subst hW; simp only [fld, fmtR]; omega
  have e7 : fld W 11 5 = b.toNat := by subst hW; simp only [fld, fmtR]; omega
  have e8 : fld W 14 2 = (b.toNat / 8) := by subst hW; simp only [fld, fmtR]; omega
  have e9 : fld W 16 3 = 0 := by subst hW; simp only [fld, fmtR]; omega
  have e10 : fld W 16 5 = 0 := by subst hW; simp only [fld, fmtR]; omega
  have e11 : fld W 19 1 = 0 := by subst hW; simp only [fld, fmtR]; omega
  have e12 : fld W 20 1 = 0 := by subst hW; simp only [fld, fmtR]; omega
  have e13 : fld W 21 1 = (d.toNat % 2) := by subst hW; simp only [fld, fmtR]; omega
  have e14 : fld W 21 5 = d.toNat := by subst hW; simp only [fld, fmtR]; omega
  have e15 : fld W 26 6 = 44 := by subst hW; simp only [fld, fmtR]; omega
  simp [decode_2C W e15, decMma, decPressQ, e0, e1, e2, e3, e4, e5, e6, e7, e8, e9, e10, e11, e12, e13, e14, need, hOk, hr, gr, bit1, sub, BitVec.ofNat_toNat, b2n_one, szOf_code, ordOf_code, amoOf_code, srOf_code, pfOf_code, copySrcOf_code, redOf_code, credFmtOf_code, csrOf_code, hwf]

theorem mwait : Statement .mwait := by
  refine of_word (w := fmtR 44 0 0 0 384) rfl fun hwf => ?_
  generalize hW : fmtR 44 0 0 0 384 = W
  have e0 : fld W 0 4 = 0 := by subst hW; simp only [fld, fmtR]; omega
  have e1 : fld W 0 7 = 0 := by subst hW; simp only [fld, fmtR]; omega
  have e2 : fld W 4 3 = 0 := by subst hW; simp only [fld, fmtR]; omega
  have e3 : fld W 7 3 = 3 := by subst hW; simp only [fld, fmtR]; omega
  have e4 : fld W 10 1 = 0 := by subst hW; simp only [fld, fmtR]; omega
  have e5 : fld W 11 3 = 0 := by subst hW; simp only [fld, fmtR]; omega
  have e6 : fld W 11 15 = 0 := by subst hW; simp only [fld, fmtR]; omega
  have e7 : fld W 14 2 = 0 := by subst hW; simp only [fld, fmtR]; omega
  have e8 : fld W 16 3 = 0 := by subst hW; simp only [fld, fmtR]; omega
  have e9 : fld W 19 1 = 0 := by subst hW; simp only [fld, fmtR]; omega
  have e10 : fld W 20 1 = 0 := by subst hW; simp only [fld, fmtR]; omega
  have e11 : fld W 21 5 = 0 := by subst hW; simp only [fld, fmtR]; omega
  have e12 : fld W 26 6 = 44 := by subst hW; simp only [fld, fmtR]; omega
  simp [decode_2C W e12, decMma, decPressQ, e0, e1, e2, e3, e4, e5, e6, e7, e8, e9, e10, e11, need, hOk, hr, gr, bit1, sub, BitVec.ofNat_toNat, b2n_one, szOf_code, ordOf_code, amoOf_code, srOf_code, pfOf_code, copySrcOf_code, redOf_code, credFmtOf_code, csrOf_code]

theorem mstat (d : BitVec 5) : Statement (.mstat d) := by
  refine of_word (w := fmtR 44 d.toNat 0 0 512) rfl fun hwf => ?_
  generalize hW : fmtR 44 d.toNat 0 0 512 = W
  have e0 : fld W 0 4 = 0 := by subst hW; simp only [fld, fmtR]; omega
  have e1 : fld W 0 7 = 0 := by subst hW; simp only [fld, fmtR]; omega
  have e2 : fld W 4 3 = 0 := by subst hW; simp only [fld, fmtR]; omega
  have e3 : fld W 7 3 = 4 := by subst hW; simp only [fld, fmtR]; omega
  have e4 : fld W 10 1 = 0 := by subst hW; simp only [fld, fmtR]; omega
  have e5 : fld W 11 3 = 0 := by subst hW; simp only [fld, fmtR]; omega
  have e6 : fld W 11 10 = 0 := by subst hW; simp only [fld, fmtR]; omega
  have e7 : fld W 14 2 = 0 := by subst hW; simp only [fld, fmtR]; omega
  have e8 : fld W 16 3 = 0 := by subst hW; simp only [fld, fmtR]; omega
  have e9 : fld W 19 1 = 0 := by subst hW; simp only [fld, fmtR]; omega
  have e10 : fld W 20 1 = 0 := by subst hW; simp only [fld, fmtR]; omega
  have e11 : fld W 21 5 = d.toNat := by subst hW; simp only [fld, fmtR]; omega
  have e12 : fld W 26 6 = 44 := by subst hW; simp only [fld, fmtR]; omega
  simp [decode_2C W e12, decMma, decPressQ, e0, e1, e2, e3, e4, e5, e6, e7, e8, e9, e10, e11, need, hOk, hr, gr, bit1, sub, BitVec.ofNat_toNat, b2n_one, szOf_code, ordOf_code, amoOf_code, srOf_code, pfOf_code, copySrcOf_code, redOf_code, credFmtOf_code, csrOf_code]

theorem rcfg (q : BitVec 3) (a : BitVec 5) (b : BitVec 5) : Statement (.rcfg q a b) := by
  refine of_word (w := fmtR 45 0 a.toNat b.toNat q.toNat) rfl fun hwf => ?_
  generalize hW : fmtR 45 0 a.toNat b.toNat q.toNat = W
  have e0 : fld W 0 3 = q.toNat := by subst hW; simp only [fld, fmtR]; omega
  have e1 : fld W 3 5 = 0 := by subst hW; simp only [fld, fmtR]; omega
  have e2 : fld W 8 3 = 0 := by subst hW; simp only [fld, fmtR]; omega
  have e3 : fld W 11 5 = b.toNat := by subst hW; simp only [fld, fmtR]; omega
  have e4 : fld W 16 5 = a.toNat := by subst hW; simp only [fld, fmtR]; omega
  have e5 : fld W 21 5 = 0 := by subst hW; simp only [fld, fmtR]; omega
  have e6 : fld W 26 6 = 45 := by subst hW; simp only [fld, fmtR]; omega
  simp [decode_2D W e6, decRing, e0, e1, e2, e3, e4, e5, need, hOk, hr, gr, bit1, sub, BitVec.ofNat_toNat, b2n_one, szOf_code, ordOf_code, amoOf_code, srOf_code, pfOf_code, copySrcOf_code, redOf_code, credFmtOf_code, csrOf_code]

theorem rpush (q : BitVec 3) (a : BitVec 5) : Statement (.rpush q a) := by
  refine of_word (w := fmtR 45 0 a.toNat 0 (256 + q.toNat)) rfl fun hwf => ?_
  generalize hW : fmtR 45 0 a.toNat 0 (256 + q.toNat) = W
  have e0 : fld W 0 3 = q.toNat := by subst hW; simp only [fld, fmtR]; omega
  have e1 : fld W 3 5 = 0 := by subst hW; simp only [fld, fmtR]; omega
  have e2 : fld W 8 3 = 1 := by subst hW; simp only [fld, fmtR]; omega
  have e3 : fld W 11 5 = 0 := by subst hW; simp only [fld, fmtR]; omega
  have e4 : fld W 16 5 = a.toNat := by subst hW; simp only [fld, fmtR]; omega
  have e5 : fld W 21 5 = 0 := by subst hW; simp only [fld, fmtR]; omega
  have e6 : fld W 26 6 = 45 := by subst hW; simp only [fld, fmtR]; omega
  simp [decode_2D W e6, decRing, e0, e1, e2, e3, e4, e5, need, hOk, hr, gr, bit1, sub, BitVec.ofNat_toNat, b2n_one, szOf_code, ordOf_code, amoOf_code, srOf_code, pfOf_code, copySrcOf_code, redOf_code, credFmtOf_code, csrOf_code]

theorem rstat (d : BitVec 5) (q : BitVec 3) : Statement (.rstat d q) := by
  refine of_word (w := fmtR 45 d.toNat 0 0 (512 + q.toNat)) rfl fun hwf => ?_
  generalize hW : fmtR 45 d.toNat 0 0 (512 + q.toNat) = W
  have e0 : fld W 0 3 = q.toNat := by subst hW; simp only [fld, fmtR]; omega
  have e1 : fld W 3 5 = 0 := by subst hW; simp only [fld, fmtR]; omega
  have e2 : fld W 8 3 = 2 := by subst hW; simp only [fld, fmtR]; omega
  have e3 : fld W 11 10 = 0 := by subst hW; simp only [fld, fmtR]; omega
  have e4 : fld W 21 5 = d.toNat := by subst hW; simp only [fld, fmtR]; omega
  have e5 : fld W 26 6 = 45 := by subst hW; simp only [fld, fmtR]; omega
  simp [decode_2D W e5, decRing, e0, e1, e2, e3, e4, need, hOk, hr, gr, bit1, sub, BitVec.ofNat_toNat, b2n_one, szOf_code, ordOf_code, amoOf_code, srOf_code, pfOf_code, copySrcOf_code, redOf_code, credFmtOf_code, csrOf_code]

theorem hopen (force : Bool) (s : BitVec 2) (a : BitVec 5) : Statement (.hopen force s a) := by
  refine of_word (w := fmtR 46 0 a.toNat 0 (4 * b2n force + s.toNat)) rfl fun hwf => ?_
  have := b2n_lt force
  generalize hW : fmtR 46 0 a.toNat 0 (4 * b2n force + s.toNat) = W
  have e0 : fld W 0 2 = s.toNat := by subst hW; simp only [fld, fmtR]; omega
  have e1 : fld W 2 1 = (b2n force) := by subst hW; simp only [fld, fmtR]; omega
  have e2 : fld W 3 5 = 0 := by subst hW; simp only [fld, fmtR]; omega
  have e3 : fld W 8 3 = 0 := by subst hW; simp only [fld, fmtR]; omega
  have e4 : fld W 11 5 = 0 := by subst hW; simp only [fld, fmtR]; omega
  have e5 : fld W 16 5 = a.toNat := by subst hW; simp only [fld, fmtR]; omega
  have e6 : fld W 21 5 = 0 := by subst hW; simp only [fld, fmtR]; omega
  have e7 : fld W 26 6 = 46 := by subst hW; simp only [fld, fmtR]; omega
  simp [decode_2E W e7, decHatch, e0, e1, e2, e3, e4, e5, e6, need, hOk, hr, gr, bit1, sub, BitVec.ofNat_toNat, b2n_one, szOf_code, ordOf_code, amoOf_code, srOf_code, pfOf_code, copySrcOf_code, redOf_code, credFmtOf_code, csrOf_code]

theorem htake (s : BitVec 2) (q : BitVec 3) : Statement (.htake s q) := by
  refine of_word (w := fmtR 46 0 0 0 (256 + q.toNat * 8 + s.toNat)) rfl fun hwf => ?_
  generalize hW : fmtR 46 0 0 0 (256 + q.toNat * 8 + s.toNat) = W
  have e0 : fld W 0 2 = s.toNat := by subst hW; simp only [fld, fmtR]; omega
  have e1 : fld W 2 1 = 0 := by subst hW; simp only [fld, fmtR]; omega
  have e2 : fld W 3 3 = q.toNat := by subst hW; simp only [fld, fmtR]; omega
  have e3 : fld W 6 2 = 0 := by subst hW; simp only [fld, fmtR]; omega
  have e4 : fld W 8 3 = 1 := by subst hW; simp only [fld, fmtR]; omega
  have e5 : fld W 11 15 = 0 := by subst hW; simp only [fld, fmtR]; omega
  have e6 : fld W 26 6 = 46 := by subst hW; simp only [fld, fmtR]; omega
  simp [decode_2E W e6, decHatch, e0, e1, e2, e3, e4, e5, need, hOk, hr, gr, bit1, sub, BitVec.ofNat_toNat, b2n_one, szOf_code, ordOf_code, amoOf_code, srOf_code, pfOf_code, copySrcOf_code, redOf_code, credFmtOf_code, csrOf_code]

theorem hput (a : BitVec 5) (b : BitVec 5) : Statement (.hput a b) := by
  refine of_word (w := fmtR 46 0 a.toNat b.toNat 512) rfl fun hwf => ?_
  generalize hW : fmtR 46 0 a.toNat b.toNat 512 = W
  have e0 : fld W 0 8 = 0 := by subst hW; simp only [fld, fmtR]; omega
  have e1 : fld W 8 3 = 2 := by subst hW; simp only [fld, fmtR]; omega
  have e2 : fld W 11 5 = b.toNat := by subst hW; simp only [fld, fmtR]; omega
  have e3 : fld W 16 5 = a.toNat := by subst hW; simp only [fld, fmtR]; omega
  have e4 : fld W 21 5 = 0 := by subst hW; simp only [fld, fmtR]; omega
  have e5 : fld W 26 6 = 46 := by subst hW; simp only [fld, fmtR]; omega
  simp [decode_2E W e5, decHatch, e0, e1, e2, e3, e4, need, hOk, hr, gr, bit1, sub, BitVec.ofNat_toNat, b2n_one, szOf_code, ordOf_code, amoOf_code, srOf_code, pfOf_code, copySrcOf_code, redOf_code, credFmtOf_code, csrOf_code]

theorem hshut (s : BitVec 2) : Statement (.hshut s) := by
  refine of_word (w := fmtR 46 0 0 0 (768 + s.toNat)) rfl fun hwf => ?_
  generalize hW : fmtR 46 0 0 0 (768 + s.toNat) = W
  have e0 : fld W 0 2 = s.toNat := by subst hW; simp only [fld, fmtR]; omega
  have e1 : fld W 2 6 = 0 := by subst hW; simp only [fld, fmtR]; omega
  have e2 : fld W 8 3 = 3 := by subst hW; simp only [fld, fmtR]; omega
  have e3 : fld W 11 15 = 0 := by subst hW; simp only [fld, fmtR]; omega
  have e4 : fld W 26 6 = 46 := by subst hW; simp only [fld, fmtR]; omega
  simp [decode_2E W e4, decHatch, e0, e1, e2, e3, need, hOk, hr, gr, bit1, sub, BitVec.ofNat_toNat, b2n_one, szOf_code, ordOf_code, amoOf_code, srOf_code, pfOf_code, copySrcOf_code, redOf_code, credFmtOf_code, csrOf_code]

theorem hwait : Statement .hwait := by
  refine of_word (w := fmtR 46 0 0 0 1024) rfl fun hwf => ?_
  generalize hW : fmtR 46 0 0 0 1024 = W
  have e0 : fld W 0 8 = 0 := by subst hW; simp only [fld, fmtR]; omega
  have e1 : fld W 8 3 = 4 := by subst hW; simp only [fld, fmtR]; omega
  have e2 : fld W 11 15 = 0 := by subst hW; simp only [fld, fmtR]; omega
  have e3 : fld W 26 6 = 46 := by subst hW; simp only [fld, fmtR]; omega
  simp [decode_2E W e3, decHatch, e0, e1, e2, need, hOk, hr, gr, bit1, sub, BitVec.ofNat_toNat, b2n_one, szOf_code, ordOf_code, amoOf_code, srOf_code, pfOf_code, copySrcOf_code, redOf_code, credFmtOf_code, csrOf_code]

theorem hstat (d : BitVec 5) : Statement (.hstat d) := by
  refine of_word (w := fmtR 46 d.toNat 0 0 1280) rfl fun hwf => ?_
  generalize hW : fmtR 46 d.toNat 0 0 1280 = W
  have e0 : fld W 0 8 = 0 := by subst hW; simp only [fld, fmtR]; omega
  have e1 : fld W 8 3 = 5 := by subst hW; simp only [fld, fmtR]; omega
  have e2 : fld W 11 10 = 0 := by subst hW; simp only [fld, fmtR]; omega
  have e3 : fld W 21 5 = d.toNat := by subst hW; simp only [fld, fmtR]; omega
  have e4 : fld W 26 6 = 46 := by subst hW; simp only [fld, fmtR]; omega
  simp [decode_2E W e4, decHatch, e0, e1, e2, e3, need, hOk, hr, gr, bit1, sub, BitVec.ofNat_toNat, b2n_one, szOf_code, ordOf_code, amoOf_code, srOf_code, pfOf_code, copySrcOf_code, redOf_code, credFmtOf_code, csrOf_code]

theorem copy_read (src : CopySrc) (dst : CopyDst) (x y m : Nat) (ch : BitVec 2) (d a b : BitVec 5) (W : Nat)
    (hs : copySrcOf y = some src) (ht : copyDstOf x (m == 1) = some dst) (ok : (dst != .ring || d.toNat / 8 == 0) = true)
    (e0 : fld W 8 3 = 0) (e1 : fld W 26 6 = 47) (e2 : fld W 2 1 = 0) (e3 : fld W 6 2 = y) (e4 : fld W 4 2 = x)
    (e5 : fld W 3 1 = m) (e6 : fld W 24 2 = d.toNat / 8) (e7 : fld W 0 2 = ch.toNat) (e8 : fld W 21 5 = d.toNat)
    (e9 : fld W 16 5 = a.toNat) (e10 : fld W 11 5 = b.toNat) : decode W = .ok (.copy src dst ch d a b) := by
  rw [decode_2F W e1]
  simp only [decCopyEng, e0, decCopy, e2, e3, e4, e5, e6, e7, e8, e9, e10, bit1, hs, ht, Sys2Proof.sub, need, ok, gr,
    BitVec.ofNat_toNat, BitVec.setWidth_eq]
  rfl

theorem copy_word (src : CopySrc) (dst : CopyDst) (x y m : Nat) (ch : BitVec 2) (d a b : BitVec 5) (hx : x < 4) (hy : y < 4) (hm : m < 2)
    (hs : copySrcOf y = some src) (ht : copyDstOf x (m == 1) = some dst) (hwf : dst = .ring → d.toNat < 8) :
    decode (fmtR 47 d.toNat a.toNat b.toNat (y * 64 + x * 16 + 8 * m + ch.toNat)) = .ok (.copy src dst ch d a b) := by
  have := ch.isLt
  have := d.isLt
  have e0 : fld (fmtR 47 d.toNat a.toNat b.toNat (y * 64 + x * 16 + 8 * m + ch.toNat)) 8 3 = 0 := by simp only [fld, fmtR]; omega
  have e1 : fld (fmtR 47 d.toNat a.toNat b.toNat (y * 64 + x * 16 + 8 * m + ch.toNat)) 26 6 = 47 := by simp only [fld, fmtR]; omega
  have e2 : fld (fmtR 47 d.toNat a.toNat b.toNat (y * 64 + x * 16 + 8 * m + ch.toNat)) 2 1 = 0 := by simp only [fld, fmtR]; omega
  have e3 : fld (fmtR 47 d.toNat a.toNat b.toNat (y * 64 + x * 16 + 8 * m + ch.toNat)) 6 2 = y := by simp only [fld, fmtR]; omega
  have e4 : fld (fmtR 47 d.toNat a.toNat b.toNat (y * 64 + x * 16 + 8 * m + ch.toNat)) 4 2 = x := by simp only [fld, fmtR]; omega
  have e5 : fld (fmtR 47 d.toNat a.toNat b.toNat (y * 64 + x * 16 + 8 * m + ch.toNat)) 3 1 = m := by simp only [fld, fmtR]; omega
  have e6 : fld (fmtR 47 d.toNat a.toNat b.toNat (y * 64 + x * 16 + 8 * m + ch.toNat)) 24 2 = d.toNat / 8 := by simp only [fld, fmtR]; omega
  have e7 : fld (fmtR 47 d.toNat a.toNat b.toNat (y * 64 + x * 16 + 8 * m + ch.toNat)) 0 2 = ch.toNat := by simp only [fld, fmtR]; omega
  have e8 : fld (fmtR 47 d.toNat a.toNat b.toNat (y * 64 + x * 16 + 8 * m + ch.toNat)) 21 5 = d.toNat := by simp only [fld, fmtR]; omega
  have e9 : fld (fmtR 47 d.toNat a.toNat b.toNat (y * 64 + x * 16 + 8 * m + ch.toNat)) 16 5 = a.toNat := by simp only [fld, fmtR]; omega
  have e10 : fld (fmtR 47 d.toNat a.toNat b.toNat (y * 64 + x * 16 + 8 * m + ch.toNat)) 11 5 = b.toNat := by simp only [fld, fmtR]; omega
  have ok : (dst != .ring || d.toNat / 8 == 0) = true := by
    by_cases h : dst = .ring
    · have h8 : d.toNat / 8 = 0 := by have := hwf h; omega
      simp [h8]
    · simp [h]
  exact copy_read src dst x y m ch d a b _ hs ht ok e0 e1 e2 e3 e4 e5 e6 e7 e8 e9 e10

theorem copy (src : CopySrc) (dst : CopyDst) (ch : BitVec 2) (d : BitVec 5) (a : BitVec 5) (b : BitVec 5) :
    Statement (.copy src dst ch d a b) := by
  refine of_word (w := fmtR 47 d.toNat a.toNat b.toNat
    (src.code * 64 + dst.code * 16 + 8 * b2n (dst == .multicast) + ch.toNat)) rfl fun hwf => ?_
  have hwf : dst = .ring → d.toNat < 8 := by
    have h : (if dst == .ring && 8 ≤ d.toNat then some IllFormed.ringNumber else none).isNone = true := hwf
    simpa using h
  exact copy_word src dst _ _ _ ch d a b (CopyDst.code_lt dst) (CopySrc.code_lt src) (b2n_lt _) (copySrcOf_code src)
    (by rw [b2n_one]; exact copyDstOf_code dst) hwf

theorem cred_read (op : RedOp) (fmt : CredFmt) (x y m : Nat) (ch : BitVec 2) (d a b : BitVec 5) (W : Nat)
    (ho : redOf y = some op) (hf : credFmtOf x = some fmt) (ok : (m + 1 == 1 || m + 1 == 2) = true)
    (e0 : fld W 8 3 = 1) (e1 : fld W 26 6 = 47) (e2 : fld W 2 2 = m + 1) (e3 : fld W 6 2 = y) (e4 : fld W 4 2 = x)
    (e5 : fld W 3 1 = m) (e7 : fld W 0 2 = ch.toNat) (e8 : fld W 21 5 = d.toNat)
    (e9 : fld W 16 5 = a.toNat) (e10 : fld W 11 5 = b.toNat) : decode W = .ok (.cred op fmt (m == 1) ch d a b) := by
  rw [decode_2F W e1]
  simp only [decCopyEng, e0, decCred, e2, e3, e4, e5, e7, e8, e9, e10, bit1, ho, hf, Sys2Proof.sub, need, ok, gr,
    BitVec.ofNat_toNat, BitVec.setWidth_eq]
  rfl

theorem cred_word (op : RedOp) (fmt : CredFmt) (x y m : Nat) (ch : BitVec 2) (d a b : BitVec 5) (hx : x < 4) (hy : y < 4) (hm : m < 2)
    (ho : redOf y = some op) (hf : credFmtOf x = some fmt) :
    decode (fmtR 47 d.toNat a.toNat b.toNat (256 + y * 64 + x * 16 + 4 + 4 * m + ch.toNat)) =
      .ok (.cred op fmt (m == 1) ch d a b) := by
  have := ch.isLt
  have e0 : fld (fmtR 47 d.toNat a.toNat b.toNat (256 + y * 64 + x * 16 + 4 + 4 * m + ch.toNat)) 8 3 = 1 := by simp only [fld, fmtR]; omega
  have e1 : fld (fmtR 47 d.toNat a.toNat b.toNat (256 + y * 64 + x * 16 + 4 + 4 * m + ch.toNat)) 26 6 = 47 := by simp only [fld, fmtR]; omega
  have e2 : fld (fmtR 47 d.toNat a.toNat b.toNat (256 + y * 64 + x * 16 + 4 + 4 * m + ch.toNat)) 2 2 = m + 1 := by simp only [fld, fmtR]; omega
  have e3 : fld (fmtR 47 d.toNat a.toNat b.toNat (256 + y * 64 + x * 16 + 4 + 4 * m + ch.toNat)) 6 2 = y := by simp only [fld, fmtR]; omega
  have e4 : fld (fmtR 47 d.toNat a.toNat b.toNat (256 + y * 64 + x * 16 + 4 + 4 * m + ch.toNat)) 4 2 = x := by simp only [fld, fmtR]; omega
  have e5 : fld (fmtR 47 d.toNat a.toNat b.toNat (256 + y * 64 + x * 16 + 4 + 4 * m + ch.toNat)) 3 1 = m := by simp only [fld, fmtR]; omega
  have e7 : fld (fmtR 47 d.toNat a.toNat b.toNat (256 + y * 64 + x * 16 + 4 + 4 * m + ch.toNat)) 0 2 = ch.toNat := by simp only [fld, fmtR]; omega
  have e8 : fld (fmtR 47 d.toNat a.toNat b.toNat (256 + y * 64 + x * 16 + 4 + 4 * m + ch.toNat)) 21 5 = d.toNat := by simp only [fld, fmtR]; omega
  have e9 : fld (fmtR 47 d.toNat a.toNat b.toNat (256 + y * 64 + x * 16 + 4 + 4 * m + ch.toNat)) 16 5 = a.toNat := by simp only [fld, fmtR]; omega
  have e10 : fld (fmtR 47 d.toNat a.toNat b.toNat (256 + y * 64 + x * 16 + 4 + 4 * m + ch.toNat)) 11 5 = b.toNat := by simp only [fld, fmtR]; omega
  have ok : (m + 1 == 1 || m + 1 == 2) = true := by
    have : m = 0 ∨ m = 1 := by omega
    rcases this with h | h <;> simp [h]
  exact cred_read op fmt x y m ch d a b _ ho hf ok e0 e1 e2 e3 e4 e5 e7 e8 e9 e10

theorem cred (op : RedOp) (fmt : CredFmt) (toPool : Bool) (ch : BitVec 2) (d : BitVec 5) (a : BitVec 5) (b : BitVec 5) :
    Statement (.cred op fmt toPool ch d a b) := by
  refine of_word (w := fmtR 47 d.toNat a.toNat b.toNat
    (256 + op.code * 64 + fmt.code * 16 + 4 + 4 * b2n toPool + ch.toNat)) rfl fun _ => ?_
  rw [cred_word op fmt _ _ _ ch d a b (CredFmt.code_lt fmt) (RedOp.code_lt op) (b2n_lt toPool) (redOf_code op) (credFmtOf_code fmt),
    b2n_one]

theorem cseal : Statement .cseal := by
  refine of_word (w := fmtR 47 0 0 0 512) rfl fun hwf => ?_
  generalize hW : fmtR 47 0 0 0 512 = W
  have e0 : fld W 0 8 = 0 := by subst hW; simp only [fld, fmtR]; omega
  have e1 : fld W 8 3 = 2 := by subst hW; simp only [fld, fmtR]; omega
  have e2 : fld W 11 15 = 0 := by subst hW; simp only [fld, fmtR]; omega
  have e3 : fld W 26 6 = 47 := by subst hW; simp only [fld, fmtR]; omega
  simp [decode_2F W e3, decCopyEng, e0, e1, e2, need, hOk, hr, gr, bit1, sub, BitVec.ofNat_toNat, b2n_one, szOf_code, ordOf_code, amoOf_code, srOf_code, pfOf_code, copySrcOf_code, redOf_code, credFmtOf_code, csrOf_code]

theorem cwait (n : BitVec 4) : Statement (.cwait n) := by
  refine of_word (w := fmtR 47 0 0 0 (768 + n.toNat)) rfl fun hwf => ?_
  have hn : n.toNat < 16 := n.isLt
  generalize hW : fmtR 47 0 0 0 (768 + n.toNat) = W
  have e0 : fld W 0 4 = n.toNat := by subst hW; simp only [fld, fmtR]; omega
  have e1 : fld W 4 4 = 0 := by subst hW; simp only [fld, fmtR]; omega
  have e2 : fld W 8 3 = 3 := by subst hW; simp only [fld, fmtR]; omega
  have e3 : fld W 11 15 = 0 := by subst hW; simp only [fld, fmtR]; omega
  have e4 : fld W 26 6 = 47 := by subst hW; simp only [fld, fmtR]; omega
  simp [decode_2F W e4, decCopyEng, e0, e1, e2, e3, hn, need, hOk, hr, gr, bit1, sub, BitVec.ofNat_toNat, b2n_one, szOf_code, ordOf_code, amoOf_code, srOf_code, pfOf_code, copySrcOf_code, redOf_code, credFmtOf_code, csrOf_code]

theorem cptr (d : BitVec 5) (ch : BitVec 2) : Statement (.cptr d ch) := by
  refine of_word (w := fmtR 47 d.toNat 0 0 (1024 + ch.toNat)) rfl fun hwf => ?_
  generalize hW : fmtR 47 d.toNat 0 0 (1024 + ch.toNat) = W
  have e0 : fld W 0 2 = ch.toNat := by subst hW; simp only [fld, fmtR]; omega
  have e1 : fld W 2 6 = 0 := by subst hW; simp only [fld, fmtR]; omega
  have e2 : fld W 8 3 = 4 := by subst hW; simp only [fld, fmtR]; omega
  have e3 : fld W 11 10 = 0 := by subst hW; simp only [fld, fmtR]; omega
  have e4 : fld W 21 5 = d.toNat := by subst hW; simp only [fld, fmtR]; omega
  have e5 : fld W 26 6 = 47 := by subst hW; simp only [fld, fmtR]; omega
  simp [decode_2F W e5, decCopyEng, e0, e1, e2, e3, e4, need, hOk, hr, gr, bit1, sub, BitVec.ofNat_toNat, b2n_one, szOf_code, ordOf_code, amoOf_code, srOf_code, pfOf_code, copySrcOf_code, redOf_code, credFmtOf_code, csrOf_code]

theorem cjoin (a : BitVec 5) (b : BitVec 5) : Statement (.cjoin a b) := by
  refine of_word (w := fmtR 47 0 a.toNat b.toNat 1280) rfl fun hwf => ?_
  generalize hW : fmtR 47 0 a.toNat b.toNat 1280 = W
  have e0 : fld W 0 8 = 0 := by subst hW; simp only [fld, fmtR]; omega
  have e1 : fld W 8 3 = 5 := by subst hW; simp only [fld, fmtR]; omega
  have e2 : fld W 11 5 = b.toNat := by subst hW; simp only [fld, fmtR]; omega
  have e3 : fld W 16 5 = a.toNat := by subst hW; simp only [fld, fmtR]; omega
  have e4 : fld W 21 5 = 0 := by subst hW; simp only [fld, fmtR]; omega
  have e5 : fld W 26 6 = 47 := by subst hW; simp only [fld, fmtR]; omega
  simp [decode_2F W e5, decCopyEng, e0, e1, e2, e3, e4, need, hOk, hr, gr, bit1, sub, BitVec.ofNat_toNat, b2n_one, szOf_code, ordOf_code, amoOf_code, srOf_code, pfOf_code, copySrcOf_code, redOf_code, credFmtOf_code, csrOf_code]

theorem cleave (a : BitVec 5) : Statement (.cleave a) := by
  refine of_word (w := fmtR 47 0 a.toNat 0 1536) rfl fun hwf => ?_
  generalize hW : fmtR 47 0 a.toNat 0 1536 = W
  have e0 : fld W 0 8 = 0 := by subst hW; simp only [fld, fmtR]; omega
  have e1 : fld W 8 3 = 6 := by subst hW; simp only [fld, fmtR]; omega
  have e2 : fld W 11 5 = 0 := by subst hW; simp only [fld, fmtR]; omega
  have e3 : fld W 16 5 = a.toNat := by subst hW; simp only [fld, fmtR]; omega
  have e4 : fld W 21 5 = 0 := by subst hW; simp only [fld, fmtR]; omega
  have e5 : fld W 26 6 = 47 := by subst hW; simp only [fld, fmtR]; omega
  simp [decode_2F W e5, decCopyEng, e0, e1, e2, e3, e4, need, hOk, hr, gr, bit1, sub, BitVec.ofNat_toNat, b2n_one, szOf_code, ordOf_code, amoOf_code, srOf_code, pfOf_code, copySrcOf_code, redOf_code, credFmtOf_code, csrOf_code]

theorem bkptLane (n : BitVec 10) : Statement (.bkptLane n) := by
  refine of_word (w := fmtR 48 0 0 0 0 + n.toNat * 2048) rfl fun hwf => ?_
  generalize hW : fmtR 48 0 0 0 0 + n.toNat * 2048 = W
  have e0 : fld W 0 9 = 0 := by subst hW; simp only [fld, fmtR]; omega
  have e1 : fld W 9 2 = 0 := by subst hW; simp only [fld, fmtR]; omega
  have e2 : fld W 11 10 = n.toNat := by subst hW; simp only [fld, fmtR]; omega
  have e3 : fld W 21 5 = 0 := by subst hW; simp only [fld, fmtR]; omega
  have e4 : fld W 26 6 = 48 := by subst hW; simp only [fld, fmtR]; omega
  simp [decode_30 W e4, decSystem, e0, e1, e2, e3, need, hOk, hr, gr, bit1, sub, BitVec.ofNat_toNat, b2n_one, szOf_code, ordOf_code, amoOf_code, srOf_code, pfOf_code, copySrcOf_code, redOf_code, credFmtOf_code, csrOf_code]

theorem trap (n : BitVec 10) : Statement (.trap n) := by
  refine of_word (w := fmtR 48 0 0 0 1 + n.toNat * 2048) rfl fun hwf => ?_
  generalize hW : fmtR 48 0 0 0 1 + n.toNat * 2048 = W
  have e0 : fld W 0 9 = 1 := by subst hW; simp only [fld, fmtR]; omega
  have e1 : fld W 9 2 = 0 := by subst hW; simp only [fld, fmtR]; omega
  have e2 : fld W 11 10 = n.toNat := by subst hW; simp only [fld, fmtR]; omega
  have e3 : fld W 21 5 = 0 := by subst hW; simp only [fld, fmtR]; omega
  have e4 : fld W 26 6 = 48 := by subst hW; simp only [fld, fmtR]; omega
  simp [decode_30 W e4, decSystem, e0, e1, e2, e3, need, hOk, hr, gr, bit1, sub, BitVec.ofNat_toNat, b2n_one, szOf_code, ordOf_code, amoOf_code, srOf_code, pfOf_code, copySrcOf_code, redOf_code, credFmtOf_code, csrOf_code]

theorem estat (d : BitVec 5) (a : BitVec 5) (b : BitVec 5) : Statement (.estat d a b) := by
  refine of_word (w := fmtR 48 d.toNat a.toNat b.toNat 2) rfl fun hwf => ?_
  generalize hW : fmtR 48 d.toNat a.toNat b.toNat 2 = W
  have e0 : fld W 0 9 = 2 := by subst hW; simp only [fld, fmtR]; omega
  have e1 : fld W 9 2 = 0 := by subst hW; simp only [fld, fmtR]; omega
  have e2 : fld W 11 5 = b.toNat := by subst hW; simp only [fld, fmtR]; omega
  have e3 : fld W 16 5 = a.toNat := by subst hW; simp only [fld, fmtR]; omega
  have e4 : fld W 21 5 = d.toNat := by subst hW; simp only [fld, fmtR]; omega
  have e5 : fld W 26 6 = 48 := by subst hW; simp only [fld, fmtR]; omega
  simp [decode_30 W e5, decSystem, e0, e1, e2, e3, e4, need, hOk, hr, gr, bit1, sub, BitVec.ofNat_toNat, b2n_one, szOf_code, ordOf_code, amoOf_code, srOf_code, pfOf_code, copySrcOf_code, redOf_code, credFmtOf_code, csrOf_code]

theorem dbgr (d : BitVec 5) (a : BitVec 5) : Statement (.dbgr d a) := by
  refine of_word (w := fmtR 48 d.toNat a.toNat 0 3) rfl fun hwf => ?_
  generalize hW : fmtR 48 d.toNat a.toNat 0 3 = W
  have e0 : fld W 0 9 = 3 := by subst hW; simp only [fld, fmtR]; omega
  have e1 : fld W 9 2 = 0 := by subst hW; simp only [fld, fmtR]; omega
  have e2 : fld W 11 5 = 0 := by subst hW; simp only [fld, fmtR]; omega
  have e3 : fld W 16 5 = a.toNat := by subst hW; simp only [fld, fmtR]; omega
  have e4 : fld W 21 5 = d.toNat := by subst hW; simp only [fld, fmtR]; omega
  have e5 : fld W 26 6 = 48 := by subst hW; simp only [fld, fmtR]; omega
  simp [decode_30 W e5, decSystem, e0, e1, e2, e3, e4, need, hOk, hr, gr, bit1, sub, BitVec.ofNat_toNat, b2n_one, szOf_code, ordOf_code, amoOf_code, srOf_code, pfOf_code, copySrcOf_code, redOf_code, credFmtOf_code, csrOf_code]

theorem dbgw (a : BitVec 5) (b : BitVec 5) : Statement (.dbgw a b) := by
  refine of_word (w := fmtR 48 0 a.toNat b.toNat 4) rfl fun hwf => ?_
  generalize hW : fmtR 48 0 a.toNat b.toNat 4 = W
  have e0 : fld W 0 9 = 4 := by subst hW; simp only [fld, fmtR]; omega
  have e1 : fld W 9 2 = 0 := by subst hW; simp only [fld, fmtR]; omega
  have e2 : fld W 11 5 = b.toNat := by subst hW; simp only [fld, fmtR]; omega
  have e3 : fld W 16 5 = a.toNat := by subst hW; simp only [fld, fmtR]; omega
  have e4 : fld W 21 5 = 0 := by subst hW; simp only [fld, fmtR]; omega
  have e5 : fld W 26 6 = 48 := by subst hW; simp only [fld, fmtR]; omega
  simp [decode_30 W e5, decSystem, e0, e1, e2, e3, e4, need, hOk, hr, gr, bit1, sub, BitVec.ofNat_toNat, b2n_one, szOf_code, ordOf_code, amoOf_code, srOf_code, pfOf_code, copySrcOf_code, redOf_code, credFmtOf_code, csrOf_code]

theorem step (row : Nat) (slot : Nat) : Statement (.step row slot) := fun h _ => nomatch h
theorem loadArrival (id : Nat) : Statement (.loadArrival id) := fun h _ => nomatch h
theorem storeAck (id : Nat) : Statement (.storeAck id) := fun h _ => nomatch h
theorem storeFaultReturn (id : Nat) : Statement (.storeFaultReturn id) := fun h _ => nomatch h
theorem landingArrival (id : Nat) : Statement (.landingArrival id) := fun h _ => nomatch h
theorem walkComplete (id : Nat) : Statement (.walkComplete id) := fun h _ => nomatch h
theorem vaultAccess (id : Nat) : Statement (.vaultAccess id) := fun h _ => nomatch h
theorem crossDieWrite (id : Nat) : Statement (.crossDieWrite id) := fun h _ => nomatch h
theorem reductionApply (id : Nat) : Statement (.reductionApply id) := fun h _ => nomatch h
theorem releaseProbe (id : Nat) : Statement (.releaseProbe id) := fun h _ => nomatch h
theorem probeAnswer (id : Nat) (group : Nat) : Statement (.probeAnswer id group) := fun h _ => nomatch h
theorem hatchOpenAccept (core : Nat) : Statement (.hatchOpenAccept core) := fun h _ => nomatch h
theorem hatchReady (core : Nat) (slot : Nat) : Statement (.hatchReady core slot) := fun h _ => nomatch h
theorem hatchForcedClose (core : Nat) (slot : Nat) : Statement (.hatchForcedClose core slot) := fun h _ => nomatch h
theorem htakeTransfer (core : Nat) : Statement (.htakeTransfer core) := fun h _ => nomatch h
theorem hputComplete (core : Nat) : Statement (.hputComplete core) := fun h _ => nomatch h
theorem refreshStart (vault : Nat) : Statement (.refreshStart vault) := fun h _ => nomatch h
theorem refreshEnd (vault : Nat) : Statement (.refreshEnd vault) := fun h _ => nomatch h
theorem scrub (granule : Nat) (corrected : Bool) : Statement (.scrub granule corrected) := fun h _ => nomatch h
theorem pressStepStart (core : Nat) : Statement (.pressStepStart core) := fun h _ => nomatch h
theorem pressStepRetire (core : Nat) : Statement (.pressStepRetire core) := fun h _ => nomatch h
theorem mdrainRead (core : Nat) (slot : Nat) : Statement (.mdrainRead core slot) := fun h _ => nomatch h
theorem copyInject (core : Nat) (ch : Nat) : Statement (.copyInject core ch) := fun h _ => nomatch h
theorem copyDeliver (id : Nat) : Statement (.copyDeliver id) := fun h _ => nomatch h
theorem multicastReplicate (id : Nat) : Statement (.multicastReplicate id) := fun h _ => nomatch h
theorem multicastJoin (core : Nat) (tag : Nat) : Statement (.multicastJoin core tag) := fun h _ => nomatch h
theorem multicastPrune (core : Nat) (tag : Nat) : Statement (.multicastPrune core tag) := fun h _ => nomatch h
theorem routerHop (id : Nat) (fate : HopFate) : Statement (.routerHop id fate) := fun h _ => nomatch h
theorem linkReplay (link : Chan) : Statement (.linkReplay link) := fun h _ => nomatch h
theorem linkRetrain (link : Chan) (ok : Bool) : Statement (.linkRetrain link ok) := fun h _ => nomatch h
theorem peerRequest (src : PeerSource) (pa : Nat) (size : Nat) (kind : PeerKind) (data : BitVec 1024) : Statement (.peerRequest src pa size kind data) := fun h _ => nomatch h
theorem deviceHostWrite (id : Nat) : Statement (.deviceHostWrite id) := fun h _ => nomatch h
theorem deviceHostRead (id : Nat) : Statement (.deviceHostRead id) := fun h _ => nomatch h
theorem deliveryBoundExpiry (id : Nat) : Statement (.deliveryBoundExpiry id) := fun h _ => nomatch h
theorem shootdownComplete (vf : Nat) : Statement (.shootdownComplete vf) := fun h _ => nomatch h
theorem lqtailWrite (vf : Nat) (q : Nat) (v : BitVec 64) : Statement (.lqtailWrite vf q v) := fun h _ => nomatch h
theorem launchFetch (part : Nat) : Statement (.launchFetch part) := fun h _ => nomatch h
theorem launchMessage (row : Nat) : Statement (.launchMessage row) := fun h _ => nomatch h
theorem launchAck (row : Nat) : Statement (.launchAck row) := fun h _ => nomatch h
theorem goMessage (row : Nat) : Statement (.goMessage row) := fun h _ => nomatch h
theorem sliceEnd (row : Nat) : Statement (.sliceEnd row) := fun h _ => nomatch h
theorem sliceIdleEnd (row : Nat) : Statement (.sliceIdleEnd row) := fun h _ => nomatch h
theorem teamSave (row : Nat) : Statement (.teamSave row) := fun h _ => nomatch h
theorem teamRestore (row : Nat) : Statement (.teamRestore row) := fun h _ => nomatch h
theorem groupArrival (msg : Nat) : Statement (.groupArrival msg) := fun h _ => nomatch h
theorem groupCompletion (msg : Nat) : Statement (.groupCompletion msg) := fun h _ => nomatch h
theorem memberLower (msg : Nat) : Statement (.memberLower msg) := fun h _ => nomatch h
theorem mailboxToken (msg : Nat) : Statement (.mailboxToken msg) := fun h _ => nomatch h
theorem dispenserRequest (msg : Nat) : Statement (.dispenserRequest msg) := fun h _ => nomatch h
theorem rowReport (row : Nat) : Statement (.rowReport row) := fun h _ => nomatch h
theorem jctlKill (vf : Nat) : Statement (.jctlKill vf) := fun h _ => nomatch h
theorem jctlPre (vf : Nat) : Statement (.jctlPre vf) := fun h _ => nomatch h
theorem jctlRes (vf : Nat) : Statement (.jctlRes vf) := fun h _ => nomatch h
theorem xshootWrite (vf : Nat) (v : BitVec 64) : Statement (.xshootWrite vf v) := fun h _ => nomatch h
theorem bar2Read (vf : Nat) (off : Nat) (size : Nat) : Statement (.bar2Read vf off size) := fun h _ => nomatch h
theorem bar2Write (vf : Nat) (off : Nat) (size : Nat) (data : Nat) : Statement (.bar2Write vf off size data) := fun h _ => nomatch h
theorem partWrite (p : Nat) (v : BitVec 64) : Statement (.partWrite p v) := fun h _ => nomatch h
theorem vfmapWrite (f : Nat) (v : BitVec 64) : Statement (.vfmapWrite f v) := fun h _ => nomatch h
theorem attest (vf : Nat) (ctx : Nat) : Statement (.attest vf ctx) := fun h _ => nomatch h
theorem keyload (vf : Nat) (ctx : Nat) : Statement (.keyload vf ctx) := fun h _ => nomatch h
theorem keydrop (vf : Nat) (ctx : Nat) : Statement (.keydrop vf ctx) := fun h _ => nomatch h
theorem vaulterr (vf : Nat) (ctx : Nat) : Statement (.vaulterr vf ctx) := fun h _ => nomatch h
theorem rowpwrRun (row : Nat) (opp : Nat) : Statement (.rowpwrRun row opp) := fun h _ => nomatch h
theorem rowpwrIdle (row : Nat) (opp : Nat) : Statement (.rowpwrIdle row opp) := fun h _ => nomatch h
theorem rowpwrOff (row : Nat) (opp : Nat) : Statement (.rowpwrOff row opp) := fun h _ => nomatch h
theorem rowpwrOpp (row : Nat) (opp : Nat) : Statement (.rowpwrOpp row opp) := fun h _ => nomatch h
theorem oppSwitchDone (row : Nat) : Statement (.oppSwitchDone row) := fun h _ => nomatch h
theorem plimitWrite (v : BitVec 64) : Statement (.plimitWrite v) := fun h _ => nomatch h
theorem thermalTrip (die : Nat) : Statement (.thermalTrip die) := fun h _ => nomatch h
theorem deviceReset (avail : Nat) (boot : Bringup) : Statement (.deviceReset avail boot) := fun h _ => nomatch h
theorem xtctlHalt (row : Nat) : Statement (.xtctlHalt row) := fun h _ => nomatch h
theorem xtctlRelease (row : Nat) : Statement (.xtctlRelease row) := fun h _ => nomatch h
theorem trctlPulse : Statement .trctlPulse := fun h _ => nomatch h
theorem samplingPeriod : Statement .samplingPeriod := fun h _ => nomatch h
theorem dumpctlGo (id : Nat) : Statement (.dumpctlGo id) := fun h _ => nomatch h
theorem dumpMarker (link : Nat) (id : Nat) : Statement (.dumpMarker link id) := fun h _ => nomatch h
theorem watchUpdate (core : Nat) (word : Nat) (v : BitVec 64) : Statement (.watchUpdate core word v) := fun h _ => nomatch h
theorem registerWrite (space : RegSpace) (off : Nat) (v : BitVec 64) : Statement (.registerWrite space off v) := fun h _ => nomatch h
theorem pauseEnd (row : Nat) (slot : Nat) : Statement (.pauseEnd row slot) := fun h _ => nomatch h
theorem yieldHoldEnd (row : Nat) (slot : Nat) : Statement (.yieldHoldEnd row slot) := fun h _ => nomatch h
theorem loadPhaseStart (part : Nat) : Statement (.loadPhaseStart part) := fun h _ => nomatch h
theorem linkUp (link : Nat) : Statement (.linkUp link) := fun h _ => nomatch h
theorem routeChange (report : RouteReport) : Statement (.routeChange report) := fun h _ => nomatch h
theorem uncorrectableError (t : ErrTarget) : Statement (.uncorrectableError t) := fun h _ => nomatch h
end RoundTrip
end Sys2Proof.Laws
end

