-- ==== Sys2Proof/Safety.lean ====
section
/-! DEFINITION. The vocabulary of the statements: what it is for a strand to be free to execute an instruction, and what the
machine looks like after one, in the words of the spec. -/

namespace Sys2Proof.Machine

/-- The answer is a next state with a property. -/
def Completes (o : Host.Outcome State Fault Refusal) (p : State → Prop) : Prop := ∃ t, o = .next t ∧ p t

/-! The strand that an instruction is executed for. -/

/-- The head state of the strand that exec acts for. -/
def me (s : State) : Head := getHead s s.curRow s.curSlot

/-- The machine with another head state of that strand. -/
def setMe (s : State) (h : Head) : State := setHead s s.curRow s.curSlot h

/-- The strand's state at a core of its row. -/
def laneAt (s : State) (c : Nat) : Lane := getLane s s.curRow c s.curSlot

/-- The core of a column of the strand's row. -/
def coreAt (s : State) (c : Nat) : Core := getCore s (coreIx s.curRow c)

/-- An h register that a read of does not trap POISON (R364). -/
def hSound (h : Head) (a : BitVec 4) : Prop := a = 0 ∨ isIn a.toNat h.poison = false

/-- The strand holds no waiting or committing operation and no prefix, and the registers read are not poisoned: a head
instruction that reads them is executed (R70, R117, R119, R364). -/
def HeadReady (s : State) (reads : List (BitVec 4)) : Prop :=
  (me s).commit = none ∧ (me s).wait = .no ∧ (me s).pend = none ∧ ∀ a ∈ reads, hSound (me s) a

/-- The same, with every earlier lane instruction of the strand executed at every core (R118, R131). -/
def HeadDrained (s : State) (reads : List (BitVec 4)) : Prop := HeadReady s reads ∧ (me s).flights = []

/-- Does the word at pc end the body of the active loop (R125)? -/
def atLoopEnd (h : Head) : Bool := !h.handler && h.loopc != 0 && (h.pc + 4).setWidth 64 == h.loope

/-- The poisoned registers of a head, with LOOPC's poison gone where LOOPC is written with 0 (R364). -/
def loopHealed (ends : Bool) (l : List Nat) : List Nat := if ends then l.filter (· != 0x810) else l

/-- The head after a word that goes on to the next: one loop iteration counted off at the end of a body, else the word
that follows (R117, R125); in step mode at task level a step is due (R375). -/
def goOn (h : Head) : Head :=
  { h with
    pc := if atLoopEnd h && 1 < h.loopc.toNat then h.loops.setWidth 48 else h.pc + 4
    loopc := if atLoopEnd h then h.loopc - 1 else h.loopc
    poison := loopHealed (atLoopEnd h && !(1 < h.loopc.toNat)) h.poison
    pend := none, skipBreak := none, wait := .no, why := 0, stepDue := h.stepMode && !h.handler }

/-- Does a jump end the active loop: its target is outside the body (R125)? -/
def leavesLoop (h : Head) (t : VAddr) : Bool :=
  !h.handler && h.loopc != 0 && (t.toNat < h.loops.toNat || h.loope.toNat ≤ t.toNat)

/-- The head after a jump: a target outside the body of the active loop ends the loop (R124, R125). -/
def goTo (h : Head) (t : VAddr) : Head :=
  { h with
    pc := t
    loopc := if leavesLoop h t then 0 else h.loopc
    poison := loopHealed (leavesLoop h t) h.poison
    pend := none, skipBreak := none, wait := .no, why := 0, stepDue := h.stepMode && !h.handler }

/-- An access of a row's head waits for no walk, nor has it waited (R270). -/
def NoWalk (s : State) (place : WalkPlace) (va : Word) (size : Nat) : Prop :=
  let who := ctxOf s place.row
  waitsAt s place = [] ∧ missWaits s (dieOfRow place.row) who.1 who.2
    (missPages (getRow s place.row).itlb who.1 who.2 va size (BitVec.allOnes 32)) = false

/-- A head instruction that writes hd and goes on. -/
def headEnds (s : State) (d : BitVec 4) (v : Word) : Host.Outcome State Fault Refusal := .next (setMe s (goOn (wrH (me s) d v)))

/-- A new region opens behind the instruction: REGPC and the loop snapshot (R119, R127). -/
def opened (h : Head) : Head :=
  { h with region := h.region + 1, regpc := h.pc.setWidth 64, rloopc := h.loopc, rloops := h.loops, rloope := h.loope,
           poison := snapPoison h.poison }

/-- What a CSR reads as after a write (R146 to R149), from the level, the value before and the value written: addresses keep bits 47:2,
a breakpoint register also bit 0, TCAUSE its 21 bits, MSTATUS its three; of SST, DRM takes the codes 1 to 5 at both levels,
STEP, PP and PXS are written at handler level, LVL and FSUM never. -/
def csrAfter (handler : Bool) (c : Csr) (old new : Word) : Word :=
  match c with
  | .sst =>
    let part (b : Bool) (lo n : Nat) : Nat := (bits (if b then new else old) lo n) * 2 ^ lo
    let drm := 1 ≤ bits new 4 3 && bits new 4 3 ≤ 5
    BitVec.ofNat 64 (part false 0 1 + part handler 1 1 + part handler 2 1 + part drm 4 3 + part false 7 5 + part handler 32 32)
  | .tvec | .tpc | .regpc | .loops | .loope | .rloops | .rloope => new &&& 0x0000FFFFFFFFFFFC
  | .bka0 | .bka1 | .bka2 | .bka3 => new &&& 0x0000FFFFFFFFFFFD
  | .tcause => new &&& 0x1FFFFF
  | .mstatus => new &&& 7
  | .cycle => old
  | .tval | .loopc | .rloopc | .hsave0 | .hsave1 => new

/-- A message has left, with the next packet number of the router where it enters the fabric (R333, R336). -/
def sends (s : State) (m : Msg) : State :=
  let code := (msgEnds s m).1
  let n := tget s.pkts code 0
  { s with msgs := tput s.msgs s.fresh m, msgAt := tput s.msgAt s.fresh s.now, fresh := s.fresh + 1, pkts := tput s.pkts code (n + 1),
           msgPkt := tput s.msgPkt s.fresh { Pkt.new with num := BitVec.ofNat 8 n } }

/-! Traps (R354 to R356). -/

/-- OR of the strand's five flags over the cores (R147). -/
def flagsOf (s : State) : BitVec 5 :=
  (List.range 16).foldl (fun f c => f ||| (laneAt s c).estat.setWidth 5) 0

/-- The head on entry to the handler (R355): cause, column, value and address recorded, handler level, at TVEC. -/
def entered (h : Head) (flags : BitVec 5) (c : Cause) (col : Nat) (tval : Word) (tpc : VAddr) : Head :=
  { h with
    flights := [], commit := none, pend := none, wait := .no, why := 0, stepDue := false, skipBreak := none
    tcause := BitVec.ofNat 64 (c.code + 65536 * col), tval := tval, tpc := tpc.setWidth 64, handler := true, fsum := flags
    pc := h.tvec.setWidth 48, poison := trapPoison h.poison }

/-- The strand can enter its handler: at task level, with a TVEC (R355, R356) that is not poisoned (R364). -/
def CanTrap (s : State) : Prop := (me s).handler = false ∧ (me s).tvec ≠ 0 ∧ isIn 0x801 (me s).poison = false

/-- What a trap leaves as it was: memory unless it is traced, every lane but for the strand's traps that lose to this one (R357), the heads
of other strands. -/
def TrapFrame (s t : State) : Prop :=
  (∀ c < 16, getLane t s.curRow c s.curSlot = { laneAt s c with events := (laneAt s c).events.filter fun e => e.at_.isNone }) ∧
  (∀ r c sl, c < 16 → sl < 8 → s.curSlot < 8 → (r, sl) ≠ (s.curRow, s.curSlot) → getLane t r c sl = getLane s r c sl) ∧
  (s.dbg.tren = false → t.mem = s.mem) ∧
  (∀ r sl, sl < 8 → s.curSlot < 8 → (r, sl) ≠ (s.curRow, s.curSlot) → getHead t r sl = getHead s r sl)

/-- The answer is the entry to the handler with a cause and value, at the head, for the instruction reached (R118, R355). -/
def HeadTraps (s : State) (o : Host.Outcome State Fault Refusal) (c : Cause) (tval : Word) : Prop :=
  Completes o fun t =>
    getHead t s.curRow s.curSlot = entered (me s) (flagsOf s) c 31 tval (if (me s).pend.isSome then (me s).pc - 4 else (me s).pc) ∧
    TrapFrame s t

/-! Lane instructions. -/

/-- Nothing but the strand's own head and lanes has changed. -/
def OnlyStrand (s t : State) : Prop :=
  t = { s with heads := t.heads, lanes := t.lanes } ∧
  (∀ r sl, sl < 8 → (r, sl) ≠ (s.curRow, s.curSlot) → getHead t r sl = getHead s r sl) ∧
  (∀ r c sl, c < 16 → sl < 8 → (r, sl) ≠ (s.curRow, s.curSlot) → getLane t r c sl = getLane s r c sl)

/-- A west register that can be captured at a core: full, and not poisoned where it is a g register (R25, R364). -/
def westReady (l : Lane) (i : Instr) : Prop :=
  match westReg i with
  | none => True
  | some (true, n) => vEmpty l n = false
  | some (false, n) => gEmpty l n = false ∧ isIn n.toNat l.poison = false

/-- A v register captured as the west word lies in no poisoned granule of its pool (R244, R261). -/
def westSound (s : State) (c : Nat) (i : Instr) : Prop :=
  match westReg i with
  | some (true, n) => poolBad (coreAt s c) (vregAddr (pwordOf s s.curRow) s.curSlot n.toNat) 128 = none
  | _ => True

/-- The strand can take a lane instruction through the whole row at once (R19 to R26, R80, R357, R361, R364): it is legal, the strand
runs, holds no waiting, committing or lane work, nothing is due at any core, nor is a recorded access still to be issued again, and
at every core no other strand's instruction can be ready (R22), the vector unit is free for it (R188), the mask is not poisoned and the
west register can be captured. -/
def LaneReady (s : State) (i : Instr) : Prop :=
  s.curRow < 32 ∧ s.curSlot < 8 ∧
  (me s).commit = none ∧ (me s).wait = .no ∧ (me s).flights = [] ∧ (me s).stall = [] ∧
  strandRuns s s.curRow s.curSlot = true ∧
  laneLegal (pwordOf s s.curRow) (me s).handler i (pxOf (me s)) = true ∧
  headPoison (me s) (feedRegs i) = none ∧
  ∀ c < 16,
    (laneAt s c).events = [] ∧ (laneAt s c).recs = [] ∧ westReady (laneAt s c) i ∧
    ((pxOf (me s)).msk = 0 ∨ isIn (0x200 + (pxOf (me s)).msk.toNat) (laneAt s c).poison = false) ∧
    ((me s).handler = true ∨ (laneAt s c).retry = []) ∧ westSound s c i ∧
    coreFree s s.curRow s.curSlot c = true ∧ vecFree s s.curRow c i = true

/-- A source that is there: full, and not poisoned (R36, R150, R261). -/
def sourceReady (s : State) (c : Nat) (q : Src) : Prop :=
  srcEmpty (laneAt s c) q = false ∧
  match q with
  | .g n _ => isIn n.toNat (laneAt s c).poison = false
  | .v n _ => poolBad (coreAt s c) (vregAddr (pwordOf s s.curRow) s.curSlot n.toNat) 128 = none
  | .m n => isIn (0x200 + n.toNat) (laneAt s c).poison = false

/-- The lane instruction can run and its sources are there at every core. -/
def LaneRuns (s : State) (i : Instr) (srcs : List Src) : Prop :=
  LaneReady s i ∧ ∀ c < 16, ∀ q ∈ srcs, sourceReady s c q

/-- The instruction has gone through the row: the head has gone on, and at every core the strand's state is what eff
makes of its state before, in the order of the columns (R22). -/
def LaneDone (s t : State) (eff : Nat → Lane) : Prop :=
  OnlyStrand s t ∧ getHead t s.curRow s.curSlot = goOn (me s) ∧ ∀ c < 16, getLane t s.curRow c s.curSlot = eff c

/-- The scalar west operand at a core (R24): h15 at core 0, else the register of the core to the west, after the instruction
there. -/
def westWord (s t : State) (c : Nat) (n : BitVec 5) : Word :=
  if c = 0 then rdH (me s) 15 else rdG (getLane t s.curRow (c - 1) s.curSlot) n

/-- The vector west operand at a core (R24, R186): at core 0 the low bits of h15 in every element of the format's width. -/
def westVec (s t : State) (c : Nat) (code : Nat) (n : BitVec 5) : Vec :=
  if c = 0 then replicated (codeWidth code) (rdH (me s) 15) else rdV (getLane t s.curRow (c - 1) s.curSlot) n

/-- Operand a of a scalar instruction at a core. -/
def opA (s t : State) (c : Nat) (a : BitVec 5) (w : West) : Word := if w = .a then westWord s t c a else rdG (laneAt s c) a

/-- Operand b of a scalar instruction at a core. -/
def opB (s t : State) (c : Nat) (b : BitVec 5) (w : West) : Word := if w = .b then westWord s t c b else rdG (laneAt s c) b

/-- Operand a of a vector instruction at a core, west at the width of a format code. -/
def vopA (s t : State) (c : Nat) (a : BitVec 5) (w : West) (code : BitVec 4) : Vec :=
  if w = .a then westVec s t c code.toNat a else rdV (laneAt s c) a

/-- Operand b of a vector instruction at a core. -/
def vopB (s t : State) (c : Nat) (b : BitVec 5) (w : West) (code : BitVec 4) : Vec :=
  if w = .b then westVec s t c code.toNat b else rdV (laneAt s c) b

/-! Results with flags, and vector results. -/

/-- The rounding mode of the instruction: its PX field, DRM where that is 0 (R66, R147). -/
def modeOf (s : State) : Rm := rmx (pxOf (me s)).rm (me s).drm

/-- At every core the IV trap is off, or the instruction takes no west operand and raises no IV there (R97). -/
def NoIv (s : State) (west : Bool) (raises : Nat → Prop) : Prop :=
  ∀ c < 16, (laneAt s c).estat.getLsbD 8 = false ∨ (west = false ∧ ¬ raises c)

/-- A scalar result and the flags that it ORs into ESTAT (R96, R154). -/
def flagged (l : Lane) (d : BitVec 5) (r : Nat × Fl) : Lane := orFlags (wrG l d (BitVec.ofNat 64 r.1)) r.2

/-- Is element j active (R183)? -/
def activeAt (l : Lane) (p : Px) (j : Nat) : Bool := (rdM l p.msk).getLsbD j

/-- What a masked vector result leaves of a lane (R182 to R184): e elements of n bits in vd, the active ones computed,
the others 0 or kept by mz, the bits above them 0; ESTAT takes the flags of the active elements. -/
def VecWrites (l l' : Lane) (p : Px) (d : BitVec 5) (n e : Nat) (r : Nat → Nat × Fl) : Prop :=
  ∃ (v : Vec) (fl : Fl), l' = wrV (orFlags l fl) d v ∧ v.toNat < 2 ^ (n * e) ∧
    (∀ j < e, elem v n j = if activeAt l p j then (r j).1 % 2 ^ n else if p.mz then 0 else elem (rdV l d) n j) ∧
    (∀ b < 5, fl.getLsbD b = true ↔ ∃ j < e, activeAt l p j = true ∧ (r j).2.getLsbD b = true)

/-- The vector instruction can run, its sources are there, and no granule of the row's pools is poisoned. -/
def VecRuns (s : State) (i : Instr) (srcs : List Src) : Prop :=
  LaneRuns s i srcs ∧ ∀ c < 16, (coreAt s c).poolPoison = []

/-- The instruction has gone through the row and at every core the lane has changed as a relation says. -/
def LaneRel (s t : State) (rel : Nat → Lane → Lane → Prop) : Prop :=
  OnlyStrand s t ∧ getHead t s.curRow s.curSlot = goOn (me s) ∧
    ∀ c < 16, rel c (laneAt s c) (getLane t s.curRow c s.curSlot)

/-! Instructions that act on the cores. -/

/-- Nothing but the strand's own head and lanes and the cores of its row has changed. -/
def OnlyCores (s t : State) : Prop :=
  t = { s with heads := t.heads, lanes := t.lanes, cores := t.cores } ∧
  (∀ r sl, sl < 8 → (r, sl) ≠ (s.curRow, s.curSlot) → getHead t r sl = getHead s r sl) ∧
  (∀ r c sl, c < 16 → sl < 8 → (r, sl) ≠ (s.curRow, s.curSlot) → getLane t r c sl = getLane s r c sl) ∧
  (∀ k, (∀ c < 16, k ≠ coreIx s.curRow c) → getCore t k = getCore s k)

/-- The head becomes hd, and at every core the strand's state and the core change as a relation says. -/
def CoreRel (s t : State) (hd : Head) (rel : Nat → Lane → Lane → Core → Core → Prop) : Prop :=
  OnlyCores s t ∧ getHead t s.curRow s.curSlot = hd ∧
    ∀ c < 16, rel c (laneAt s c) (getLane t s.curRow c s.curSlot) (coreAt s c) (coreAt t c)

/-- The same with identifiers, packet numbers and requests taken on the way. -/
def CoreRelNew (s t : State) (hd : Head) (rel : Nat → Lane → Lane → Core → Core → Prop) : Prop :=
  CoreRel { s with fresh := t.fresh, reqs := t.reqs, pkts := t.pkts } t hd rel

/-- The head once every core has accepted a committing instruction: a new region opens at the next one (R119, R165). -/
def acceptedHead (h : Head) : Head := opened (goOn h)

/-- A trap at core 0 for the instruction reached there; nothing is said of what the instruction had done before. -/
def TrapsAt0 (s : State) (i : Instr) (c : Cause) (v : Word) : Prop :=
  Completes (exec i s) fun t => (s.dbg.tren = false → t.mem = s.mem) ∧ getHead t s.curRow s.curSlot =
    entered (goOn (me s)) (flagsOf s) c 0 v (if (me s).pend.isSome then (me s).pc - 4 else (me s).pc)

/-- A trap at core 0 before the instruction has written anything: no register, flag or byte of memory has changed. -/
def TrapsClean0 (s : State) (i : Instr) (c : Cause) (v : Word) : Prop :=
  Completes (exec i s) fun t => TrapFrame s t ∧ getHead t s.curRow s.curSlot =
    entered (goOn (me s)) (flagsOf s) c 0 v (if (me s).pend.isSome then (me s).pc - 4 else (me s).pc)

/-- Where core 0 has IVE set and one of e elements would set IV there, the instruction traps IV with the lowest such element in TVAL
(R97, R354). -/
def IvTraps (s : State) (i : Instr) (e : Nat) (raises : Nat → Prop) : Prop :=
  CanTrap s → (laneAt s 0).estat.getLsbD 8 = true →
    ∀ j < e, raises j → (∀ k < j, ¬ raises k) → TrapsClean0 s i .iv (BitVec.ofNat 64 j)

/-! The step and the invariant. -/

/-- A row has no lane work outstanding and no recorded access to issue again, its turn is next, the head takes a strand, whose next word
waits for no walk, and nothing is due at it before that word. -/
def NextWord (s : State) (r sl : Nat) : Prop :=
  s.agenda = [] ∧ s.turn = r ∧ r < 32 ∧
  (∀ t < 8, (getHead s r t).flights = [] ∧ (getHead s r t).commit = none ∧ retryDue s r t = false) ∧
  (∀ t < 8, ∀ c < 16, ∀ e ∈ (getLane s r c t).events, e.at_ = none) ∧
  NoWalk s (.fetch r sl) ((getHead s r sl).pc.setWidth 64) 4 ∧
  pickStrand s r = some sl ∧ (getHead s r sl).events = [] ∧ (∀ c < 16, (getLane s r c sl).events = []) ∧
  (getHead s r sl).stepDue = false

/-- The state in which the strand's next word is read: its turn has begun, and a prefix read before the word is kept in SST (R71). -/
def prefixKept (s : State) (r sl : Nat) : State :=
  let u := beginIssue s r sl
  match (me u).pend with
  | some p => setMe u { me u with pend := none, pp := true, pxs := BitVec.ofNat 32 (fmtPx p) }
  | none => u

/-- The invariant: the memory is in its canonical form, and the next identifier of a request is above 0. -/
def Kept (s : State) : Prop := memWf s.mem = true ∧ 0 < s.fresh

end Sys2Proof.Machine
end

