-- ==== Sys2Proof/Certificates/Slice0/Obligations.lean ====
section
/-! DEFINITION. The statements about the model, from the numbered rules of the spec. -/

open Sys2Proof Sys2Proof.Machine

/-- R19, R69, R80: where the strand that the head takes has a word at its program counter that the head may fetch, and the word decodes
to i, a step is exec of i, with the prefix read before it, in a state of the same memory, lanes and strand, for that strand, in
which the row's cycle has been counted and the leaf is cached; the cores are those of that cycle, the same where no Press step of the
row is running. The fetch waits for no walk (R270; log entry 90). Where the schedule's next move is an event, a step is exec of the event.
The schedule is the model's (log entry 5). -/
def Obligations.StepRunsDecoded : Prop :=
  (∀ (s : State) (r sl pa : Nat) (attr : Attr) (e : TlbEntry) (i : Instr), NextWord s r sl →
    let h := getHead s r sl
    breakDue h = false →
    headXlate s r .fetch (h.pc.setWidth 64) = .ok (pa, attr, e) → physBad s pa 4 = none →
    decode (physRdN s (attrKey s attr) pa 4) = .ok i →
    ∃ t, step s = exec (match h.pend with | some p => i.withPx p | none => i) t ∧
      t.curRow = r ∧ t.curSlot = sl ∧ me t = h ∧ t.lanes = s.lanes ∧ t.mem = s.mem ∧ t.reqs = s.reqs ∧
      t.cores = (beginIssue s r sl).cores ∧ ((∀ c < 16, (getCore s (coreIx r c)).running = none) → t.cores = s.cores) ∧
      (getRow t r).last = sl ∧ e ∈ (getRow t r).itlb ∧
      ((getRow s r).cur ≠ .off → (getRow t r).cycle = (getRow s r).cycle + 1)) ∧
  (∀ (s : State) (i : Instr) (l : List Move), s.agenda = .event i :: l → i.isEvent = true →
    step s = exec i { s with agenda := l })

/-- R81, R71, R149, R271: a word that decodes to nothing traps ILLEGAL with the word and its prefix in TVAL, at the prefix;
a word that the head may not fetch, or that an enabled breakpoint matches, traps at its own address, with the prefix before it kept
in SST. A word in a poisoned granule traps POISON (R354, R261); that TVAL is then the granule of the virtual address is the model's
reading (DEDUCED, log entry 18). -/
def Obligations.StepTraps : Prop :=
  ∀ (s : State) (r sl : Nat), NextWord s r sl →
    let h := getHead s r sl
    let pc : Word := h.pc.setWidth 64
    h.handler = false → h.tvec ≠ 0 → isIn 0x801 h.poison = false →
    (breakDue h = true → HeadTraps (prefixKept s r sl) (step s) .break pc) ∧
    (breakDue h = false →
      (∀ c, headXlate s r .fetch pc = .error c → HeadTraps (prefixKept s r sl) (step s) c pc) ∧
      (∀ pa attr e, headXlate s r .fetch pc = .ok (pa, attr, e) →
        ((physBad s pa 4).isSome = true →
          HeadTraps (prefixKept s r sl) (step s) .poison (BitVec.ofNat 64 (h.pc.toNat / 64 * 64))) ∧
        (physBad s pa 4 = none → ∀ x, decode (physRdN s (attrKey s attr) pa 4) = .error x →
          HeadTraps (beginIssue s r sl) (step s) .illegal (BitVec.ofNat 64 (physRdN s (attrKey s attr) pa 4 +
            2 ^ 32 * (match h.pend with | some p => fmtPx p | none => 0))))))

/-- R61 to R81: words of every family as the spec writes them out, and words that it refuses. -/
def Obligations.DecodeWords : Prop :=
  decode 0x04C6FFFF = .ok (.addiHead 6 6 0xFFFF) ∧ decode 0x14E10003 = .ok (.shliHead 7 1 3) ∧
  decode 0x200C0003 = .ok (.beq 6 0 3) ∧ decode 0x204C0FFA = .ok (.bne 6 0 0xFFA) ∧ decode 0x2C4C0004 = .ok (.loop 6 4) ∧
  decode 0x2C1C0000 = .ok (.jr 14 0) ∧ decode 0x30C40000 = .ok (.ldD 6 4 0 false) ∧ decode 0x34C00005 = .ok (.twait 6) ∧
  decode 0x34002808 = .ok (.svc 5) ∧ decode 0x38E64003 = .ok (.gvote .sum 7 6 8) ∧ decode 0x3C091001 = .ok (.csrw .tvec 9) ∧
  decode 0x40210A00 = .ok (.add 1 1 1 .b) ∧ decode 0x4440E000 = .ok (.addConst 2 0 0xE0) ∧ decode 0x64642804 = .ok (.fma 3 4 5 .no) ∧
  decode 0x68A60000 = .ok (.hget 5 6) ∧ decode 0x6C830108 = .ok (.ld 4 3 16 .w false) ∧ decode 0x70A6000A = .ok (.st 5 6 0 .w true) ∧
  decode 0x74830040 = .ok (.ldv 4 3 2 false) ∧ decode 0x79AE0009 = .ok (.stp 13 14 0 .w) ∧ decode 0x7EAB0008 = .ok (.ldl 21 11 0 .w 0) ∧
  decode 0x81AE1000 = .ok (.take 13 14 2) ∧ decode 0x84C740F0 = .ok (.amo .add true .ar 6 7 8) ∧
  decode 0x88074029 = .ok (.red .fadd false false 7 8) ∧ decode 0x8C001802 = .ok (.bar 3) ∧ decode 0x90411200 = .ok (.vadd 2 1 2 .b) ∧
  decode 0x98411802 = .ok (.vcmp .lt 2 1 3 .no) ∧ decode 0x9CE50000 = .ok (.vcvt 7 5 false) ∧ decode 0xA8A40000 = .ok (.vred .add 5 4) ∧
  decode 0xB0AA24CF = .ok (.mma .mp .bf16 37 2 4 15) ∧ decode 0xB4020103 = .ok (.rpush 3 2) ∧ decode 0xB8050005 = .ok (.hopen true 1 5) ∧
  decode 0xBC495031 = .ok (.copy .pool .ring 1 2 9 10) ∧ decode 0xC0A63802 = .ok (.estat 5 6 7) ∧
  decode 0xFD408887 = .ok (.px ⟨2, true, 0, 1, 1, 1, false, false, 7⟩) ∧
  (∀ w ∈ [0x200, 0x40210E00, 0x21800000, 0xC4000000, 0xB0000280, 0xB0010C13, 0xBC0000C0], ∃ x, decode w = .error x)

/-- R59 to R80: the words of a well-formed instruction stand for that instruction, with every operand at every value that
its encoding admits. -/
def Obligations.DecodeEncode : Prop :=
  ∀ i : Instr, i.isEvent = false → i.wellFormed = true → Laws.readWords (encode i) = some i

/-- Every step keeps the invariant, whatever the instruction or event. The form is the model's (log entry 2). -/
def Obligations.InvariantKept : Prop := ∀ s t : State, Kept s → step s = .next t → Kept t

/-- R393, R146, R147, R350: after reset the invariant holds, every available row is IDLE at OPP 6 and no partition is enabled; a strand
that is placed begins at task level, with no trap handler, no loop, and rounding to nearest even. That all 32 rows are available
after State.reset is the model's choice (DESIGN CHOICE, log entry 3). -/
def Obligations.InvariantAtReset : Prop :=
  Kept State.reset ∧ (∀ r < 32, (getRow State.reset r).cur = .idle ∧ (getRow State.reset r).opp = 6) ∧
  (∀ p < 8, (getPart State.reset p).en = false) ∧ Head.reset.handler = false ∧ Head.reset.tvec = 0 ∧ Head.reset.loopc = 0 ∧
  Head.reset.drm = 1

/-- R121: each head register operation writes its result, computed on integers, to hd and goes on; nothing else changes. -/
def Obligations.HeadArithmetic : Prop :=
  ∀ (s : State) (d a b : BitVec 4), HeadReady s [a, b] →
    let x := rdH (me s) a
    let y := rdH (me s) b
    let n := y.toNat % 64
    exec (.addHead d a b) s = headEnds s d (BitVec.ofInt 64 (x.toInt + y.toInt)) ∧
    exec (.subHead d a b) s = headEnds s d (BitVec.ofInt 64 (x.toInt - y.toInt)) ∧
    exec (.andHead d a b) s = headEnds s d (x &&& y) ∧
    exec (.orHead d a b) s = headEnds s d (x ||| y) ∧
    exec (.xorHead d a b) s = headEnds s d (x ^^^ y) ∧
    exec (.shlHead d a b) s = headEnds s d (BitVec.ofNat 64 (x.toNat * 2 ^ n)) ∧
    exec (.shrHead d a b) s = headEnds s d (BitVec.ofNat 64 (x.toNat / 2 ^ n)) ∧
    exec (.sarHead d a b) s = headEnds s d (BitVec.ofInt 64 (x.toInt / 2 ^ n)) ∧
    exec (.mulHead d a b) s = headEnds s d (BitVec.ofInt 64 (x.toInt * y.toInt)) ∧
    exec (.sltHead d a b) s = headEnds s d (if x.toInt < y.toInt then 1 else 0) ∧
    exec (.sltnHead d a b) s = headEnds s d (if x.toNat < y.toNat then 1 else 0) ∧
    exec (.minHead d a b) s = headEnds s d (BitVec.ofInt 64 (min x.toInt y.toInt)) ∧
    exec (.maxHead d a b) s = headEnds s d (BitVec.ofInt 64 (max x.toInt y.toInt))

/-- R122: the immediate forms at the head. -/
def Obligations.HeadImmediate : Prop :=
  ∀ (s : State) (d a : BitVec 4) (imm : BitVec 16) (n : BitVec 6), HeadReady s [a] →
    let x := rdH (me s) a
    let k := BitVec.ofInt 64 imm.toInt
    exec (.addiHead d a imm) s = headEnds s d (BitVec.ofInt 64 (x.toInt + imm.toInt)) ∧
    exec (.andiHead d a imm) s = headEnds s d (x &&& k) ∧
    exec (.oriHead d a imm) s = headEnds s d (x ||| k) ∧
    exec (.xoriHead d a imm) s = headEnds s d (x ^^^ k) ∧
    exec (.shliHead d a n) s = headEnds s d (BitVec.ofNat 64 (x.toNat * 2 ^ n.toNat)) ∧
    exec (.shriHead d a n) s = headEnds s d (BitVec.ofNat 64 (x.toNat / 2 ^ n.toNat)) ∧
    exec (.sariHead d a n) s = headEnds s d (BitVec.ofInt 64 (x.toInt / 2 ^ n.toNat)) ∧
    exec (.liHead d imm) s = headEnds s d k ∧
    exec (.luiHead d a imm) s = headEnds s d (BitVec.ofNat 64 (x.toNat * 2 ^ 16 + imm.toNat))

/-- R123, R125: a conditional branch goes to its address + 4 x SExt(off12, 12) where its condition holds, else on. -/
def Obligations.Branches : Prop :=
  ∀ (s : State) (a b : BitVec 4) (off : BitVec 12), HeadReady s [a, b] →
    let h := me s
    let x := rdH h a
    let y := rdH h b
    let goes (c : Prop) [Decidable c] : Host.Outcome State Fault Refusal :=
      .next (setMe s (if c then goTo h (BitVec.ofInt 48 (h.pc.toNat + 4 * off.toInt)) else goOn h))
    exec (.beq a b off) s = goes (x = y) ∧
    exec (.bne a b off) s = goes (x ≠ y) ∧
    exec (.blt a b off) s = goes (x.toInt < y.toInt) ∧
    exec (.bge a b off) s = goes (y.toInt ≤ x.toInt) ∧
    exec (.bltn a b off) s = goes (x.toNat < y.toNat) ∧
    exec (.bgen a b off) s = goes (y.toNat ≤ x.toNat)

/-- R124: JMP and CALL, and JR to a register value that is an instruction address; CALL and JR write the link, JR after
reading its target. R124, R118: a JR target with bits 1:0 or 63:48 set traps FETCH.TARGET with the target in TVAL, and writes no link. -/
def Obligations.Jumps : Prop :=
  (∀ (s : State) (off : BitVec 26) (a b : BitVec 4), HeadReady s [a] →
    let h := me s
    let target := BitVec.ofInt 48 (h.pc.toNat + 4 * off.toInt)
    let link := (h.pc + 4).setWidth 64
    exec (.jmp off) s = .next (setMe s (goTo h target)) ∧
    exec (.call off) s = .next (setMe s (goTo (wrH h 14 link) target)) ∧
    (4 ∣ (rdH h a).toNat → (rdH h a).toNat < 2 ^ 48 →
      exec (.jr a b) s = .next (setMe s (goTo (wrH h b link) ((rdH h a).setWidth 48))))) ∧
  (∀ (s : State) (a b : BitVec 4), HeadDrained s [a] → CanTrap s →
    ¬ (4 ∣ (rdH (me s) a).toNat ∧ (rdH (me s) a).toNat < 2 ^ 48) →
    HeadTraps s (exec (.jr a b) s) .fetchTarget (rdH (me s) a))

/-- R125: LOOP at task level outside the body of an active loop skips its body for a zero count, else opens the loop, and what it
writes of the loop state is not poisoned any more (R364). -/
def Obligations.LoopOpens : Prop :=
  ∀ (s : State) (a : BitVec 4) (off : BitVec 12), HeadReady s [a] → 2 ≤ off.toNat → off.toNat ≤ 2047 →
    (me s).handler = false →
    ¬ ((me s).loopc ≠ 0 ∧ (me s).loops.toNat ≤ (me s).pc.toNat ∧ (me s).pc.toNat < (me s).loope.toNat) →
    let h := me s
    let past := h.pc + BitVec.ofNat 48 (4 * off.toNat)
    let idle (h : Head) : Head :=
      { h with skipBreak := none, wait := .no, why := 0, stepDue := h.stepMode && !h.handler }
    exec (.loop a off) s = .next (setMe s (idle
      (if rdH h a = 0 then { h with pc := past }
       else { h with loopc := rdH h a, loops := (h.pc + 4).setWidth 64, loope := past.setWidth 64, pc := h.pc + 4,
                     poison := h.poison.filter fun n => decide (n ≠ 0x810 ∧ n ≠ 0x811 ∧ n ≠ 0x812) })))

/-- R125: at the end of the body of an active loop at task level, a word that goes on counts the loop down and returns
to LOOPS while the count is above 1, and falls through with the loop ended at 1; at handler level, and elsewhere, it goes on
to the next word with the loop state as it is. Shown on REGION, which leaves the loop state alone. -/
def Obligations.LoopBack : Prop :=
  ∀ s : State, HeadReady s [] →
    Completes (exec .region s) fun t =>
      let h := me s
      let k := getHead t s.curRow s.curSlot
      let atEnd := h.handler = false ∧ h.loopc ≠ 0 ∧ (h.pc + 4).setWidth 64 = h.loope
      k.loops = h.loops ∧ k.loope = h.loope ∧
      (atEnd → h.loopc = 1 → k.loopc = 0 ∧ k.pc = h.pc + 4) ∧
      (atEnd → 1 < h.loopc.toNat → k.loopc.toNat = h.loopc.toNat - 1 ∧ k.pc = h.loops.setWidth 48) ∧
      (¬ atEnd → k.loopc = h.loopc ∧ k.pc = h.pc + 4)

/-- R128: LD.d with an aligned address that translates sends one load for hd and holds the strand until it returns; ST.d
posts one store of hd, a release held for its ordering, and goes on. Neither changes memory or a register yet. Its page waits for no
walk (R270; log entry 90). -/
def Obligations.HeadMemory : Prop :=
  ∀ (s : State) (d a : BitVec 4) (off : BitVec 12) (ord : Bool) (pa : Nat) (attr : Attr) (e : TlbEntry),
    let addr := rdH (me s) a + BitVec.ofInt 64 (8 * off.toInt)
    8 ∣ addr.toNat →
    NoWalk s (.head s.curRow s.curSlot) addr 8 →
    (HeadReady s [a] → headXlate s s.curRow .read addr = .ok (pa, attr, e) →
      Completes (exec (.ldD d a off ord) s) fun t =>
        t.mem = s.mem ∧ t.lanes = s.lanes ∧ me t = { me s with wait := .load s.fresh, why := 0, since := s.now } ∧
        ∃ q ∈ t.reqs, q.id = s.fresh ∧ q.kind = .headLoad ∧ q.row = s.curRow ∧ q.col = 16 ∧ q.strand = s.curSlot ∧
          q.segs = [(pa, 8)] ∧ q.size = 8 ∧ q.acq = ord ∧ q.dest = .h d.toNat ∧ q.st = .sent) ∧
    (HeadReady s [a, d] → headXlate s s.curRow .write addr = .ok (pa, attr, e) →
      Completes (exec (.stD d a off ord) s) fun t =>
        t.mem = s.mem ∧ t.lanes = s.lanes ∧ me t = goOn (me s) ∧
        ∃ q ∈ t.reqs, q.id = s.fresh ∧ q.kind = .headStore ∧ q.row = s.curRow ∧ q.col = 16 ∧ q.strand = s.curSlot ∧
          q.segs = [(pa, 8)] ∧ q.size = 8 ∧ q.rel = ord ∧ q.data = (rdH (me s) d).setWidth 1024 ∧
          q.st = if ord then .held else .sent)

/-- R128, R137: a head access traps MEM.ALIGN at a misaligned address and, aligned, the cause its translation gives; PUBLISH
also PUBLISH.HOST where the page is not HOST, where nothing else is due at the strand first (R118, R177). TVAL is the address. Its page
waits for no walk (R270; log entry 90). -/
def Obligations.HeadAccessTraps : Prop :=
  ∀ (s : State) (d a : BitVec 4) (off : BitVec 12) (ord : Bool), HeadDrained s [a, d] → CanTrap s →
    let addr := rdH (me s) a + BitVec.ofInt 64 (8 * off.toInt)
    let target := rdH (me s) a
    let due := pendingTrap s s.curRow s.curSlot
    let free (a : Word) := NoWalk s (.head s.curRow s.curSlot) a 8
    (¬ 8 ∣ addr.toNat → HeadTraps s (exec (.ldD d a off ord) s) .memAlign addr ∧
      HeadTraps s (exec (.stD d a off ord) s) .memAlign addr) ∧
    (∀ c, 8 ∣ addr.toNat → free addr → headXlate s s.curRow .read addr = .error c → HeadTraps s (exec (.ldD d a off ord) s) c addr) ∧
    (∀ c, 8 ∣ addr.toNat → free addr → headXlate s s.curRow .write addr = .error c → HeadTraps s (exec (.stD d a off ord) s) c addr) ∧
    (¬ 8 ∣ target.toNat → due = none → HeadTraps s (exec (.publish a) s) .memAlign target) ∧
    (∀ c, 8 ∣ target.toNat → free target → due = none → headXlate s s.curRow .write target = .error c →
      HeadTraps s (exec (.publish a) s) c target) ∧
    (∀ pa attr e, 8 ∣ target.toNat → free target → due = none → headXlate s s.curRow .write target = .ok (pa, attr, e) → attr.host = false →
      HeadTraps s (exec (.publish a) s) .publishHost target)

/-- R131, R134, R135, R30: DRAIN refreshes FSUM; REGION opens a region at its own address + 4; PAUSE holds the strand for
its count of row cycles, at most 2^24 - 1; TWAIT takes the oldest tail value. R132: YIELD holds the strand until every other placed strand of the row that could issue has done so once, or 8 row
cycles have passed; with none it only goes on. -/
def Obligations.StrandControl : Prop :=
  (∀ (s : State) (a d : BitVec 4), HeadReady s [a] →
    let h := me s
    let n := min (rdH h a).toNat 16777215
    (h.flights = [] → exec .drain s = .next (setMe s (goOn { h with fsum := flagsOf s }))) ∧
    exec .region s = .next (setMe s (goOn { h with
      region := h.region + 1, regpc := (h.pc + 4).setWidth 64, rloopc := h.loopc, rloops := h.loops, rloope := h.loope,
      poison := snapPoison h.poison })) ∧
    (n = 0 → exec (.pause a) s = .next (setMe s { goOn h with since := s.now })) ∧
    (n ≠ 0 → exec (.pause a) s = .next (setMe s { goOn h with
      wait := .pause ((getRow s s.curRow).cycle + n), why := 18, since := s.now })) ∧
    (∀ x q, h.tailQ = x :: q → exec (.twait d) s = .next (setMe s (goOn (wrH { h with tailQ := q } d x))))) ∧
  (∀ s : State, HeadReady s [] →
    let other (t : Nat) : Prop := t < 8 ∧ t ≠ s.curSlot ∧ able s s.curRow t = true
    ((∀ t, ¬ other t) → exec .yield s = .next (setMe s { goOn (me s) with since := s.now })) ∧
    ((∃ t, other t) → ∃ l : List Nat, (∀ t, t ∈ l ↔ other t) ∧
      exec .yield s = .next (setMe s { goOn (me s) with
        wait := .yield l ((getRow s s.curRow).cycle + 8), why := 18, since := s.now })))

/-- R131, R30, R141, R143, R144, R318, R325: what a head instruction waits for leaves everything but the reason and time of the wait as it
is: the strand's lane work, the tail queue, a token, and, before the arrival of GBAR and GVOTE and before MSEND, which are releases, its
outstanding writes, HPUTs and loads. -/
def Obligations.HeadWaits : Prop :=
  ∀ (s : State) (a d : BitVec 4), HeadReady s [a] →
    let h := me s
    let waits (why : Nat) : Host.Outcome State Fault Refusal :=
      .next (setMe s { h with why := why, since := if h.why = why then h.since else s.now })
    (h.flights ≠ [] → exec .drain s = waits 13 ∧ exec (.exit a) s = waits 13 ∧ exec (.mrecv d) s = waits 13) ∧
    (h.tailQ = [] → exec (.twait d) s = waits 9) ∧
    (h.flights = [] → h.mailbox = [] → pendingTrap s s.curRow s.curSlot = none → exec (.mrecv d) s = waits 10) ∧
    (h.flights = [] → pendingTrap s s.curRow s.curSlot = none → releaseDue s s.curRow s.curSlot = true →
      exec (.msend a a) s = waits 14 ∧
      (isMember s (partOf s s.curRow) (rdH h a).toNat (h.task.getD 0) = true →
        exec (.gbar a) s = waits 11 ∧ ∀ op, exec (.gvote op d a a) s = waits 11))

/-- R133, R296: EXIT of a strand with nothing outstanding ends its task: the slot no longer holds it, and the job records
its status word, the low 16 bits of ha with a count of one task. -/
def Obligations.TaskExit : Prop :=
  ∀ (s : State) (a : BitVec 4) (k p : Nat) (j : Job), HeadDrained s [a] →
    exitWaits s s.curRow s.curSlot = false → pendingTrap s s.curRow s.curSlot = none →
    (me s).task = some k → rowJob s s.curRow = some (p, j) →
    Completes (exec (.exit a) s) fun t =>
      (getHead t s.curRow s.curSlot).task ≠ some k ∧
      ∃ j', (getPart t p).job = some j' ∧ tget j'.ended k 0 = BitVec.ofNat 64 ((rdH (me s) a).toNat % 65536 + 65536)

/-- R356, R296: a trap at handler level, or with TVEC = 0, stops the strand: its task ends with the error bit STOPPED. Shown on SVC,
BKPT and TRAP. A poisoned TVEC stops it too, which is the model's choice (log entry 79). -/
def Obligations.TrapStops : Prop :=
  ∀ (s : State) (n : BitVec 10) (m : BitVec 12) (k p : Nat) (j : Job), HeadDrained s [] →
    ((me s).handler = true ∨ (me s).tvec = 0 ∨ isIn 0x801 (me s).poison = true) → (me s).task = some k → rowJob s s.curRow = some (p, j) →
    ∀ i ∈ [Instr.svc n, Instr.bkpt m, Instr.trap n],
      Completes (exec i s) fun t =>
        (getHead t s.curRow s.curSlot).task ≠ some k ∧
        ∃ j', (getPart t p).job = some j' ∧ tget j'.ended k 0 = BitVec.ofNat 64 (2 ^ 41 + 65536)

/-- R138, R145, R238, R355: SVC, BKPT and TRAP at task level enter the handler with their number in TVAL, and BKPT.lane
does; at handler level BKPT.lane only goes on. -/
def Obligations.SoftwareTraps : Prop :=
  ∀ (s : State) (n : BitVec 10) (m : BitVec 12), HeadDrained s [] →
    (CanTrap s →
      HeadTraps s (exec (.svc n) s) .svc (n.setWidth 64) ∧ HeadTraps s (exec (.bkpt m) s) .bkpt (m.setWidth 64) ∧
      HeadTraps s (exec (.trap n) s) .trap (n.setWidth 64) ∧ HeadTraps s (exec (.bkptLane n) s) .bkpt (n.setWidth 64)) ∧
    ((me s).handler = true → exec (.bkptLane n) s = .next (setMe s (goOn (me s))))

/-- R139, R29, R361: plain TRET leaves the handler and rewinds the strand to its region: the pc and the loop state come
from REGPC and the snapshot, which are not poisoned, so that nothing is left of an older poison of the loop state (R364), the tail queue
and the saved prefix are gone. R139: TRET.at goes on at the address in ha at task level, with a breakpoint there suppressed once; the saved prefix
is put back where the address is TPC and SST.PP is set, and dropped otherwise. -/
def Obligations.TrapReturns : Prop :=
  (∀ s : State, HeadDrained s [] → (me s).handler = true → (∀ c < 16, (laneAt s c).retry = []) →
    (∀ n ∈ [0x803, 0x805, 0x813, 0x814, 0x815], isIn n (me s).poison = false) →
    Completes (exec .tret s) fun t =>
      let h := me s
      getHead t s.curRow s.curSlot =
        { h with handler := false, pp := false, pxs := 0, pc := h.regpc.setWidth 48, loopc := h.rloopc, loops := h.rloops,
                 loope := h.rloope, tailQ := [], flights := [], commit := none, pend := none, wait := .no, why := 0,
                 poison := h.poison.filter fun n => decide (n ≠ 0x810 ∧ n ≠ 0x811 ∧ n ≠ 0x812) } ∧
      t.mem = s.mem ∧
      ∀ c < 16, (getLane t s.curRow c s.curSlot).g = (laneAt s c).g ∧ (getLane t s.curRow c s.curSlot).v = (laneAt s c).v ∧
        (getLane t s.curRow c s.curSlot).m = (laneAt s c).m ∧ (getLane t s.curRow c s.curSlot).land = []) ∧
  (∀ (s : State) (a : BitVec 4) (p : Px), HeadDrained s [a] → (me s).handler = true →
    4 ∣ (rdH (me s) a).toNat → (rdH (me s) a).toNat < 2 ^ 48 → (∀ c < 16, (laneAt s c).retry = []) →
    ((me s).pp = true → (me s).pxs.toNat = fmtPx p ∧ (Instr.px p).wellFormed = true) →
    (∀ n ∈ [0x800, 0x803, 0x804], isIn n (me s).poison = false) →
    Completes (exec (.tretAt a) s) fun t =>
      let h := me s
      let k := getHead t s.curRow s.curSlot
      k.pc = (rdH h a).setWidth 48 ∧ k.handler = false ∧ k.pp = false ∧ k.pxs = 0 ∧ k.skipBreak = some ((rdH h a).setWidth 48) ∧
      k.h = h.h ∧ k.loopc = h.loopc ∧ t.mem = s.mem ∧ (∀ c < 16, getLane t s.curRow c s.curSlot = laneAt s c) ∧
      (h.pp = true → h.tpc = rdH h a → k.pend = some p) ∧ (h.pp = false ∨ h.tpc ≠ rdH h a → k.pend = none))

/-- R120, R146, R118, R240: the handler-level instructions raise ILLEGAL at task level, with the word in TVAL: those of the head, and DBGR
and DBGW before they issue. -/
def Obligations.HandlerOnly : Prop :=
  ∀ (s : State) (a : BitVec 4) (c : Csr) (x y : BitVec 5), HeadDrained s [a] → CanTrap s →
    HeadTraps s (exec .tret s) .illegal (BitVec.ofNat 64 (encodeWord .tret)) ∧
    HeadTraps s (exec (.tretAt a) s) .illegal (BitVec.ofNat 64 (encodeWord (.tretAt a))) ∧
    HeadTraps s (exec (.gkill a) s) .illegal (BitVec.ofNat 64 (encodeWord (.gkill a))) ∧
    (c ∉ [Csr.sst, Csr.tvec, Csr.bka0, Csr.bka1, Csr.bka2, Csr.bka3] →
      HeadTraps s (exec (.csrw c a) s) .illegal (BitVec.ofNat 64 (encodeWord (.csrw c a)))) ∧
    HeadTraps s (exec (.dbgr x y) s) .illegal (BitVec.ofNat 64 (encodeWord (.dbgr x y))) ∧
    HeadTraps s (exec (.dbgw x y) s) .illegal (BitVec.ofNat 64 (encodeWord (.dbgw x y)))

/-- R145 to R149: CSRR reads a CSR that is not poisoned into hd. R145 to R149: CSRW of a CSR that the level may write stores what the CSR's layout keeps of ha and changes no other
CSR, no h register and nothing outside the strand's head. -/
def Obligations.Csrs : Prop :=
  (∀ (s : State) (d : BitVec 4) (c : Csr), HeadReady s [] → isIn (0x800 + csrNumber c) (me s).poison = false →
    exec (.csrr d c) s = headEnds s d (csrValue s s.curRow (me s) c)) ∧
  (∀ (s : State) (c : Csr) (a : BitVec 4), HeadReady s [a] →
    (c ≠ .cycle ∧ ((me s).handler = true ∨ c ∈ [Csr.sst, Csr.tvec, Csr.bka0, Csr.bka1, Csr.bka2, Csr.bka3])) →
    ∃ k : Head, exec (.csrw c a) s = .next (setMe s (goOn k)) ∧
      csrValue s s.curRow k c =
        csrAfter (me s).handler c (csrValue s s.curRow (me s) c) (rdH (me s) a) ∧
      (∀ c', c' ≠ c → csrValue s s.curRow k c' = csrValue s s.curRow (me s) c') ∧
      k.h = (me s).h ∧ k.pc = (me s).pc ∧ k.tailQ = (me s).tailQ ∧ k.mailbox = (me s).mailbox ∧ k.flights = (me s).flights)

/-- R140 to R142, R296: GBAR, GVOTE and GLEAVE of a member. An arrival goes to the group's home once the strand has drained and
its writes are acknowledged, and the strand waits; GLEAVE sends the member's removal and goes on; of no member it only
goes on. GBAR and GVOTE by a task that is no member trap GROUP.MEMBER with the group in TVAL; GKILL, which runs at handler
level, then stops its own strand. GKILL of a member does nothing where the group has no other; else it ends every other member that
had not ended with the error bit KILLED, but for one past step 2 of its EXIT, for which it waits, sends the removal of the issuing
task and goes on. That they end in the very step of GKILL is the model's reading (DEDUCED, log entry 57). The premise on rows says that
only the rows of the job's partition hold teams. -/
def Obligations.Groups : Prop :=
  ((∀ (s : State) (op : VoteOp) (d a b : BitVec 4), HeadReady s [a, b] →
    let due := pendingTrap s s.curRow s.curSlot
    let p := (getRow s s.curRow).part.getD 0
    let task := (me s).task.getD 0
    let g := (rdH (me s) a).toNat
    let g' := (rdH (me s) b).toNat
    let arrives (o : Host.Outcome State Fault Refusal) (g kind d : Nat) (v : Word) : Prop :=
      o = .next (setMe (sends s (.arrive p g task s.curRow s.curSlot kind v))
        { me s with wait := .group g d, why := 11, since := s.now })
    ((me s).flights = [] → due = none → releaseDue s s.curRow s.curSlot = false → isMember s p g task = true →
      arrives (exec (.gbar a) s) g 0 0 0) ∧
    ((me s).flights = [] → due = none → releaseDue s s.curRow s.curSlot = false → isMember s p g' task = true →
      arrives (exec (.gvote op d a b) s) g' (match op with | .all => 1 | .any => 2 | .sum => 3 | .min => 4 | .max => 5)
        d.toNat (rdH (me s) a)) ∧
    (isMember s p g task = true → exec (.gleave a) s = .next (setMe (sends s (.lower p g task)) (goOn (me s)))) ∧
    (isMember s p g task = false → exec (.gleave a) s = .next (setMe s (goOn (me s))))) ∧
  (∀ (s : State) (op : VoteOp) (d a b : BitVec 4), HeadDrained s [a, b] →
    let p := (getRow s s.curRow).part.getD 0
    let task := (me s).task.getD 0
    (CanTrap s → isMember s p (rdH (me s) a).toNat task = false →
      HeadTraps s (exec (.gbar a) s) .groupMember (rdH (me s) a)) ∧
    (CanTrap s → isMember s p (rdH (me s) b).toNat task = false →
      HeadTraps s (exec (.gvote op d a b) s) .groupMember (rdH (me s) b)))) ∧
  (∀ (s : State) (a : BitVec 4) (p task : Nat) (j : Job), HeadReady s [a] → (me s).handler = true →
    rowJob s s.curRow = some (p, j) → (me s).task = some task →
    (∀ r, (getRow s r).part = some p ∨ (getRow s r).resident = none) →
    let h := me s
    let g := (rdH h a).toNat
    let other (k : Nat) : Prop := k ≠ task ∧ isMember s p g k = true
    let killed (t : State) : Prop := ∃ j', (getPart t p).job = some j' ∧
      ∀ k, other k → exiting s p k = false → (∀ q ∈ j.ended, q.1 ≠ k) → tget j'.ended k 0 = BitVec.ofNat 64 (2 ^ 42 + 65536)
    (isMember s p g task = true →
      ((∀ k, ¬ other k) → h.why ≠ 14 → exec (.gkill a) s = .next (setMe s (goOn h))) ∧
      ((∃ k, other k) → (∀ k, other k → exiting s p k = false) →
        Completes (exec (.gkill a) s) fun t =>
          getHead t s.curRow s.curSlot = goOn h ∧ (∃ key, (key, Msg.lower p g task) ∈ t.msgs) ∧ killed t) ∧
      ((∃ k, other k ∧ exiting s p k = true) →
        Completes (exec (.gkill a) s) fun t =>
          getHead t s.curRow s.curSlot = { h with why := 14, since := if h.why = 14 then h.since else s.now } ∧ killed t)) ∧
    (isMember s p g task = false → h.why ≠ 14 → h.flights = [] →
      Completes (exec (.gkill a) s) fun t =>
        (getHead t s.curRow s.curSlot).task ≠ some task ∧
        ∃ j', (getPart t p).job = some j' ∧ tget j'.ended task 0 = BitVec.ofNat 64 (2 ^ 41 + 65536)))

/-- R143, R144: MSEND sends one token to the task in ha; MRECV takes the oldest token of the mailbox into hd and opens a
region behind itself; MPROBE reads the number of tokens. -/
def Obligations.Mailboxes : Prop :=
  ∀ (s : State) (d a b : BitVec 4), HeadReady s [a, b] →
    let h := me s
    let p := (getRow s s.curRow).part.getD 0
    (h.flights = [] → pendingTrap s s.curRow s.curSlot = none → releaseDue s s.curRow s.curSlot = false →
      exec (.msend a b) s = .next (setMe
        (sends s (.token p s.curRow s.curSlot (h.task.getD 0) (rdH h a) (rdH h b)))
        { h with wait := .send s.fresh, why := 21, since := s.now })) ∧
    (∀ x q, h.flights = [] → pendingTrap s s.curRow s.curSlot = none → h.mailbox = x :: q →
      exec (.mrecv d) s = .next (setMe s (opened (goOn (wrH { h with mailbox := q } d x))))) ∧
    exec (.mprobe d) s = headEnds s d (BitVec.ofNat 64 h.mailbox.length)

/-- R136: TILEGET of a dispenser of the row's die asks it and waits; another number traps TILE.NONE with it in TVAL. R137: PUBLISH to an aligned address of a HOST page, with no host write of the strand outstanding, sends one increment
as a held release of scope sys and waits for its acknowledgement. -/
def Obligations.Services : Prop :=
  (∀ (s : State) (d a : BitVec 4), HeadDrained s [a] → pendingTrap s s.curRow s.curSlot = none → 1 ≤ d.toNat → d.toNat ≤ 14 →
    let p := (getRow s s.curRow).part.getD 0
    let n := (rdH (me s) a).toNat
    let there := n ≤ 15 ∧ ∃ x ∈ s.dispensers, x.part = p ∧ x.die = dieOfRow s.curRow ∧ x.num = n
    (there → exec (.tileget d a) s = .next (setMe
      (sends s (.tile p s.curRow s.curSlot (dieOfRow s.curRow) n d.toNat))
      { me s with wait := .tile s.fresh, why := 14, since := s.now })) ∧
    (¬ there → CanTrap s → HeadTraps s (exec (.tileget d a) s) .tileNone (rdH (me s) a))) ∧
  (∀ (s : State) (a : BitVec 4) (pa : Nat) (attr : Attr) (e : TlbEntry), HeadDrained s [a] →
    pendingTrap s s.curRow s.curSlot = none → 8 ∣ (rdH (me s) a).toNat → NoWalk s (.head s.curRow s.curSlot) (rdH (me s) a) 8 →
    headXlate s s.curRow .write (rdH (me s) a) = .ok (pa, attr, e) → attr.host = true →
    hostWaits (itlbFill s s.curRow e) s.curRow s.curSlot = false →
    Completes (exec (.publish a) s) fun t =>
      t.mem = s.mem ∧ t.lanes = s.lanes ∧ me t = { me s with wait := .publish s.fresh, why := 14, since := s.now } ∧
      ∃ q ∈ t.reqs, q.id = s.fresh ∧ q.kind = .publish ∧ q.segs = [(pa, 8)] ∧ q.rel = true ∧ q.scope = .sys ∧ q.st = .held)

/-- R66, R70: PX keeps its fields for the next word; in the last word of the body of an active loop it raises ILLEGAL. R70, R81: a head instruction after a PX raises ILLEGAL at the address of the PX, with the word in TVAL's low and the PX in
its high half. Shown on head ADD, DRAIN, EXIT and LD.d; PX after PX as well. -/
def Obligations.Prefix : Prop :=
  (∀ (s : State) (p : Px), (Instr.px p).wellFormed = true →
    (HeadReady s [] → atLoopEnd (me s) = false →
      exec (.px p) s = .next (setMe s { me s with pend := some p, pc := (me s).pc + 4, skipBreak := none })) ∧
    (HeadDrained s [] → CanTrap s → atLoopEnd (me s) = true →
      HeadTraps s (exec (.px p) s) .illegal (BitVec.ofNat 64 (fmtPx p)))) ∧
  (∀ (s : State) (p q : Px) (d a b : BitVec 4) (off : BitVec 12), (me s).commit = none → (me s).wait = .no →
    (me s).flights = [] → (me s).pend = some p → CanTrap s →
    ∀ i ∈ [Instr.addHead d a b, .drain, .exit a, .ldD d a off false, .px q],
      HeadTraps s (exec i s) .illegal (BitVec.ofNat 64 (encodeWord i + 2 ^ 32 * fmtPx p)))

/-- R31, R33, R34: h0 and g0 read 0 and discard writes, m0 reads all ones and is never written; a write of another register is
read back and changes no other register of its file. -/
def Obligations.RegisterFiles : Prop :=
  (∀ (h : Head) (d n : BitVec 4) (v : Word),
    rdH h 0 = 0 ∧ wrH h 0 v = h ∧ (d ≠ 0 → rdH (wrH h d v) d = v) ∧ (n ≠ d → rdH (wrH h d v) n = rdH h n)) ∧
  (∀ (l : Lane) (d n : BitVec 5) (v : Word) (w : Vec),
    rdG l 0 = 0 ∧ wrG l 0 v = l ∧ (d ≠ 0 → rdG (wrG l d v) d = v) ∧ (n ≠ d → rdG (wrG l d v) n = rdG l n) ∧
    rdV (wrV l d w) d = w ∧ (n ≠ d → rdV (wrV l d w) n = rdV l n)) ∧
  (∀ (l : Lane) (d n : BitVec 3) (v : Mask),
    rdM l 0 = BitVec.allOnes 128 ∧ wrM l 0 v = l ∧ (d ≠ 0 → rdM (wrM l d v) d = v) ∧ (n ≠ d → rdM (wrM l d v) n = rdM l n))

/-- R117, R119: what the head arithmetic, immediate, branch and jump instructions leave unchanged when they complete: every h
register but their destination (CALL: h14, JR: its link), every CSR but the loop state that R125 ends or counts, the
mailbox, tail queue and other strands, every lane, and every byte of memory and of every pool. -/
def Obligations.HeadFrame : Prop :=
  ∀ (s t : State) (d a b : BitVec 4) (imm : BitVec 16) (n : BitVec 6) (off : BitVec 12) (far : BitVec 26) (i : Instr) (w : BitVec 4),
    HeadReady s [a, b] →
    ((w = d ∧ i ∈ [Instr.addHead d a b, .subHead d a b, .andHead d a b, .orHead d a b, .xorHead d a b, .shlHead d a b,
        .shrHead d a b, .sarHead d a b, .mulHead d a b, .sltHead d a b, .sltnHead d a b, .minHead d a b, .maxHead d a b,
        .addiHead d a imm, .andiHead d a imm, .oriHead d a imm, .xoriHead d a imm, .shliHead d a n, .shriHead d a n,
        .sariHead d a n, .liHead d imm, .luiHead d a imm]) ∨
     (w = 0 ∧ i ∈ [Instr.beq a b off, .bne a b off, .blt a b off, .bge a b off, .bltn a b off, .bgen a b off, .jmp far]) ∨
     (w = 14 ∧ i = .call far) ∨
     (w = b ∧ i = .jr a b ∧ 4 ∣ (rdH (me s) a).toNat ∧ (rdH (me s) a).toNat < 2 ^ 48)) →
    exec i s = .next t →
      (∀ r, r ≠ w → rdH (me t) r = rdH (me s) r) ∧
      (∀ c, c ≠ .loopc → csrValue t s.curRow (me t) c = csrValue s s.curRow (me s) c) ∧
      (me t).mailbox = (me s).mailbox ∧ (me t).tailQ = (me s).tailQ ∧
      (∀ r sl, sl < 8 → s.curSlot < 8 → (r, sl) ≠ (s.curRow, s.curSlot) → getHead t r sl = getHead s r sl) ∧
      t.lanes = s.lanes ∧ t.cores = s.cores ∧ t.reqs = s.reqs ∧ (∀ x, memRd t.mem x = memRd s.mem x)

/-- R152, R150, R24: the lane integer operations, at every core of the row: the result computed on integers goes to gd; a
west operand is h15 at core 0 and the register of the core to the west, after the instruction there, elsewhere. -/
def Obligations.LaneInteger : Prop :=
  ∀ (s : State) (d a b : BitVec 5) (w : West) (u : Bool),
    let does (i : Instr) (f : Word → Word → Word) : Prop :=
      LaneRuns s i (srcs2 a b w (pxOf (me s))) →
      Completes (exec i s) fun t => LaneDone s t fun c => wrG (laneAt s c) d (f (opA s t c a w) (opB s t c b w))
    let does1 (i : Instr) (f : Word → Word) : Prop :=
      LaneRuns s i (if u then [] else [.g a (pxOf (me s)).ea]) →
      Completes (exec i s) fun t =>
        LaneDone s t fun c => wrG (laneAt s c) d (f (opA s t c a (if u then .a else .no)))
    does (.add d a b w) (fun x y => BitVec.ofInt 64 (x.toInt + y.toInt)) ∧
    does (.sub d a b w) (fun x y => BitVec.ofInt 64 (x.toInt - y.toInt)) ∧
    does (.and d a b w) (fun x y => x &&& y) ∧ does (.or d a b w) (fun x y => x ||| y) ∧
    does (.xor d a b w) (fun x y => x ^^^ y) ∧
    does (.shl d a b w) (fun x y => BitVec.ofNat 64 (x.toNat * 2 ^ (y.toNat % 64))) ∧
    does (.shr d a b w) (fun x y => BitVec.ofNat 64 (x.toNat / 2 ^ (y.toNat % 64))) ∧
    does (.sar d a b w) (fun x y => BitVec.ofInt 64 (x.toInt / 2 ^ (y.toNat % 64))) ∧
    does (.mul d a b w) (fun x y => BitVec.ofInt 64 (x.toInt * y.toInt)) ∧
    does (.slt d a b w) (fun x y => if x.toInt < y.toInt then 1 else 0) ∧
    does (.sltn d a b w) (fun x y => if x.toNat < y.toNat then 1 else 0) ∧
    does (.min d a b w) (fun x y => BitVec.ofInt 64 (min x.toInt y.toInt)) ∧
    does (.max d a b w) (fun x y => BitVec.ofInt 64 (max x.toInt y.toInt)) ∧
    does (.minn d a b w) (fun x y => BitVec.ofNat 64 (min x.toNat y.toNat)) ∧
    does (.maxn d a b w) (fun x y => BitVec.ofNat 64 (max x.toNat y.toNat)) ∧
    does (.mulh d a b w) (fun x y => BitVec.ofInt 64 (x.toInt * y.toInt / 2 ^ 64)) ∧
    does (.mulhn d a b w) (fun x y => BitVec.ofNat 64 (x.toNat * y.toNat / 2 ^ 64)) ∧
    does (.div d a b w) (fun x y => if y = 0 then BitVec.allOnes 64 else BitVec.ofInt 64 (x.toInt.tdiv y.toInt)) ∧
    does (.divn d a b w) (fun x y => if y = 0 then BitVec.allOnes 64 else BitVec.ofNat 64 (x.toNat / y.toNat)) ∧
    does (.rem d a b w) (fun x y => if y = 0 then x else BitVec.ofInt 64 (x.toInt.tmod y.toInt)) ∧
    does (.remn d a b w) (fun x y => if y = 0 then x else BitVec.ofNat 64 (x.toNat % y.toNat)) ∧
    does1 (.clz d a u) (fun x => BitVec.ofNat 64 ((List.range 64).countP fun k => decide (x.toNat < 2 ^ (63 - k)))) ∧
    does1 (.ctz d a u) (fun x => BitVec.ofNat 64 ((List.range 64).countP fun k => decide (x.toNat % 2 ^ (k + 1) = 0))) ∧
    does1 (.popc d a u) (fun x => BitVec.ofNat 64 ((List.range 64).countP fun k => decide (x.toNat / 2 ^ k % 2 = 1)))

/-- R151, R153, R50: the constant and immediate forms of the lane integer operations, at every core of the row; the
constant word is the one at pool offset 8k of that core. -/
def Obligations.LaneConstants : Prop :=
  ∀ (s : State) (d a : BitVec 5) (k : BitVec 8) (imm : BitVec 16) (n : BitVec 6),
    let src : List Src := [.g a (pxOf (me s)).ea]
    let does (i : Instr) (f : Word → Word → Word) : Prop :=
      LaneRuns s i src → (∀ c < 16, poolBad (coreAt s c) (8 * k.toNat) 8 = none) →
      Completes (exec i s) fun t =>
        LaneDone s t fun c => wrG (laneAt s c) d (f (rdG (laneAt s c) a) (constWord (coreAt s c) k.toNat))
    let does1 (i : Instr) (f : Word → Word) : Prop :=
      LaneRuns s i src →
      Completes (exec i s) fun t => LaneDone s t fun c => wrG (laneAt s c) d (f (rdG (laneAt s c) a))
    let v := BitVec.ofInt 64 imm.toInt
    does (.addConst d a k) (fun x y => BitVec.ofInt 64 (x.toInt + y.toInt)) ∧
    does (.subConst d a k) (fun x y => BitVec.ofInt 64 (x.toInt - y.toInt)) ∧
    does (.andConst d a k) (fun x y => x &&& y) ∧ does (.orConst d a k) (fun x y => x ||| y) ∧
    does (.xorConst d a k) (fun x y => x ^^^ y) ∧
    does (.shlConst d a k) (fun x y => BitVec.ofNat 64 (x.toNat * 2 ^ (y.toNat % 64))) ∧
    does (.shrConst d a k) (fun x y => BitVec.ofNat 64 (x.toNat / 2 ^ (y.toNat % 64))) ∧
    does (.sarConst d a k) (fun x y => BitVec.ofInt 64 (x.toInt / 2 ^ (y.toNat % 64))) ∧
    does (.mulConst d a k) (fun x y => BitVec.ofInt 64 (x.toInt * y.toInt)) ∧
    does (.sltConst d a k) (fun x y => if x.toInt < y.toInt then 1 else 0) ∧
    does (.sltnConst d a k) (fun x y => if x.toNat < y.toNat then 1 else 0) ∧
    does (.minConst d a k) (fun x y => BitVec.ofInt 64 (min x.toInt y.toInt)) ∧
    does (.maxConst d a k) (fun x y => BitVec.ofInt 64 (max x.toInt y.toInt)) ∧
    does (.minnConst d a k) (fun x y => BitVec.ofNat 64 (min x.toNat y.toNat)) ∧
    does (.maxnConst d a k) (fun x y => BitVec.ofNat 64 (max x.toNat y.toNat)) ∧
    does (.mulhConst d a k) (fun x y => BitVec.ofInt 64 (x.toInt * y.toInt / 2 ^ 64)) ∧
    does (.mulhnConst d a k) (fun x y => BitVec.ofNat 64 (x.toNat * y.toNat / 2 ^ 64)) ∧
    does (.divConst d a k) (fun x y => if y = 0 then BitVec.allOnes 64 else BitVec.ofInt 64 (x.toInt.tdiv y.toInt)) ∧
    does (.divnConst d a k) (fun x y => if y = 0 then BitVec.allOnes 64 else BitVec.ofNat 64 (x.toNat / y.toNat)) ∧
    does (.remConst d a k) (fun x y => if y = 0 then x else BitVec.ofInt 64 (x.toInt.tmod y.toInt)) ∧
    does (.remnConst d a k) (fun x y => if y = 0 then x else BitVec.ofNat 64 (x.toNat % y.toNat)) ∧
    does1 (.addi d a imm) (fun x => BitVec.ofInt 64 (x.toInt + imm.toInt)) ∧
    does1 (.andi d a imm) (fun x => x &&& v) ∧ does1 (.ori d a imm) (fun x => x ||| v) ∧
    does1 (.xori d a imm) (fun x => x ^^^ v) ∧
    does1 (.shli d a n) (fun x => BitVec.ofNat 64 (x.toNat * 2 ^ n.toNat)) ∧
    does1 (.shri d a n) (fun x => BitVec.ofNat 64 (x.toNat / 2 ^ n.toNat)) ∧
    does1 (.sari d a n) (fun x => BitVec.ofInt 64 (x.toInt / 2 ^ n.toNat)) ∧
    does1 (.lui d a imm) (fun x => BitVec.ofNat 64 (x.toNat * 2 ^ 16 + imm.toNat)) ∧
    (LaneReady s (.li d imm) → Completes (exec (.li d imm) s) fun t => LaneDone s t fun c => wrG (laneAt s c) d v)

/-- R154, R96 to R98, R150: the scalar floating-point operations at every core of the row, on the low bits of the operands as values
of fa and fb: arithmetic rounds the exact result into fd, comparisons give 1 or 0, FABS and FNEG change the sign bit
alone, conversions go between floating and integer formats; the flags go to ESTAT. R97, R354: where IVE is set and the operation would
set IV it traps IV instead, with TVAL 0, and writes no register and no flag; shown at core 0. -/
def Obligations.LaneFloat : Prop :=
  ∀ (s : State) (d a b : BitVec 5) (w : West) (u : Bool),
    let p := pxOf (me s)
    let rm := modeOf s
    let rdn := rm == .rdn
    let u' : West := if u then .a else .no
    let does (i : Instr) (more : List Src) (r : Nat → Word → Word → Nat × Fl) : Prop :=
      (LaneRuns s i (srcs2 a b w p ++ more) →
      NoIv s (w != .no) (fun c => (r c (rdG (laneAt s c) a) (rdG (laneAt s c) b)).2.getLsbD 0 = true) →
      Completes (exec i s) (fun t => LaneDone s t fun c => flagged (laneAt s c) d (r c (opA s t c a w) (opB s t c b w)))) ∧
      (LaneRuns s i (srcs2 a b w p ++ more) →
        IvTraps s i 1 fun _ => (r 0 (opA s s 0 a w) (opB s s 0 b w)).2.getLsbD 0 = true)
    let does1 (i : Instr) (r : Word → Nat × Fl) : Prop :=
      (LaneRuns s i (if u then [] else [.g a p.ea]) →
      NoIv s u (fun c => (r (rdG (laneAt s c) a)).2.getLsbD 0 = true) →
      Completes (exec i s) (fun t => LaneDone s t fun c => flagged (laneAt s c) d (r (opA s t c a u')))) ∧
      (LaneRuns s i (if u then [] else [.g a p.ea]) → IvTraps s i 1 fun _ => (r (opA s s 0 a u')).2.getLsbD 0 = true)
    let arith (f : Val → Val → Val × Fl) (_ : Nat) (x y : Word) : Nat × Fl := roundOut p.fd rm (f (lowVal p.fa x) (lowVal p.fb y))
    let compare (k : CmpCond) (_ : Nat) (x y : Word) : Nat × Fl :=
      (if (cmpVal k (lowVal p.fa x) (lowVal p.fb y)).1 then 1 else 0, (cmpVal k (lowVal p.fa x) (lowVal p.fb y)).2)
    let half := 2 ^ (codeWidth p.fa.toNat - 1)
    does (.fadd d a b w) [] (arith (vadd rdn)) ∧
    does (.fsub d a b w) [] (arith fun x y => vadd rdn x y.negate) ∧
    does (.fmul d a b w) [] (arith vmul) ∧ does (.fdiv d a b w) [] (arith vdiv) ∧
    does (.fma d a b w) [.g p.c false] (fun c x y => roundOut p.fd rm
      (vfmaExact rdn (lowVal p.fa x) (lowVal p.fb y) (lowVal p.fd (rdG (laneAt s c) p.c)))) ∧
    does (.fmin d a b w) [] (arith vmin) ∧ does (.fmax d a b w) [] (arith vmax) ∧
    does (.feq d a b w) [] (compare .eq) ∧ does (.flt d a b w) [] (compare .lt) ∧ does (.fle d a b w) [] (compare .le) ∧
    does1 (.fabs d a u) (fun x => (x.toNat % half, 0)) ∧
    does1 (.fneg d a u) (fun x => (x.toNat % half + half - half * (x.toNat / half % 2), 0)) ∧
    does1 (.fcvti d a u) (fun x =>
      let r := encodeVal p.fa.toNat p.fd.toNat rm (lowVal p.fa x)
      let n := codeWidth p.fd.toNat
      ((if codeSigned p.fd.toNat then (BitVec.ofInt 64 (sext r.1 n)).toNat else r.1 % 2 ^ n), r.2)) ∧
    does1 (.icvtf d a u) (fun x => (fmtOf p.fd.toNat).round rm (lowVal p.fa x))

/-- R156, R30, R195: the moves between head, g registers and masks, and the mask operations, at every core; TAIL appends the
register of core 15 to the tail queue. CMOV leaves gd alone where mask bit 0 is clear. -/
def Obligations.LaneMoves : Prop :=
  ∀ (s : State) (d a : BitVec 5) (h : BitVec 4) (m x y : BitVec 3) (half : Bool),
    let ea := (pxOf (me s)).ea
    let does (i : Instr) (srcs : List Src) (f : Nat → Lane → Lane) : Prop :=
      LaneRuns s i srcs → Completes (exec i s) fun t => LaneDone s t fun c => f c (laneAt s c)
    does (.hget d h) [] (fun _ l => wrG l d (rdH (me s) h)) ∧
    does (.cmov d a m) [.g a ea, .m m] (fun _ l => if (rdM l m).getLsbD 0 then wrG l d (rdG l a) else l) ∧
    does (.movmg d m half) [.m m] (fun _ l => wrG l d (BitVec.ofNat 64 ((rdM l m).toNat / (if half then 2 ^ 64 else 1)))) ∧
    does (.movgm m a half) [.g a ea] (fun _ l => wrM l m
      (if half then (rdG l a) ++ ((rdM l m).setWidth 64) else (((rdM l m) >>> 64).setWidth 64) ++ (rdG l a))) ∧
    does (.mand m x y) [.m x, .m y] (fun _ l => wrM l m (rdM l x &&& rdM l y)) ∧
    does (.mor m x y) [.m x, .m y] (fun _ l => wrM l m (rdM l x ||| rdM l y)) ∧
    does (.mxor m x y) [.m x, .m y] (fun _ l => wrM l m (rdM l x ^^^ rdM l y)) ∧
    does (.mnot m x) [.m x] (fun _ l => wrM l m (~~~ rdM l x)) ∧
    does (.mset m a) [.g a false] (fun _ l => wrM l m (BitVec.ofNat 128 (2 ^ min (rdG l a).toNat 128 - 1))) ∧
    (LaneRuns s (.tail a) [.g a ea] → (me s).tailQ.length < 4 →
      Completes (exec (.tail a) s) fun t => OnlyStrand s t ∧
        getHead t s.curRow s.curSlot = { goOn (me s) with tailQ := (me s).tailQ ++ [rdG (laneAt s 15) a] } ∧
        ∀ c < 16, getLane t s.curRow c s.curSlot = laneAt s c)

/-- R182 to R184, R189, R190: the vector arithmetic instructions and their constant forms: element by element under the mask,
floating-point with one rounding into fd, or integer, wrapped or clamped under SAT; VABS and VNEG of a floating format
change the sign bit alone. R97, R354: where IVE is set and an active element would set IV, the instruction traps IV with the lowest such
element in TVAL and writes nothing; shown at core 0. -/
def Obligations.VectorArithmetic : Prop :=
  ∀ (s : State) (d a b : BitVec 5) (w : West) (u : Bool) (k : BitVec 8),
    let p := pxOf (me s)
    let rm := modeOf s
    let rdn := rm == .rdn
    let n := codeWidth p.fd.toNat
    let e := 1024 / n
    let merge : List Src := mergeSrc d p
    let arith (fv : Val → Val → Val × Fl) (fi : Int → Int → Int) (x y : Vec) (j : Nat) : Nat × Fl :=
      if isFloat p.fd then roundOut p.fd rm (fv (decodeVal p.fa.toNat (elem x n j)) (decodeVal p.fb.toNat (elem y n j)))
      else vecIntOut p.fd p.rm (fi (vecInt p.fd (elem x n j)) (vecInt p.fd (elem y n j)))
    let does (i : Instr) (more : List Src) (r : Nat → Vec → Vec → Nat → Nat × Fl) : Prop :=
      (VecRuns s i (vsrcs2 a b w p ++ more ++ merge) →
      NoIv s (w != .no) (fun c => ∃ j < e, activeAt (laneAt s c) p j = true ∧
        (r c (rdV (laneAt s c) a) (rdV (laneAt s c) b) j).2.getLsbD 0 = true) →
      Completes (exec i s) (fun t =>
        LaneRel s t fun c l l' => VecWrites l l' p d n e (r c (vopA s t c a w p.fa) (vopB s t c b w p.fb)))) ∧
      (VecRuns s i (vsrcs2 a b w p ++ more ++ merge) → IvTraps s i e fun j => activeAt (laneAt s 0) p j = true ∧
        (r 0 (vopA s s 0 a w p.fa) (vopB s s 0 b w p.fb) j).2.getLsbD 0 = true)
    let sign (i : Instr) (fs : Nat → Nat) (fi : Int → Int) : Prop :=
      VecRuns s i ((if u then [] else [.v a p.ea]) ++ merge) →
      Completes (exec i s) fun t => LaneRel s t fun c l l' => VecWrites l l' p d n e fun j =>
        let x := elem (vopA s t c a (if u then .a else .no) p.fa) n j
        if isFloat p.fd then (x % 2 ^ (n - 1) + 2 ^ (n - 1) * fs (x / 2 ^ (n - 1) % 2), 0) else vecIntOut p.fd p.rm (fi (vecInt p.fd x))
    let const (i : Instr) (fv : Val → Val → Val × Fl) (fi : Int → Int → Int) : Prop :=
      let y (c : Nat) : Vec := replicated (codeWidth p.fb.toNat) (constWord (coreAt s c) k.toNat)
      (VecRuns s i ([.v a p.ea] ++ merge) →
      NoIv s false (fun c => ∃ j < e, activeAt (laneAt s c) p j = true ∧
        (arith fv fi (rdV (laneAt s c) a) (y c) j).2.getLsbD 0 = true) →
      Completes (exec i s) (fun t => LaneRel s t fun c l l' => VecWrites l l' p d n e (arith fv fi (rdV l a) (y c)))) ∧
      (VecRuns s i ([.v a p.ea] ++ merge) → IvTraps s i e fun j => activeAt (laneAt s 0) p j = true ∧
        (arith fv fi (rdV (laneAt s 0) a) (y 0) j).2.getLsbD 0 = true)
    does (.vadd d a b w) [] (fun _ => arith (vadd rdn) (· + ·)) ∧
    does (.vsub d a b w) [] (fun _ => arith (fun x y => vadd rdn x y.negate) (· - ·)) ∧
    does (.vmul d a b w) [] (fun _ => arith vmul (· * ·)) ∧
    does (.vmin d a b w) [] (fun _ => arith vmin min) ∧ does (.vmax d a b w) [] (fun _ => arith vmax max) ∧
    does (.vfma d a b w) [.v p.c false] (fun c x y j =>
      let z := elem (rdV (laneAt s c) p.c) n j
      if isFloat p.fd then roundOut p.fd rm (vfmaExact rdn (decodeVal p.fa.toNat (elem x n j))
        (decodeVal p.fb.toNat (elem y n j)) (decodeVal p.fd.toNat z))
      else vecIntOut p.fd p.rm (vecInt p.fd (elem x n j) * vecInt p.fd (elem y n j) + vecInt p.fd z)) ∧
    sign (.vabs d a u) (fun _ => 0) (fun x => (x.natAbs : Int)) ∧ sign (.vneg d a u) (fun b => 1 - b) (fun x => -x) ∧
    const (.vaddConst d a k) (vadd rdn) (· + ·) ∧ const (.vsubConst d a k) (fun x y => vadd rdn x y.negate) (· - ·) ∧
    const (.vmulConst d a k) vmul (· * ·) ∧ const (.vminConst d a k) vmin min ∧ const (.vmaxConst d a k) vmax max

/-- R190 to R192: the vector logic instructions on 32-bit elements and the shifts by the width of fd, and their constant forms. -/
def Obligations.VectorLogic : Prop :=
  ∀ (s : State) (d a b : BitVec 5) (w : West) (u : Bool) (k : BitVec 8),
    let p := pxOf (me s)
    let n := codeWidth p.fd.toNat
    let merge : List Src := mergeSrc d p
    let does (i : Instr) (n : Nat) (f : Nat → Nat → Nat) : Prop :=
      VecRuns s i (vsrcs2 a b w p ++ merge) →
      Completes (exec i s) fun t => LaneRel s t fun c l l' => VecWrites l l' p d n (1024 / n) fun j =>
        (f (elem (vopA s t c a w 0) n j) (elem (vopB s t c b w 0) n j), 0)
    let const (i : Instr) (n : Nat) (f : Nat → Nat → Nat) : Prop :=
      VecRuns s i ([.v a p.ea] ++ merge) →
      Completes (exec i s) fun t => LaneRel s t fun c l l' => VecWrites l l' p d n (1024 / n) fun j =>
        (f (elem (rdV l a) n j) ((constWord (coreAt s c) k.toNat).toNat % 2 ^ n), 0)
    let shl (x y : Nat) : Nat := if y < n then x * 2 ^ y else 0
    let shr (x y : Nat) : Nat := if y < n then x / 2 ^ y else 0
    let sar (x y : Nat) : Nat := wrap (sext x n / 2 ^ min y n) n
    does (.vand d a b w) 32 (· &&& ·) ∧ does (.vor d a b w) 32 (· ||| ·) ∧ does (.vxor d a b w) 32 (· ^^^ ·) ∧
    (VecRuns s (.vnot d a u) ((if u then [] else [.v a p.ea]) ++ merge) →
      Completes (exec (.vnot d a u) s) fun t => LaneRel s t fun c l l' => VecWrites l l' p d 32 32 fun j =>
        (2 ^ 32 - 1 - elem (vopA s t c a (if u then .a else .no) 0) 32 j, 0)) ∧
    does (.vshl d a b w) n shl ∧ does (.vshr d a b w) n shr ∧ does (.vsar d a b w) n sar ∧
    const (.vandConst d a k) 32 (· &&& ·) ∧ const (.vorConst d a k) 32 (· ||| ·) ∧ const (.vxorConst d a k) 32 (· ^^^ ·) ∧
    const (.vshlConst d a k) n shl ∧ const (.vshrConst d a k) n shr ∧ const (.vsarConst d a k) n sar

/-- R193, R194, R202: comparison into a mask, selection, and the lane operations VBCAST, VEXT, VINS, VPERM, VROT, VIOTA, VPOP. R97, R354:
a comparison that would set IV under IVE traps IV with the lowest such element in TVAL; shown at core 0. -/
def Obligations.VectorMoves : Prop :=
  ∀ (s : State) (d a b : BitVec 5) (w : West) (m : BitVec 3) (k : CmpCond),
    let p := pxOf (me s)
    let n := codeWidth p.fd.toNat
    let e := 1024 / n
    let merge : List Src := mergeSrc d p
    let does (i : Instr) (srcs : List Src) (r : Lane → Nat → Nat) : Prop :=
      VecRuns s i (srcs ++ merge) →
      Completes (exec i s) fun t => LaneRel s t fun _ l l' => VecWrites l l' p d n e fun j => (r l j, 0)
    let scalar (i : Instr) (srcs : List Src) (r : Lane → Nat) : Prop :=
      LaneRuns s i srcs →
      Completes (exec i s) fun t => LaneDone s t fun c => wrG (laneAt s c) d (BitVec.ofNat 64 (r (laneAt s c)))
    let na := codeWidth p.fa.toNat
    let test (x y : Vec) (j : Nat) : Bool × Fl := cmpVal k (decodeVal p.fa.toNat (elem x na j)) (decodeVal p.fb.toNat (elem y na j))
    (LaneRuns s (.vcmp k m a b w) (vsrcs2 a b w p ++ if p.msk != 0 && !p.mz then [.m m] else []) →
      NoIv s (w != .no) (fun c => ∃ j < 1024 / na, activeAt (laneAt s c) p j = true ∧
        (test (rdV (laneAt s c) a) (rdV (laneAt s c) b) j).2.getLsbD 0 = true) →
      Completes (exec (.vcmp k m a b w) s) fun t => LaneRel s t fun c l l' => ∃ (v : Mask) (fl : Fl),
        l' = wrM (orFlags l fl) m v ∧
        (∀ j, v.getLsbD j = (decide (j < 1024 / na) && if activeAt l p j then
          (test (vopA s t c a w p.fa) (vopB s t c b w p.fb) j).1 else !p.mz && (rdM l m).getLsbD j)) ∧
        (∀ x < 5, fl.getLsbD x = true ↔ ∃ j < 1024 / na, activeAt l p j = true ∧
          (test (vopA s t c a w p.fa) (vopB s t c b w p.fb) j).2.getLsbD x = true)) ∧
    (LaneRuns s (.vcmp k m a b w) (vsrcs2 a b w p ++ if p.msk != 0 && !p.mz then [.m m] else []) →
      IvTraps s (.vcmp k m a b w) (1024 / na) fun j => activeAt (laneAt s 0) p j = true ∧
        (test (vopA s s 0 a w p.fa) (vopB s s 0 b w p.fb) j).2.getLsbD 0 = true) ∧
    (VecRuns s (.vsel d a b w) (vsrcs2 a b w p) →
      Completes (exec (.vsel d a b w) s) fun t => LaneRel s t fun c l l' => ∃ v : Vec, l' = wrV l d v ∧
        ∀ j < e, elem v n j = if activeAt l p j then elem (vopA s t c a w 0) n j else elem (vopB s t c b w 0) n j) ∧
    does (.vbcast d a) [.g a p.ea] (fun l _ => (rdG l a).toNat) ∧
    scalar (.vext d a b) [.v a p.ea, .g b p.eb] (fun l => elem (rdV l a) n ((rdG l b).toNat % e)) ∧
    (VecRuns s (.vins d a b) [.g a p.ea, .g b p.eb, .v d false] →
      Completes (exec (.vins d a b) s) fun t => LaneRel s t fun _ l l' => ∃ v : Vec, l' = wrV l d v ∧
        ∀ j < e, elem v n j = if j = (rdG l b).toNat % e then (rdG l a).toNat % 2 ^ n else elem (rdV l d) n j) ∧
    does (.vperm d a b) [.v a p.ea, .v b p.eb] (fun l j => elem (rdV l a) n (elem (rdV l b) n j % e)) ∧
    does (.vrot d a b) [.v a p.ea, .g b p.eb] (fun l j => elem (rdV l a) n ((j + (rdG l b).toNat) % e)) ∧
    does (.viota d) [] (fun _ j => j) ∧
    scalar (.vpop d m) [.m m] (fun l => (List.range e).countP fun j => (rdM l m).getLsbD j)

/-- R196 to R201, R114, R115: the conversions and quantisations, the special functions (the choice that R115 leaves to the part is
the free value Config.approxPick) and the reduction VRED over its tree. R188: an instruction that takes the vector unit for more than one
cycle leaves it busy until then. R97, R354: one that would set IV under IVE traps IV, with the lowest such element, for VRED the index of
R201, in TVAL, and writes nothing; shown at core 0. -/
def Obligations.VectorConversions : Prop :=
  ∀ (s : State) (d a b : BitVec 5) (w : West) (u : Bool) (op : RedOp),
    let p := pxOf (me s)
    let rm := modeOf s
    let fd := fmtOf p.fd.toNat
    let na := codeWidth p.fa.toNat
    let nd := codeWidth p.fd.toNat
    let merge : List Src := mergeSrc d p
    let busy (k : Nat) (l : Lane) : Lane := if k = 1 then l else { l with vecUntil := (getRow s s.curRow).cycle + k }
    let does1 (i : Instr) (k e : Nat) (r : Nat → Nat × Fl) : Prop :=
      let u' : West := if u then .a else .no
      (VecRuns s i ((if u then [] else [.v a p.ea]) ++ merge) →
      NoIv s u (fun c => ∃ j < e, activeAt (laneAt s c) p j = true ∧ (r (elem (rdV (laneAt s c) a) na j)).2.getLsbD 0 = true) →
      Completes (exec i s) (fun t => LaneRel s t fun c l l' => VecWrites (busy k l) l' p d nd e fun j =>
        r (elem (vopA s t c a u' p.fa) na j))) ∧
      (VecRuns s i ((if u then [] else [.v a p.ea]) ++ merge) → IvTraps s i e fun j => activeAt (laneAt s 0) p j = true ∧
        (r (elem (vopA s s 0 a u' p.fa) na j)).2.getLsbD 0 = true)
    let does2 (i : Instr) (k n e : Nat) (r : Vec → Vec → Nat → Nat × Fl) : Prop :=
      (VecRuns s i (vsrcs2 a b w p ++ merge) →
      NoIv s (w != .no) (fun c => ∃ j < e, activeAt (laneAt s c) p j = true ∧
        (r (rdV (laneAt s c) a) (rdV (laneAt s c) b) j).2.getLsbD 0 = true) →
      Completes (exec i s) (fun t =>
        LaneRel s t fun c l l' => VecWrites (busy k l) l' p d n e (r (vopA s t c a w p.fa) (vopB s t c b w p.fb)))) ∧
      (VecRuns s i (vsrcs2 a b w p ++ merge) → IvTraps s i e fun j => activeAt (laneAt s 0) p j = true ∧
        (r (vopA s s 0 a w p.fa) (vopB s s 0 b w p.fb) j).2.getLsbD 0 = true)
    let pick (no x : Nat) : Nat :=
      Config.approxPick no (16 * p.fa.toNat + p.fd.toNat) x
    let fn (no : Nat) (f : Fmt → Rm → Nat → Val → Nat × Fl) (x : Nat) : Nat × Fl := f fd rm (pick no x) (decodeVal p.fa.toNat x)
    does1 (.vcvt d a u) 1 (1024 / max na nd) (fun x => encodeVal p.fa.toNat p.fd.toNat rm (decodeVal p.fa.toNat x)) ∧
    does2 (.vquant d a b w) 1 8 (1024 / na) (fun x y j =>
      let q := vdiv (decodeVal p.fa.toNat (elem x na j)) (scaleOf p.fb y (j / 32))
      let z := if p.fd = 7 then vadd (rm == .rdn) q.1 (zeroPoint y (j / 32)) else (q.1, 0)
      let r := encodeVal 0 p.fd.toNat rm z.1
      (r.1, q.2 ||| z.2 ||| r.2)) ∧
    does2 (.vdeq d a b w) 1 nd (1024 / nd) (fun x y j =>
      let sc := scaleOf p.fb y (j / 32)
      let v := decodeVal p.fa.toNat (elem x 8 j)
      let z := if p.fa = 7 then vadd (rm == .rdn) v (zeroPoint y (j / 32)).negate else (v, 0)
      let r : Val × Fl :=
        if p.fa = 3 ∧ elem y 8 (j / 32) = 0 then
          match z.1 with
          | .num _ => (.dyadic false 0 0, 0)
          | _ => (.nan false, Fl.iv)
        else if sc.isNan then (.nan false, Fl.iv) else vmul z.1 sc
      let q := roundOut p.fd rm r
      (q.1, z.2 ||| q.2)) ∧
    does1 (.vrcp d a u) 2 (1024 / nd) (fn 0 fnRcp) ∧ does1 (.vrsq d a u) 2 (1024 / nd) (fn 1 fnRsq) ∧
    does1 (.vsqrt d a u) 8 (1024 / nd) (fn 2 fun f r _ v => fnSqrt f r v) ∧
    does2 (.vdiv d a b w) 8 nd (1024 / nd) (fun x y j =>
      roundOut p.fd rm (vdiv (decodeVal p.fa.toNat (elem x nd j)) (decodeVal p.fb.toNat (elem y nd j)))) ∧
    does1 (.vexp2 d a u) 2 (1024 / nd) (fn 4 fnExp2) ∧ does1 (.vlog2 d a u) 2 (1024 / nd) (fn 5 fnLog2) ∧
    does1 (.vsin d a u) 4 (1024 / nd) (fn 6 (fnTrig false)) ∧ does1 (.vcos d a u) 4 (1024 / nd) (fn 7 (fnTrig true)) ∧
    does1 (.vtanh d a u) 4 (1024 / nd) (fn 8 fnTanh) ∧
    (let leaf (l : Lane) (j : Nat) : RedNode :=
       let v := decodeVal p.fa.toNat (elem (rdV l a) na j)
       if activeAt l p j = false then ⟨redIdentity op, 0, j, none⟩
       else if v.isSnan then ⟨.nan false, Fl.iv, j, some j⟩ else ⟨v, 0, j, none⟩
     let root (l : Lane) : RedNode :=
       (redTree op fd rm 6 ((List.range (1024 / na)).map (leaf l))).headD ⟨.nan false, 0, 0, none⟩
     let r (l : Lane) : Nat × Fl := ((fd.round rm (root l).v).1, (root l).fl ||| (fd.round rm (root l).v).2)
     (LaneRuns s (.vred op d a) [.v a p.ea] → NoIv s false (fun c => (r (laneAt s c)).2.getLsbD 0 = true) →
     Completes (exec (.vred op d a) s) (fun t => LaneDone s t fun c => flagged (busy 2 (laneAt s c)) d (r (laneAt s c)))) ∧
     (LaneRuns s (.vred op d a) [.v a p.ea] → CanTrap s → (laneAt s 0).estat.getLsbD 8 = true →
      (r (laneAt s 0)).2.getLsbD 0 = true → TrapsClean0 s (.vred op d a) .iv (BitVec.ofNat 64 ((root (laneAt s 0)).iv.getD 0))))

/-- R150, R36, R22, R24: the first empty source of a lane instruction with its PX trap-empty bit set traps EMPTY there with its number
in TVAL; without the bit it waits at that core, with no register changed from there on. Shown on ADD and VADD with a
first operand that is empty at core 0; that the first empty source in the operands' order decides, whatever the second one is, is the
model's choice (log entry 67). R157, R161, R163, R354: a misaligned lane or pool access traps MEM.ALIGN, and a pool access with an active
byte outside the scratch area or a pool store with one in the constant words POOL.BOUND, at the core that executes it, with the address in
TVAL; no later core executes the instruction. Shown at core 0. -/
def Obligations.LaneTraps : Prop :=
  (∀ (s : State) (d a b : BitVec 5),
    (LaneReady s (.add d a b .no) → CanTrap s → gEmpty (laneAt s 0) a = true →
      ((pxOf (me s)).ea = true → Completes (exec (.add d a b .no) s) fun t =>
        getHead t s.curRow s.curSlot =
          entered (goOn (me s)) (flagsOf s) .empty 0 (a.setWidth 64) (if (me s).pend.isSome then (me s).pc - 4 else (me s).pc) ∧
        TrapFrame s t) ∧
      ((pxOf (me s)).ea = false → Completes (exec (.add d a b .no) s) fun t =>
        t.lanes = s.lanes ∧ t.mem = s.mem ∧ (getHead t s.curRow s.curSlot).pc = (goOn (me s)).pc ∧
        ∃ f, (getHead t s.curRow s.curSlot).flights = [f] ∧ f.col = 0 ∧ f.instr = .add d a b .no)) ∧
    (LaneReady s (.vadd d a b .no) → CanTrap s → vEmpty (laneAt s 0) a = true → (pxOf (me s)).ea = true →
      Completes (exec (.vadd d a b .no) s) fun t =>
        (getHead t s.curRow s.curSlot).tcause = BitVec.ofNat 64 0x0201 ∧
        (getHead t s.curRow s.curSlot).tval = a.setWidth 64 + 32 ∧ TrapFrame s t)) ∧
  (∀ (s : State) (d a : BitVec 5) (off : BitVec 12) (voff : BitVec 11) (sz : Sz) (ord : Bool), CanTrap s →
    let p := pxOf (me s)
    let n := szBytes sz
    let at_ : Word := rdG (laneAt s 0) a + BitVec.ofInt 64 (off.toInt * n)
    let vat : Word := rdG (laneAt s 0) a + BitVec.ofInt 64 (voff.toInt * 128)
    let pat : Word := rdG (laneAt s 0) a + BitVec.ofInt 64 (off.toInt * 128)
    let active (j : Nat) : Prop := j < 32 ∧ (rdM (laneAt s 0) p.msk).getLsbD j = true
    let traps (i : Instr) (c : Cause) (v : Word) : Prop :=
      Completes (exec i s) fun t => TrapFrame s t ∧ getHead t s.curRow s.curSlot =
        entered (goOn (me s)) (flagsOf s) c 0 v (if (me s).pend.isSome then (me s).pc - 4 else (me s).pc)
    (¬ n ∣ at_.toNat →
      (LaneRuns s (.ld d a off sz ord) [.g a p.ea] → traps (.ld d a off sz ord) .memAlign at_) ∧
      (LaneRuns s (.st d a off sz ord) [.g a p.ea, .g d p.eb] → traps (.st d a off sz ord) .memAlign at_) ∧
      (LaneRuns s (.ldp d a off sz) [.g a p.ea] → traps (.ldp d a off sz) .memAlign at_) ∧
      (LaneRuns s (.stp d a off sz) [.g a p.ea, .g d p.eb] → traps (.stp d a off sz) .memAlign at_)) ∧
    (¬ 8 ∣ vat.toNat →
      (LaneRuns s (.ldv d a voff ord) ([.g a p.ea] ++ mergeSrc d p) → traps (.ldv d a voff ord) .memAlign vat) ∧
      (LaneRuns s (.stv d a voff ord) [.g a p.ea, .v d p.eb] → traps (.stv d a voff ord) .memAlign vat)) ∧
    (¬ 8 ∣ pat.toNat →
      (LaneRuns s (.ldpv d a off) ([.g a p.ea] ++ mergeSrc d p) → traps (.ldpv d a off) .memAlign pat) ∧
      (LaneRuns s (.stpv d a off) [.g a p.ea, .v d p.eb] → traps (.stpv d a off) .memAlign pat)) ∧
    (n ∣ at_.toNat → scratchSize (pwordOf s s.curRow) < at_.toNat + n →
      (LaneRuns s (.ldp d a off sz) [.g a p.ea] → traps (.ldp d a off sz) .poolBound at_)) ∧
    (n ∣ at_.toNat → at_.toNat < 0x800 ∨ scratchSize (pwordOf s s.curRow) < at_.toNat + n →
      (LaneRuns s (.stp d a off sz) [.g a p.ea, .g d p.eb] → traps (.stp d a off sz) .poolBound at_)) ∧
    (8 ∣ pat.toNat → (∃ j, active j ∧ scratchSize (pwordOf s s.curRow) < pat.toNat + 4 * j + 4) →
      (LaneRuns s (.ldpv d a off) ([.g a p.ea] ++ mergeSrc d p) → traps (.ldpv d a off) .poolBound pat)) ∧
    (8 ∣ pat.toNat → (∃ j, active j ∧ (pat.toNat + 4 * j < 0x800 ∨ scratchSize (pwordOf s s.curRow) < pat.toNat + 4 * j + 4)) →
      (LaneRuns s (.stpv d a off) [.g a p.ea, .v d p.eb] → traps (.stpv d a off) .poolBound pat)))

/-- R157 to R159, R161, R150: a lane load or store with aligned, translated, unwatched addresses at every core, where a load joins no
walk under way (R270), sends one load per core, which empties the destination until it returns, or posts one store per core; memory
and every other register stay as they are.
An LDV or STV without an active element performs no access, so no request is added at that core: LDV writes the inactive elements at
once. -/
def Obligations.LaneMemory : Prop :=
  ∀ (s : State) (d a : BitVec 5) (off : BitVec 12) (voff : BitVec 11) (sz : Sz) (ord : Bool), 0 < s.fresh →
    (∀ c < 16, (coreAt s c).wctl = 0 ∧ (coreAt s c).poolPoison = []) →
    let p := pxOf (me s)
    let n := szBytes sz
    let at_ (c : Nat) : Word := rdG (laneAt s c) a + BitVec.ofInt 64 (off.toInt * n)
    let vat (c : Nat) : Word := rdG (laneAt s c) a + BitVec.ofInt 64 (voff.toInt * 128)
    let mask (c : Nat) : BitVec 32 := (rdM (laneAt s c) p.msk).setWidth 32
    let kept (t : State) : Prop := t.mem = s.mem ∧ getHead t s.curRow s.curSlot = goOn (me s) ∧
      ∀ c < 16, (getLane t s.curRow c s.curSlot).g = (laneAt s c).g ∧ (getLane t s.curRow c s.curSlot).m = (laneAt s c).m ∧
        (coreAt t c).pool = (coreAt s c).pool
    let mine (q : Req) (c : Nat) : Prop := q.row = s.curRow ∧ q.col = c ∧ q.strand = s.curSlot
    let noNew (t : State) (c : Nat) : Prop := ∀ q ∈ t.reqs, mine q c → ∃ q' ∈ s.reqs, q'.id = q.id
    let loads (i : Instr) (signed : Bool) : Prop :=
      LaneRuns s i [.g a p.ea] → (∀ c < 16, n ∣ (at_ c).toNat) →
      (∀ c < 16, walkBusy s s.curRow c s.curSlot (at_ c) n (BitVec.allOnes 32) = false ∧
        ∃ x, spanXlate s s.curRow c .read (at_ c) n (BitVec.allOnes 32) = .ok x) →
      Completes (exec i s) fun t => kept t ∧ ∀ c < 16,
        (d ≠ 0 → gEmpty (getLane t s.curRow c s.curSlot) d = true) ∧ (getLane t s.curRow c s.curSlot).v = (laneAt s c).v ∧
        ∃ q ∈ t.reqs, mine q c ∧ q.kind = .load ∧ q.va = at_ c ∧ q.size = n ∧ q.signed = signed ∧ q.acq = ord ∧
          q.dest = .g d.toNat q.id ∧ q.st = .sent
    loads (.ld d a off sz ord) true ∧ loads (.ldn d a off sz ord) false ∧
    (LaneRuns s (.st d a off sz ord) [.g a p.ea, .g d p.eb] → (∀ c < 16, n ∣ (at_ c).toNat) →
      Completes (exec (.st d a off sz ord) s) fun t => kept t ∧ ∀ c < 16,
        (getLane t s.curRow c s.curSlot).v = (laneAt s c).v ∧
        ∃ q ∈ t.reqs, mine q c ∧ q.kind = .store ∧ q.va = at_ c ∧ q.size = n ∧ q.rel = ord ∧ q.st ≠ .performed ∧
          q.data = BitVec.ofNat 1024 ((rdG (laneAt s c) d).toNat % 2 ^ (8 * n))) ∧
    (LaneRuns s (.ldv d a voff ord) ([.g a p.ea] ++ mergeSrc d p) → (∀ c < 16, 8 ∣ (vat c).toNat) →
      (∀ c < 16, mask c = 0 ∨ walkBusy s s.curRow c s.curSlot (vat c) 128 (mask c) = false ∧
        ∃ x, spanXlate s s.curRow c .read (vat c) 128 (mask c) = .ok x) →
      Completes (exec (.ldv d a voff ord) s) fun t => kept t ∧ ∀ c < 16,
        (∀ k, k ≠ d → rdV (getLane t s.curRow c s.curSlot) k = rdV (laneAt s c) k) ∧
        (mask c = 0 → noNew t c ∧ vEmpty (getLane t s.curRow c s.curSlot) d = false ∧
          rdV (getLane t s.curRow c s.curSlot) d = if p.mz then 0 else rdV (laneAt s c) d) ∧
        (mask c ≠ 0 → vEmpty (getLane t s.curRow c s.curSlot) d = true ∧
          ∃ q ∈ t.reqs, mine q c ∧ q.kind = .load ∧ q.va = vat c ∧ q.size = 128 ∧ q.mask = mask c ∧ q.acq = ord ∧
            q.dest = .v d.toNat q.id ∧ q.st = .sent)) ∧
    (LaneRuns s (.stv d a voff ord) [.g a p.ea, .v d p.eb] → (∀ c < 16, 8 ∣ (vat c).toNat) →
      Completes (exec (.stv d a voff ord) s) fun t => kept t ∧ ∀ c < 16,
        (getLane t s.curRow c s.curSlot).v = (laneAt s c).v ∧
        (mask c = 0 → noNew t c) ∧
        (mask c ≠ 0 → ∃ q ∈ t.reqs, mine q c ∧ q.kind = .store ∧ q.va = vat c ∧ q.size = 128 ∧ q.mask = mask c ∧ q.rel = ord ∧
          q.st ≠ .performed ∧ q.data = rdV (laneAt s c) d))

/-- R163, R164: the pool accesses inside the scratch area, aligned, with no acquire outstanding that orders them (R318): a load reads the core's pool, little-endian; a store
above the constant words changes exactly its active bytes of that pool, and nothing of any register or of memory. A load may add to what
its strand has observed of device ordering (R323), which is no register. -/
def Obligations.PoolMemory : Prop :=
  ∀ (s : State) (d a : BitVec 5) (off : BitVec 12) (sz : Sz), (∀ c < 16, acqPending s s.curRow c s.curSlot = false) →
    let p := pxOf (me s)
    let n := szBytes sz
    let size := scratchSize (pwordOf s s.curRow)
    let at_ (c : Nat) : Nat := (rdG (laneAt s c) a + BitVec.ofInt 64 (off.toInt * n)).toNat
    let vat (c : Nat) : Nat := (rdG (laneAt s c) a + BitVec.ofInt 64 (off.toInt * 128)).toNat
    let mask (c : Nat) : BitVec 32 := (rdM (laneAt s c) p.msk).setWidth 32
    let stores (i : Instr) (srcs : List Src) (new : Nat → Nat → Option Byte) : Prop :=
      LaneRuns s i srcs →
      Completes (exec i s) fun t => t.mem = s.mem ∧ getHead t s.curRow s.curSlot = goOn (me s) ∧ t.lanes = s.lanes ∧
        ∀ c < 16, ∀ x, memRd (coreAt t c).pool x = (new c x).getD (memRd (coreAt s c).pool x)
    (LaneRuns s (.ldp d a off sz) [.g a p.ea] → (∀ c < 16, (coreAt s c).poolPoison = [] ∧ n ∣ at_ c ∧ at_ c + n ≤ size) →
      Completes (exec (.ldp d a off sz) s) fun t => LaneRel s t fun c l l' =>
        ∃ st, l' = { wrG l d (BitVec.ofNat 64 (memRdN (coreAt s c).pool (at_ c) n)) with stamp := st }) ∧
    ((∀ c < 16, n ∣ at_ c ∧ 0x800 ≤ at_ c ∧ at_ c + n ≤ size) →
      stores (.stp d a off sz) [.g a p.ea, .g d p.eb] fun c x =>
        if at_ c ≤ x ∧ x < at_ c + n then some (BitVec.ofNat 8 ((rdG (laneAt s c) d).toNat / 2 ^ (8 * (x - at_ c)))) else none) ∧
    (VecRuns s (.ldpv d a off) ([.g a p.ea] ++ mergeSrc d p) → (∀ c < 16, 8 ∣ vat c ∧ vat c + 128 ≤ size) →
      Completes (exec (.ldpv d a off) s) fun t => LaneRel s t fun c l l' => ∃ (v : Vec) (st : Vector Nat 4), l' = { wrV l d v with stamp := st } ∧
        ∀ j < 32, elem v 32 j = if (mask c).getLsbD j then memRdN (coreAt s c).pool (vat c + 4 * j) 4
          else if p.mz then 0 else elem (rdV l d) 32 j) ∧
    ((∀ c < 16, 8 ∣ vat c ∧ 0x800 ≤ vat c ∧ vat c + 128 ≤ size) →
      stores (.stpv d a off) [.g a p.ea, .v d p.eb] fun c x =>
        if vat c ≤ x ∧ x < vat c + 128 ∧ (mask c).getLsbD ((x - vat c) / 4) then
          some (BitVec.ofNat 8 ((rdV (laneAt s c) d).toNat / 2 ^ (8 * (x - vat c)))) else none)

/-- R176 to R180: FENCE and DRAINST pass once nothing they wait for is outstanding, and wait otherwise at the first core where an access
they wait for is outstanding; a handler does not wait for a release of task level that a record holds back, which is the model's reading
(log entry 17); BARI sets a barrier's count; BARA arrives once in a generation, a second one in the same generation has no effect, and the
arrival that reaches the count begins the next generation; BARW passes where the generation that the strand arrived in is over and waits
where it is not, BAR passes where its own arrival ends it. -/
def Obligations.Ordering : Prop :=
  ∀ (s : State) (n a : BitVec 5),
    let ea := (pxOf (me s)).ea
    let mine (q : Req) : Prop := q.row = s.curRow ∧ q.strand = s.curSlot ∧ q.col < 16
    let bar (t : State) (c : Nat) : Barrier := (coreAt t c).bars[n.toNat]
    let kept (t : State) : Prop := t.mem = s.mem ∧ t.reqs = s.reqs ∧ getHead t s.curRow s.curSlot = goOn (me s) ∧
      ∀ c < 16, (getLane t s.curRow c s.curSlot).g = (laneAt s c).g ∧ (getLane t s.curRow c s.curSlot).v = (laneAt s c).v ∧
        (coreAt t c).pool = (coreAt s c).pool ∧ ∀ k : Fin 32, k.val ≠ n.toNat → (coreAt t c).bars[k] = (coreAt s c).bars[k]
    let arrived (b b' : Barrier) : Prop := b'.count = b.count ∧
      (b.tally + 1 < b.count → b'.tally = b.tally + 1 ∧ b'.gen = b.gen) ∧
      (b.count ≤ b.tally + 1 → b'.tally = 0 ∧ b'.gen = b.gen + 1)
    let here (q : Req) (c : Nat) : Prop := q.row = s.curRow ∧ q.strand = s.curSlot ∧ q.col = c
    let unread (c : Nat) : Prop := ∃ x ∈ (coreAt s c).transfers, x.strand = s.curSlot ∧ x.data = none
    let waits (i : Instr) (c : Nat) : Prop :=
      Completes (exec i s) fun t => t.reqs = s.reqs ∧ t.mem = s.mem ∧ t.lanes = s.lanes ∧
        ∃ f, (getHead t s.curRow s.curSlot).flights = [f] ∧ f.col = c ∧ f.instr = i
    (LaneReady s .fence → (∀ q ∈ s.reqs, mine q → setAside s (me s).handler q = true) → (∀ c < 16, ¬ unread c) → exec .fence s = .next (setMe s (goOn (me s)))) ∧
    (∀ c < 16, LaneReady s .fence → (∀ q ∈ s.reqs, ∀ k < c, ¬ here q k) → (∀ k < c, ¬ unread k) →
      (∃ q ∈ s.reqs, here q c ∧ setAside s (me s).handler q = false ∧ (q.kind = .load ∨ q.kind = .landing ∨
        (q.kind = .store ∧ (q.segs = [] ∨ scopeOf (pxOf (me s)).c = .sys ∨ ∃ u ∈ q.segs, regionOf u.1 = .cellar)))) →
      waits .fence c) ∧
    (LaneReady s .drainst → (∀ q ∈ s.reqs, mine q → setAside s (me s).handler q = true ∨ (q.kind ≠ .store ∧ q.kind ≠ .red)) →
      exec .drainst s = .next (setMe s (goOn (me s)))) ∧
    (∀ c < 16, LaneReady s .drainst → (∀ q ∈ s.reqs, ∀ k < c, here q k → q.kind ≠ .store ∧ q.kind ≠ .red) →
      (∃ q ∈ s.reqs, here q c ∧ setAside s (me s).handler q = false ∧ (q.kind = .store ∨ q.kind = .red)) → waits .drainst c) ∧
    (LaneRuns s (.bari n a) [.g a ea] →
      (∀ c < 16, 1 ≤ (rdG (laneAt s c) a).toNat ∧ (rdG (laneAt s c) a).toNat ≤ (constWord (coreAt s c) 230).toNat) →
      Completes (exec (.bari n a) s) fun t => kept t ∧ t.lanes = s.lanes ∧ ∀ c < 16,
        let k := (rdG (laneAt s c) a).toNat
        (bar t c).count = k ∧ (k ≤ (bar s c).tally → (bar t c).tally = 0 ∧ (bar t c).gen = (bar s c).gen + 1) ∧
        ((bar s c).tally < k → (bar t c).tally = (bar s c).tally ∧ (bar t c).gen = (bar s c).gen)) ∧
    (LaneReady s (.bara n) → (∀ c < 16, ∀ q ∈ (laneAt s c).arrivals, q.1 ≠ n.toNat) →
      Completes (exec (.bara n) s) fun t => kept t ∧ ∀ c < 16, arrived (bar s c) (bar t c) ∧
        tget (getLane t s.curRow c s.curSlot).arrivals n.toNat ⟨0, none, false⟩ =
          ⟨(bar s c).gen, some (me s).region, false⟩) ∧
    (LaneReady s (.bara n) →
      (∀ c < 16, ∃ q, (laneAt s c).arrivals.find? (fun q => q.1 == n.toNat) = some q ∧ q.2.gen = (bar s c).gen) →
      Completes (exec (.bara n) s) fun t => kept t ∧ ∀ c < 16, bar t c = bar s c) ∧
    (LaneReady s (.barw n) →
      (∃ q, (laneAt s 0).arrivals.find? (fun q => q.1 == n.toNat) = some q ∧ (bar s 0).gen ≤ q.2.gen) → waits (.barw n) 0) ∧
    (LaneReady s (.barw n) →
      (∀ c < 16, ∃ q, (laneAt s c).arrivals.find? (fun q => q.1 == n.toNat) = some q ∧ q.2.gen < (bar s c).gen) →
      Completes (exec (.barw n) s) fun t => kept t ∧ ∀ c < 16, bar t c = bar s c) ∧
    (LaneReady s (.bar n) → (∀ c < 16, (bar s c).count ≤ (bar s c).tally + 1 ∧ ∀ q ∈ (laneAt s c).arrivals, q.1 ≠ n.toNat) →
      Completes (exec (.bar n) s) fun t => kept t ∧ ∀ c < 16, arrived (bar s c) (bar t c))

/-- R166, R170, R38: LDL and LDLV with room in the set take its lowest free position, pending, with the tag and the next issue number, and send a
plain load whose destination is the slot; a misaligned one leaves the slot poisoned at once. LCNT counts the set, LDROP empties it. -/
def Obligations.Landing : Prop :=
  ∀ (s : State) (t a d : BitVec 5) (off : BitVec 11) (sz : Sz) (set : BitVec 2),
    (∀ c < 16, (coreAt s c).wctl = 0 ∧ (coreAt s c).slotQ = [] ∧ (laneAt s c).claims = []) →
    let p := pxOf (me s)
    let slots (c : Nat) : List LandSlot := (laneAt s c).land.filter (·.set = set.toNat)
    let n (k : LandState) (c : Nat) : Nat := ((slots c).filter (·.st = k)).length
    let hd := goOn (me s)
    let loads (i : Instr) (al size : Nat) (at_ : Nat → Word) : Prop :=
      LaneRuns s i [.g a p.ea, .g t p.eb] →
      (∀ c < 16, (slots c).length < 16 ∧ ((List.range 8).map fun sl => (getLane s s.curRow c sl).land.length).sum < 256) →
      ((∀ c < 16, al ∣ (at_ c).toNat ∧ ∃ x, spanXlate s s.curRow c .read (at_ c) size (BitVec.allOnes 32) = .ok x) →
        Completes (exec i s) fun u => CoreRelNew s u hd fun c l l' k k' => ∃ q : LandSlot,
          l' = { l with land := l.land ++ [q] } ∧ k' = { k with issueCtr := k.issueCtr + 1, tlb := k'.tlb } ∧
          q.set = set.toNat ∧ q.st = .pending ∧ q.tag = (rdG l t).setWidth 16 ∧ q.iss = k.issueCtr ∧ q.claimed = false ∧
          q.pos < 16 ∧ (∀ r ∈ slots c, r.pos ≠ q.pos) ∧ (∀ x < q.pos, ∃ r ∈ slots c, r.pos = x) ∧
          ∃ r ∈ u.reqs, r.row = s.curRow ∧ r.col = c ∧ r.strand = s.curSlot ∧ r.kind = .landing ∧ r.va = at_ c ∧ r.size = size ∧
            r.acq = false ∧ r.dest = .slot set.toNat q.pos ∧ (r.st = .walking ∨ r.st = .sent)) ∧
      ((∀ c < 16, ¬ al ∣ (at_ c).toNat) →
        Completes (exec i s) fun u => u.reqs = s.reqs ∧ CoreRelNew s u hd fun _ l l' k k' => ∃ q : LandSlot,
          l' = { l with land := l.land ++ [q] } ∧ k' = { k with issueCtr := k.issueCtr + 1, arriveCtr := k.arriveCtr + 1 } ∧
          q.set = set.toNat ∧ q.st = .poisoned ∧ q.tag = (rdG l t).setWidth 16 ∧ q.cause = .memAlign ∧ q.iss = k.issueCtr ∧
          q.arr = k.arriveCtr ∧ q.claimed = false)
    loads (.ldl t a off sz set) (szBytes sz) (szBytes sz) (fun c => rdG (laneAt s c) a + BitVec.ofInt 64 (off.toInt * szBytes sz)) ∧
    loads (.ldlv t a off set) 8 128 (fun c => rdG (laneAt s c) a + BitVec.ofInt 64 (off.toInt * 128)) ∧
    (LaneReady s (.lcnt d set) → (∀ c < 16, (slots c).length ≤ 16) →
      Completes (exec (.lcnt d set) s) fun u => LaneDone s u fun c =>
        wrG (laneAt s c) d (BitVec.ofNat 64 (n .pending c + 256 * n .arrived c + 65536 * n .poisoned c))) ∧
    (LaneReady s (.ldrop set) →
      Completes (exec (.ldrop set) s) fun u => CoreRelNew s u hd fun c l l' k k' =>
        l' = { l with land := l.land.filter fun q => decide (q.set ≠ set.toNat) } ∧ k' = k ∧
        ∀ q ∈ u.reqs, q.row = s.curRow → q.col = c → q.strand = s.curSlot → ∀ x, q.dest ≠ .slot set.toNat x)

/-- R167, R168: a take on a set without an unclaimed slot writes all ones to gt; on one arrived slot it completes at once with value and tag
and frees the slot; on one pending slot it makes its claim and leaves both destinations empty; on one poisoned slot it traps. -/
def Obligations.Takes : Prop :=
  ∀ (s : State) (t d : BitVec 5) (set : BitVec 2), 0 < s.fresh → (∀ c < 16, (laneAt s c).claims = [] ∧ (coreAt s c).poolPoison = []) →
    let slots (l : Lane) : List LandSlot := l.land.filter (·.set = set.toNat)
    let hd := goOn (me s)
    let takes (i : Instr) (vec : Bool) : Prop := LaneReady s i →
      ((∀ c < 16, slots (laneAt s c) = []) →
        Completes (exec i s) fun u => LaneDone s u fun c => wrG (laneAt s c) t (BitVec.allOnes 64)) ∧
      ((∀ c < 16, ∃ q, slots (laneAt s c) = [q] ∧ q.st = .arrived ∧ q.claimed = false) →
        Completes (exec i s) fun u => CoreRelNew s u hd fun _ l l' k k' => k' = k ∧ ∀ q, slots l = [q] →
          l'.land = l.land.filter (fun r => decide (r.set ≠ set.toNat)) ∧ l'.claims = [] ∧
          l'.g = (wrG (if vec then l else wrG l d (q.value.setWidth 64)) t (q.tag.setWidth 64)).g ∧
          l'.v = (if vec then wrV l d q.value else l).v ∧ l'.m = l.m ∧ gEmpty l' t = false ∧
          (if vec then vEmpty l' d = false else gEmpty l' d = false)) ∧
      ((∀ c < 16, ∃ q, slots (laneAt s c) = [q] ∧ q.st = .pending ∧ q.claimed = false) →
        Completes (exec i s) fun u => CoreRelNew s u hd fun _ l l' k k' => k' = k ∧ l'.g = l.g ∧ l'.v = l.v ∧ l'.m = l.m ∧
          (t ≠ 0 → gEmpty l' t = true) ∧ (if vec then vEmpty l' d = true else d ≠ 0 → gEmpty l' d = true) ∧
          ∃ m, l'.claims = [m] ∧ m.set = set.toNat ∧ m.d = d.toNat ∧ m.t = t.toNat ∧ m.vec = vec) ∧
      (∀ q, slots (laneAt s 0) = [q] → q.st = .poisoned → q.claimed = false → CanTrap s →
        TrapsAt0 s i (if q.cause = .poison then .poison else .landFault) (BitVec.ofNat 64 (q.tag.toNat * 2 ^ 48 + q.addr.toNat)))
    takes (.take d t set) false ∧ takes (.takeo d t set) false ∧ takes (.takev d t set) true

/-- R165, R172 to R175, R311: an atomic operation whose sources, alignment and permission pass at every core sends one operation per core
with the core's next sequence number and waits for acceptance; AMO and CAS leave gd empty. A misaligned one traps before any core sends. -/
def Obligations.Atomics : Prop :=
  ∀ (s : State) (op : AmoOp) (dbl rel : Bool) (ord : Ord4) (d a b : BitVec 5), 0 < s.fresh →
    (∀ c < 16, (coreAt s c).wctl = 0 ∧ portFree s (coreIx s.curRow c) 4 (coreAt s c).atomSeq = true) →
    let p := pxOf (me s)
    let n := if dbl then 8 else 4
    let ab : List Src := [.g a p.ea, .g b p.eb]
    let sends (i : Instr) (srcs : List Src) (kind : ReqKind) (o : AmoOp) (acq rl : Bool) (k : Acc) (red : Bool) : Prop :=
      LaneRuns s i srcs →
      ((∀ c < 16, n ∣ (rdG (laneAt s c) a).toNat ∧ walkBusy s s.curRow c s.curSlot (rdG (laneAt s c) a) n (BitVec.allOnes 32) = false ∧
          ∃ pa at_ e, laneXlate s s.curRow c k (rdG (laneAt s c) a) = .ok (pa, at_, e) ∧ (red = true ∨ at_.det = false)) →
        Completes (exec i s) fun u => u.mem = s.mem ∧
          (∃ m, (getHead u s.curRow s.curSlot).commit = some m ∧ m.flight.instr = i ∧ m.flight.col = 16 ∧ m.left = List.range 16 ∧
            getHead u s.curRow s.curSlot = { me s with commit := some m, why := 14 }) ∧
          ∀ c < 16, (getLane u s.curRow c s.curSlot).g = (laneAt s c).g ∧ (getLane u s.curRow c s.curSlot).v = (laneAt s c).v ∧
            (coreAt u c).pool = (coreAt s c).pool ∧ (coreAt u c).atomSeq = (coreAt s c).atomSeq + 1 ∧
            (red = false → d ≠ 0 → gEmpty (getLane u s.curRow c s.curSlot) d = true) ∧
            ∃ q ∈ u.reqs, q.row = s.curRow ∧ q.col = c ∧ q.strand = s.curSlot ∧ q.kind = kind ∧ q.va = rdG (laneAt s c) a ∧ q.size = n ∧
              q.op = o ∧ q.data = BitVec.ofNat 1024 ((rdG (laneAt s c) b).toNat % 2 ^ (8 * n)) ∧
              (kind = .cas → q.expect = BitVec.ofNat 64 ((rdG (laneAt s c) d).toNat % 2 ^ (8 * n))) ∧ q.acq = acq ∧ q.rel = rl ∧
              q.seq = (coreAt s c).atomSeq ∧ q.dest = (if red then .no else .g d.toNat q.id) ∧ q.st = (if rl then .held else .sent)) ∧
      (CanTrap s → ¬ n ∣ (rdG (laneAt s 0) a).toNat →
        Completes (exec i s) fun u => TrapFrame s u ∧ u.reqs = s.reqs ∧ getHead u s.curRow s.curSlot =
          entered (me s) (flagsOf s) .memAlign 0 (rdG (laneAt s 0) a) (if (me s).pend.isSome then (me s).pc - 4 else (me s).pc))
    let acq := ord == .acq || ord == .ar
    let rl := ord == .rel || ord == .ar
    sends (.amo op dbl ord d a b) ab .amo op acq rl .both false ∧
    sends (.cas dbl ord d a b) (ab ++ [.g d false]) .cas .swap acq rl .both false ∧
    sends (.red op dbl rel a b) ab .red op false rel .write true

/-- R204, R210 to R216: MMA, MZERO and MLOAD enter each core's Press queue, youngest, while it holds fewer than 16 commands, and a region ends;
MDRAIN empties vd and vd + 1 and notes its read; MWAIT passes an idle strand; MSTAT reads the queue. -/
def Obligations.Press : Prop :=
  ∀ (s : State) (sr : Semiring) (fmt : PressFmt) (t : BitVec 6) (qa qb : BitVec 3) (rep : BitVec 4) (a b d : BitVec 5),
    let hd := acceptedHead (me s)
    let handler := (me s).handler
    let enters (op : Lane → PressOp) (o : Host.Outcome State Fault Refusal) : Prop :=
      (∀ c < 16, (coreAt s c).press.length < 16) →
      Completes o fun u => CoreRel s u hd fun _ l l' k k' =>
        l' = l ∧ k' = { k with press := k.press ++ [⟨k.pressNum, s.curSlot, op l, t.toNat, handler⟩], pressNum := k.pressNum + 1 }
    let ring (c : Nat) (n : Nat) (scale : Bool) : Prop := (ringOf (laneAt s c) n).scnt ≠ 0 ∧ (ringOf (laneAt s c) n).ssz = scale
    (LaneReady s (.mma sr fmt t qa qb rep) →
      (∀ c < 16, ring c qa.toNat false ∧ ring c qb.toNat false ∧
        (fmt = .d8s ∨ fmt = .z8 → ring c (qa.toNat + 1) true ∧ ring c (qb.toNat + 1) true)) →
      enters (fun _ => .mma sr fmt qa.toNat qb.toNat (rep.toNat + 1)) (exec (.mma sr fmt t qa qb rep) s)) ∧
    (LaneReady s (.mma sr fmt t qa qb rep) → CanTrap s → ¬ ring 0 qa.toNat false →
      Completes (exec (.mma sr fmt t qa qb rep) s) fun u => TrapFrame s u ∧ (∀ c < 16, (coreAt u c).press = (coreAt s c).press) ∧ getHead u s.curRow s.curSlot =
        entered (me s) (flagsOf s) .ringCfg 0 (qa.setWidth 64) (if (me s).pend.isSome then (me s).pc - 4 else (me s).pc)) ∧
    (LaneReady s (.mzero t) → enters (fun _ => .mzero) (exec (.mzero t) s)) ∧
    (LaneRuns s (.mload t a b) [.v a false, .v (a + 1) false, .g b false] → (∀ c < 16, (rdG (laneAt s c) b).toNat < 64) →
      enters (fun l => .mload (rdG l b).toNat (rdV l a) (rdV l (a + 1))) (exec (.mload t a b) s)) ∧
    (LaneRuns s (.mdrain d t b) [.g b false] → 0 < s.fresh → (∀ c < 16, (rdG (laneAt s c) b).toNat < 64) →
      Completes (exec (.mdrain d t b) s) fun u => u.reqs = s.reqs ∧ CoreRelNew s u (goOn (me s)) fun _ l l' k k' =>
        k' = k ∧ l'.g = l.g ∧ l'.v = l.v ∧ l'.m = l.m ∧ vEmpty l' d = true ∧ vEmpty l' (d + 1) = true ∧
        ∃ m, l'.drains = l.drains ++ [m] ∧ m.d = d.toNat ∧ m.tile = t.toNat ∧ m.row = (rdG l b).toNat ∧ m.region = (me s).region ∧
          m.after = (k.press.filter (·.strand = s.curSlot)).map (·.num)) ∧
    (LaneReady s .mwait → (∀ c < 16, (laneAt s c).drains = [] ∧ ∀ q ∈ (coreAt s c).press, q.strand ≠ s.curSlot) →
      exec .mwait s = .next (setMe s (goOn (me s)))) ∧
    (LaneReady s (.mstat d) →
      Completes (exec (.mstat d) s) fun u => LaneDone s u fun c =>
        let k := coreAt s c
        let stalled : Bool := k.running.isNone && match k.press with
          | [] => false
          | m :: _ => match m.op with
            | .mma _ f x y _ => !stagesReady (getLane s s.curRow c m.strand) f x y
            | _ => false
        wrG (laneAt s c) d (BitVec.ofNat 64 (k.press.length + 2 ^ 8 * (k.press.filter (·.strand = s.curSlot)).length +
          2 ^ 16 * pressRem k s.curSlot + (if stalled then 2 ^ 24 else 0) + 2 ^ 32 * (laneAt s c).pressDone.toNat)))

/-- R39, R205 to R208, R204: RCFG writes a ring's geometry and clears its cursors, or traps RING.CFG on a bad one; RSTAT reads the descriptor; RPUSH
with 128 bytes of room reserves them and writes byte i of va at stream position x + i, and nothing else of the pool. -/
def Obligations.Rings : Prop :=
  ∀ (s : State) (q : BitVec 3) (a b d : BitVec 5),
    let base (c : Nat) : Nat := (rdG (laneAt s c) a).toNat
    let gb (c : Nat) : Word := rdG (laneAt s c) b
    let z (c : Nat) : Nat := if (gb c).getLsbD 21 then 512 else 16384
    let cnt (c : Nat) : Nat := bits (gb c) 22 5
    let clean (c : Nat) : Prop := gb c &&& ~~~0x7E00000 = 0
    let fits (c : Nat) : Prop := clean c ∧ cnt c ≠ 1 ∧ cnt c ≤ 16 ∧
      (cnt c ≠ 0 → 512 ∣ base c ∧ 0x800 ≤ base c ∧ base c + z c * cnt c ≤ scratchSize (pwordOf s s.curRow))
    let ring (l : Lane) : Ring := ringOf l q.toNat
    (LaneRuns s (.rcfg q a b) [.g a false, .g b false] →
      ((∀ c < 16, ringBusy s s.curRow c s.curSlot q.toNat = false ∧ fits c ∧
          ∀ k ∈ (coreAt s c).press, k.strand = s.curSlot → cmdUses k q.toNat = false) →
        Completes (exec (.rcfg q a b) s) fun u => LaneDone s u fun c =>
          setRing (laneAt s c) q.toNat ⟨base c, (gb c).getLsbD 21, cnt c, 0, 0, [], 0⟩) ∧
      (CanTrap s → ringBusy s s.curRow 0 s.curSlot q.toNat = false → ¬ fits 0 → TrapsAt0 s (.rcfg q a b) .ringCfg (gb 0))) ∧
    (LaneReady s (.rstat d q) →
      Completes (exec (.rstat d q) s) fun u => LaneDone s u fun c =>
        let r := ring (laneAt s c)
        wrG (laneAt s c) d (BitVec.ofNat 64 (r.base % 2 ^ 21 + (if r.ssz then 2 ^ 21 else 0) + 2 ^ 22 * r.scnt + 2 ^ 27 * r.head +
          2 ^ 31 * r.tail + 2 ^ 35 * r.fill + 2 ^ 49 * r.fcnt))) ∧
    (LaneRuns s (.rpush q a) [.v a false] →
      (∀ c < 16, let r := ring (laneAt s c)
        r.scnt ≠ 0 ∧ r.holes = [] ∧ r.reserved + 128 ≤ (r.popped + r.scnt) * (if r.ssz then 512 else 16384)) →
      Completes (exec (.rpush q a) s) fun u => CoreRel s u (acceptedHead (me s)) fun _ l l' k k' =>
        let r := ring l
        let place (i : Nat) : Nat :=
          let z := if r.ssz then 512 else 16384
          r.base + z * ((r.reserved + i) / z % r.scnt) + (r.reserved + i) % z
        l' = setRing l q.toNat { r with reserved := r.reserved + 128 } ∧
        k' = { k with pool := k'.pool, poolPoison := k'.poolPoison } ∧
        (∀ i < 128, memRd k'.pool (place i) = BitVec.ofNat 8 ((rdV l a).toNat / 2 ^ (8 * i))) ∧
        ∀ x, (∀ i < 128, x ≠ place i) → memRd k'.pool x = memRd k.pool x)

/-- R204, R220 to R226, R253: HOPEN of an aligned row of the own vault, no bank of it held, puts the slot into opening; HTAKE of a
ready row takes a range of the ring, and reads the row at once where no transfer is under way; HPUT posts its row; HSHUT frees a
slot of the strand, at once where no transfer of its row is under way, else as that ends; HWAIT passes without posted rows; HSTAT
reads the slots. -/
def Obligations.Hatch : Prop :=
  ∀ (s : State) (force : Bool) (n : BitVec 2) (q : BitVec 3) (a b d : BitVec 5),
    let hd := goOn (me s)
    let addr (c : Nat) : Word := rdG (laneAt s c) a
    let slot (k : Core) : HatchSlot := k.hatch[n.toNat]
    let mapped (c : Nat) (k : Acc) (pa : Nat) : Prop := ∃ at_ e, laneXlate s s.curRow c k (addr c) = .ok (pa, at_, e)
    let own (c pa : Nat) : Prop := regionOf pa = .cellar ∧ vaultOf pa = coreIx s.curRow c
    let free (k : Core) (but : Option Nat) (pa : Nat) : Prop := ∀ i < 4, some i ≠ but → ∀ h, k.hatch.toList[i]? = some h →
      h.st = .opening ∨ h.st = .ready → bankOf h.row ≠ bankOf pa
    let walks (c : Nat) : Prop := walkBusy s s.curRow c s.curSlot (addr c) 1 (BitVec.allOnes 32) = true
    let moving (k : Core) : Prop := ∃ m ∈ k.transfers, m.hatch = n.toNat ∧ m.row = (slot k).row
    (LaneRuns s (.hopen force n a) [.g a false] →
      ((∀ c < 16, ∃ pa, 2048 ∣ (addr c).toNat ∧ ¬ walks c ∧ mapped c .read pa ∧ own c pa ∧ free (coreAt s c) (some n.toNat) pa ∧
          ((slot (coreAt s c)).st = .free ∨ (force = true ∧ (slot (coreAt s c)).owner = s.curSlot ∧ (slot (coreAt s c)).row ≠ pa))) →
        Completes (exec (.hopen force n a) s) fun u => CoreRel s u hd fun c l l' k k' => l' = l ∧
          ∀ pa, mapped c .read pa → ∃ key, k' = { k with
            tlb := k'.tlb, hatch := k.hatch.set n.toNat ⟨.opening, s.curSlot, pa, key, none, false⟩,
            opens := (k.opens.filter fun o => decide (o ≠ .slot n.toNat)) ++ [.slot n.toNat] }) ∧
      (CanTrap s → ¬ 2048 ∣ (addr 0).toNat → TrapsAt0 s (.hopen force n a) .hatchAlign (addr 0))) ∧
    (LaneReady s (.htake n q) →
      (∀ c < 16, let r := ringOf (laneAt s c) q.toNat
        let z := if r.ssz then 512 else 16384
        acqPending s s.curRow c s.curSlot = false ∧
        (slot (coreAt s c)).st = .ready ∧ (slot (coreAt s c)).owner = s.curSlot ∧ r.scnt ≠ 0 ∧ 2048 ≤ z * r.scnt ∧
        r.reserved + 2048 ≤ (r.popped + r.scnt) * z) →
      Completes (exec (.htake n q) s) fun u => u.reqs = s.reqs ∧ CoreRelNew s u (acceptedHead (me s)) fun _ l l' k k' =>
        let r := ringOf l q.toNat
        l' = setRing l q.toNat { r with holes := r.holes ++ [(r.reserved, 2048)], reserved := r.reserved + 2048 } ∧
        ∃ m, k' = { k with transfers := k.transfers ++ [m] } ∧ m.strand = s.curSlot ∧ m.hatch = n.toNat ∧ m.row = (slot k).row ∧
          m.key = (slot k).key ∧ m.ring = q.toNat ∧ m.at_ = r.reserved ∧ m.since = (getRow s s.curRow).cycle ∧
          (k.transfers ≠ [] → m.data = none) ∧
          (k.transfers = [] → ∃ bad, m.data = some (physRdN s m.key m.row 2048, bad) ∧
            ∀ i, i ∈ bad ↔ i < 32 ∧ (physBad s (m.row + 64 * i) 64).isSome = true)) ∧
    (LaneRuns s (.hput a b) [.g a false, .g b false] →
      (∀ c < 16, ∃ pa, 2048 ∣ (addr c).toNat ∧ ¬ walks c ∧ 256 ∣ (rdG (laneAt s c) b).toNat ∧
        (rdG (laneAt s c) b).toNat + 2048 ≤ scratchSize (pwordOf s s.curRow) ∧ mapped c .write pa ∧ own c pa ∧ free (coreAt s c) none pa) →
      Completes (exec (.hput a b) s) fun u => u.reqs = s.reqs ∧ CoreRelNew s u hd fun c l l' k k' => l' = l ∧
        ∃ m, k' = { k with tlb := k'.tlb, hputs := k.hputs ++ [m], opens := k.opens ++ [.put m.id] } ∧ mapped c .write m.row ∧
          m.slot = s.curSlot ∧ m.off = (rdG l b).toNat ∧ m.va = rdG l a ∧ m.accepted = none ∧ m.issued = s.now) ∧
    (LaneReady s (.hshut n) → (∀ c < 16, (slot (coreAt s c)).st = .free ∨ (slot (coreAt s c)).owner = s.curSlot) →
      Completes (exec (.hshut n) s) fun u => CoreRel s u hd fun _ l l' k k' => l' = l ∧ k'.transfers = k.transfers ∧
        ((slot k).st = .free → k' = k) ∧ (¬ moving k → (slot k').st = .free) ∧
        ((slot k).st ≠ .free → moving k → slot k' = { slot k with shut := true }) ∧ (∀ i : Fin 4, i.val ≠ n.toNat → k'.hatch[i] = k.hatch[i]) ∧ k'.pool = k.pool) ∧
    (LaneReady s .hwait → (∀ c < 16, (coreAt s c).hputs = []) → exec .hwait s = .next (setMe s (goOn (me s)))) ∧
    (LaneReady s (.hstat d) → (∀ c < 16, ∀ i : Fin 4, (coreAt s c).hatch[i].owner < 8) →
      Completes (exec (.hstat d) s) fun u => LaneDone s u fun c => wrG (laneAt s c) d (BitVec.ofNat 64 (
        ((List.range 4).map fun i => 256 ^ i * (match (coreAt s c).hatch.toList[i]? with
          | none => 0
          | some h => (match h.st with | .free => 0 | .opening => 1 | .ready => 2 | .closed => 3) +
            (if h.st = .free then 0 else 4 * h.owner + if h.owner = s.curSlot then 32 else 0))).sum +
        2 ^ 32 * ((coreAt s c).hputs.length % 256))))

/-- R204, R228, R229, R233 to R236: a copy that passes its checks enters its channel while that holds fewer than 16 and joins the open copies; a copy
to a ring also reserves its range, and it and CRED end a region; CRED counts among the strand's reductions whatever its page (log 27,
DEDUCED). CSEAL seals the open copies, CWAIT waits for batches, CPTR reads the
channel's count, CJOIN enters its tag and waits for the routers; CLEAVE takes a tag out and waits for them, of an absent tag it does nothing. -/
def Obligations.Copies : Prop :=
  ∀ (s : State) (src : CopySrc) (dst : CopyDst) (op : RedOp) (fmt : CredFmt) (toPool : Bool) (ch : BitVec 2) (n : BitVec 4)
    (d a b : BitVec 5),
    let hd := goOn (me s)
    let g (l : Lane) (x : BitVec 5) : Word := rdG l x
    let passes (sr : CopySrc) (ds : CopyDst) : Prop := ∀ c < 16,
      copyBad s s.curRow (laneAt s c) sr ds (g (laneAt s c) a) (g (laneAt s c) d) (g (laneAt s c) b) (d.toNat % 8) = none ∧
      (coreAt s c).chans[ch.toNat].length < 16
    let entered_ (sr : CopySrc) (ds : CopyDst) (red : Option (RedOp × CredFmt)) (l k k' : _) (m : Copy) : Prop :=
      k' = { (k : Core) with chans := k.chans.set ch.toNat (k.chans[ch.toNat] ++ [m]) } ∧
      m.strand = s.curSlot ∧ m.chan = ch.toNat ∧ m.src = sr ∧ m.dst = ds ∧ m.srcVal = g l a ∧ m.count = (g l b).toNat ∧ m.done = 0 ∧
      m.scope = scopeOf (pxOf (me s)).c ∧ m.red = red
    let srcs : List Src := [.g a false, .g b false]
    (dst ≠ .ring → LaneRuns s (.copy src dst ch d a b) (srcs ++ [.g d false]) → passes src dst →
      Completes (exec (.copy src dst ch d a b) s) fun u => u.reqs = s.reqs ∧ CoreRelNew s u hd fun _ l l' k k' => ∃ m,
        entered_ src dst none l k k' m ∧ m.dstVal = g l d ∧ l' = { l with openCopies := l.openCopies ++ [m.id] }) ∧
    (dst ≠ .ring → LaneRuns s (.copy src dst ch d a b) (srcs ++ [.g d false]) → CanTrap s → ¬ 64 ∣ (g (laneAt s 0) b).toNat →
      TrapsAt0 s (.copy src dst ch d a b) .copyArg (g (laneAt s 0) b)) ∧
    (LaneRuns s (.copy src .ring ch d a b) srcs → passes src .ring →
      Completes (exec (.copy src .ring ch d a b) s) fun u => u.reqs = s.reqs ∧ CoreRelNew s u (acceptedHead (me s)) fun _ l l' k k' =>
        ∃ m, entered_ src .ring none l k k' m ∧
          let r := ringOf l (d.toNat % 8)
          m.dstVal = BitVec.ofNat 64 (d.toNat % 8) ∧ m.ringAt = r.reserved ∧
          l' = { setRing l (d.toNat % 8) { r with
              holes := if m.count = 0 then r.holes else r.holes ++ [(r.reserved, m.count)], reserved := r.reserved + m.count } with
            openCopies := l.openCopies ++ [m.id] }) ∧
    (LaneRuns s (.cred op fmt toPool ch d a b) (srcs ++ [.g d false]) → passes .pool (if toPool then .remote else .global) →
      Completes (exec (.cred op fmt toPool ch d a b) s) fun u => u.reqs = s.reqs ∧
        CoreRelNew s u { acceptedHead (me s) with detSeq := (me s).detSeq + 1 } fun _ l l' k k' => ∃ m,
          entered_ .pool (if toPool then .remote else .global) (some (op, fmt)) l k k' m ∧ m.dstVal = g l d ∧
          l' = { l with openCopies := l.openCopies ++ [m.id] }) ∧
    (LaneReady s .cseal → (∀ c < 16, (laneAt s c).batches.countP (fun x => decide (x ≠ [])) < 16) →
      Completes (exec .cseal s) fun u => LaneDone s u fun c => { laneAt s c with
        batches := (laneAt s c).batches.filter (fun x => decide (x ≠ [])) ++ [(laneAt s c).openCopies], openCopies := [] }) ∧
    (LaneReady s (.cwait n) → (∀ c < 16, (laneAt s c).batches.countP (fun x => decide (x ≠ [])) ≤ n.toNat) →
      exec (.cwait n) s = .next (setMe s (goOn (me s)))) ∧
    (LaneReady s (.cptr d ch) →
      Completes (exec (.cptr d ch) s) fun u => LaneDone s u fun c => wrG (laneAt s c) d (coreAt s c).cptr[ch.toNat]) ∧
    let waitsFor (u : State) (i : Instr) (join : Bool) (tag : BitVec 16) : Prop :=
      u.mem = s.mem ∧ u.lanes = s.lanes ∧
        (∃ pkt, u.joins = s.joins ++ [⟨s.fresh, coreIx s.curRow 0, s.curSlot, tag, join, s.now, (me s).handler, pkt⟩]) ∧
        ∃ f, getHead u s.curRow s.curSlot = { goOn (me s) with flights := [f] } ∧ f.instr = i ∧ f.col = 0 ∧ f.begun = [s.fresh]
    (LaneRuns s (.cjoin a b) srcs → (64 ∣ (g (laneAt s 0) b).toNat) → 0x800 ≤ (g (laneAt s 0) b).toNat →
      (g (laneAt s 0) b).toNat < scratchSize (pwordOf s s.curRow) →
      let tag : BitVec 16 := (g (laneAt s 0) a).setWidth 16
      let others := (coreAt s 0).match_.filter fun p => decide (p.1 ≠ tag)
      others.length < 16 →
      Completes (exec (.cjoin a b) s) fun u => waitsFor u (.cjoin a b) true tag ∧
        coreAt u 0 = { coreAt s 0 with match_ := others ++ [(tag, (g (laneAt s 0) b).toNat)] }) ∧
    (LaneRuns s (.cleave a) [.g a false] → (∃ p ∈ (coreAt s 0).match_, p.1 = (g (laneAt s 0) a).setWidth 16) →
      let tag : BitVec 16 := (g (laneAt s 0) a).setWidth 16
      Completes (exec (.cleave a) s) fun u => waitsFor u (.cleave a) false tag ∧
        coreAt u 0 = { coreAt s 0 with match_ := (coreAt s 0).match_.filter fun p => decide (p.1 ≠ tag) }) ∧
    (LaneRuns s (.cleave a) [.g a false] → (∀ c < 16, ∀ p ∈ (coreAt s c).match_, p.1 ≠ (g (laneAt s c) a).setWidth 16) →
      exec (.cleave a) s = .next (setMe s (goOn (me s))))

/-- R239 to R242, R413, R414: ESTAT clears and sets flags under its mask and reads the old ones; DBGR reads, at handler level, the selected
state of its class: a g, v or m register that is not poisoned, the full/empty bits, a ring, a landing slot, a named barrier, the flags; 0
for an invalid selector or a slot without a strand. DBGW writes it as its class says, and nothing there. -/
def Obligations.LaneSystem : Prop :=
  ∀ (s : State) (d a b num : BitVec 5) (sl part : Nat), sl < 8 → part < 4096 →
    let W : Word := 0x11F
    let at_ (cls n part : Nat) : Word := BitVec.ofNat 64 (n + 256 * cls + 2 ^ 12 * part + 2 ^ 24 * sl)
    let sel (cls n : Nat) : Word := at_ cls n 0
    let n := num.toNat
    let gb (c : Nat) : Word := rdG (laneAt s c) b
    let half (m : Mask) (i : Nat) : Nat := m.toNat / 2 ^ (64 * i) % 2 ^ 64
    let pos := part % 16
    let word := part / 16
    let isSlot (q : LandSlot) : Prop := q.set = n ∧ q.pos = pos
    let bar (c : Nat) : Barrier := (coreAt s c).bars[n]
    let marked (x : Arrival) : Nat := if x.region = some (getHead s s.curRow sl).region then 1 else 0
    let slotWord (q : LandSlot) : Nat :=
      if word = 0 then (match q.st with | .pending => 1 | .arrived => 2 | .poisoned => 3) + (if q.claimed then 4 else 0) +
        2 ^ 16 * q.tag.toNat + (if q.st = .pending then 0 else 2 ^ 32 * q.arr.toNat) + 2 ^ 48 * q.iss.toNat
      else if word = 1 then (if q.st = .poisoned then q.addr.toNat + 2 ^ 48 * q.cause.code else 0)
      else elem q.value 64 (word - 2)
    let poked (q : Ring) (v : Word) : Ring :=
      let z := if q.ssz then 512 else 16384
      let hd := bits v 27 4
      let tl := bits v 31 4
      let fl := bits v 35 14
      let fc := bits v 49 5
      if q.scnt = 0 ∨ q.scnt ≤ hd ∨ q.scnt ≤ tl ∨ q.scnt < fc ∨ z ≤ fl ∨ tl ≠ (hd + fc) % q.scnt ∨ (fc = q.scnt ∧ fl ≠ 0) then q
      else { q with popped := hd, reserved := (hd + fc) * z + fl, holes := [] }
    let there (c : Nat) : Lane := getLane s s.curRow c sl
    let placed : Prop := (getHead s s.curRow sl).task ≠ none
    let picks (w : Word) : Prop := ∀ c < 16, rdG (laneAt s c) a = w
    let reads (v : Nat → Word) : Prop := Completes (exec (.dbgr d a) s) fun u => LaneDone s u fun c => wrG (laneAt s c) d (v c)
    let changes (rel : State → Nat → Lane → Prop) : Prop := Completes (exec (.dbgw a b) s) fun u =>
      u = { s with heads := u.heads, lanes := u.lanes, reqs := u.reqs } ∧ getHead u s.curRow s.curSlot = goOn (me s) ∧
      ∀ r c k, c < 16 → k < 8 → if r = s.curRow ∧ k = sl then rel u c (getLane u r c k) else getLane u r c k = getLane s r c k
    let writes (new : Nat → Lane) : Prop := Completes (exec (.dbgw a b) s) fun u =>
      u = { s with heads := u.heads, lanes := u.lanes } ∧ getHead u s.curRow s.curSlot = goOn (me s) ∧
      ∀ r c k, c < 16 → k < 8 → getLane u r c k = if r = s.curRow ∧ k = sl then new c else getLane s r c k
    (LaneRuns s (.estat d a b) [.g a false, .g b false] →
      Completes (exec (.estat d a b) s) fun u => LaneDone s u fun c =>
        let l := laneAt s c
        wrG { l with estat := (l.estat &&& ~~~(rdG l a &&& W)) ||| (rdG l b &&& W) } d l.estat) ∧
    (LaneRuns s (.dbgr d a) [.g a false] →
      (placed → picks (sel 0 num.toNat) → (∀ c < 16, isIn num.toNat (there c).poison = false) →
        reads fun c => rdG (there c) num) ∧
      (placed → n < vregCount (pwordOf s s.curRow) → part < 16 → picks (at_ 1 n part) → (∀ c < 16, (coreAt s c).poolPoison = []) →
        reads fun c => BitVec.ofNat 64 (elem (rdV (there c) num) 64 part)) ∧
      (placed → n < 8 → part < 2 → picks (at_ 2 n part) → (∀ c < 16, isIn (0x200 + n) (there c).poison = false) →
        reads fun c => BitVec.ofNat 64 (half (rdM (there c) (num.setWidth 3)) part)) ∧
      (placed → picks (sel 3 0) → Completes (exec (.dbgr d a) s) fun u => LaneRel s u fun c l l' => ∃ v : Word, l' = wrG l d v ∧
        ∀ i < 32, v.getLsbD i = !gEmpty (there c) (BitVec.ofNat 5 i) ∧ v.getLsbD (32 + i) = !vEmpty (there c) (BitVec.ofNat 5 i)) ∧
      (placed → n < 8 → picks (sel 4 n) → reads fun c => (ringOf (there c) n).word) ∧
      (placed → n < 4 → word < 18 → picks (at_ 5 n part) →
        (∀ q : Nat → LandSlot, (∀ c < 16, (there c).land.find? (fun q => q.set == n && q.pos == pos) = some (q c)) →
          reads fun c => BitVec.ofNat 64 (slotWord (q c))) ∧
        ((∀ c < 16, ∀ q ∈ (there c).land, ¬ isSlot q) → reads fun _ => 0)) ∧
      (placed → picks (sel 6 n) →
        reads fun c => BitVec.ofNat 64 ((bar c).count % 256 + 2 ^ 8 * ((bar c).tally % 256) + 2 ^ 16 * ((bar c).gen % 2 ^ 48))) ∧
      (placed → picks (at_ 6 n 1) → ∀ x : Nat → Arrival,
        (∀ c < 16, (there c).arrivals.find? (fun p => p.1 == n) = some (n, x c)) →
          reads fun c => BitVec.ofNat 64 ((x c).gen % 2 ^ 63 + 2 ^ 63 * marked (x c))) ∧
      (placed → picks (sel 7 0) → reads fun c => (there c).estat) ∧
      (placed → 8 ≤ n → picks (sel 4 n) → reads fun _ => 0) ∧
      (¬ placed → picks (sel 0 num.toNat) → reads fun _ => 0)) ∧
    (LaneRuns s (.dbgw a b) [.g a false, .g b false] →
      (placed → picks (sel 0 num.toNat) → writes fun c => wrG (there c) num (rdG (laneAt s c) b)) ∧
      (placed → n < vregCount (pwordOf s s.curRow) → part < 16 → picks (at_ 1 n part) → changes fun _ c l => ∃ v : Vec,
        l = wrV (there c) num v ∧ ∀ i < 16, elem v 64 i = if i = part then (gb c).toNat else elem (rdV (there c) num) 64 i) ∧
      (placed → n < 8 → part < 2 → picks (at_ 2 n part) → changes fun _ c l => ∃ m : Mask,
        l = wrM (there c) (num.setWidth 3) m ∧ ∀ i < 2, half m i = if i = part then (gb c).toNat else half (rdM (there c) (num.setWidth 3)) i) ∧
      (placed → picks (sel 3 0) → changes fun _ c l => l = { there c with gFill := l.gFill, vFill := l.vFill } ∧
        ∀ i < 32, gEmpty l (BitVec.ofNat 5 i) = (gEmpty (there c) (BitVec.ofNat 5 i) && !(gb c).getLsbD i) ∧
          vEmpty l (BitVec.ofNat 5 i) = (vEmpty (there c) (BitVec.ofNat 5 i) && !(gb c).getLsbD (32 + i))) ∧
      (placed → n < 8 → picks (sel 4 n) → (∀ c < 16, ringInUse s s.curRow c sl n = false) →
        writes fun c => setRing (there c) n (poked (ringOf (there c) n) (gb c))) ∧
      (placed → n < 4 → part < 16 → picks (at_ 5 n part) → (∀ c < 16, (gb c).toNat % 4 = 0) → changes fun u c l =>
        l.g = (there c).g ∧ l.v = (there c).v ∧ l.m = (there c).m ∧ l.land = (there c).land.filter (fun q => decide (¬ isSlot q)) ∧
        l.claims = (there c).claims.filter (fun m => decide (¬ (m.set = n ∧ m.pos = some pos))) ∧
        ∀ q ∈ u.reqs, q.row = s.curRow → q.col = c → q.strand = sl → q.dest ≠ .slot n pos) ∧
      (placed → n < 4 → 2 ≤ word → word < 18 → picks (at_ 5 n part) → changes fun u c l => u.reqs = s.reqs ∧ ∃ v : LandSlot → Vec,
        l = { there c with land := (there c).land.map fun q => if isSlot q ∧ q.st = .arrived then { q with value := v q } else q } ∧
        ∀ q, ∀ i < 16, elem (v q) 64 i = if i = word - 2 then (gb c).toNat else elem q.value 64 i) ∧
      (placed → picks (sel 6 n) → Completes (exec (.dbgw a b) s) fun u => CoreRel s u (goOn (me s)) fun c l l' k k' => l' = l ∧
        k' = { k with bars := k'.bars } ∧ k'.bars[n] = { k.bars[n] with count := bits (gb c) 0 8, tally := bits (gb c) 8 8 } ∧
        ∀ i : Fin 32, i.val ≠ n → k'.bars[i] = k.bars[i]) ∧
      (placed → picks (at_ 6 n 1) → (∀ c < 16, ∀ p ∈ (there c).arrivals, p.1 ≠ n) → writes there) ∧
      (placed → picks (sel 7 0) → writes fun c => { there c with estat := rdG (laneAt s c) b &&& W }) ∧
      (¬ placed → picks (sel 0 num.toNat) → writes there))

/-- R36, R38, R128, R158, R159, R166, R177, R270, R271, R313: an answer within its bound fills its destination if that still awaits
it, over a way that is open; a landing slot is marked; a performed write retires; a failed one leaves a record, or is counted as dropped;
a finished walk sends or fails the posted access, poisons the slot of a landing load, and is over for a load that waits for it; a waiting
LDL or LDLV is granted its slot. -/
def Obligations.Answers : Prop :=
  (∀ (s : State) (id : Nat) (q : Req), findReq s id = some q → s.reqs.filter (fun p => decide (p.id = id)) = [q] → q.strand < 8 →
    (∀ p ∈ s.reqs, p.id ≠ id → p.st = .performed) → expired s q = false → reachable s q = true → s.dbg.dumpLinks = none →
    let l := getLane s q.row q.col q.strand
    let k := getCore s (coreIx q.row q.col)
    let owner := getHead s q.row q.strand
    let gone : List Req := s.reqs.filter fun p => decide (p.id ≠ id)
    let others (t : State) : Prop := t.mem = s.mem ∧ ∀ r c sl, c < 16 → sl < 8 → (r, c, sl) ≠ (q.row, q.col, q.strand) →
      getLane t r c sl = getLane s r c sl
    let word : Word := if q.signed then BitVec.ofInt 64 (sext (q.data.toNat % 2 ^ (8 * q.size)) (8 * q.size))
      else BitVec.ofNat 64 (q.data.toNat % 2 ^ (8 * q.size))
    (owner.task = some q.task → q.col < 16 → q.st = .performed → q.bad = none → q.kind = .load ∨ q.kind = .amo ∨ q.kind = .cas →
      ∀ n ticket, (q.dest = .g n ticket → 0 < n → n < 32 →
        Completes (exec (.loadArrival id) s) fun t => t.reqs = gone ∧ others t ∧ t.heads = s.heads ∧
          getLane t q.row q.col q.strand = if l.gFill.toList[n]? = some ticket then wrG l (BitVec.ofNat 5 n) word else l) ∧
        (q.dest = .v n ticket → n < 32 → k.poolPoison = [] →
        Completes (exec (.loadArrival id) s) fun t => t.reqs = gone ∧ others t ∧ t.heads = s.heads ∧
          getLane t q.row q.col q.strand = if l.vFill.toList[n]? = some ticket then wrV l (BitVec.ofNat 5 n) q.data else l)) ∧
    (owner.task = some q.task → q.kind = .headLoad → q.st = .performed → q.bad = none → owner.wait = .load id →
      ∀ n, q.dest = .h n → Completes (exec (.loadArrival id) s) fun t => t.reqs = gone ∧ t.mem = s.mem ∧ t.lanes = s.lanes ∧
        getHead t q.row q.strand = goOn (wrH owner (BitVec.ofNat 4 n) word)) ∧
    (owner.task = some q.task → q.col < 16 → q.kind = .landing → q.st = .performed → q.bad = none → l.claims = [] →
      ∀ set pos, q.dest = .slot set pos → (∃ p ∈ l.land, p.set = set ∧ p.pos = pos) →
      Completes (exec (.landingArrival id) s) fun t => t.reqs = gone ∧ others t ∧
        (getCore t (coreIx q.row q.col)).arriveCtr = k.arriveCtr + 1 ∧
        getLane t q.row q.col q.strand = { l with land := l.land.map fun p => if p.set = set ∧ p.pos = pos then
          { p with st := .arrived, arr := k.arriveCtr, value := q.data &&& BitVec.ofNat 1024 (2 ^ (8 * q.size) - 1) } else p }) ∧
    (q.st = .performed → q.kind = .store ∨ q.kind = .red ∨ q.kind = .headStore →
      exec (.storeAck id) s = .next { s with reqs := gone }) ∧
    (owner.task = some q.task → q.col < 16 → q.kind = .store ∨ q.kind = .red → ∀ c va, q.st = .failed c va →
      Completes (exec (.storeFaultReturn id) s) fun t => t.reqs = gone ∧ others t ∧ t.cores = s.cores ∧
        let l' := getLane t q.row q.col q.strand
        (8 ≤ l.recs.length → l' = { l with dropped := l.dropped + 1 }) ∧
        (l.recs.length < 8 → ∃ r, l' = { l with recs := l.recs ++ [r] } ∧ r.cause = c ∧ r.handler = q.handler ∧ r.data = q.data ∧
          r.sz = q.size ∧ r.mask = q.mask ∧ r.rel = q.rel ∧ r.va = q.va ∧ r.fail = va)) ∧
    (q.st = .walking → q.kind = .store → q.col < 16 → s.walks = [] → k.tlb.length + 2 ≤ 128 →
      (∀ segs a a2 es, spanXlate s q.row q.col .write q.va q.size q.mask = .ok (segs, a, a2, es) →
        Completes (exec (.walkComplete id) s) fun t => t.mem = s.mem ∧ ∃ q' ∈ t.reqs, q'.id = id ∧ q'.segs = segs ∧ q'.attr = a ∧
          q'.attr2 = a2 ∧ q'.data = q.data ∧ q'.st = if q.rel then .held else .sent) ∧
      (∀ c va, spanXlate s q.row q.col .write q.va q.size q.mask = .error (c, va) →
        Completes (exec (.walkComplete id) s) fun t => t.mem = s.mem ∧ t.lanes = s.lanes ∧ ∃ q' ∈ t.reqs, q'.id = id ∧ q'.st = .failed c va)) ∧
    (q.st = .walking → q.kind = .landing → q.col < 16 → s.walks = [] → k.tlb.length + 2 ≤ 128 → l.claims = [] → owner.task = some q.task →
      ∀ set pos, q.dest = .slot set pos → (∃ p ∈ l.land, p.set = set ∧ p.pos = pos) →
      (∀ segs a a2 es, spanXlate s q.row q.col .read q.va q.size q.mask = .ok (segs, a, a2, es) →
        Completes (exec (.walkComplete id) s) fun t => t.mem = s.mem ∧ ∃ q' ∈ t.reqs, q'.id = id ∧ q'.segs = segs ∧ q'.attr = a ∧
          q'.attr2 = a2 ∧ q'.dest = q.dest ∧ q'.st = if q.rel then .held else .sent) ∧
      (∀ c va, spanXlate s q.row q.col .read q.va q.size q.mask = .error (c, va) →
        Completes (exec (.walkComplete id) s) fun t => t.reqs = gone ∧ others t ∧
          getLane t q.row q.col q.strand = { l with land := l.land.map fun p => if p.set = set ∧ p.pos = pos then
            { p with st := .poisoned, cause := c, addr := va.setWidth 48, arr := k.arriveCtr } else p }))) ∧
  (∀ (s : State) (w : WalkWait), s.walks = [w] → w.done = none → w.gone = false → (∀ q ∈ s.reqs, q.st ≠ .walking ∧ q.id ≠ w.id) →
    Completes (exec (.walkComplete w.id) s) fun t => t.mem = s.mem ∧ t.reqs = s.reqs ∧ t.lanes = s.lanes ∧ t.heads = s.heads ∧
      t.walks = [{ w with done := some (match walk s w.vf w.ctx (65536 * w.page) with
        | .ok _ => none
        | .error c => some c) }]) ∧
  (∀ (s : State) (r col sl : Nat) (f : Flight) (addr tag n size al : Nat) (t a : BitVec 5) (off : BitVec 11) (sz : Sz) (set : BitVec 2),
    let h := getHead s r sl
    let w := getLane s r col sl
    let c := getCore s (coreIx r col)
    (f.instr = .ldl t a off sz set ∧ size = szBytes sz ∧ al = szBytes sz) ∨ (f.instr = .ldlv t a off set ∧ size = 128 ∧ al = 8) →
    col < 16 → sl < 8 → h.flights = [f] → h.commit = none → h.stall = [] → strandRuns s r sl = true → f.col = col → f.capture = false →
    f.begun = [addr, tag] → f.px.msk = 0 → (∀ k < 16, (getLane s r k sl).events = []) → w.recs = [] →
    w.claims = [] → (h.handler = true ∨ w.retry = []) →
    c.slotQ = [⟨n, sl, set.toNat⟩] → (w.land.filter (·.set = set.toNat)).length < 16 →
    ((List.range 8).map fun i => (getLane s r col i).land.length).sum < 256 → addr + size ≤ 2 ^ 48 → al ∣ addr →
    (∃ x, spanXlate s r col .read (BitVec.ofNat 64 addr) size (BitVec.allOnes 32) = .ok x) →
    Completes (exec (.landingSlotGrant (coreIx r col)) s) fun u => u.mem = s.mem ∧
      (col = 15 → (getHead u r sl).flights = []) ∧
      (col < 15 → ∃ f', (getHead u r sl).flights = [f'] ∧ f'.instr = f.instr ∧ f'.col = col + 1 ∧ f'.begun = []) ∧
      (getCore u (coreIx r col)).slotQ = [] ∧ (getCore u (coreIx r col)).issueCtr = c.issueCtr + 1 ∧
      ∃ p : LandSlot, getLane u r col sl = { w with land := w.land ++ [p] } ∧ p.set = set.toNat ∧ p.st = .pending ∧
        p.tag = BitVec.ofNat 16 tag ∧ p.iss = c.issueCtr)

/-- R137, R159, R160, R172 to R175, R248, R264, R311, R312, R317, R322 to R324, R335, R336, R338, R344: an access on its way over
links that are up and within its bound, the others done, is performed at its home: a read takes the bytes that stand there and
changes none, a write changes exactly its active bytes, in a host window where the host's IOMMU puts them; an atomic operation
replaces the old value by the new one, returns the old one and is accepted; a release probes its groups and leaves once all have
answered and nothing that it waits for is outstanding. No register changes. That a physical address in a reserved region stops the
machine, and that a reduction is counted in its task's sequence as it is accepted, are the model's choices (log entries 59, 27). -/
def Obligations.Homes : Prop :=
  ∀ (s : State) (id pa : Nat) (q : Req), findReq s id = some q → s.reqs.filter (fun p => decide (p.id = id)) = [q] →
    q.segs = [(pa, q.size)] → 0 < q.size → q.size ≤ 128 → s.memPoison = [] → s.memKeys = [] → q.attr.enc = false →
    (∀ p ∈ s.reqs, p.id ≠ id → p.st = .performed ∧ p.acq = false) →
    let active (o : Nat) : Prop := o < q.size ∧ (q.size = 128 → q.mask.getLsbD (o / 4) = true)
    let byte (x : Vec) (o : Nat) : Byte := BitVec.ofNat 8 (x.toNat / 2 ^ (8 * o))
    let becomes (t : State) (q' : Req) : Prop := ∃ b, t.reqs = s.reqs.map fun p => if p.id = id then { q' with back := b } else p
    let place (o : Nat) : Nat := hostAt s q.vf (pa + o)
    let kept (t : State) : Prop := t.cores = s.cores ∧
      (∀ r sl, (getHead t r sl).h = (getHead s r sl).h ∧ (getHead t r sl).pc = (getHead s r sl).pc) ∧
      ∀ r c sl, (getLane t r c sl).g = (getLane s r c sl).g ∧ (getLane t r c sl).v = (getLane s r c sl).v ∧
        (getLane t r c sl).m = (getLane s r c sl).m
    let reads (i : Instr) : Prop := stampApplied s (issuerHold s q) = true →
      Completes (exec i s) fun t => t.mem = s.mem ∧ kept t ∧ (s.memStamp = [] → t.heads = s.heads ∧ t.lanes = s.lanes) ∧
        ∃ x : Vec, becomes t { q with st := .performed, data := x } ∧
          ∀ o < q.size, byte x o = if q.size = 128 ∧ q.mask.getLsbD (o / 4) = false then byte q.data o else memRd s.mem (place o)
    let written (t : State) : Prop :=
      (∀ o, active o → memRd t.mem (place o) = byte q.data o) ∧ ∀ x, (∀ o, active o → x ≠ place o) → memRd t.mem x = memRd s.mem x
    let writes (i : Instr) : Prop := Completes (exec i s) fun t => written t ∧ becomes t { q with st := .performed } ∧ kept t ∧
      (q.xnum = 0 → t.heads = s.heads ∧ t.lanes = s.lanes)
    let onWay : Prop := q.st = .sent ∧ reachable s q = true ∧ expired s q = false ∧ rowsUnread s q.row q.col q.strand id = []
    let plain : Prop := q.kind = .load ∨ q.kind = .landing ∨ q.kind = .headLoad
    let store : Prop := q.kind = .store ∨ q.kind = .headStore
    (onWay → regionOf pa = .cellar → (plain → reads (.vaultAccess id)) ∧ (store → crossDie q = false → writes (.vaultAccess id)) ∧
      (store → crossDie q = true → writes (.crossDieWrite id))) ∧
    (onWay → regionOf pa = .host →
      (plain → hostReadsBefore s (pa / 2 ^ 30 % 4) q.since (olderReqs s id) < 256 → reads (.deviceHostRead id)) ∧
      (store → writes (.deviceHostWrite id)) ∧
      (q.kind = .publish → q.size = 8 → Completes (exec (.deviceHostWrite id) s) fun t =>
        memRdN t.mem (place 0) 8 = (memRdN s.mem (place 0) 8 + 1) % 2 ^ 64 ∧
        (∀ x, x < place 0 ∨ place 0 + 8 ≤ x → memRd t.mem x = memRd s.mem x) ∧
        becomes t { q with st := .performed })) ∧
    (regionOf pa = .reserved → exec (.vaultAccess id) s = .fault (.reservedPhysical pa)) ∧
    (onWay → q.col < 16 → regionOf pa = .cellar → q.size = 4 ∨ q.size = 8 → unitSeen s q = none →
      portFree s (coreIx q.row q.col) q.port q.seq = true → q.kind = .red ∨ stampApplied s (issuerHold s q) = true →
      ∀ k : Commit, (getHead s q.row q.strand).commit = some k → k.flight.col = 16 → k.left = [q.col] → tget k.ops q.col [] = [id] →
        (getHead s q.row q.strand).wait = .no →
      let w := 8 * q.size
      let old := memRdN s.mem pa q.size
      let b := q.data.toNat % 2 ^ w
      let h := { getHead s q.row q.strand with commit := none }
      let applies (new : Nat) : Prop := Completes (exec (.reductionApply id) s) fun t =>
        memRdN t.mem pa q.size = new % 2 ^ w ∧ (∀ x, x < pa ∨ pa + q.size ≤ x → memRd t.mem x = memRd s.mem x) ∧
        becomes t { q with st := .performed, data := BitVec.ofNat 1024 old } ∧
        getHead t q.row q.strand =
          { acceptedHead h with flights := h.flights, detSeq := h.detSeq + if isReduction k.flight.instr then 1 else 0 }
      (q.kind = .cas → applies (if old = q.expect.toNat % 2 ^ w then b else old)) ∧
      (q.kind = .amo ∨ (q.kind = .red ∧ q.attr.det = false) → applies (match q.op with
        | .add => old + b
        | .and => old &&& b
        | .or => old ||| b
        | .xor => old ^^^ b
        | .min => if sext old w ≤ sext b w then old else b
        | .max => if sext b w ≤ sext old w then old else b
        | .minn => min old b
        | .maxn => max old b
        | .swap => b
        | .fadd => (Fmt.f32.round .rne (vadd false (Fmt.f32.decode old) (Fmt.f32.decode b)).1).1))) ∧
    (q.st = .held → q.rel = true → q.col < 16 → (getLane s q.row q.col q.strand).recs = [] → (getLane s q.row q.col q.strand).retry = [] →
      let groups := (List.range 64).filter fun g => (getLane s q.row q.col q.strand).touched.getLsbD g
      Completes (exec (.releaseProbe id) s) fun t => t.mem = s.mem ∧ ∃ q' ∈ t.reqs, q'.id = id ∧
        q'.st = if groups = [] ∧ releaseWaits s q = false then .sent else .probing groups) ∧
    (∀ g gs, q.st = .probing gs → (tget q.probes g Pkt.new).lost = false → routeOpen s (srcCode q) (groupRouter g) = true →
      expired s q = false → q.rel = true → q.col < 16 → (getLane s q.row q.col q.strand).recs = [] →
      (getLane s q.row q.col q.strand).retry = [] →
      Completes (exec (.probeAnswer id g) s) fun t => t.mem = s.mem ∧ ∃ q' ∈ t.reqs, q'.id = id ∧
        q'.st = if gs.all (fun x => x == g) ∧ releaseWaits s q = false then .sent else .probing (gs.filter fun x => decide (x ≠ g)))

/-- R220, R222 to R224, R249 to R253, R255, R259: the oldest waiting open, of a slot or of an HPUT, is accepted when its bank and the four before allow it; an
accepted row is ready after 24 cycles and closed by force after 14,000; a transfer writes the row, as it stood at the start, into its
ring, the next one starts, and a shut slot is FREE with the last transfer of its row; an HPUT within its bound writes the pool into its
row; the refresh of a bank starts every 1,700 cycles and takes 180; an error is counted or poisons its granule. -/
def Obligations.VaultEngines : Prop :=
  ∀ (s : State) (core slot g : Nat), core < 512 → slot < 4 →
    let k := getCore s core
    let now := (getRow s (core / 16)).cycle
    let powered_ : Prop := (getRow s (core / 16)).cur ≠ .off
    let only (t : State) (k' : Core) : Prop := t = { s with cores := t.cores } ∧ getCore t core = k' ∧ ∀ c, c ≠ core → getCore t c = getCore s c
    let noErr : Prop := s.memPoison = [] ∧ s.memKeys = [] ∧ k.poolPoison = []
    let held (b : Nat) : Prop := ∃ h ∈ k.hatch.toList, (h.st = .opening ∨ h.st = .ready) ∧ bankOf h.row = b
    let slotIs (h : HatchSlot) : Prop := k.hatch.toList[slot]? = some h
    let may (b : Nat) : Prop := powered_ ∧ (∀ p ∈ k.accepts, p.1 = b → p.2 + 72 ≤ now) ∧ (∀ p, k.accepts[3]? = some p → p.2 + 36 ≤ now) ∧
      ∀ p, k.refreshing = some p → p.1 ≠ b
    (∀ rest h, k.opens = .slot slot :: rest → slotIs h →
      let b := bankOf h.row
      (may b → Completes (exec (.hatchOpenAccept core) s) fun t => only t { k with
        opens := rest, hatch := k.hatch.setIfInBounds slot { h with accepted := some now },
        accepts := (b, now) :: k.accepts.filter fun p => decide (now < p.2 + 72) }) ∧
      (¬ may b → exec (.hatchOpenAccept core) s = .next s)) ∧
    (∀ id rest p, k.opens = .put id :: rest → k.hputs.find? (fun x => x.id == id) = some p →
      let b := bankOf p.row
      (may b → Completes (exec (.hatchOpenAccept core) s) fun t => only t { k with
        opens := rest, hputs := k.hputs.map (fun x => if x.id = id then { x with accepted := some now } else x),
        accepts := (b, now) :: k.accepts.filter fun p => decide (now < p.2 + 72) }) ∧
      (¬ may b → exec (.hatchOpenAccept core) s = .next s)) ∧
    (∀ h since, slotIs h → h.st = .opening → h.accepted = some since →
      (since + 24 ≤ now → Completes (exec (.hatchReady core slot) s) fun t =>
        only t { k with hatch := k.hatch.setIfInBounds slot { h with st := .ready } }) ∧
      (now < since + 24 → exec (.hatchReady core slot) s = .next s)) ∧
    (∀ h since, slotIs h → h.st = .ready → h.accepted = some since → htakeChecked s core slot = false →
      (since + 14000 ≤ now → (∀ t ∈ k.transfers, t.hatch ≠ slot) → Completes (exec (.hatchForcedClose core slot) s) fun t =>
        only t { k with hatch := k.hatch.setIfInBounds slot { h with st := .closed } }) ∧
      (now < since + 14000 → exec (.hatchForcedClose core slot) s = .next s)) ∧
    (∀ m rest x, k.transfers = m :: rest → powered_ → m.since + 4 ≤ now → noErr → m.data = some (x, []) → m.ring < 8 → m.strand < 8 →
      let r := ringOf (getLane s (core / 16) (core % 16) m.strand) m.ring
      let z := if r.ssz then 512 else 16384
      let place (i : Nat) : Nat := r.base + z * ((m.at_ + i) / z % r.scnt) + (m.at_ + i) % z
      r.scnt ≠ 0 → 2048 ≤ z * r.scnt → r.holes = [(m.at_, 2048)] →
      Completes (exec (.htakeTransfer core) s) fun t => t.mem = s.mem ∧ t.heads = s.heads ∧
        (∀ i < 2048, memRd (getCore t core).pool (place i) = BitVec.ofNat 8 (x / 2 ^ (8 * i))) ∧
        (∀ a, (∀ i < 2048, a ≠ place i) → memRd (getCore t core).pool a = memRd k.pool a) ∧
        (rest = [] → (getCore t core).transfers = []) ∧
        (∀ u v, rest = u :: v → u.key = none → (getCore t core).transfers =
          { u with since := max u.since now, data := some (memRdN s.mem u.row 2048, []) } :: v) ∧
        (∀ i h, k.hatch.toList[i]? = some h → h.shut = true → (∀ u ∈ rest, ¬ (u.hatch = i ∧ u.row = h.row)) →
          ((getCore t core).hatch.toList[i]?).map (·.st) = some .free) ∧
        getLane t (core / 16) (core % 16) m.strand =
          setRing (getLane s (core / 16) (core % 16) m.strand) m.ring { r with holes := [] }) ∧
    (∀ p rest since, k.hputs = p :: rest → powered_ → p.accepted = some since → since + 36 ≤ now → s.now < p.issued + 4000 → noErr →
      p.key = none → Completes (exec (.hputComplete core) s) fun t => only { t with mem := s.mem, memKeys := s.memKeys, memPoison := s.memPoison } { k with hputs := rest } ∧
        ∀ x, memRd t.mem x = if p.row ≤ x ∧ x < p.row + 2048 then memRd k.pool (p.off + (x - p.row)) else memRd s.mem x) ∧
    (k.refreshing = none → k.refreshDue = [] → k.refreshLast + 1700 ≤ now →
      let b := k.refreshNext
      let k1 := { k with refreshNext := (b + 1) % 64, refreshLast := k.refreshLast + 1700 }
      Completes (exec (.refreshStart core) s) fun t =>
        (held b → only t { k1 with refreshDue := [b] }) ∧ (¬ held b → only t { k1 with refreshing := some (b, now) })) ∧
    (∀ b since, k.refreshing = some (b, since) →
      (since + 180 ≤ now → Completes (exec (.refreshEnd core) s) fun t => only t { k with refreshing := none }) ∧
      (now < since + 180 → exec (.refreshEnd core) s = .next s)) ∧
    (regionOf (64 * g) = .cellar →
      Completes (exec (.scrub g true) s) fun t => t = { s with cores := t.cores } ∧
        (getCore t (vaultOf (64 * g))).errors = (getCore s (vaultOf (64 * g))).errors + 1) ∧
    (regionOf (64 * g) = .cellar →
      Completes (exec (.scrub g false) s) fun t => t = { s with memPoison := t.memPoison } ∧ ∀ x, x ∈ t.memPoison ↔ x = g ∨ x ∈ s.memPoison)

/-- R104 to R111, R210 to R215, R230, R235, R300, R303, R304, R307, R308: the front Press command begins on a row with a placed team once
its stages are there, an MMA step reading row 0 of its stages, and retires after its cycles: MZERO clears its tile, MLOAD writes a row of
it, an MMA step pops its rings and gives every tile element what its semiring makes of it and of the operand rows and scales that the step
has read; a read of MDRAIN begins as the commands before it have retired, and fills its registers 2 cycles on; a channel injects its next
granule, a pool takes one and counts it, a multicast is replicated onto the ports of its router; a join and a prune are acknowledged within
their bound over a way that is open, their own router's bit set and cleared. That the 64 elements of a read of MDRAIN are taken together at
its end, and that a command retires after the reads of the strand's earlier MDRAINs, are the model's choices (log entry 78). -/
def Obligations.CoreEngines : Prop :=
  ∀ (s : State) (core ch id tag : Nat), core < 512 → ch < 4 →
    let r := core / 16
    let c := core % 16
    let k := getCore s core
    let row := getRow s r
    let going : Prop := row.cur ≠ .off ∧ row.halted = false ∧ row.phase = .placed
    let only (t : State) (k' : Core) : Prop := t = { s with cores := t.cores } ∧ getCore t core = k' ∧ ∀ x, x ≠ core → getCore t x = getCore s x
    let pool (m : List Host.Cell) (new : Nat → Option Byte) : Prop := ∀ x, memRd m x = (new x).getD (memRd k.pool x)
    let bits8 (v : Vec) (o : Nat) : Byte := BitVec.ofNat 8 (v.toNat / 2 ^ (8 * o))
    (∀ m rest, k.press = m :: rest → k.running = none → k.poolPoison = [] →
      let ready : Prop := ∀ sr fmt qa qb rep, m.op = .mma sr fmt qa qb rep → stagesReady (getLane s r c m.strand) fmt qa qb = true
      let rowAt (n : Nat) : Nat := memRdN k.pool (ringOf (getLane s r c m.strand) n).headAddr 256
      (going → ready → Completes (exec (.pressStepStart core) s) fun t => ∃ x,
        only t { k with running := some row.cycle, stepRead := x } ∧
        (∀ sr fmt qa qb rep, m.op = .mma sr fmt qa qb rep → x.a = [rowAt qa] ∧ x.b = [rowAt qb])) ∧
      (¬ going ∨ ¬ ready → exec (.pressStepStart core) s = .next s)) ∧
    (∀ m rest since, k.press = m :: rest → k.running = some since → k.poolPoison = [] → m.strand < 8 →
      (∀ d ∈ (getLane s r c m.strand).drains, m.num ∈ d.after) →
      let base := tileAddr (pwordOf s r) m.tile
      let kept (k' : Core) (left : List PressCmd) : Prop := k' = { k with pool := k'.pool, press := left, running := none }
      let l := getLane s r c m.strand
      let drained (t : State) (left : List PressCmd) : Prop := (getLane t r c m.strand).drains = l.drains.map fun d =>
        if d.begun = none ∧ (∀ n ∈ d.after, ∀ q ∈ left, q.num ≠ n) then { d with begun := some row.cycle } else d
      let only (t : State) (k' : Core) : Prop := t = { s with cores := t.cores, lanes := t.lanes } ∧ getCore t core = k' ∧
        (∀ x, x ≠ core → getCore t x = getCore s x) ∧ drained t rest ∧
        ∀ a b e, b < 16 → e < 8 → { getLane t a b e with drains := (getLane s a b e).drains } = getLane s a b e
      (m.op = .mzero → since + 16 ≤ row.cycle → Completes (exec (.pressStepRetire core) s) fun t => ∃ k', only t k' ∧ kept k' rest ∧
        pool k'.pool fun x => if base ≤ x ∧ x < base + 16384 then some 0 else none) ∧
      (∀ i lo hi, m.op = .mload i lo hi → since + 1 ≤ row.cycle →
        Completes (exec (.pressStepRetire core) s) fun t => ∃ k', only t k' ∧ kept k' rest ∧
          pool k'.pool fun x => let a := base + 256 * i
            if a ≤ x ∧ x < a + 128 then some (bits8 lo (x - a)) else if a + 128 ≤ x ∧ x < a + 256 then some (bits8 hi (x - a - 128)) else none) ∧
      (∀ sr fmt qa qb rep, m.op = .mma sr fmt qa qb rep → since + 64 ≤ row.cycle → qa < 7 → qb < 7 →
        (pairs fmt = true → qb ≠ qa + 1 ∧ qa ≠ qb + 1) →
        let left := if rep ≤ 1 then rest else { m with op := .mma sr fmt qa qb (rep - 1) } :: rest
        Completes (exec (.pressStepRetire core) s) fun t => t.mem = s.mem ∧ t.heads = s.heads ∧ drained t left ∧
          getCore t core = { k with pool := (getCore t core).pool, press := left, running := none, stepRead := ⟨[], [], [], []⟩ } ∧
          (∀ x, x < base ∨ base + 16384 ≤ x → memRd (getCore t core).pool x = memRd k.pool x) ∧
          let l' := getLane t r c m.strand
          l'.g = l.g ∧ l'.v = l.v ∧ l'.pressDone = l.pressDone + 1 ∧ (ringOf l' qa).popped = (ringOf l qa).popped + 1 ∧
          (ringOf l' qb).popped = (ringOf l qb).popped + 1 ∧
          (k.stepRead.a.length = 64 → k.stepRead.b.length = 64 → ∀ i < 64, ∀ j < 64,
            let x := k.stepRead.a.getD i 0
            let y := k.stepRead.b.getD j 0
            let sx (n : Nat) : Nat := (k.stepRead.sa.getD i []).getD n 0
            let sy (n : Nat) : Nat := (k.stepRead.sb.getD j []).getD n 0
            let old := memRdN k.pool (base + 256 * i + 4 * j) 4
            let new := memRdN (getCore t core).pool (base + 256 * i + 4 * j) 4
            let wide : Bool := fmt == .bf16 || fmt == .f16
            let w := if wide then 16 else 8
            let dec (v n : Nat) : Val :=
              let e := v / 2 ^ (w * n) % 2 ^ w
              if fmt = .bf16 then Fmt.bf16.decode e else if fmt = .f16 then Fmt.f16.decode e else d8Decode e
            let len := if wide then 16 else 32
            let sum (b : Nat) : Val :=
              if fmt = .d8s then blockScaled ((List.range 32).map fun n => dec x (32 * b + n)) ((List.range 32).map fun n => dec y (32 * b + n))
                (d8Decode (sx b)) (d8Decode (sy b))
              else (List.range len).foldl (fun s n => (vadd false s (vmul (dec x (len * b + n)) (dec y (len * b + n))).1).1) (.dyadic false 0 0)
            let int (v : Nat) (z : Nat → Nat) (n : Nat) : Int :=
              let e := v / 2 ^ (8 * n) % 256
              if fmt = .z8 then (e : Int) - z (n / 32) else sext e 8
            (sr = .oa → new = if old ≠ 0 ∨ x &&& y ≠ 0 then 1 else 0) ∧
            (sr = .pt → fmt = .b1 → new = (old + (List.range 2048).countP (fun n => (x &&& y).testBit n)) % 2 ^ 32) ∧
            (sr = .pt → fmt = .i8 ∨ fmt = .z8 →
              (new : Int) = (old + ((List.range 256).map fun n => int x sx n * int y sy n).sum) % 2 ^ 32) ∧
            (sr = .pt → fmt = .d8 ∨ fmt = .d8s ∨ fmt = .bf16 ∨ fmt = .f16 →
              new = (List.range 8).foldl (fun acc b => (Fmt.f32.round .rne (vadd false (Fmt.f32.decode acc) (sum b)).1).1) old % 2 ^ 32) ∧
            (sr = .mp ∨ sr = .xp ∨ sr = .xt → fmt = .d8 ∨ fmt = .bf16 ∨ fmt = .f16 →
              new = (List.range (2048 / w)).foldl (fun acc n =>
                let v := (if sr = .xt then vmul (dec x n) (dec y n) else vadd false (dec x n) (dec y n)).1
                let c := Fmt.f32.decode acc
                let term := (Fmt.f32.round .rne v).1
                if v.isNan || c.isNan then Fmt.f32.nanPat
                else if (if sr = .mp then (Fmt.f32.decode term).ltz c else c.ltz (Fmt.f32.decode term)) then term else acc) old % 2 ^ 32))) ∧
      (row.cycle < since + 1 → exec (.pressStepRetire core) s = .next s)) ∧
    (∀ sl d, sl < 8 → row.cur ≠ .off → k.poolPoison = [] →
      let l := getLane s r c sl
      let a := tileAddr (pwordOf s r) d.tile + 256 * d.row
      let vd : BitVec 5 := BitVec.ofNat 5 d.d
      l.drains = [d] → (∃ x, d.begun = some x ∧ x + 2 ≤ row.cycle) → l.vFill[vd.toNat] = d.ticket → l.vFill[(vd + 1).toNat] = d.ticket →
      Completes (exec (.mdrainRead core sl) s) fun t => t = { s with lanes := t.lanes } ∧
        getLane t r c sl = { wrV (wrV l vd (BitVec.ofNat 1024 (memRdN k.pool a 128))) (vd + 1) (BitVec.ofNat 1024 (memRdN k.pool (a + 128) 128)) with
          drains := [] }) ∧
    (∀ m rest, going → k.chans.toList[ch]? = some (m :: rest) → (∀ x, x ≠ ch → k.chans.toList[x]?.getD [] = []) → k.poolPoison = [] →
      s.walks = [] → m.id ∉ k.issued.map (·.id) → m.id ∉ rest.map (·.id) → m.src = .pool → m.dst = .pool → m.red = none → m.zero = false → m.done < m.count →
      Completes (exec (.copyInject core ch) s) fun t => t.mem = s.mem ∧ t.lanes = s.lanes ∧ (getCore t core).pool = k.pool ∧
        (∃ q, t.reqs = s.reqs ++ [q] ∧ q.kind = .granule ∧ q.copy = m.id ∧ q.at_ = m.done ∧ q.st = .sent ∧ q.dstCore = core ∧
          q.dstOff = m.dstVal.toNat + m.done ∧ q.port = m.chan ∧
          q.data = BitVec.ofNat 1024 (memRdN k.pool (m.srcVal.toNat + m.done) 64)) ∧
        let m' := { m with done := m.done + 64, flying := m.flying + 1, ask := none }
        (m.count ≤ m.done + 64 → (getCore t core).chans.toList[ch]? = some rest ∧ (getCore t core).issued = k.issued ++ [m']) ∧
        (m.done + 64 < m.count → (getCore t core).chans.toList[ch]? = some (m' :: rest) ∧ (getCore t core).issued = k.issued)) ∧
    (∀ q, findReq s id = some q → q.kind = .granule → q.st = .sent → q.segs = [] → q.red = none → q.mcast = none → q.ring = none →
      q.dstCore = core → q.bad = none → q.port < 4 → (∀ p ∈ s.reqs, p.id ≠ id → p.st = .performed) → row.phase ≠ .restore →
      reachable s q = true → expired s q = false →
      Completes (exec (.copyDeliver id) s) fun t => t.mem = s.mem ∧ (q.xnum = 0 → t.lanes = s.lanes) ∧
        (∃ b, t.reqs = s.reqs.map (fun p => if p.id = id then { q with st := .performed, back := b } else p)) ∧
        (getCore t core).cptr.toList[q.port]? = (k.cptr.toList[q.port]?).map (· + 64) ∧
        pool (getCore t core).pool fun x => if q.dstOff ≤ x ∧ x < q.dstOff + 64 then some (bits8 q.data (x - q.dstOff)) else none) ∧
    (∀ q m, findReq s id = some q → s.reqs.filter (fun p => decide (p.id = id)) = [q] → q.kind = .granule → q.st = .sent → q.dstCore = 512 →
      q.mcast = some (BitVec.ofNat 16 tag) → coreIx q.row q.col = core → (∀ p ∈ s.reqs, p.id ≠ id → p.st = .performed) →
      (k.chans.toList.flatten ++ k.issued).find? (fun x => x.id == q.copy) = some m → expired s q = false → reachable s q = true →
      let router := q.router.getD (rendezvous s q.part (BitVec.ofNat 16 tag))
      let ports := match m.ports.find? (fun x => x.1 == router) with
        | some x => x.2
        | none => portsOf s q.part (BitVec.ofNat 16 tag) router
      Completes (exec (.multicastReplicate id) s) fun t => t.mem = s.mem ∧ (∀ p ∈ s.reqs, p.id ≠ id → p ∈ t.reqs) ∧
        (∀ u ∈ ports, ∃ p ∈ t.reqs, p.data = q.data ∧ p.at_ = q.at_ ∧ p.copy = q.copy ∧ p.st = .sent ∧
          (if 1024 ≤ u then p.dstCore = u - 1024 else p.dstCore = 512 ∧ p.router = some u)) ∧
        (ports = [] → ∀ p ∈ t.reqs, p.id ≠ id)) ∧
    (∀ j, s.joins.find? (fun x => x.core == core && x.tag == BitVec.ofNat 16 tag) = some j → j.pkt.lost = false → s.now < j.since + 4000 →
      routeOpen s (routerOf core) (rendezvous s (row.part.getD 0) (BitVec.ofNat 16 tag)) = true →
      let me_ : Nat × BitVec 16 × Nat := (row.part.getD 0, BitVec.ofNat 16 tag, core)
      let bit : Nat × BitVec 16 × Nat × Nat := (row.part.getD 0, BitVec.ofNat 16 tag, routerOf core, corePort core)
      (j.join = true → Completes (exec (.multicastJoin core tag) s) fun t =>
        t = { s with joins := t.joins, subs := t.subs, tree := t.tree } ∧ j ∉ t.joins ∧
        (∀ x, x ∈ t.subs ↔ x = me_ ∨ x ∈ s.subs) ∧ bit ∈ t.tree ∧ ∀ x ∈ s.tree, x ∈ t.tree) ∧
      (j.join = false → Completes (exec (.multicastPrune core tag) s) fun t =>
        t = { s with joins := t.joins, subs := t.subs, tree := t.tree } ∧ j ∉ t.joins ∧
        (∀ x, x ∈ t.subs ↔ x ∈ s.subs ∧ x ≠ me_) ∧ (me_ ∈ s.subs → bit ∉ t.tree) ∧ ∀ x ∈ t.tree, x ∈ s.tree))

/-- R312, R332 to R337, R346 to R348, R351, R368: a packet crosses the next link of its path and no other; its header error is counted
over the last second, a dropped one is lost, and its link retired beyond its limits, with what is inside it; a Gararo link replays 8
times and then retrains, which is counted; a route change makes releases use markers; an admitted peer request is performed and
answered, a write changing exactly its bytes, an AMO, CAS, RED or CRED its location once, a refused one only answered; an expired request
is dropped and DELIVERY becomes pending at its core. That the second of the error limits is counted back from each error, and that markers
stay in use from then on, are the model's readings (log entries 36, 37). -/
def Obligations.Links : Prop :=
  ∀ (s : State) (id link peer pa size rtr : Nat) (data : Vec) (q : Req) (c : Chan) (gen : BitVec 8) (seq : BitVec 16) (op : AmoOp)
    (expect : BitVec 64) (rop : RedOp) (cfmt : CredFmt) (chan : Nat),
    let m := getMesh s c
    let l := getLink s link
    let recent (x : List Nat) : List Nat := x.filter fun t => decide (s.now < t + 1000000000)
    let inner : Prop := ∀ n, c ≠ .gararo n
    let becomes (t : State) (q' : Req) : Prop := t.reqs = s.reqs.map fun p => if p.id = id then q' else p
    let crossed : Req := { q with out := { q.out with inside := some c, hops := q.out.hops + 1 } }
    let linkIs (t : State) (x : Link) : Prop := t = { s with links := t.links } ∧ getLink t link = x
    let asks (kind : PeerKind) : Host.Outcome State Fault Refusal := exec (.peerRequest ⟨link, peer⟩ pa size kind data) s
    let answer (x : PeerAnswer) : Host.Outcome State Fault Refusal := .next { s with peerAnswer := some x }
    (inner → m.replays = 0 → findReq s id = some q → q.st = .sent →
      (nextHop s q = some (c, rtr) → Completes (exec (.routerHop id (.forward c)) s) fun t => t = { s with reqs := t.reqs } ∧ becomes t crossed) ∧
      ((∀ x, nextHop s q ≠ some (c, x)) → exec (.routerHop id (.forward c)) s = .next s)) ∧
    (inner → m.retired = false → findReq s id = some q → q.st = .sent → nextHop s q = some (c, rtr) → (recent m.uncor).length ≤ 16 →
      (recent m.corr).length < 4096 → Completes (exec (.routerHop id (.corrected c)) s) fun t =>
        t = { s with reqs := t.reqs, mesh := t.mesh } ∧ getMesh t c = { m with corr := s.now :: recent m.corr, uncor := recent m.uncor }) ∧
    (inner → m.retired = false → findReq s id = some q → q.st = .sent → nextHop s q = some (c, rtr) → (recent m.corr).length ≤ 4096 →
      let bad := s.now :: recent m.uncor
      Completes (exec (.routerHop id (.dropped c)) s) fun t => t.mem = s.mem ∧
        (∃ q' ∈ t.reqs, q'.id = q.id ∧ q'.st = .lost) ∧
        getMesh t c = { m with corr := recent m.corr, uncor := bad, retired := decide (16 < bad.length) } ∧
        t.markers = (s.markers || decide (16 < bad.length)) ∧
        (bad.length ≤ 16 → becomes t { q with st := .lost }) ∧
        (16 < bad.length → ∀ p ∈ s.reqs, p.id ≠ id → (∀ gs, p.st ≠ .probing gs) → (packetOf p).inside = some c → { p with st := .lost } ∈ t.reqs)) ∧
    (link < 12 → l.st = .up → Completes (exec (.linkReplay (.gararo link)) s) fun t =>
      linkIs t (if l.replays < 8 then { l with replays := l.replays + 1 } else { l with st := .train })) ∧
    (link < 12 → l.st = .train → 8 ≤ l.replays → ∀ ok, Completes (exec (.linkRetrain (.gararo link) ok) s) fun t =>
      (ok = true → t = { s with markers := true, links := t.links }) ∧ t.markers = true ∧ t.mem = s.mem ∧ t.heads = s.heads ∧
        t.lanes = s.lanes ∧
        getLink t link = { l with trains := min (l.trains + 1) 65535, st := if ok then .up else .down, replays := 0 }) ∧
    (link < 12 → l.st = .train → l.replays < 8 → l.en = true → Completes (exec (.linkUp link) s) fun t => linkIs t { l with st := .up }) ∧
    (∀ up, Completes (exec (.routeChange ⟨peer, link, up⟩) s) fun t => t = { s with markers := true, noRoute := t.noRoute } ∧
      ∀ x, x ∈ t.noRoute ↔ if up then x ∈ s.noRoute ∧ x ≠ (link, peer) else x ∈ s.noRoute ∨ x = (link, peer)) ∧
    (s.dbg.dumpLinks = none → s.memPoison = [] →
      (peerAdmitted s peer pa size false true = true → Completes (asks .write) fun t =>
        t.heads = s.heads ∧ t.lanes = s.lanes ∧ t.cores = s.cores ∧ t.peerAnswer = some (.done peer 0) ∧
        ∀ x, memRd t.mem x = if pa ≤ x ∧ x < pa + size then BitVec.ofNat 8 (data.toNat / 2 ^ (8 * (x - pa))) else memRd s.mem x) ∧
      (peerAdmitted s peer pa size true false = true → asks .read = answer (.done peer (BitVec.ofNat 1024 (physRdN s none pa size)))) ∧
      (s.memKeys = [] →
        let old := memRdN s.mem pa size
        let b := data.toNat % 2 ^ (8 * size)
        let applies (kind : PeerKind) (port new back : Nat) : Prop :=
          peerAdmitted s peer pa size (peerNeeds kind).1 (peerNeeds kind).2 = true →
          winFind (getCore s (vaultOf pa)).vaultWin ⟨peer, rtr, port⟩ gen seq = none →
          Completes (asks kind) fun t => t.heads = s.heads ∧ t.lanes = s.lanes ∧ t.peerAnswer = some (.done peer (BitVec.ofNat 1024 back)) ∧
            memRdN t.mem pa size = new % 2 ^ (8 * size) ∧ ∀ x, x < pa ∨ pa + size ≤ x → memRd t.mem x = memRd s.mem x
        (size = 4 ∨ size = 8 → size ∣ pa →
          applies (.amo op rtr seq gen) 4 (amoNew op size old b) old ∧ applies (.red op rtr seq gen) 4 (amoNew op size old b) old ∧
          applies (.cas expect rtr seq gen) 4 (if old = expect.toNat % 2 ^ (8 * size) then b else old) old) ∧
        (size = 64 → 64 ∣ pa → chan < 4 → applies (.cred rop cfmt rtr chan seq gen) chan (credCombine rop cfmt old b) 0))) ∧
    (s.dbg.dumpLinks = none → ∀ kind,
      (peerAdmitted s peer pa size (peerNeeds kind).1 (peerNeeds kind).2 = false → asks kind = answer (.refused peer)) ∧
      (128 < size ∨ 2 ^ 38 < pa + size ∨ (∀ x < 12, (getLink s x).st ≠ .up) ∨
          (∀ e ∈ s.imports, e.2.v = false ∨ e.2.peer ≠ peer ∨ pa / 2 ^ 21 < e.2.base ∨ e.2.limit < (pa + size - 1) / 2 ^ 21) ∨
          (kind = .write ∧ ∀ e ∈ s.imports, e.2.w = false) ∨ (kind = .read ∧ ∀ e ∈ s.imports, e.2.r = false) →
        asks kind = answer (.refused peer))) ∧
    (findReq s id = some q → (∀ p ∈ s.reqs, p.id ≠ id → p.st = .performed) → q.kind = .load → q.st = .sent → q.col < 16 → q.strand < 8 →
      q.probes = [] → (getHead s q.row q.strand).task = some q.task → (getHead s q.row q.strand).commit = none →
      (q.since + q.bound ≤ s.now → Completes (exec (.deliveryBoundExpiry id) s) fun t => t.mem = s.mem ∧
        t.reqs = s.reqs.filter (fun p => decide (p.id ≠ id)) ∧
        let w := getLane s q.row q.col q.strand
        getLane t q.row q.col q.strand = { w with events := w.events ++
          [⟨.delivery, BitVec.ofNat 64 (q.va.toNat % 2 ^ 48 + 2 * 2 ^ 48), q.handler, none⟩] }) ∧
      (s.now < q.since + q.bound → exec (.deliveryBoundExpiry id) s = .next s))

/-- R38, R41, R273 to R281, R296, R297, R338: a queue's tail is posted or overflows; an idle partition's root takes a posted record, which becomes its job or is refused with a
code; the load reaches the rows once the reductions of the job before are over, each row loads its cores, acknowledges, and at go places
its first team with the task registers set; a row whose teams have ended reports, and the last report ends the job. -/
def Obligations.LaunchTree : Prop :=
  ∀ (s : State) (vf q p row n : Nat) (v : Word) (j : Job), vf < 32 → q < 4 → p < 8 → row < 32 →
    let x := getPart s p
    let y := getRow s row
    let queue (t : State) : Queue := getQueue (getVf t vf) q
    let old := queue s
    let jobNow (t : State) : Option Job := (getPart t p).job
    let mine : Prop := partOfRow s row = some p ∧ x.job = some j
    (s.enumerated = false → exec (.lqtailWrite vf q v) s = .next s) ∧
    (s.enumerated = true → (v.toNat % 2 ^ 32 + 2 ^ 32 - old.head) % 2 ^ 32 ≤ 2 ^ old.log → Completes (exec (.lqtailWrite vf q v) s) fun t =>
      t = { s with vfs := t.vfs } ∧ queue t = { old with tail := v.toNat % 2 ^ 32 }) ∧
    (s.enumerated = true → 2 ^ old.log < (v.toNat % 2 ^ 32 + 2 ^ 32 - old.head) % 2 ^ 32 → Completes (exec (.lqtailWrite vf q v) s) fun t =>
      t = { s with vfs := t.vfs } ∧ queue t = { old with ovf := true }) ∧
    (x.en = true → x.job = none → n = 4 * vf + q →
      (queueOrder s p).find? (fun i => queuePosted (getQueue (getVf s (i / 4)) (i % 4))) = some n →
      let w : List Word := (List.range 16).map fun i =>
        BitVec.ofNat 64 (physRdN s none (busAt s vf (old.base.toNat + 128 * (old.head % 2 ^ old.log) + 8 * i)) 8)
      (launchCode s vf p w = 0 → Completes (exec (.launchFetch p) s) fun t => t.mem = s.mem ∧
        queue t = { old with head := (old.head + 1) % 2 ^ 32, busy := true } ∧ (getPart t p).jstate = .running ∧
        ∃ j', jobNow t = some j' ∧ j'.launch = launchOf w ∧ j'.vf = vf ∧ j'.queue = q ∧ j'.phase = .fetched ∧ j'.since = s.now) ∧
      (bits (w.getD 0 0) 0 8 ≠ 1 → Completes (exec (.launchFetch p) s) fun t => t.mem = s.mem ∧ jobNow t = none ∧
        queue t = { old with head := (old.head + 1) % 2 ^ 32, busy := false, en := false, derr := true, lcode := 1 })) ∧
    (x.job = some j → j.phase = .fetched →
      (x.quiet ≤ s.now → Completes (exec (.loadPhaseStart p) s) fun t => t = { s with parts := t.parts } ∧
        jobNow t = some { j with phase := .load, toLoad := j.toReport }) ∧
      (s.now < x.quiet → exec (.loadPhaseStart p) s = .next s)) ∧
    (mine → j.phase = .load → row ∈ j.toLoad → y.cur ≠ .off → (∀ c < 16, (getCore s (coreIx row c)).hputs = []) →
      Completes (exec (.launchMessage row) s) fun t => t.mem = s.mem ∧
        (getRow t row).part = some p ∧ (getRow t row).phase = .loaded ∧ (getRow t row).resident = none ∧
        (getRow t row).owner = some (j.vf, j.launch.ctx) ∧ (getRow t row).pword = j.launch.pword ∧
        jobNow t = some { j with toLoad := j.toLoad.filter (fun r => decide (r ≠ row)), toAck := j.toAck ++ [row] } ∧
        ∀ c < 16, let k := getCore s (coreIx row c)
          let k' := getCore t (coreIx row c)
          (∀ i w, (windowWords s p j row c)[i]? = some w → memRdN k'.pool (8 * i) 8 = w.toNat) ∧ k'.poolPoison = [] ∧
          (∀ a, 8 * (windowWords s p j row c).length ≤ a → memRd k'.pool a = 0) ∧
          (∀ sl < 8, (getLane t row c sl).v = Vector.replicate 32 0) ∧
          k'.bars = Vector.replicate 32 ⟨strandCount j.launch.pword, 0, 0, []⟩ ∧ k'.match_ = [] ∧ k'.cptr = Vector.replicate 4 0 ∧
          k'.press = [] ∧ k'.issueCtr = 0 ∧ k'.arriveCtr = 0 ∧ k'.launchGen = k.launchGen + 1 ∧ k'.atomSeq = 0 ∧
          k'.chanSeq = Vector.replicate 4 0) ∧
    (mine → j.phase = .load → row ∈ j.toAck →
      let rest := j.toAck.filter (fun r => decide (r ≠ row))
      Completes (exec (.launchAck row) s) fun t => t = { s with parts := t.parts } ∧
        jobNow t = some (if rest = [] ∧ j.toLoad = [] then
          { j with toAck := [], phase := .go, toGo := (List.range (partRows x)).map (x.first + ·) } else { j with toAck := rest })) ∧
    (mine → y.part = some p → j.phase = .go → row ∈ j.toGo → y.cur ≠ .off → j.launch.mbox = 0 → j.ended = [] → nextTeam s row none = some n →
      (∀ c < 16, (getCore s (coreIx row c)).hputs = []) →
      let size := teamSize j.launch n
      Completes (exec (.goMessage row) s) fun t => t.mem = s.mem ∧
        (getRow t row).phase = .placed ∧ (getRow t row).resident = some n ∧ (getRow t row).sliceAt = s.now ∧
        jobNow t = some { j with toGo := j.toGo.filter (fun r => decide (r ≠ row)) } ∧
        (∀ sl < 8, let h := getHead t row sl
          let i := strandCount j.launch.pword * n + sl
          (size ≤ sl → h = Head.reset) ∧
          (sl < size → h = { Head.reset with
            task := some i, pc := j.launch.pc.setWidth 48, regpc := j.launch.pc &&& 0x0000FFFFFFFFFFFC, placedAt := y.cycle,
            h := #v[0, BitVec.ofNat 64 i, BitVec.ofNat 64 (i % j.launch.gridx), BitVec.ofNat 64 (i / j.launch.gridx), j.launch.arg,
              BitVec.ofNat 64 j.launch.size, 0, 0, 0, 0, 0, 0, 0, 0, 0, 0] })) ∧
        ∀ c < 16, let k := getCore s (coreIx row c)
          let k' := getCore t (coreIx row c)
          (∀ sl < 8, getLane t row c sl = Lane.reset) ∧ k'.bars = Vector.replicate 32 ⟨min (constWord k 230).toNat size, 0, 0, []⟩ ∧
          ∀ a, memRd k'.pool a = if 0x800 ≤ a ∧ a < 2 ^ 21 then 0 else memRd k.pool a) ∧
    (mine → row ∈ j.toReport →
      let teams := teamsAt j.launch (partRows x) (row - x.first)
      let status := statusJoin j.status (rowStatus j teams)
      (∀ i ∈ teams, i ∈ y.ended) →
      (bits status 16 25 ≠ j.launch.size → Completes (exec (.rowReport row) s) fun t => t = { s with parts := t.parts } ∧
        jobNow t = some { j with toReport := j.toReport.filter (fun r => decide (r ≠ row)), status := status }) ∧
      (bits status 16 25 = j.launch.size → Completes (exec (.rowReport row) s) fun t =>
        jobNow t = none ∧ (getPart t p).jstate = .idle ∧ (∀ i < partRows x, (getRow t (x.first + i)).part = none) ∧
        ∀ pa a e, j.launch.done.toNat % 64 = 0 → xlate s [] j.vf j.launch.ctx .write j.launch.done = .ok (pa, a, e) → a.host = true →
          let at_ := hostAt s j.vf pa
          memRdN t.mem at_ 8 = j.launch.jobid.toNat ∧ memRdN t.mem (at_ + 8) 8 = status.toNat ∧ memRdN t.mem (at_ + 16) 8 = 0))

/-- R132, R135, R257, R286 to R289, R296, R341, R369, R370: a slice that has run out, or whose strands have all waited, gives way to the next team,
every strand rewound to REGPC, but for one registered in a GBAR; a stopped row is saved into an image and its slots are empty, under
JCTL.PRE once all the rows have stopped and their completions have ended; a restored team gets back what was saved; JCTL kills, saves or
restores, or refuses; a timed hold ends when its cycles have passed. The model's choices: all the rows of JCTL.PRE are saved together (log
entry 66), lane instructions of a region that has ended stay queued at a stop (log entry 84), KILL does not wait for a save that a row puts
off (log entry 85), and a killed job's STATE is running until its rows have reported (log entry 43). -/
def Obligations.TeamMoves : Prop :=
  ∀ (s : State) (row p vf team u sl n : Nat) (j : Job), row < 32 → vf < 32 → sl < 8 →
    let y := getRow s row
    let x := getPart s p
    let v := getVf s vf
    let head (i : Nat) : Head := getHead s row i
    let stop : Prop := y.halted = false ∧ ∀ i < 8, (head i).task = none ∨
      ((head i).handler = false ∧ (head i).wait = .no ∧ (head i).commit = none)
    let here : Prop := y.resident = some team ∧ rowJob s row = some (p, j) ∧ y.part = some p ∧ x.jstate = .running ∧ y.phase = .placed ∧
      y.cur ≠ .off ∧ 1 < (rowTeams s row).length
    let open_ : Prop := here ∧ stop
    let slice := 1000 * (if j.launch.slice = 0 then 1000 else j.launch.slice)
    let moves (i : Instr) : Prop :=
      (nextTeam s row (some team) = some team → Completes (exec i s) fun t => t = { s with rows := t.rows } ∧
        getRow t row = { y with sliceAt := s.now }) ∧
      (nextTeam s row (some team) = some u → u ≠ team → Completes (exec i s) fun t =>
        getRow t row = { y with phase := .save, next := some u } ∧
        ∀ i < 8, (head i).task ≠ none → let h := getHead t row i
          h.task = (head i).task ∧ h.pc = (head i).regpc.setWidth 48 ∧ h.h = (head i).h ∧ h.loopc = (head i).rloopc ∧
            h.flights = (head i).flights.filter (fun f => decide (f.region ≠ (head i).region)) ∧ h.mailbox = (head i).mailbox)
    (open_ → y.sliceAt + slice ≤ s.now → moves (.sliceEnd row)) ∧
    (open_ → s.now < y.sliceAt + slice → exec (.sliceEnd row) s = .next s) ∧
    (open_ → (∀ i < 8, (head i).task = none ∨ ((head i).why = 10 ∧ (head i).since + 100000 ≤ s.now)) → moves (.sliceIdleEnd row)) ∧
    (here → y.halted = false → (∀ i < 8, (head i).task = none ∨ ((head i).handler = false ∧ (head i).since + 100000 ≤ s.now ∧
        ∃ g d, (head i).wait = .group g d ∧ ∃ a ∈ (tget j.groups g ⟨[], 0, []⟩).arrived, (head i).task = some a.1 ∧ a.2.1 = 0)) →
      nextTeam s row (some team) = some u → u ≠ team → Completes (exec (.sliceIdleEnd row) s) fun t =>
        getRow t row = { y with phase := .save, next := some u } ∧ ∀ i < 8, getHead t row i = head i) ∧
    (y.phase = .save → y.resident = some team → y.part = some p → y.cur ≠ .off → x.jstate = .moving → x.saving = true → x.killDue = false →
      (∃ i < 8, (head i).task ≠ none) → (∀ q ∈ s.reqs, q.row ≠ row) →
      (∀ c < 16, let k := getCore s (coreIx row c); k.hputs = [] ∧ k.transfers = [] ∧ k.running = none) →
      freePlace s row = some n → n < s.loftF → s.loftF ≤ 32 → x.job = some j → j.phase = .go → j.toGo = [] →
      (∀ c < 16, memWf (getCore s (coreIx row c)).pool = true) →
      (∀ i < partRows x, let z := getRow s (x.first + i)
        z.phase ≠ .placed ∧ z.phase ≠ .restore ∧ (z.phase = .save → (∀ q ∈ s.reqs, q.row ≠ x.first + i) ∧
          ∀ c < 16, let k := getCore s (coreIx (x.first + i) c); k.hputs = [] ∧ k.transfers = [] ∧ k.running = none)) →
      Completes (exec (.teamSave row) s) fun t => (∀ i < 8, (getHead t row i).task = none) ∧
        (∀ c < 16, ∀ a < 2 ^ 21, memRd t.mem (loftRow s (coreIx row c) n (a / 2048) + a % 2048) = memRd (fullPool s row c) a) ∧
        (∀ a, (∀ c < 16, ∀ k < 1088, a < loftRow s (coreIx row c) n k ∨ loftRow s (coreIx row c) n k + 2048 ≤ a) →
          memRd t.mem a = memRd s.mem a) ∧
        (getRow t row).resident = none ∧ (getRow t row).phase = .loaded ∧ (getRow t row).next = some (y.next.getD team) ∧
        ∃ m, (getRow t row).images = y.images ++ [m] ∧ m.team = team ∧ m.place = n ∧
          (∀ i < 8, tget m.heads i Head.reset = { head i with cycles := (head i).cycles + (y.cycle - (head i).placedAt) }) ∧
          (∀ c < 16, tget m.cores c Core.reset = coreImage (getCore s (coreIx row c)) ∧
            ∀ i < 8, tget m.lanes (8 * c + i) Lane.reset = { getLane s row c i with v := Vector.replicate 32 0 })) ∧
    (∀ m, y.phase = .restore → y.next = some u → y.cur ≠ .off → y.part = some p → x.killDue = false → x.job = some j →
      y.images.find? (fun m => m.team == u) = some m → m.place < s.loftF → m.ahead = [] → s.memPoison = [] →
      (∀ c < 16, (getCore s (coreIx row c)).hputs = []) →
      let pool (c : Nat) : List Host.Cell := imagePool s (placeRow s row c m.place)
      Completes (exec (.teamRestore row) s) fun t => t.mem = s.mem ∧
        (getRow t row).phase = .placed ∧ (getRow t row).resident = some u ∧ (getRow t row).sliceAt = s.now ∧
        (getRow t row).images = y.images.filter (fun m => decide (m.team ≠ u)) ∧
        (∀ c < 16, (getCore t (coreIx row c)).pool = imageScratch y.pword (pool c) ∧
          (getCore t (coreIx row c)).bars = (tget m.cores c Core.reset).bars) ∧
        ∀ i < 8, ∀ k, (tget m.heads i Head.reset).task = some k → (∀ e ∈ j.ended, e.1 ≠ k) →
          getHead t row i = { tget m.heads i Head.reset with placedAt := y.cycle } ∧
          ∀ c < 16, getLane t row c i = { tget m.lanes (8 * c + i) Lane.reset with
            v := Vector.ofFn fun k => imageVreg y.pword (pool c) i k.val }) ∧
    (s.enumerated = false → exec (.jctlKill vf) s = .next s ∧ exec (.jctlPre vf) s = .next s ∧ exec (.jctlRes vf) s = .next s) ∧
    (s.enumerated = true → v.en = true → v.part = p →
      (x.job = none → exec (.jctlKill vf) s = .next s) ∧
      (x.job = some j → x.jstate = .moving → (∀ i < partRows x, rowDelays s (x.first + i) = false) →
        (∃ i < partRows x, (getRow s (x.first + i)).phase = if x.saving then .save else .restore) →
        Completes (exec (.jctlKill vf) s) fun t => t = { s with parts := t.parts } ∧ getPart t p = { x with killDue := true }) ∧
      (x.job = some j → x.jstate ≠ .moving ∨ (x.saving = true ∧ ∃ i < partRows x, rowDelays s (x.first + i) = true) →
        Completes (exec (.jctlKill vf) s) fun t =>
          ∃ j', (getPart t p).job = some j' ∧ (getPart t p).jstate = .running ∧ ∀ i < j.launch.size, (∀ e ∈ j.ended, e.1 ≠ i) →
            (∀ r, ∀ k < 8, (getRow s r).part = some p → (getHead s r k).task ≠ some i) →
            (i, BitVec.ofNat 64 (65536 + 2 ^ 43)) ∈ j'.ended) ∧
      (x.job = some j → x.jstate = .running → x.first ≤ row → row < x.first + partRows x → y.phase = .placed →
        (freePlace s row = none → Completes (exec (.jctlPre vf) s) fun t => t = { s with parts := t.parts } ∧
          getPart t p = { x with pref := true }) ∧
        ((∀ i < partRows x, (freePlace s (x.first + i)).isSome) → x.killDue = false → stop → y.cur ≠ .off → Completes (exec (.jctlPre vf) s) fun t =>
          (getRow t row).phase = .save ∧ getPart t p = { x with jstate := .moving, saving := true })) ∧
      (x.job = some j → x.jstate = .saved → x.killDue = false →
        ((∀ i < partRows x, (getRow s (x.first + i)).next = none ∧ (getRow s (x.first + i)).phase ≠ .restore) →
          Completes (exec (.jctlRes vf) s) fun t => t = { s with parts := t.parts } ∧
            getPart t p = { x with jstate := .running, saving := false }) ∧
        (x.first ≤ row → row < x.first + partRows x → y.phase = .loaded → y.next = some u → u ∈ y.started →
          Completes (exec (.jctlRes vf) s) fun t => getRow t row = { y with phase := .restore } ∧ (getPart t p).jstate = .moving))) ∧
    (∀ k, (head sl).wait = .pause k →
      (k ≤ y.cycle → Completes (exec (.pauseEnd row sl) s) fun t => t = { s with heads := t.heads } ∧
        getHead t row sl = { head sl with wait := .no, why := 0 }) ∧
      (y.cycle < k → exec (.pauseEnd row sl) s = .next s)) ∧
    (∀ k others, (head sl).wait = .yield others k →
      (k ≤ y.cycle → Completes (exec (.yieldHoldEnd row sl) s) fun t => t = { s with heads := t.heads } ∧
        getHead t row sl = { head sl with wait := .no, why := 0 }) ∧
      (y.cycle < k → exec (.yieldHoldEnd row sl) s = .next s))

/-- R136, R141, R143, R291 to R295: a message that can arrive, behind none that is served before it, has its effect: an arrival joins its
group and the last one completes the generation, a completion lets an arriving task go on with the result or traps GROUP.MIXED, a lowered
member leaves, completing the generation where all the others have arrived; a token enters a mailbox, a mailbox image or a pending record
that has room, or its sender learns that the task does not exist, has ended or is itself with its mailbox full; a dispenser grants its tiles
in order and then answers all ones. That a lowered member's own arrival is taken out of the generation is the model's reading (log entry
45). -/
def Obligations.JobMessages : Prop :=
  ∀ (s : State) (p g r sl task kind d dst num msg : Nat) (value : Word) (j : Job), sl < 8 → r < 32 → (getPart s p).job = some j →
    let m : Option (Nat × Msg) := s.msgs.find? fun x => x.1 == msg
    let gr := tget j.groups g ⟨[], 0, []⟩
    let left : Tbl Msg := s.msgs.filter fun x => decide (x.1 ≠ msg)
    let fabric : State := { s with
      msgs := left, msgAt := s.msgAt.filter fun x => decide (x.1 ≠ msg), msgPkt := s.msgPkt.filter fun x => decide (x.1 ≠ msg),
      reached := s.reached.filter fun x => decide (x.1 ≠ msg) }
    let arrives (x : Msg) : Prop := m = some (msg, x) ∧ msgArrives s msg x = true
    let finished (t : State) (members : List Nat) (gen kind : Nat) (arr : List (Nat × Nat × Word)) : Prop :=
      getGroup t p g = ⟨members, gen + 1, []⟩ ∧
      ∀ a ∈ arr, ∃ i, (i, .done p g a.1 (voteResult kind (arr.map (·.2.2))) false (kind != 0)) ∈ t.msgs
    let group (t : State) : Group := getGroup t p g
    let h := getHead s r sl
    (∀ row slot, arrives (.arrive p g task row slot kind value) → groupBehind s msg p g true = false →
      let arr := gr.arrived ++ [(task, kind, value)]
      (task ∉ gr.members → exec (.groupArrival msg) s = .next fabric) ∧
      (task ∈ gr.members → arr.length ≠ gr.members.length → Completes (exec (.groupArrival msg) s) fun t =>
        t = { fabric with parts := t.parts } ∧ group t = { gr with arrived := arr }) ∧
      (task ∈ gr.members → arr.length = gr.members.length → (∀ a ∈ gr.arrived, a.2.1 = kind) →
        Completes (exec (.groupArrival msg) s) fun t => (kind ≠ 0 → t.mem = s.mem) ∧ finished t gr.members gr.gen kind arr)) ∧
    (arrives (.lower p g task) → groupBehind s msg p g false = false →
      let rest := gr.members.filter fun x => decide (x ≠ task)
      let arr := gr.arrived.filter fun a => decide (a.1 ≠ task)
      (arr = [] ∨ arr.length ≠ rest.length → Completes (exec (.memberLower msg) s) fun t =>
        t = { fabric with parts := t.parts } ∧ group t = { gr with members := rest, arrived := arr }) ∧
      (arr ≠ [] → arr.length = rest.length → (∀ a ∈ arr, a.2.1 = kind) → Completes (exec (.memberLower msg) s) fun t =>
        (kind ≠ 0 → t.mem = s.mem) ∧ finished t rest gr.gen kind arr)) ∧
    (∀ mixed vote, arrives (.done p g task value mixed vote) → taskPlace s p j task = (r, sl, true) → (getRow s r).phase = .placed →
      h.task = some task → h.wait = .group g d → d < 16 → (∀ e ∈ j.ended, e.1 ≠ task) →
      (mixed = false → Completes (exec (.groupCompletion msg) s) fun t =>
        t = { fabric with heads := t.heads } ∧
        getHead t r sl = acceptedHead (if vote then wrH h (BitVec.ofNat 4 d) value else h)) ∧
      (mixed = true → h.handler = false → h.tvec ≠ 0 → isIn 0x801 h.poison = false → haltStops s r sl = false → h.flights = [] →
        h.events = [] → (∀ c < 16, (getLane s r c sl).events = []) →
        Completes (exec (.groupCompletion msg) s) fun t =>
        getHead t r sl = entered h (rowFlags s r sl) .groupMixed 31 (BitVec.ofNat 64 g) (if h.pend.isSome then h.pc - 4 else h.pc))) ∧
    (arrives (.token p r sl task (BitVec.ofNat 64 dst) value) → h.task = some task → h.wait = .send msg → dst < 2 ^ 64 →
      let sender (t : State) (code : Nat) : Prop :=
        getHead t r sl = acceptedHead { h with mstatus := BitVec.ofNat 64 code, poison := h.poison.filter fun x => x != 0x806 }
      let only (t : State) : Prop := t = { fabric with heads := t.heads }
      (j.launch.size ≤ dst → Completes (exec (.mailboxToken msg) s) fun t => only t ∧ sender t 4) ∧
      (dst < j.launch.size → (∃ e ∈ j.ended, e.1 = dst) → Completes (exec (.mailboxToken msg) s) fun t => only t ∧ sender t 3) ∧
      (dst < j.launch.size → dst ≠ task → (∀ e ∈ j.ended, e.1 ≠ dst) → ∀ r' sl', taskPlace s p j dst = (r', sl', true) → sl' < 8 → (r', sl') ≠ (r, sl) →
        (getHead s r' sl').mailbox.length < 8 →
        Completes (exec (.mailboxToken msg) s) fun t => only t ∧
          sender t (if (getRow s r').phase = .save then 1 else 0) ∧
          getHead t r' sl' = { getHead s r' sl' with mailbox := (getHead s r' sl').mailbox ++ [value] }) ∧
      (dst < j.launch.size → (∀ e ∈ j.ended, e.1 ≠ dst) → ∀ r' sl', taskPlace s p j dst = (r', sl', true) → dst ≠ task →
        8 ≤ (getHead s r' sl').mailbox.length →
          exec (.mailboxToken msg) s = .next { s with reached := tput s.reached msg s.fresh }) ∧
      (dst = task → dst < j.launch.size → (∀ e ∈ j.ended, e.1 ≠ dst) → 8 ≤ h.mailbox.length →
        Completes (exec (.mailboxToken msg) s) fun t => only t ∧ sender t 5) ∧
      (dst ≠ task → dst < j.launch.size → (∀ e ∈ j.ended, e.1 ≠ dst) → ∀ r' sl', taskPlace s p j dst = (r', sl', false) → r' < 32 →
        (∀ x, (getRow s r').images.find? (fun x => x.team == dst / strandCount j.launch.pword) = some x →
          let k := tget x.heads sl' Head.reset
          k.mailbox.length < 8 → Completes (exec (.mailboxToken msg) s) fun t => t = { fabric with heads := t.heads, rows := t.rows } ∧
            sender t 1 ∧ { x with heads := tput x.heads sl' { k with mailbox := k.mailbox ++ [value] } } ∈ (getRow t r').images) ∧
        (∀ pa a, (getRow s r').images.find? (fun x => x.team == dst / strandCount j.launch.pword) = none →
          mboxPlace s j dst = some (pa, a) → a.enc = false → s.memKeys = [] → s.memPoison = [] →
          let n := memRdN s.mem pa 8
          let word (t : State) (i : Nat) : Nat := memRdN t.mem (pa + 8 + 8 * i) 8
          n < 8 → Completes (exec (.mailboxToken msg) s) fun t => sender t 2 ∧ t.lanes = s.lanes ∧ t.cores = s.cores ∧
            memRdN t.mem pa 8 = n + 1 ∧ word t n = value.toNat ∧ (∀ i < n, word t i = word s i) ∧
            ∀ x, x < pa ∨ pa + 128 ≤ x → memRd t.mem x = memRd s.mem x))) ∧
    (∀ die x, arrives (.tile p r sl die num d) → d < 15 → h.wait = .tile msg →
      tileBehind s msg p r sl die num = false →
      s.dispensers.find? (fun y => y.part == p && y.die == die && y.num == num) = some x → 0 < x.tw → 0 < x.th →
      let nx := (x.w + x.tw - 1) / x.tw
      let ny := (x.h + x.th - 1) / x.th
      let i := x.next % nx
      let k := x.next / nx
      let gets (t : State) (a b : Word) : Prop := t.mem = s.mem ∧ t.msgs = left ∧
        getHead t r sl = acceptedHead (wrH (wrH h (BitVec.ofNat 4 d) a) (BitVec.ofNat 4 (d + 1)) b)
      (x.next < nx * ny → Completes (exec (.dispenserRequest msg) s) fun t =>
        gets t (BitVec.ofNat 64 ((x.y0 + x.th * k) * 2 ^ 32 + (x.x0 + x.tw * i)))
          (BitVec.ofNat 64 (min x.th (x.h - x.th * k) * 2 ^ 32 + min x.tw (x.w - x.tw * i))) ∧
          { x with next := x.next + 1 } ∈ t.dispensers) ∧
      (nx * ny ≤ x.next → Completes (exec (.dispenserRequest msg) s) fun t => gets t (BitVec.allOnes 64) 0 ∧ x ∈ t.dispensers))

/-- R6, R273, R337, R340, R342, R350, R378, R379, R384, R390, R393: a shootdown is begun and completes once every walk that had begun has
finished, every leaf that it names gone; aperture accesses of up to 4,096 bytes read and 512 written are served in their partition or
charged, and one that is lost ends in an abort; PART, VFMAP, PLIMIT and the watch words take the values written, or refuse;
REGISTER_WRITE does the same by address, a reserved offset changes nothing and reads 0, and before enumeration no write of the host
and no command of it has an effect. By log 42 (DEDUCED) PART is refused too where FIRST is no multiple of 4, its rows are checked
whatever EN is, and an offset that is no multiple of 8 names no register and counts as reserved. -/
def Obligations.HostRegisters : Prop :=
  ∀ (s : State) (vf p f core word off size data x : Nat) (v : Word), vf < 32 → p < 8 → f < 32 → core < 512 → 1 ≤ size → size ≤ 4096 →
    s.enumerated = true →
    let w := getVf s vf
    let part := getPart s w.part
    let base := 2 ^ 29 * (16 * part.first) + off
    let onlyVf (t : State) (w' : Vf) : Prop := t = { s with vfs := t.vfs } ∧ getVf t vf = w'
    (w.xbusy = false → Completes (exec (.xshootWrite vf v) s) fun t => onlyVf t { w with
      xbusy := true, xall := v.getLsbD 1, xctx := bits v 8 8, xva := bits v 16 32 * 65536,
      xwalks := walksBegun s }) ∧
    (w.xbusy = true → exec (.xshootWrite vf v) s = .next s) ∧
    (w.xbusy = true → (∀ q ∈ s.reqs, q.st = .walking → q.id ∉ w.xwalks) → (∀ k ∈ s.walks, k.done = none → k.id ∉ w.xwalks) →
      Completes (exec (.shootdownComplete vf) s) fun t =>
      getVf t vf = { w with xbusy := false, xwalks := [] } ∧ t.mem = s.mem ∧ t.heads = s.heads ∧ t.lanes = s.lanes ∧
      ∀ e : TlbEntry, e.vf = vf → e.ctx = w.xctx → (w.xall = true ∨ (e.page ≤ w.xva + 65535 ∧ w.xva < e.page + e.size)) →
        (∀ c r, part.first ≤ r → r < part.first + partRows part → c < 16 → e ∉ (getCore t (coreIx r c)).tlb) ∧
        ∀ r, part.first ≤ r → r < part.first + partRows part → e ∉ (getRow t r).itlb) ∧
    (w.xbusy = true → (∃ q ∈ s.reqs, q.st = .walking ∧ q.id ∈ w.xwalks) ∨ (∃ k ∈ s.walks, k.done = none ∧ k.id ∈ w.xwalks) →
      exec (.shootdownComplete vf) s = .next s) ∧
    (let served : Prop := w.en = true ∧ part.en = true ∧ (w.croots.toList.getD w.jctx ⟨false, 0⟩).v = true ∧
        off + size ≤ 2 ^ 33 * partRows part ∧ inLoft s base = false ∧ inLoft s (base + size - 1) = false;
      (served → s.memPoison = [] → s.memKeys = [] →
        Completes (exec (.bar2Read vf off size) s) (fun t =>
          onlyVf t { w with answer := some ((List.range size).map fun o => memRd s.mem (base + o)) }) ∧
        (size ≤ 512 → Completes (exec (.bar2Write vf off size data) s) fun t => t = { s with mem := t.mem } ∧
          ∀ a, memRd t.mem a = if base ≤ a ∧ a < base + size then BitVec.ofNat 8 (data / 2 ^ (8 * (a - base))) else memRd s.mem a)) ∧
      (¬ served → let e := min (w.errors + 1) (2 ^ 32 - 1)
        Completes (exec (.bar2Read vf off size) s) (fun t => onlyVf t { w with errors := e, answer := some (List.replicate size 0xFF) }) ∧
        (size ≤ 512 → Completes (exec (.bar2Write vf off size data) s) fun t => onlyVf t { w with errors := e }))) ∧
    (∀ rest wr, s.agenda = .hostLost vf wr :: rest → w.en = true → Completes (step s) fun t =>
      t = { s with agenda := rest, vfs := t.vfs } ∧
      getVf t vf = if wr then { w with errors := min (w.errors + 1) (2 ^ 32 - 1) } else { w with answer := none }) ∧
    (let y := getPart s p
      let en := v.getLsbD 0
      let first := bits v 8 5
      let rows := 4 * 2 ^ bits v 16 2
      let clear := { y with refused := if v.getLsbD 24 then false else y.refused }
      let onlyPart (t : State) (y' : Part) : Prop := t = { s with parts := t.parts } ∧ getPart t p = y';
      let there : Prop := first + rows ≤ 32 ∧ first % 4 = 0 ∧ ∀ i < rows, s.availRows.getLsbD (first + i) = true
      let apart : Prop := ∀ q < 8, q ≠ p → (getPart s q).en = true →
        first + rows ≤ (getPart s q).first ∨ (getPart s q).first + partRows (getPart s q) ≤ first
      (y.job = none → there → (en = true → apart) →
        Completes (exec (.partWrite p v) s) fun t => onlyPart t { clear with en := en, first := first, size := bits v 16 2 }) ∧
      ((y.job ≠ none ∧ (y.en ≠ en ∨ y.first ≠ first ∨ y.size ≠ bits v 16 2)) ∨ ¬ there ∨ (en = true ∧ ¬ apart) →
        Completes (exec (.partWrite p v) s) fun t => onlyPart t { y with refused := true }) ∧
      (∀ rest, s.agenda = .regRead .pf (0x100 + 8 * p) :: rest → step s = .next { s with
        agenda := rest, regAnswer := BitVec.ofNat 64 ((if y.en then 1 else 0) + y.first * 2 ^ 8 + y.size * 2 ^ 16 +
          if y.refused then 2 ^ 24 else 0) })) ∧
    (let y := getVf s f
      let onlyF (t : State) (y' : Vf) : Prop := t = { s with vfs := t.vfs } ∧ getVf t f = y'
      let loaded : Prop := ∃ q < 8, ∃ j, (getPart s q).job = some j ∧ j.vf = f;
      (¬ loaded → (getPart s (bits v 8 3)).en = true → Completes (exec (.vfmapWrite f v) s) fun t =>
        onlyF t { y with refused := if v.getLsbD 16 then false else y.refused, en := v.getLsbD 0, part := bits v 8 3 }) ∧
      (loaded ∨ (getPart s (bits v 8 3)).en = false → Completes (exec (.vfmapWrite f v) s) fun t => onlyF t { y with refused := true })) ∧
    exec (.plimitWrite v) s = .next { s with plimit := if 2400 < bits v 0 12 then s.plimit else bits v 0 12 } ∧
    (let hidden : Prop := (rowJob s (core / 16)).isSome = true ∧ ctxOf s (core / 16) ∈ s.confidential
      let onlyCore (t : State) (k : Core) : Prop := t = { s with cores := t.cores } ∧ getCore t core = k;
      (hidden → exec (.watchUpdate core word v) s = .next s) ∧
      (¬ hidden → word = 64 → Completes (exec (.watchUpdate core word v) s) fun t => onlyCore t { getCore s core with wctl := v &&& 0x3FF }) ∧
      (¬ hidden → word < 64 → Completes (exec (.watchUpdate core word v) s) fun t => ∃ fl, onlyCore t { getCore s core with filter := fl } ∧
        ∀ i < 4096, fl.getLsbD i = if i / 64 = word then v.getLsbD (i % 64) else (getCore s core).filter.getLsbD i)) ∧
    exec (.registerWrite .pf (0x100 + 8 * p) v) s = exec (.partWrite p v) s ∧
    exec (.registerWrite .pf (0x200 + 8 * f) v) s = exec (.vfmapWrite f v) s ∧
    exec (.registerWrite .pf 0x2100 v) s = exec (.plimitWrite v) s ∧
    exec (.registerWrite (.vf vf) 0x108 v) s = exec (.xshootWrite vf v) s ∧
    exec (.registerWrite (.vf vf) 0x18 v) s = exec (.lqtailWrite vf 0 v) s ∧
    (word ≤ 64 → exec (.registerWrite .debug (0x400 * core + 8 * word) v) s = exec (.watchUpdate core word v) s) ∧
    Completes (exec (.registerWrite .pf 0x1008 v) s) (fun t => t = { s with rwbuf := v &&& 0xFFFFFFFFFFFFF000 }) ∧
    (x % 8 ≠ 0 → exec (.registerWrite .pf x v) s = .next s ∧ exec (.registerWrite (.vf vf) x v) s = .next s ∧
      exec (.registerWrite .debug x v) s = .next s ∧
      ∀ sp rest, s.agenda = .regRead sp x :: rest → step s = .next { s with agenda := rest, regAnswer := 0 }) ∧
    (let dark := { s with enumerated := false };
      ∀ i ∈ [Instr.registerWrite .pf x v, .registerWrite (.vf vf) x v, .registerWrite .debug x v, .bar2Read vf off size,
          .bar2Write vf off size data, .lqtailWrite vf x v, .jctlKill vf, .jctlPre vf, .jctlRes vf, .xshootWrite vf v, .partWrite p v,
          .vfmapWrite f v, .rowpwrRun x data, .rowpwrIdle x data, .rowpwrOff x data, .rowpwrOpp x data, .plimitWrite v,
          .watchUpdate core word v, .xtctlHalt x, .xtctlRelease x, .trctlPulse, .dumpctlGo x], exec i dark = .next dark)

/-- R352, R384 to R393: a Renwyn command answers in its buffer and with its code; keys are loaded and dropped; a row takes the state
commanded unless the device's power limit, its availability, its partition or the heat forbids it; the thermal trip turns every row
off; a device reset measures each boot image whose signature holds, up to the first that fails, enumerates where every step passes,
and leaves every register at its reset value. The model's readings: KEYLOAD's code 4 for a slot of another context and code 2 for a
key slot, context or length out of range (log 48, DEDUCED); a command for an unavailable row is refused and OFF loses the row's
strands, cores and copies (log 50, DEDUCED); a reset leaves memory as it was, and a Loft frame count out of range is taken as 4
(log 51, DEDUCED). -/
def Obligations.TrustAndPower : Prop :=
  ∀ (s : State) (vf ctx row opp die avail loft : Nat) (images : List (BitVec 512 × Bool)) (passed : Bool), row < 32 → opp < 8 → die < 4 →
    let y := getRow s row
    let pending (c : Nat) : Prop := s.rwbusy = true ∧ bits s.rwcmd 0 8 = c ∧ bits s.rwcmd 8 5 = vf ∧ bits s.rwcmd 16 8 = ctx
    let buf (o : Nat) : Nat := hostPa (s.rwbuf.toNat + o)
    let done (t : State) (code : Nat) : Prop := t.rwbusy = false ∧ t.rwcode = code ∧ t.heads = s.heads ∧ t.lanes = s.lanes ∧ t.cores = s.cores
    let clean : Prop := s.memKeys = [] ∧ s.iommu = [] ∧ s.rwbuf.toNat < 2 ^ 49
    let byte (d : BitVec 512) (i : Nat) : Byte := BitVec.ofNat 8 (d.toNat / 256 ^ i)
    let measured (t : State) (b : Nat) : BitVec 512 := t.measured.toList.getD b 0
    (pending 1 → clean →
      (ctx = 255 ∨ ctx < 16 → Completes (exec (.attest vf ctx) s) fun t => done t 0 ∧
        (∀ i < 64, memRd t.mem (buf (0x100 + i)) = memRd s.mem (buf i)) ∧
        (∀ b < 4, ∀ i < 64, memRd t.mem (buf (0x140 + 64 * b + i)) = byte (measured s b) i) ∧
        memRdN t.mem (buf 0x240) 2 % 2 ^ 12 = 0x960 ∧
        (ctx = 255 → ∀ i < 64, memRd t.mem (buf (0x248 + i)) = 0) ∧
        (ctx < 16 → ∀ i < 64, memRd t.mem (buf (0x248 + i)) = byte (slotDigest s vf ctx) i) ∧
        ∀ a, (a < buf 0x100 ∨ buf 0x1000 ≤ a) → memRd t.mem a = memRd s.mem a) ∧
      (ctx ≠ 255 → 16 ≤ ctx → Completes (exec (.attest vf ctx) s) fun t => done t 2 ∧ t.mem = s.mem)) ∧
    (pending 2 → clean →
      let kid := (memRd s.mem (buf 0)).toNat
      let len := memRdN s.mem (buf 8) 8
      let wrapped : List Byte := (List.range len).map fun i => memRd s.mem (buf (64 + i))
      (128 ≤ kid ∨ 16 ≤ ctx ∨ 4032 < len → Completes (exec (.keyload vf ctx) s) fun t => done t 2 ∧ t.keys = s.keys) ∧
      (kid < 128 → ctx < 16 → len ≤ 4032 → (∃ e ∈ s.keys, e.1 = kid ∧ ¬ (e.2.vf = vf ∧ e.2.ctx = ctx)) →
        Completes (exec (.keyload vf ctx) s) fun t => done t 4 ∧ t.keys = s.keys) ∧
      (kid < 128 → ctx < 16 → len ≤ 4032 → (∀ e ∈ s.keys, e.1 = kid → e.2.vf = vf ∧ e.2.ctx = ctx) →
        (Config.unwrapKey wrapped = none → Completes (exec (.keyload vf ctx) s) fun t => done t 3 ∧ t.keys = s.keys) ∧
        ∀ k, Config.unwrapKey wrapped = some k → Completes (exec (.keyload vf ctx) s) fun t => done t 0 ∧ t.mem = s.mem ∧
          tget t.keys kid ⟨0, 0, 0⟩ = ⟨k, vf, ctx⟩ ∧
          ((memRd s.mem (buf 1)).getLsbD 0 = true → (vf, ctx) ∈ t.confidential))) ∧
    (pending 3 → ctx < 16 →
      (((getVf s vf).croots.toList.getD ctx ⟨false, 0⟩).v = true → Completes (exec (.keydrop vf ctx) s) fun t => done t 4 ∧ t.keys = s.keys) ∧
      (((getVf s vf).croots.toList.getD ctx ⟨false, 0⟩).v = false → Completes (exec (.keydrop vf ctx) s) fun t => done t 0 ∧
        (∀ e, e ∈ t.keys ↔ e ∈ s.keys ∧ ¬ (e.2.vf = vf ∧ e.2.ctx = ctx)) ∧ (vf, ctx) ∉ t.confidential)) ∧
    (pending 4 → clean → Completes (exec (.vaulterr vf ctx) s) fun t => done t 0 ∧
      ∀ k < 512, (getCore s k).errors < 2 ^ 64 → memRdN t.mem (buf (8 * k)) 8 = (getCore s k).errors) ∧
    (let only (t : State) (y' : Row) : Prop := t = { s with rows := t.rows } ∧ getRow t row = y'
      let fits (want : Power) (o : Nat) : Prop := ((List.range 32).map fun r => if r = row then Config.rowPower r (powerCode want) o
        else Config.rowPower r (powerCode (getRow s r).want) (getRow s r).oppWant).sum ≤ s.plimit
      let avail_ : Prop := s.availRows.getLsbD row = true
      let refused (o : Host.Outcome State Fault Refusal) : Prop := Completes o fun t => only t { y with refused := true }
      let takes (want : Power) (o : Nat) (e : Host.Outcome State Fault Refusal) : Prop :=
        Completes e fun t => only t { y with want := want, cur := want, oppWant := o };
      (s.enumerated = true →
      (fits .run opp → avail_ → s.hot = [] → takes .run opp (exec (.rowpwrRun row opp) s)) ∧
      (¬ fits .run opp ∨ ¬ avail_ ∨ s.hot ≠ [] → refused (exec (.rowpwrRun row opp) s)) ∧
      (fits .idle opp → avail_ → takes .idle opp (exec (.rowpwrIdle row opp) s)) ∧
      (fits y.want opp → avail_ → y.want ≠ .off → s.hot = [] → takes y.want opp (exec (.rowpwrOpp row opp) s)) ∧
      ((partOfRow s row).isSome = true → refused (exec (.rowpwrOff row opp) s)) ∧
      (fits .off opp → avail_ → partOfRow s row = none → Completes (exec (.rowpwrOff row opp) s) fun t =>
        t.mem = s.mem ∧ (getRow t row).cur = .off ∧ (getRow t row).want = .off ∧ (∀ i < 8, getHead t row i = Head.reset) ∧
        ∀ c < 16, ∀ i < 8, getLane t row c i = Lane.reset)) ∧
      Completes (exec (.oppSwitchDone row) s) fun t => only t { y with opp := y.oppWant }) ∧
    Completes (exec (.thermalTrip die) s) (fun t => t.trip = true ∧ die ∈ t.hot ∧ ∀ r < 32, (getRow t r).cur = .off) ∧
    Completes (exec (.deviceReset avail ⟨loft, images, passed⟩) s) fun t => t.mem = s.mem ∧ t.hot = s.hot ∧
      (t.enumerated = true ↔ passed = true ∧ ∀ e ∈ images, e.2 = true) ∧
      (let runs (i : Nat) : Prop := ∀ j ≤ i, ∃ e, images[j]? = some e ∧ e.2 = true;
        ∀ i < 4, (∀ e, images[i]? = some e → runs i →
          measured t i = Config.shake256 (List.replicate 64 0 ++ (List.range 64).map (byte e.1))) ∧
          (¬ runs i → measured t i = 0)) ∧
      t.loftF = (if t.enumerated = true ∧ 1 ≤ loft ∧ loft ≤ 32 then loft else 4) ∧ t.availRows = (if t.enumerated then BitVec.ofNat 32 avail else 0) ∧
      (∀ r < 32, (getRow t r).cur = if t.availRows.getLsbD r then .idle else .off) ∧
      t.heads = [] ∧ t.lanes = [] ∧ t.cores = [] ∧ t.parts = [] ∧ t.vfs = [] ∧ t.reqs = [] ∧ t.keys = [] ∧ t.plimit = 2200 ∧
      t.trip = false ∧ t.now = 0 ∧ t.dbg = Debug.reset

/-- R355, R364, R375, R380 to R383, R388: STEP traps at the next instruction of a strand that is not halted and at which no other trap is
pending; a row halts, the strand that triggered it too, and is released, a confidential one never; a sampling pulse writes one record
of 64 bytes and 8 per placed strand, wrapping at the end of the buffer, or nothing; a dump halts every row, writes the pool of every
core, sends its markers and ends with the last that arrives; an uncorrectable error poisons what it strikes, or stops every task of
the row's team. The model's readings: a record that is dropped leaves TRPTR (log 87, DESIGN CHOICE), the order of the dump's steps
(log 39, DEDUCED), a pulse is due one period after the last due one (log 53, DEDUCED). -/
def Obligations.DebugEvents : Prop :=
  ∀ (s : State) (row slot link id core num g : Nat), row < 32 → slot < 8 → core < 512 →
    let h := getHead s row slot
    let y := getRow s row
    let hidden : Prop := (rowJob s row).isSome = true ∧ ctxOf s row ∈ s.confidential
    let d := s.dbg
    let placed (r sl : Nat) : Bool := (getHead s r sl).task.isSome
    let idle : Prop := ∀ r < 32, ∀ i < 8, placed r i = false
    (h.stepDue = true → h.task ≠ none → h.flights = [] → h.commit = none → h.wait = .no → h.handler = false → h.tvec ≠ 0 →
      isIn 0x801 h.poison = false → strandRuns s row slot = true → h.events = [] → (∀ c < 16, (getLane s row c slot).events = []) →
      let pc := if h.pend.isSome then h.pc - 4 else h.pc
      Completes (exec (.step row slot) s) fun t => (∀ r < 32, ∀ c < 16, ∀ i < 8, getLane t r c i = getLane s r c i) ∧
        (d.tren = false → t.mem = s.mem) ∧
        getHead t row slot = entered h (rowFlags s row slot) .step 31 (pc.setWidth 64) pc) ∧
    (h.stepDue = false ∨ strandRuns s row slot = false → exec (.step row slot) s = .next s) ∧
    (¬ hidden → s.enumerated = true → Completes (exec (.xtctlHalt row) s) (fun t => t = { s with rows := t.rows } ∧
        getRow t row = { y with halted := true, haltBy := none }) ∧
      Completes (exec (.xtctlRelease row) s) fun t => t = { s with rows := t.rows } ∧
        getRow t row = { y with halted := false, haltBy := none }) ∧
    (hidden → exec (.xtctlHalt row) s = .next s ∧ exec (.xtctlRelease row) s = .next s) ∧
    (d.tren = false → exec .trctlPulse s = .next s) ∧
    (d.tren = true → d.trsize ≠ 0 → d.drops ≠ 0 → s.enumerated = true → exec .trctlPulse s = .next { s with dbg := { d with drops := d.drops - 1 } }) ∧
    (d.tren = true → d.trsize ≠ 0 → d.drops = 0 → s.enumerated = true →
      let strands := (List.range 32).flatMap fun r => (List.range 8).filter (placed r)
      let bytes := 64 + 8 * strands.length
      let left := d.trsize.toNat - d.trptr % d.trsize.toNat
      let pad := if left < bytes then left else 0
      Completes (exec .trctlPulse s) fun t => t.heads = s.heads ∧ t.lanes = s.lanes ∧ t.cores = s.cores ∧ t.rows = s.rows ∧
        t.dbg = { d with trptr := d.trptr + pad + bytes, wrap := d.wrap || decide (pad ≠ 0) }) ∧
    (d.tren = true → d.drops = 0 → s.iommu = [] → idle → d.trsize.toNat = 65536 → d.trptr % 65536 + 64 ≤ 65536 →
      d.trbase.toNat < 2 ^ 49 → s.now < 2 ^ 64 → s.enumerated = true →
      Completes (exec .trctlPulse s) fun t => t.dbg = { d with trptr := d.trptr + 64 } ∧
        let a := hostPa (d.trbase.toNat + d.trptr % 65536)
        memRdN t.mem a 8 = s.now ∧ memRdN t.mem (a + 8) 8 = 0 ∧ (∀ x, x < a ∨ a + 64 ≤ x → memRd t.mem x = memRd s.mem x)) ∧
    (d.period = 0 ∨ s.now < d.lastPulse + 1000 * d.period → exec .samplingPeriod s = .next s) ∧
    (d.period ≠ 0 → d.lastPulse + 1000 * d.period ≤ s.now → d.tren = false →
      exec .samplingPeriod s = .next { s with dbg := { d with lastPulse := d.lastPulse + 1000 * d.period } }) ∧
    (d.period ≠ 0 → d.lastPulse + 1000 * d.period ≤ s.now → s.enumerated = true → Completes (exec .samplingPeriod s) fun t =>
      exec .trctlPulse { s with dbg := { d with lastPulse := d.lastPulse + 1000 * d.period } } = .next t) ∧
    (let links := (List.range 12).filter fun l => (getLink s l).st = .up;
      let halts (t : State) : Prop := t.heads = s.heads ∧ t.lanes = s.lanes ∧ t.cores = s.cores ∧
        ∀ r < 32, (getRow t r).halted = true ∧ (getRow t r).haltBy = none
      (s.enumerated = true → Completes (exec (.dumpctlGo id) s) fun t => halts t ∧ t.dbg.dumpId = id % 65536 ∧ t.dbg.dumpDone = links.isEmpty ∧
        t.dbg.dumpLinks = (if links = [] then none else some links) ∧
        t.dbg.dumpSent = d.dumpSent ++ links.map (fun l => (l, id % 65536)) ∧
        (memWf (getCore s core).pool = true → rowKey s (core / 16) = none → ∀ o < 2 ^ 21,
          memRd t.mem (d.dumpBase.toNat + 2228224 * core + o) = memRd (fullPool s (core / 16) (core % 16)) o)) ∧
      ((getLink s link).st = .up → id % 65536 ≠ d.dumpId → Completes (exec (.dumpMarker link id) s) fun t => halts t ∧
        t.dbg.dumpId = id % 65536 ∧ ∀ x, (t.dbg.dumpLinks.getD []).contains x = true ↔ x ∈ links ∧ x ≠ link)) ∧
    (∀ l, (getLink s link).st = .up → id % 65536 = d.dumpId → d.dumpLinks = some l →
      let rest := l.filter fun x => decide (x ≠ link)
      exec (.dumpMarker link id) s = .next { s with dbg := { d with dumpLinks := if rest = [] then none else some rest, dumpDone := rest.isEmpty } }) ∧
    ((getLink s link).st ≠ .up → exec (.dumpMarker link id) s = .next s) ∧
    (1 ≤ num → num < 32 → Completes (exec (.uncorrectableError (.g core slot num)) s) fun t => t = { s with lanes := t.lanes } ∧
      num ∈ (getLane t (core / 16) (core % 16) slot).poison ∧
      (getLane t (core / 16) (core % 16) slot).g = (getLane s (core / 16) (core % 16) slot).g) ∧
    (1 ≤ num → num < 8 → Completes (exec (.uncorrectableError (.m core slot num)) s) fun t => t = { s with lanes := t.lanes } ∧
      0x200 + num ∈ (getLane t (core / 16) (core % 16) slot).poison) ∧
    (1 ≤ num → num < 16 → Completes (exec (.uncorrectableError (.h row slot num)) s) fun t => t = { s with heads := t.heads } ∧
      num ∈ (getHead t row slot).poison ∧ (getHead t row slot).h = h.h) ∧
    Completes (exec (.uncorrectableError (.csr row slot num)) s) (fun t => t = { s with heads := t.heads } ∧
      0x800 + num ∈ (getHead t row slot).poison) ∧
    (g < 32768 → Completes (exec (.uncorrectableError (.pool core g)) s) fun t => t = { s with cores := t.cores } ∧
      g ∈ (getCore t core).poolPoison) ∧
    (regionOf (64 * g) = .cellar → Completes (exec (.uncorrectableError (.cellar g)) s) fun t => t = { s with memPoison := t.memPoison } ∧
      g ∈ t.memPoison) ∧
    (∀ p j, rowJob s row = some (p, j) → ∀ i < 8, ∀ k, (getHead s row i).task = some k →
      Completes (exec (.uncorrectableError (.control row)) s) fun t =>
        ∃ j', (getPart t p).job = some j' ∧ tget j'.ended k 0 = BitVec.ofNat 64 (2 ^ 41 + 65536)) ∧
    ((∀ i < 8, placed row i = false) → exec (.uncorrectableError (.control row)) s = .next s)

/-- R36, R157 to R161, R176 to R180, R236, R377: where each of these instructions completes, or begins the wait that is its effect: LD,
LDN, LDV, ST and STV at aligned addresses that no watch filter hits, a load where the pages translate and no walk under way is
joined; FENCE and DRAINST once nothing that they wait for is outstanding; BARI within its range; BARA always, also where the strand
has arrived in an older generation; BARW once the generation of the arrival is over; BAR where its own arrival ends the generation
or the one it arrived in is over; CLEAVE at any tag; a CJOIN or CLEAVE that waits, once the routers have answered; and every event,
but for an access at a physical address that exists nowhere. -/
def Obligations.Completions : Prop :=
  ∀ (s : State) (d a n : BitVec 5) (off : BitVec 12) (voff : BitVec 11) (sz : Sz) (ord : Bool),
    let p := pxOf (me s)
    let z := szBytes sz
    let at_ (c : Nat) : Word := rdG (laneAt s c) a + BitVec.ofInt 64 (off.toInt * z)
    let vat (c : Nat) : Word := rdG (laneAt s c) a + BitVec.ofInt 64 (voff.toInt * 128)
    let mask (c : Nat) : BitVec 32 := (rdM (laneAt s c) p.msk).setWidth 32
    let mine (q : Req) : Prop := q.row = s.curRow ∧ q.strand = s.curSlot ∧ q.col < 16
    let passes (i : Instr) : Prop := Completes (exec i s) fun t => t.mem = s.mem ∧ getHead t s.curRow s.curSlot = goOn (me s)
    let asks (i : Instr) (k : ReqKind) (va : Nat → Word) (size : Nat) : Prop := Completes (exec i s) fun t => t.mem = s.mem ∧
      getHead t s.curRow s.curSlot = goOn (me s) ∧ ∀ c < 16, (size = 128 → mask c ≠ 0) →
        ∃ q ∈ t.reqs, q.row = s.curRow ∧ q.col = c ∧ q.strand = s.curSlot ∧ q.kind = k ∧ q.va = va c ∧ q.size = size
    let unwatched (ld : Bool) (va : Word) (size : Nat) (m : BitVec 32) (c : Nat) : Prop :=
      (watchCheck s s.curRow c s.curSlot ld (!ld) va size m).2 = none
    let loads (va : Word) (size : Nat) (m : BitVec 32) (c : Nat) : Prop := unwatched true va size m c ∧
      walkBusy s s.curRow c s.curSlot va size m = false ∧ ∃ x, spanXlate s s.curRow c .read va size m = .ok x
    (LaneRuns s (.ld d a off sz ord) [.g a p.ea] → (∀ c < 16, z ∣ (at_ c).toNat ∧ loads (at_ c) z (BitVec.allOnes 32) c) →
      asks (.ld d a off sz ord) .load at_ z) ∧
    (LaneRuns s (.ldn d a off sz ord) [.g a p.ea] → (∀ c < 16, z ∣ (at_ c).toNat ∧ loads (at_ c) z (BitVec.allOnes 32) c) →
      asks (.ldn d a off sz ord) .load at_ z) ∧
    (LaneRuns s (.ldv d a voff ord) ([.g a p.ea] ++ mergeSrc d p) →
      (∀ c < 16, 8 ∣ (vat c).toNat ∧ (mask c = 0 ∨ loads (vat c) 128 (mask c) c)) → asks (.ldv d a voff ord) .load vat 128) ∧
    (LaneRuns s (.st d a off sz ord) [.g a p.ea, .g d p.eb] →
      (∀ c < 16, z ∣ (at_ c).toNat ∧ unwatched false (at_ c) z (BitVec.allOnes 32) c) → asks (.st d a off sz ord) .store at_ z) ∧
    (LaneRuns s (.stv d a voff ord) [.g a p.ea, .v d p.eb] →
      (∀ c < 16, 8 ∣ (vat c).toNat ∧ (mask c = 0 ∨ unwatched false (vat c) 128 (mask c) c)) → asks (.stv d a voff ord) .store vat 128) ∧
    (LaneReady s .fence → (∀ q ∈ s.reqs, mine q → q.kind ≠ .granule → isWriteKind q.kind = true ∧ scopeOf p.c ≠ .sys ∧ q.segs ≠ [] ∧
      ∀ u ∈ q.segs, regionOf u.1 ≠ .cellar) →
      (∀ c < 16, ∀ x ∈ (coreAt s c).transfers, x.strand = s.curSlot → x.data ≠ none) → passes .fence) ∧
    (LaneReady s .drainst → (∀ q ∈ s.reqs, mine q → q.kind ≠ .store ∧ q.kind ≠ .red) → passes .drainst) ∧
    (LaneRuns s (.bari n a) [.g a p.ea] →
      (∀ c < 16, 1 ≤ (rdG (laneAt s c) a).toNat ∧ (rdG (laneAt s c) a).toNat ≤ (constWord (coreAt s c) 230).toNat) → passes (.bari n a)) ∧
    (let bar (c : Nat) : Barrier := (coreAt s c).bars[n.toNat]
      let arrival (c : Nat) : Option Arrival := ((laneAt s c).arrivals.find? fun q => q.1 == n.toNat).map (·.2)
      (LaneReady s (.bara n) → passes (.bara n)) ∧
      (LaneReady s (.barw n) → (∀ c < 16, ∀ r, arrival c = some r → r.gen < (bar c).gen) → passes (.barw n)) ∧
      (LaneReady s (.bar n) → (∀ c < 16,
        (∃ r, arrival c = some r ∧ r.gen < (bar c).gen ∧ r.rewound = true ∧ r.region = some (me s).region) ∨
        ((bar c).count ≤ (bar c).tally + 1 ∧
          ∀ r, arrival c = some r → r.gen ≠ (bar c).gen ∧ ¬ (r.rewound = true ∧ r.region = some (me s).region))) → passes (.bar n))) ∧
    (LaneRuns s (.cleave a) [.g a false] → Completes (exec (.cleave a) s) fun t => t.mem = s.mem ∧ t.lanes = s.lanes ∧
      ∀ x, x ∉ ((coreAt t 0).match_.map (·.1)).filter fun y => y == (rdG (laneAt s 0) a).setWidth 16) ∧
    (∀ r sl f id, let h := getHead s r sl
      let w := getLane s r 15 sl
      sl < 8 → h.flights = [f] → h.commit = none → h.stall = [] → strandRuns s r sl = true → f.col = 15 → f.capture = false →
      (∃ x y, f.instr = .cjoin x y) ∨ (∃ x, f.instr = .cleave x) → f.begun = [id] → f.px.msk = 0 → f.handler = h.handler →
      (∀ k < 16, (getLane s r k sl).events = []) → w.recs = [] → (h.handler = true ∨ w.retry = []) → (∀ j ∈ s.joins, j.id ≠ id) →
      serveAt r 15 s sl = setHead s r sl { h with flights := [] }) ∧
    ∀ i : Instr, i.isEvent = true →
      (∀ id q, i = .vaultAccess id → findReq s id = some q → regionOf (firstPa q) ≠ .reserved) → ∃ t, exec i s = .next t
end

