-- ==== Sys2Proof/Laws/Tables.lean ====
section
/-! SUPPORT. The laws of the plain tables and of the sparse memory: a read after a write, and the canonical form kept. -/

namespace Sys2Proof.Machine

/-! Tables. -/

@[simp] theorem tget_tput_same (t : Tbl α) (k : Nat) (x d : α) : tget (tput t k x) k d = x := by
  induction t with
  | nil => simp [tput, tget]
  | cons p r ih =>
    obtain ⟨j, y⟩ := p
    unfold tput
    by_cases h1 : k < j
    · simp [h1, tget]
    · by_cases h2 : j = k
      · simp [h2, tget]
      · simp [h1, h2, tget, ih]

theorem tget_tput_ne (t : Tbl α) {k j : Nat} (x d : α) (h : j ≠ k) : tget (tput t k x) j d = tget t j d := by
  have h' : k ≠ j := fun e => h e.symm
  induction t with
  | nil => simp [tput, tget, h']
  | cons p r ih =>
    obtain ⟨i, y⟩ := p
    unfold tput
    by_cases h1 : k < i
    · simp [h1, tget, h']
    · by_cases h2 : i = k
      · simp [h2, tget, h']
      · rw [if_neg h1, if_neg h2]
        simp only [tget, ih]

theorem tget_tput (t : Tbl α) (k j : Nat) (x d : α) : tget (tput t k x) j d = if j = k then x else tget t j d := by
  by_cases h : j = k
  · simp [h]
  · simp [h, tget_tput_ne t x d h]

theorem tput_tput (t : Tbl α) (k : Nat) (x y : α) : tput (tput t k x) k y = tput t k y := by
  induction t with
  | nil => simp [tput]
  | cons p r ih =>
    obtain ⟨i, z⟩ := p
    rw [tput]
    by_cases h1 : k < i
    · simp [h1, tput]
    · by_cases h2 : i = k
      · simp [h2, tput]
      · simp [h1, h2, tput, ih]

/-! The sparse memory (R264). -/

theorem memRd_filter (m : List Host.Cell) (a b : Nat) (h : b ≠ a) : memRd (m.filter fun c => c.1 != a) b = memRd m b := by
  induction m with
  | nil => rfl
  | cons p r ih =>
    obtain ⟨i, y⟩ := p
    by_cases h1 : i = a
    · simp [h1, memRd, ih, Ne.symm h]
    · simp [h1, memRd, ih]

theorem memRd_filter_same (m : List Host.Cell) (a : Nat) : memRd (m.filter fun c => c.1 != a) a = 0 := by
  induction m with
  | nil => rfl
  | cons p r ih =>
    obtain ⟨i, y⟩ := p
    by_cases h1 : i = a
    · simp [h1, ih]
    · simp [h1, memRd, ih]

theorem memRd_memIns_same (m : List Host.Cell) (a : Nat) (x : Byte) : memRd (memIns m a x) a = x := by
  induction m with
  | nil => simp [memIns, memRd]
  | cons p r ih =>
    obtain ⟨i, y⟩ := p
    unfold memIns
    by_cases h1 : a < i
    · simp [h1, memRd]
    · by_cases h2 : i = a
      · simp [h2, memRd]
      · simp [h1, h2, memRd, ih]

theorem memRd_memIns_ne (m : List Host.Cell) {a b : Nat} (x : Byte) (h : b ≠ a) : memRd (memIns m a x) b = memRd m b := by
  have h' : a ≠ b := fun e => h e.symm
  induction m with
  | nil => simp [memIns, memRd, h']
  | cons p r ih =>
    obtain ⟨i, y⟩ := p
    unfold memIns
    by_cases h1 : a < i
    · simp [h1, memRd, h']
    · by_cases h2 : i = a
      · simp [h2, memRd, h']
      · rw [if_neg h1, if_neg h2]
        simp only [memRd, ih]

/-- A byte written is read back. -/
theorem memRd_memWr_same (m : List Host.Cell) (a : Nat) (x : Byte) : memRd (memWr m a x) a = x := by
  unfold memWr
  split
  · rename_i h; rw [memRd_filter_same, h]
  · exact memRd_memIns_same m a x

/-- A write leaves every other byte alone. -/
theorem memRd_memWr_ne (m : List Host.Cell) {a b : Nat} (x : Byte) (h : b ≠ a) : memRd (memWr m a x) b = memRd m b := by
  unfold memWr
  split
  · exact memRd_filter m a b h
  · exact memRd_memIns_ne m x h

/-- A write of n bytes leaves every byte outside them alone. -/
theorem memRd_memWrN_out (m : List Host.Cell) (a n x b : Nat) (h : b < a ∨ a + n ≤ b) : memRd (memWrN m a n x) b = memRd m b := by
  induction n generalizing m a x with
  | zero => rfl
  | succ n ih =>
    unfold memWrN
    rw [ih _ _ _ (by omega), memRd_memWr_ne _ _ (by omega)]

/-! The canonical form. -/

theorem memWf_tail {p : Host.Cell} {r : List Host.Cell} (h : memWf (p :: r) = true) : memWf r = true := by
  obtain ⟨a, x⟩ := p
  cases r with
  | nil => rfl
  | cons q r =>
    obtain ⟨b, y⟩ := q
    simp only [memWf, Bool.and_eq_true] at h
    exact h.2

theorem memWf_head {p : Host.Cell} {r : List Host.Cell} (h : memWf (p :: r) = true) : p.2 ≠ 0 := by
  obtain ⟨a, x⟩ := p
  cases r with
  | nil => simpa [memWf] using h
  | cons q r =>
    obtain ⟨b, y⟩ := q
    simp only [memWf, Bool.and_eq_true, bne_iff_ne] at h
    exact h.1.1

/-- Every address after the first is above it. -/
theorem memWf_above {p : Host.Cell} {r : List Host.Cell} (h : memWf (p :: r) = true) : ∀ q ∈ r, p.1 < q.1 := by
  induction r generalizing p with
  | nil => simp
  | cons q r ih =>
    obtain ⟨a, x⟩ := p
    obtain ⟨b, y⟩ := q
    have hab : a < b := by
      simp only [memWf, Bool.and_eq_true, decide_eq_true_eq] at h
      exact h.1.2
    intro c hc
    rcases List.mem_cons.1 hc with rfl | hc
    · exact hab
    · exact Nat.lt_trans hab (ih (memWf_tail h) c hc)

theorem memWf_cons {p : Host.Cell} {r : List Host.Cell} (hx : p.2 ≠ 0) (hr : memWf r = true) (ha : ∀ q ∈ r, p.1 < q.1) :
    memWf (p :: r) = true := by
  obtain ⟨a, x⟩ := p
  cases r with
  | nil => simpa [memWf] using hx
  | cons q r =>
    obtain ⟨b, y⟩ := q
    have : a < b := ha (b, y) (by simp)
    simp [memWf, hr, this]
    exact hx

/-- Leaving bytes out keeps the canonical form. -/
theorem memWf_filter (f : Host.Cell → Bool) {m : List Host.Cell} (h : memWf m = true) : memWf (m.filter f) = true := by
  induction m with
  | nil => rfl
  | cons p r ih =>
    have hr := ih (memWf_tail h)
    by_cases hp : f p = true
    · rw [List.filter_cons_of_pos hp]
      exact memWf_cons (memWf_head h) hr fun q hq => memWf_above h q (List.mem_filter.1 hq).1
    · rw [List.filter_cons_of_neg hp]
      exact hr

theorem mem_memIns {m : List Host.Cell} {a : Nat} {x : Byte} {q : Host.Cell} (h : q ∈ memIns m a x) : q.1 = a ∨ q ∈ m := by
  induction m with
  | nil => simp [memIns] at h; simp [h]
  | cons p r ih =>
    obtain ⟨i, y⟩ := p
    unfold memIns at h
    split at h
    · rcases List.mem_cons.1 h with rfl | h
      · exact .inl rfl
      · exact .inr h
    · split at h
      · rcases List.mem_cons.1 h with rfl | h
        · exact .inl rfl
        · exact .inr (List.mem_cons_of_mem _ h)
      · rcases List.mem_cons.1 h with rfl | h
        · exact .inr (by simp)
        · rcases ih h with h | h
          · exact .inl h
          · exact .inr (List.mem_cons_of_mem _ h)

theorem memWf_memIns {m : List Host.Cell} {a : Nat} {x : Byte} (hx : x ≠ 0) (h : memWf m = true) : memWf (memIns m a x) = true := by
  induction m with
  | nil => simpa [memIns, memWf] using hx
  | cons p r ih =>
    obtain ⟨i, y⟩ := p
    have hab := memWf_above h
    unfold memIns
    split
    · rename_i hlt
      refine memWf_cons hx h ?_
      intro q hq
      rcases List.mem_cons.1 hq with rfl | hq
      · exact hlt
      · exact Nat.lt_trans hlt (hab q hq)
    · rename_i hge
      split
      · rename_i he
        exact memWf_cons hx (memWf_tail h) fun q hq => he ▸ hab q hq
      · rename_i hne
        refine memWf_cons (memWf_head h) (ih (memWf_tail h)) ?_
        intro q hq
        rcases mem_memIns hq with e | hq
        · show i < q.1
          omega
        · exact hab q hq

/-- A write of one byte keeps the canonical form. -/
theorem memWf_memWr {m : List Host.Cell} {a : Nat} {x : Byte} (h : memWf m = true) : memWf (memWr m a x) = true := by
  unfold memWr
  split
  · exact memWf_filter _ h
  · exact memWf_memIns (by assumption) h

/-- A write of n bytes keeps the canonical form. -/
theorem memWf_memWrN {m : List Host.Cell} (a n x : Nat) (h : memWf m = true) : memWf (memWrN m a n x) = true := by
  induction n generalizing m a x with
  | zero => exact h
  | succ n ih => exact ih _ _ (memWf_memWr h)

/-- Clearing a range keeps the canonical form. -/
theorem memWf_memClear {m : List Host.Cell} (lo hi : Nat) (h : memWf m = true) : memWf (memClear m lo hi) = true := memWf_filter _ h

/-- Memory right after reset is in canonical form. -/
theorem memWf_reset : memWf State.reset.mem = true := rfl

/-! Folds over columns, slots and lists. -/

/-- What every function of a fold keeps, the fold keeps. -/
theorem foldl_keeps {P : β → Prop} {f : β → α → β} (hf : ∀ b a, P b → P (f b a)) (l : List α) (b : β) (h : P b) : P (l.foldl f b) := by
  induction l generalizing b with
  | nil => exact h
  | cons a r ih => exact ih _ (hf b a h)

theorem forCols_keeps {P : State → Prop} {f : State → Nat → State} (hf : ∀ s c, P s → P (f s c)) (s : State) (h : P s) :
    P (forCols f s) := foldl_keeps hf _ _ h

theorem forSlots_keeps {P : State → Prop} {f : State → Nat → State} (hf : ∀ s c, P s → P (f s c)) (s : State) (h : P s) :
    P (forSlots f s) := foldl_keeps hf _ _ h

end Sys2Proof.Machine
end

