-- ==== Sys2Proof/Laws/State.lean ====
section
/-! SUPPORT. The laws of the state's updates: what each one changes and what it keeps, one field at a time. -/

namespace Sys2Proof.Machine

/-! The record that an update sets, and the others of its table. -/

@[simp] theorem getHead_setHead (s : State) (r sl : Nat) (h : Head) : getHead (setHead s r sl h) r sl = h := by simp [getHead, setHead]
theorem getHead_setHead_ne (s : State) {r sl r' sl' : Nat} (h : Head) (e : 8 * r' + sl' ≠ 8 * r + sl) :
    getHead (setHead s r sl h) r' sl' = getHead s r' sl' := by simp [getHead, setHead, tget_tput_ne _ _ _ e]
@[simp] theorem getLane_setLane (s : State) (r c sl : Nat) (l : Lane) : getLane (setLane s r c sl l) r c sl = l := by
  simp [getLane, setLane]
theorem getLane_setLane_ne (s : State) {r c sl r' c' sl' : Nat} (l : Lane) (e : coreIx r' c' * 8 + sl' ≠ coreIx r c * 8 + sl) :
    getLane (setLane s r c sl l) r' c' sl' = getLane s r' c' sl' := by simp [getLane, setLane, tget_tput_ne _ _ _ e]
@[simp] theorem getCore_modCore (s : State) (k : Nat) (f : Core → Core) : getCore (modCore s k f) k = f (getCore s k) := by
  simp [getCore, modCore]
theorem getCore_modCore_ne (s : State) {k j : Nat} (f : Core → Core) (e : j ≠ k) : getCore (modCore s k f) j = getCore s j := by
  simp [getCore, modCore, tget_tput_ne _ _ _ e]
@[simp] theorem getRow_modRow (s : State) (r : Nat) (f : Row → Row) : getRow (modRow s r f) r = f (getRow s r) := by
  simp [getRow, modRow]
theorem getRow_modRow_ne (s : State) {r j : Nat} (f : Row → Row) (e : j ≠ r) : getRow (modRow s r f) j = getRow s j := by
  simp [getRow, modRow, tget_tput_ne _ _ _ e]
@[simp] theorem getPart_modPart (s : State) (p : Nat) (f : Part → Part) : getPart (modPart s p f) p = f (getPart s p) := by
  simp [getPart, modPart]
theorem getPart_modPart_ne (s : State) {p j : Nat} (f : Part → Part) (e : j ≠ p) : getPart (modPart s p f) j = getPart s j := by
  simp [getPart, modPart, tget_tput_ne _ _ _ e]
@[simp] theorem getVf_modVf (s : State) (n : Nat) (f : Vf → Vf) : getVf (modVf s n f) n = f (getVf s n) := by
  simp [getVf, modVf]
theorem getVf_modVf_ne (s : State) {n j : Nat} (f : Vf → Vf) (e : j ≠ n) : getVf (modVf s n f) j = getVf s j := by
  simp [getVf, modVf, tget_tput_ne _ _ _ e]
@[simp] theorem setHead_setHead (s : State) (r sl : Nat) (h k : Head) : setHead (setHead s r sl h) r sl k = setHead s r sl k := by
  simp [setHead, tput_tput]
@[simp] theorem setLane_setLane (s : State) (r c sl : Nat) (l m : Lane) : setLane (setLane s r c sl l) r c sl m = setLane s r c sl m := by
  simp [setLane, tput_tput]

/-! The fields that an update of the state keeps. -/

@[simp] theorem setHead_mem (s : State) (r sl : Nat) (h : Head) : (setHead s r sl h).mem = s.mem := rfl
@[simp] theorem setHead_memPoison (s : State) (r sl : Nat) (h : Head) : (setHead s r sl h).memPoison = s.memPoison := rfl
@[simp] theorem setHead_memKeys (s : State) (r sl : Nat) (h : Head) : (setHead s r sl h).memKeys = s.memKeys := rfl
@[simp] theorem setHead_lanes (s : State) (r sl : Nat) (h : Head) : (setHead s r sl h).lanes = s.lanes := rfl
@[simp] theorem setHead_cores (s : State) (r sl : Nat) (h : Head) : (setHead s r sl h).cores = s.cores := rfl
@[simp] theorem setHead_rows (s : State) (r sl : Nat) (h : Head) : (setHead s r sl h).rows = s.rows := rfl
@[simp] theorem setHead_parts (s : State) (r sl : Nat) (h : Head) : (setHead s r sl h).parts = s.parts := rfl
@[simp] theorem setHead_vfs (s : State) (r sl : Nat) (h : Head) : (setHead s r sl h).vfs = s.vfs := rfl
@[simp] theorem setHead_reqs (s : State) (r sl : Nat) (h : Head) : (setHead s r sl h).reqs = s.reqs := rfl
@[simp] theorem setHead_msgs (s : State) (r sl : Nat) (h : Head) : (setHead s r sl h).msgs = s.msgs := rfl
@[simp] theorem setHead_msgAt (s : State) (r sl : Nat) (h : Head) : (setHead s r sl h).msgAt = s.msgAt := rfl
@[simp] theorem setHead_msgPkt (s : State) (r sl : Nat) (h : Head) : (setHead s r sl h).msgPkt = s.msgPkt := rfl
@[simp] theorem setHead_reached (s : State) (r sl : Nat) (h : Head) : (setHead s r sl h).reached = s.reached := rfl
@[simp] theorem setHead_dispensers (s : State) (r sl : Nat) (h : Head) : (setHead s r sl h).dispensers = s.dispensers := rfl
@[simp] theorem setHead_subs (s : State) (r sl : Nat) (h : Head) : (setHead s r sl h).subs = s.subs := rfl
@[simp] theorem setHead_joins (s : State) (r sl : Nat) (h : Head) : (setHead s r sl h).joins = s.joins := rfl
@[simp] theorem setHead_tree (s : State) (r sl : Nat) (h : Head) : (setHead s r sl h).tree = s.tree := rfl
@[simp] theorem setHead_sentX (s : State) (r sl : Nat) (h : Head) : (setHead s r sl h).sentX = s.sentX := rfl
@[simp] theorem setHead_links (s : State) (r sl : Nat) (h : Head) : (setHead s r sl h).links = s.links := rfl
@[simp] theorem setHead_mesh (s : State) (r sl : Nat) (h : Head) : (setHead s r sl h).mesh = s.mesh := rfl
@[simp] theorem setHead_noRoute (s : State) (r sl : Nat) (h : Head) : (setHead s r sl h).noRoute = s.noRoute := rfl
@[simp] theorem setHead_pkts (s : State) (r sl : Nat) (h : Head) : (setHead s r sl h).pkts = s.pkts := rfl
@[simp] theorem setHead_peerWin (s : State) (r sl : Nat) (h : Head) : (setHead s r sl h).peerWin = s.peerWin := rfl
@[simp] theorem setHead_memStamp (s : State) (r sl : Nat) (h : Head) : (setHead s r sl h).memStamp = s.memStamp := rfl
@[simp] theorem setHead_iommu (s : State) (r sl : Nat) (h : Head) : (setHead s r sl h).iommu = s.iommu := rfl
@[simp] theorem setHead_walks (s : State) (r sl : Nat) (h : Head) : (setHead s r sl h).walks = s.walks := rfl
@[simp] theorem setHead_markers (s : State) (r sl : Nat) (h : Head) : (setHead s r sl h).markers = s.markers := rfl
@[simp] theorem setHead_imports (s : State) (r sl : Nat) (h : Head) : (setHead s r sl h).imports = s.imports := rfl
@[simp] theorem setHead_peerId (s : State) (r sl : Nat) (h : Head) : (setHead s r sl h).peerId = s.peerId := rfl
@[simp] theorem setHead_peerAnswer (s : State) (r sl : Nat) (h : Head) : (setHead s r sl h).peerAnswer = s.peerAnswer := rfl
@[simp] theorem setHead_availRows (s : State) (r sl : Nat) (h : Head) : (setHead s r sl h).availRows = s.availRows := rfl
@[simp] theorem setHead_plimit (s : State) (r sl : Nat) (h : Head) : (setHead s r sl h).plimit = s.plimit := rfl
@[simp] theorem setHead_trip (s : State) (r sl : Nat) (h : Head) : (setHead s r sl h).trip = s.trip := rfl
@[simp] theorem setHead_hot (s : State) (r sl : Nat) (h : Head) : (setHead s r sl h).hot = s.hot := rfl
@[simp] theorem setHead_rwcmd (s : State) (r sl : Nat) (h : Head) : (setHead s r sl h).rwcmd = s.rwcmd := rfl
@[simp] theorem setHead_rwbuf (s : State) (r sl : Nat) (h : Head) : (setHead s r sl h).rwbuf = s.rwbuf := rfl
@[simp] theorem setHead_rwbusy (s : State) (r sl : Nat) (h : Head) : (setHead s r sl h).rwbusy = s.rwbusy := rfl
@[simp] theorem setHead_rwcode (s : State) (r sl : Nat) (h : Head) : (setHead s r sl h).rwcode = s.rwcode := rfl
@[simp] theorem setHead_pfMsix (s : State) (r sl : Nat) (h : Head) : (setHead s r sl h).pfMsix = s.pfMsix := rfl
@[simp] theorem setHead_pfPend (s : State) (r sl : Nat) (h : Head) : (setHead s r sl h).pfPend = s.pfPend := rfl
@[simp] theorem setHead_measured (s : State) (r sl : Nat) (h : Head) : (setHead s r sl h).measured = s.measured := rfl
@[simp] theorem setHead_enumerated (s : State) (r sl : Nat) (h : Head) : (setHead s r sl h).enumerated = s.enumerated := rfl
@[simp] theorem setHead_regAnswer (s : State) (r sl : Nat) (h : Head) : (setHead s r sl h).regAnswer = s.regAnswer := rfl
@[simp] theorem setHead_keys (s : State) (r sl : Nat) (h : Head) : (setHead s r sl h).keys = s.keys := rfl
@[simp] theorem setHead_confidential (s : State) (r sl : Nat) (h : Head) : (setHead s r sl h).confidential = s.confidential := rfl
@[simp] theorem setHead_dbg (s : State) (r sl : Nat) (h : Head) : (setHead s r sl h).dbg = s.dbg := rfl
@[simp] theorem setHead_loftF (s : State) (r sl : Nat) (h : Head) : (setHead s r sl h).loftF = s.loftF := rfl
@[simp] theorem setHead_now (s : State) (r sl : Nat) (h : Head) : (setHead s r sl h).now = s.now := rfl
@[simp] theorem setHead_fresh (s : State) (r sl : Nat) (h : Head) : (setHead s r sl h).fresh = s.fresh := rfl
@[simp] theorem setHead_free (s : State) (r sl : Nat) (h : Head) : (setHead s r sl h).free = s.free := rfl
@[simp] theorem setHead_agenda (s : State) (r sl : Nat) (h : Head) : (setHead s r sl h).agenda = s.agenda := rfl
@[simp] theorem setHead_slowWalks (s : State) (r sl : Nat) (h : Head) : (setHead s r sl h).slowWalks = s.slowWalks := rfl
@[simp] theorem setHead_turn (s : State) (r sl : Nat) (h : Head) : (setHead s r sl h).turn = s.turn := rfl
@[simp] theorem setHead_curRow (s : State) (r sl : Nat) (h : Head) : (setHead s r sl h).curRow = s.curRow := rfl
@[simp] theorem setHead_curSlot (s : State) (r sl : Nat) (h : Head) : (setHead s r sl h).curSlot = s.curSlot := rfl

@[simp] theorem setLane_mem (s : State) (r c sl : Nat) (l : Lane) : (setLane s r c sl l).mem = s.mem := rfl
@[simp] theorem setLane_memPoison (s : State) (r c sl : Nat) (l : Lane) : (setLane s r c sl l).memPoison = s.memPoison := rfl
@[simp] theorem setLane_memKeys (s : State) (r c sl : Nat) (l : Lane) : (setLane s r c sl l).memKeys = s.memKeys := rfl
@[simp] theorem setLane_heads (s : State) (r c sl : Nat) (l : Lane) : (setLane s r c sl l).heads = s.heads := rfl
@[simp] theorem setLane_cores (s : State) (r c sl : Nat) (l : Lane) : (setLane s r c sl l).cores = s.cores := rfl
@[simp] theorem setLane_rows (s : State) (r c sl : Nat) (l : Lane) : (setLane s r c sl l).rows = s.rows := rfl
@[simp] theorem setLane_parts (s : State) (r c sl : Nat) (l : Lane) : (setLane s r c sl l).parts = s.parts := rfl
@[simp] theorem setLane_vfs (s : State) (r c sl : Nat) (l : Lane) : (setLane s r c sl l).vfs = s.vfs := rfl
@[simp] theorem setLane_reqs (s : State) (r c sl : Nat) (l : Lane) : (setLane s r c sl l).reqs = s.reqs := rfl
@[simp] theorem setLane_msgs (s : State) (r c sl : Nat) (l : Lane) : (setLane s r c sl l).msgs = s.msgs := rfl
@[simp] theorem setLane_msgAt (s : State) (r c sl : Nat) (l : Lane) : (setLane s r c sl l).msgAt = s.msgAt := rfl
@[simp] theorem setLane_msgPkt (s : State) (r c sl : Nat) (l : Lane) : (setLane s r c sl l).msgPkt = s.msgPkt := rfl
@[simp] theorem setLane_reached (s : State) (r c sl : Nat) (l : Lane) : (setLane s r c sl l).reached = s.reached := rfl
@[simp] theorem setLane_dispensers (s : State) (r c sl : Nat) (l : Lane) : (setLane s r c sl l).dispensers = s.dispensers := rfl
@[simp] theorem setLane_subs (s : State) (r c sl : Nat) (l : Lane) : (setLane s r c sl l).subs = s.subs := rfl
@[simp] theorem setLane_joins (s : State) (r c sl : Nat) (l : Lane) : (setLane s r c sl l).joins = s.joins := rfl
@[simp] theorem setLane_tree (s : State) (r c sl : Nat) (l : Lane) : (setLane s r c sl l).tree = s.tree := rfl
@[simp] theorem setLane_sentX (s : State) (r c sl : Nat) (l : Lane) : (setLane s r c sl l).sentX = s.sentX := rfl
@[simp] theorem setLane_links (s : State) (r c sl : Nat) (l : Lane) : (setLane s r c sl l).links = s.links := rfl
@[simp] theorem setLane_mesh (s : State) (r c sl : Nat) (l : Lane) : (setLane s r c sl l).mesh = s.mesh := rfl
@[simp] theorem setLane_noRoute (s : State) (r c sl : Nat) (l : Lane) : (setLane s r c sl l).noRoute = s.noRoute := rfl
@[simp] theorem setLane_pkts (s : State) (r c sl : Nat) (l : Lane) : (setLane s r c sl l).pkts = s.pkts := rfl
@[simp] theorem setLane_peerWin (s : State) (r c sl : Nat) (l : Lane) : (setLane s r c sl l).peerWin = s.peerWin := rfl
@[simp] theorem setLane_memStamp (s : State) (r c sl : Nat) (l : Lane) : (setLane s r c sl l).memStamp = s.memStamp := rfl
@[simp] theorem setLane_iommu (s : State) (r c sl : Nat) (l : Lane) : (setLane s r c sl l).iommu = s.iommu := rfl
@[simp] theorem setLane_walks (s : State) (r c sl : Nat) (l : Lane) : (setLane s r c sl l).walks = s.walks := rfl
@[simp] theorem setLane_markers (s : State) (r c sl : Nat) (l : Lane) : (setLane s r c sl l).markers = s.markers := rfl
@[simp] theorem setLane_imports (s : State) (r c sl : Nat) (l : Lane) : (setLane s r c sl l).imports = s.imports := rfl
@[simp] theorem setLane_peerId (s : State) (r c sl : Nat) (l : Lane) : (setLane s r c sl l).peerId = s.peerId := rfl
@[simp] theorem setLane_peerAnswer (s : State) (r c sl : Nat) (l : Lane) : (setLane s r c sl l).peerAnswer = s.peerAnswer := rfl
@[simp] theorem setLane_availRows (s : State) (r c sl : Nat) (l : Lane) : (setLane s r c sl l).availRows = s.availRows := rfl
@[simp] theorem setLane_plimit (s : State) (r c sl : Nat) (l : Lane) : (setLane s r c sl l).plimit = s.plimit := rfl
@[simp] theorem setLane_trip (s : State) (r c sl : Nat) (l : Lane) : (setLane s r c sl l).trip = s.trip := rfl
@[simp] theorem setLane_hot (s : State) (r c sl : Nat) (l : Lane) : (setLane s r c sl l).hot = s.hot := rfl
@[simp] theorem setLane_rwcmd (s : State) (r c sl : Nat) (l : Lane) : (setLane s r c sl l).rwcmd = s.rwcmd := rfl
@[simp] theorem setLane_rwbuf (s : State) (r c sl : Nat) (l : Lane) : (setLane s r c sl l).rwbuf = s.rwbuf := rfl
@[simp] theorem setLane_rwbusy (s : State) (r c sl : Nat) (l : Lane) : (setLane s r c sl l).rwbusy = s.rwbusy := rfl
@[simp] theorem setLane_rwcode (s : State) (r c sl : Nat) (l : Lane) : (setLane s r c sl l).rwcode = s.rwcode := rfl
@[simp] theorem setLane_pfMsix (s : State) (r c sl : Nat) (l : Lane) : (setLane s r c sl l).pfMsix = s.pfMsix := rfl
@[simp] theorem setLane_pfPend (s : State) (r c sl : Nat) (l : Lane) : (setLane s r c sl l).pfPend = s.pfPend := rfl
@[simp] theorem setLane_measured (s : State) (r c sl : Nat) (l : Lane) : (setLane s r c sl l).measured = s.measured := rfl
@[simp] theorem setLane_enumerated (s : State) (r c sl : Nat) (l : Lane) : (setLane s r c sl l).enumerated = s.enumerated := rfl
@[simp] theorem setLane_regAnswer (s : State) (r c sl : Nat) (l : Lane) : (setLane s r c sl l).regAnswer = s.regAnswer := rfl
@[simp] theorem setLane_keys (s : State) (r c sl : Nat) (l : Lane) : (setLane s r c sl l).keys = s.keys := rfl
@[simp] theorem setLane_confidential (s : State) (r c sl : Nat) (l : Lane) : (setLane s r c sl l).confidential = s.confidential := rfl
@[simp] theorem setLane_dbg (s : State) (r c sl : Nat) (l : Lane) : (setLane s r c sl l).dbg = s.dbg := rfl
@[simp] theorem setLane_loftF (s : State) (r c sl : Nat) (l : Lane) : (setLane s r c sl l).loftF = s.loftF := rfl
@[simp] theorem setLane_now (s : State) (r c sl : Nat) (l : Lane) : (setLane s r c sl l).now = s.now := rfl
@[simp] theorem setLane_fresh (s : State) (r c sl : Nat) (l : Lane) : (setLane s r c sl l).fresh = s.fresh := rfl
@[simp] theorem setLane_free (s : State) (r c sl : Nat) (l : Lane) : (setLane s r c sl l).free = s.free := rfl
@[simp] theorem setLane_agenda (s : State) (r c sl : Nat) (l : Lane) : (setLane s r c sl l).agenda = s.agenda := rfl
@[simp] theorem setLane_slowWalks (s : State) (r c sl : Nat) (l : Lane) : (setLane s r c sl l).slowWalks = s.slowWalks := rfl
@[simp] theorem setLane_turn (s : State) (r c sl : Nat) (l : Lane) : (setLane s r c sl l).turn = s.turn := rfl
@[simp] theorem setLane_curRow (s : State) (r c sl : Nat) (l : Lane) : (setLane s r c sl l).curRow = s.curRow := rfl
@[simp] theorem setLane_curSlot (s : State) (r c sl : Nat) (l : Lane) : (setLane s r c sl l).curSlot = s.curSlot := rfl

@[simp] theorem modCore_mem (s : State) (k : Nat) (f : Core → Core) : (modCore s k f).mem = s.mem := rfl
@[simp] theorem modCore_memPoison (s : State) (k : Nat) (f : Core → Core) : (modCore s k f).memPoison = s.memPoison := rfl
@[simp] theorem modCore_memKeys (s : State) (k : Nat) (f : Core → Core) : (modCore s k f).memKeys = s.memKeys := rfl
@[simp] theorem modCore_heads (s : State) (k : Nat) (f : Core → Core) : (modCore s k f).heads = s.heads := rfl
@[simp] theorem modCore_lanes (s : State) (k : Nat) (f : Core → Core) : (modCore s k f).lanes = s.lanes := rfl
@[simp] theorem modCore_rows (s : State) (k : Nat) (f : Core → Core) : (modCore s k f).rows = s.rows := rfl
@[simp] theorem modCore_parts (s : State) (k : Nat) (f : Core → Core) : (modCore s k f).parts = s.parts := rfl
@[simp] theorem modCore_vfs (s : State) (k : Nat) (f : Core → Core) : (modCore s k f).vfs = s.vfs := rfl
@[simp] theorem modCore_reqs (s : State) (k : Nat) (f : Core → Core) : (modCore s k f).reqs = s.reqs := rfl
@[simp] theorem modCore_msgs (s : State) (k : Nat) (f : Core → Core) : (modCore s k f).msgs = s.msgs := rfl
@[simp] theorem modCore_msgAt (s : State) (k : Nat) (f : Core → Core) : (modCore s k f).msgAt = s.msgAt := rfl
@[simp] theorem modCore_msgPkt (s : State) (k : Nat) (f : Core → Core) : (modCore s k f).msgPkt = s.msgPkt := rfl
@[simp] theorem modCore_reached (s : State) (k : Nat) (f : Core → Core) : (modCore s k f).reached = s.reached := rfl
@[simp] theorem modCore_dispensers (s : State) (k : Nat) (f : Core → Core) : (modCore s k f).dispensers = s.dispensers := rfl
@[simp] theorem modCore_subs (s : State) (k : Nat) (f : Core → Core) : (modCore s k f).subs = s.subs := rfl
@[simp] theorem modCore_joins (s : State) (k : Nat) (f : Core → Core) : (modCore s k f).joins = s.joins := rfl
@[simp] theorem modCore_tree (s : State) (k : Nat) (f : Core → Core) : (modCore s k f).tree = s.tree := rfl
@[simp] theorem modCore_sentX (s : State) (k : Nat) (f : Core → Core) : (modCore s k f).sentX = s.sentX := rfl
@[simp] theorem modCore_links (s : State) (k : Nat) (f : Core → Core) : (modCore s k f).links = s.links := rfl
@[simp] theorem modCore_mesh (s : State) (k : Nat) (f : Core → Core) : (modCore s k f).mesh = s.mesh := rfl
@[simp] theorem modCore_noRoute (s : State) (k : Nat) (f : Core → Core) : (modCore s k f).noRoute = s.noRoute := rfl
@[simp] theorem modCore_pkts (s : State) (k : Nat) (f : Core → Core) : (modCore s k f).pkts = s.pkts := rfl
@[simp] theorem modCore_peerWin (s : State) (k : Nat) (f : Core → Core) : (modCore s k f).peerWin = s.peerWin := rfl
@[simp] theorem modCore_memStamp (s : State) (k : Nat) (f : Core → Core) : (modCore s k f).memStamp = s.memStamp := rfl
@[simp] theorem modCore_iommu (s : State) (k : Nat) (f : Core → Core) : (modCore s k f).iommu = s.iommu := rfl
@[simp] theorem modCore_walks (s : State) (k : Nat) (f : Core → Core) : (modCore s k f).walks = s.walks := rfl
@[simp] theorem modCore_markers (s : State) (k : Nat) (f : Core → Core) : (modCore s k f).markers = s.markers := rfl
@[simp] theorem modCore_imports (s : State) (k : Nat) (f : Core → Core) : (modCore s k f).imports = s.imports := rfl
@[simp] theorem modCore_peerId (s : State) (k : Nat) (f : Core → Core) : (modCore s k f).peerId = s.peerId := rfl
@[simp] theorem modCore_peerAnswer (s : State) (k : Nat) (f : Core → Core) : (modCore s k f).peerAnswer = s.peerAnswer := rfl
@[simp] theorem modCore_availRows (s : State) (k : Nat) (f : Core → Core) : (modCore s k f).availRows = s.availRows := rfl
@[simp] theorem modCore_plimit (s : State) (k : Nat) (f : Core → Core) : (modCore s k f).plimit = s.plimit := rfl
@[simp] theorem modCore_trip (s : State) (k : Nat) (f : Core → Core) : (modCore s k f).trip = s.trip := rfl
@[simp] theorem modCore_hot (s : State) (k : Nat) (f : Core → Core) : (modCore s k f).hot = s.hot := rfl
@[simp] theorem modCore_rwcmd (s : State) (k : Nat) (f : Core → Core) : (modCore s k f).rwcmd = s.rwcmd := rfl
@[simp] theorem modCore_rwbuf (s : State) (k : Nat) (f : Core → Core) : (modCore s k f).rwbuf = s.rwbuf := rfl
@[simp] theorem modCore_rwbusy (s : State) (k : Nat) (f : Core → Core) : (modCore s k f).rwbusy = s.rwbusy := rfl
@[simp] theorem modCore_rwcode (s : State) (k : Nat) (f : Core → Core) : (modCore s k f).rwcode = s.rwcode := rfl
@[simp] theorem modCore_pfMsix (s : State) (k : Nat) (f : Core → Core) : (modCore s k f).pfMsix = s.pfMsix := rfl
@[simp] theorem modCore_pfPend (s : State) (k : Nat) (f : Core → Core) : (modCore s k f).pfPend = s.pfPend := rfl
@[simp] theorem modCore_measured (s : State) (k : Nat) (f : Core → Core) : (modCore s k f).measured = s.measured := rfl
@[simp] theorem modCore_enumerated (s : State) (k : Nat) (f : Core → Core) : (modCore s k f).enumerated = s.enumerated := rfl
@[simp] theorem modCore_regAnswer (s : State) (k : Nat) (f : Core → Core) : (modCore s k f).regAnswer = s.regAnswer := rfl
@[simp] theorem modCore_keys (s : State) (k : Nat) (f : Core → Core) : (modCore s k f).keys = s.keys := rfl
@[simp] theorem modCore_confidential (s : State) (k : Nat) (f : Core → Core) : (modCore s k f).confidential = s.confidential := rfl
@[simp] theorem modCore_dbg (s : State) (k : Nat) (f : Core → Core) : (modCore s k f).dbg = s.dbg := rfl
@[simp] theorem modCore_loftF (s : State) (k : Nat) (f : Core → Core) : (modCore s k f).loftF = s.loftF := rfl
@[simp] theorem modCore_now (s : State) (k : Nat) (f : Core → Core) : (modCore s k f).now = s.now := rfl
@[simp] theorem modCore_fresh (s : State) (k : Nat) (f : Core → Core) : (modCore s k f).fresh = s.fresh := rfl
@[simp] theorem modCore_free (s : State) (k : Nat) (f : Core → Core) : (modCore s k f).free = s.free := rfl
@[simp] theorem modCore_agenda (s : State) (k : Nat) (f : Core → Core) : (modCore s k f).agenda = s.agenda := rfl
@[simp] theorem modCore_slowWalks (s : State) (k : Nat) (f : Core → Core) : (modCore s k f).slowWalks = s.slowWalks := rfl
@[simp] theorem modCore_turn (s : State) (k : Nat) (f : Core → Core) : (modCore s k f).turn = s.turn := rfl
@[simp] theorem modCore_curRow (s : State) (k : Nat) (f : Core → Core) : (modCore s k f).curRow = s.curRow := rfl
@[simp] theorem modCore_curSlot (s : State) (k : Nat) (f : Core → Core) : (modCore s k f).curSlot = s.curSlot := rfl

@[simp] theorem modRow_mem (s : State) (r : Nat) (f : Row → Row) : (modRow s r f).mem = s.mem := rfl
@[simp] theorem modRow_memPoison (s : State) (r : Nat) (f : Row → Row) : (modRow s r f).memPoison = s.memPoison := rfl
@[simp] theorem modRow_memKeys (s : State) (r : Nat) (f : Row → Row) : (modRow s r f).memKeys = s.memKeys := rfl
@[simp] theorem modRow_heads (s : State) (r : Nat) (f : Row → Row) : (modRow s r f).heads = s.heads := rfl
@[simp] theorem modRow_lanes (s : State) (r : Nat) (f : Row → Row) : (modRow s r f).lanes = s.lanes := rfl
@[simp] theorem modRow_cores (s : State) (r : Nat) (f : Row → Row) : (modRow s r f).cores = s.cores := rfl
@[simp] theorem modRow_parts (s : State) (r : Nat) (f : Row → Row) : (modRow s r f).parts = s.parts := rfl
@[simp] theorem modRow_vfs (s : State) (r : Nat) (f : Row → Row) : (modRow s r f).vfs = s.vfs := rfl
@[simp] theorem modRow_reqs (s : State) (r : Nat) (f : Row → Row) : (modRow s r f).reqs = s.reqs := rfl
@[simp] theorem modRow_msgs (s : State) (r : Nat) (f : Row → Row) : (modRow s r f).msgs = s.msgs := rfl
@[simp] theorem modRow_msgAt (s : State) (r : Nat) (f : Row → Row) : (modRow s r f).msgAt = s.msgAt := rfl
@[simp] theorem modRow_msgPkt (s : State) (r : Nat) (f : Row → Row) : (modRow s r f).msgPkt = s.msgPkt := rfl
@[simp] theorem modRow_reached (s : State) (r : Nat) (f : Row → Row) : (modRow s r f).reached = s.reached := rfl
@[simp] theorem modRow_dispensers (s : State) (r : Nat) (f : Row → Row) : (modRow s r f).dispensers = s.dispensers := rfl
@[simp] theorem modRow_subs (s : State) (r : Nat) (f : Row → Row) : (modRow s r f).subs = s.subs := rfl
@[simp] theorem modRow_joins (s : State) (r : Nat) (f : Row → Row) : (modRow s r f).joins = s.joins := rfl
@[simp] theorem modRow_tree (s : State) (r : Nat) (f : Row → Row) : (modRow s r f).tree = s.tree := rfl
@[simp] theorem modRow_sentX (s : State) (r : Nat) (f : Row → Row) : (modRow s r f).sentX = s.sentX := rfl
@[simp] theorem modRow_links (s : State) (r : Nat) (f : Row → Row) : (modRow s r f).links = s.links := rfl
@[simp] theorem modRow_mesh (s : State) (r : Nat) (f : Row → Row) : (modRow s r f).mesh = s.mesh := rfl
@[simp] theorem modRow_noRoute (s : State) (r : Nat) (f : Row → Row) : (modRow s r f).noRoute = s.noRoute := rfl
@[simp] theorem modRow_pkts (s : State) (r : Nat) (f : Row → Row) : (modRow s r f).pkts = s.pkts := rfl
@[simp] theorem modRow_peerWin (s : State) (r : Nat) (f : Row → Row) : (modRow s r f).peerWin = s.peerWin := rfl
@[simp] theorem modRow_memStamp (s : State) (r : Nat) (f : Row → Row) : (modRow s r f).memStamp = s.memStamp := rfl
@[simp] theorem modRow_iommu (s : State) (r : Nat) (f : Row → Row) : (modRow s r f).iommu = s.iommu := rfl
@[simp] theorem modRow_walks (s : State) (r : Nat) (f : Row → Row) : (modRow s r f).walks = s.walks := rfl
@[simp] theorem modRow_markers (s : State) (r : Nat) (f : Row → Row) : (modRow s r f).markers = s.markers := rfl
@[simp] theorem modRow_imports (s : State) (r : Nat) (f : Row → Row) : (modRow s r f).imports = s.imports := rfl
@[simp] theorem modRow_peerId (s : State) (r : Nat) (f : Row → Row) : (modRow s r f).peerId = s.peerId := rfl
@[simp] theorem modRow_peerAnswer (s : State) (r : Nat) (f : Row → Row) : (modRow s r f).peerAnswer = s.peerAnswer := rfl
@[simp] theorem modRow_availRows (s : State) (r : Nat) (f : Row → Row) : (modRow s r f).availRows = s.availRows := rfl
@[simp] theorem modRow_plimit (s : State) (r : Nat) (f : Row → Row) : (modRow s r f).plimit = s.plimit := rfl
@[simp] theorem modRow_trip (s : State) (r : Nat) (f : Row → Row) : (modRow s r f).trip = s.trip := rfl
@[simp] theorem modRow_hot (s : State) (r : Nat) (f : Row → Row) : (modRow s r f).hot = s.hot := rfl
@[simp] theorem modRow_rwcmd (s : State) (r : Nat) (f : Row → Row) : (modRow s r f).rwcmd = s.rwcmd := rfl
@[simp] theorem modRow_rwbuf (s : State) (r : Nat) (f : Row → Row) : (modRow s r f).rwbuf = s.rwbuf := rfl
@[simp] theorem modRow_rwbusy (s : State) (r : Nat) (f : Row → Row) : (modRow s r f).rwbusy = s.rwbusy := rfl
@[simp] theorem modRow_rwcode (s : State) (r : Nat) (f : Row → Row) : (modRow s r f).rwcode = s.rwcode := rfl
@[simp] theorem modRow_pfMsix (s : State) (r : Nat) (f : Row → Row) : (modRow s r f).pfMsix = s.pfMsix := rfl
@[simp] theorem modRow_pfPend (s : State) (r : Nat) (f : Row → Row) : (modRow s r f).pfPend = s.pfPend := rfl
@[simp] theorem modRow_measured (s : State) (r : Nat) (f : Row → Row) : (modRow s r f).measured = s.measured := rfl
@[simp] theorem modRow_enumerated (s : State) (r : Nat) (f : Row → Row) : (modRow s r f).enumerated = s.enumerated := rfl
@[simp] theorem modRow_regAnswer (s : State) (r : Nat) (f : Row → Row) : (modRow s r f).regAnswer = s.regAnswer := rfl
@[simp] theorem modRow_keys (s : State) (r : Nat) (f : Row → Row) : (modRow s r f).keys = s.keys := rfl
@[simp] theorem modRow_confidential (s : State) (r : Nat) (f : Row → Row) : (modRow s r f).confidential = s.confidential := rfl
@[simp] theorem modRow_dbg (s : State) (r : Nat) (f : Row → Row) : (modRow s r f).dbg = s.dbg := rfl
@[simp] theorem modRow_loftF (s : State) (r : Nat) (f : Row → Row) : (modRow s r f).loftF = s.loftF := rfl
@[simp] theorem modRow_now (s : State) (r : Nat) (f : Row → Row) : (modRow s r f).now = s.now := rfl
@[simp] theorem modRow_fresh (s : State) (r : Nat) (f : Row → Row) : (modRow s r f).fresh = s.fresh := rfl
@[simp] theorem modRow_free (s : State) (r : Nat) (f : Row → Row) : (modRow s r f).free = s.free := rfl
@[simp] theorem modRow_agenda (s : State) (r : Nat) (f : Row → Row) : (modRow s r f).agenda = s.agenda := rfl
@[simp] theorem modRow_slowWalks (s : State) (r : Nat) (f : Row → Row) : (modRow s r f).slowWalks = s.slowWalks := rfl
@[simp] theorem modRow_turn (s : State) (r : Nat) (f : Row → Row) : (modRow s r f).turn = s.turn := rfl
@[simp] theorem modRow_curRow (s : State) (r : Nat) (f : Row → Row) : (modRow s r f).curRow = s.curRow := rfl
@[simp] theorem modRow_curSlot (s : State) (r : Nat) (f : Row → Row) : (modRow s r f).curSlot = s.curSlot := rfl

@[simp] theorem modPart_mem (s : State) (p : Nat) (f : Part → Part) : (modPart s p f).mem = s.mem := rfl
@[simp] theorem modPart_memPoison (s : State) (p : Nat) (f : Part → Part) : (modPart s p f).memPoison = s.memPoison := rfl
@[simp] theorem modPart_memKeys (s : State) (p : Nat) (f : Part → Part) : (modPart s p f).memKeys = s.memKeys := rfl
@[simp] theorem modPart_heads (s : State) (p : Nat) (f : Part → Part) : (modPart s p f).heads = s.heads := rfl
@[simp] theorem modPart_lanes (s : State) (p : Nat) (f : Part → Part) : (modPart s p f).lanes = s.lanes := rfl
@[simp] theorem modPart_cores (s : State) (p : Nat) (f : Part → Part) : (modPart s p f).cores = s.cores := rfl
@[simp] theorem modPart_rows (s : State) (p : Nat) (f : Part → Part) : (modPart s p f).rows = s.rows := rfl
@[simp] theorem modPart_vfs (s : State) (p : Nat) (f : Part → Part) : (modPart s p f).vfs = s.vfs := rfl
@[simp] theorem modPart_reqs (s : State) (p : Nat) (f : Part → Part) : (modPart s p f).reqs = s.reqs := rfl
@[simp] theorem modPart_msgs (s : State) (p : Nat) (f : Part → Part) : (modPart s p f).msgs = s.msgs := rfl
@[simp] theorem modPart_msgAt (s : State) (p : Nat) (f : Part → Part) : (modPart s p f).msgAt = s.msgAt := rfl
@[simp] theorem modPart_msgPkt (s : State) (p : Nat) (f : Part → Part) : (modPart s p f).msgPkt = s.msgPkt := rfl
@[simp] theorem modPart_reached (s : State) (p : Nat) (f : Part → Part) : (modPart s p f).reached = s.reached := rfl
@[simp] theorem modPart_dispensers (s : State) (p : Nat) (f : Part → Part) : (modPart s p f).dispensers = s.dispensers := rfl
@[simp] theorem modPart_subs (s : State) (p : Nat) (f : Part → Part) : (modPart s p f).subs = s.subs := rfl
@[simp] theorem modPart_joins (s : State) (p : Nat) (f : Part → Part) : (modPart s p f).joins = s.joins := rfl
@[simp] theorem modPart_tree (s : State) (p : Nat) (f : Part → Part) : (modPart s p f).tree = s.tree := rfl
@[simp] theorem modPart_sentX (s : State) (p : Nat) (f : Part → Part) : (modPart s p f).sentX = s.sentX := rfl
@[simp] theorem modPart_links (s : State) (p : Nat) (f : Part → Part) : (modPart s p f).links = s.links := rfl
@[simp] theorem modPart_mesh (s : State) (p : Nat) (f : Part → Part) : (modPart s p f).mesh = s.mesh := rfl
@[simp] theorem modPart_noRoute (s : State) (p : Nat) (f : Part → Part) : (modPart s p f).noRoute = s.noRoute := rfl
@[simp] theorem modPart_pkts (s : State) (p : Nat) (f : Part → Part) : (modPart s p f).pkts = s.pkts := rfl
@[simp] theorem modPart_peerWin (s : State) (p : Nat) (f : Part → Part) : (modPart s p f).peerWin = s.peerWin := rfl
@[simp] theorem modPart_memStamp (s : State) (p : Nat) (f : Part → Part) : (modPart s p f).memStamp = s.memStamp := rfl
@[simp] theorem modPart_iommu (s : State) (p : Nat) (f : Part → Part) : (modPart s p f).iommu = s.iommu := rfl
@[simp] theorem modPart_walks (s : State) (p : Nat) (f : Part → Part) : (modPart s p f).walks = s.walks := rfl
@[simp] theorem modPart_markers (s : State) (p : Nat) (f : Part → Part) : (modPart s p f).markers = s.markers := rfl
@[simp] theorem modPart_imports (s : State) (p : Nat) (f : Part → Part) : (modPart s p f).imports = s.imports := rfl
@[simp] theorem modPart_peerId (s : State) (p : Nat) (f : Part → Part) : (modPart s p f).peerId = s.peerId := rfl
@[simp] theorem modPart_peerAnswer (s : State) (p : Nat) (f : Part → Part) : (modPart s p f).peerAnswer = s.peerAnswer := rfl
@[simp] theorem modPart_availRows (s : State) (p : Nat) (f : Part → Part) : (modPart s p f).availRows = s.availRows := rfl
@[simp] theorem modPart_plimit (s : State) (p : Nat) (f : Part → Part) : (modPart s p f).plimit = s.plimit := rfl
@[simp] theorem modPart_trip (s : State) (p : Nat) (f : Part → Part) : (modPart s p f).trip = s.trip := rfl
@[simp] theorem modPart_hot (s : State) (p : Nat) (f : Part → Part) : (modPart s p f).hot = s.hot := rfl
@[simp] theorem modPart_rwcmd (s : State) (p : Nat) (f : Part → Part) : (modPart s p f).rwcmd = s.rwcmd := rfl
@[simp] theorem modPart_rwbuf (s : State) (p : Nat) (f : Part → Part) : (modPart s p f).rwbuf = s.rwbuf := rfl
@[simp] theorem modPart_rwbusy (s : State) (p : Nat) (f : Part → Part) : (modPart s p f).rwbusy = s.rwbusy := rfl
@[simp] theorem modPart_rwcode (s : State) (p : Nat) (f : Part → Part) : (modPart s p f).rwcode = s.rwcode := rfl
@[simp] theorem modPart_pfMsix (s : State) (p : Nat) (f : Part → Part) : (modPart s p f).pfMsix = s.pfMsix := rfl
@[simp] theorem modPart_pfPend (s : State) (p : Nat) (f : Part → Part) : (modPart s p f).pfPend = s.pfPend := rfl
@[simp] theorem modPart_measured (s : State) (p : Nat) (f : Part → Part) : (modPart s p f).measured = s.measured := rfl
@[simp] theorem modPart_enumerated (s : State) (p : Nat) (f : Part → Part) : (modPart s p f).enumerated = s.enumerated := rfl
@[simp] theorem modPart_regAnswer (s : State) (p : Nat) (f : Part → Part) : (modPart s p f).regAnswer = s.regAnswer := rfl
@[simp] theorem modPart_keys (s : State) (p : Nat) (f : Part → Part) : (modPart s p f).keys = s.keys := rfl
@[simp] theorem modPart_confidential (s : State) (p : Nat) (f : Part → Part) : (modPart s p f).confidential = s.confidential := rfl
@[simp] theorem modPart_dbg (s : State) (p : Nat) (f : Part → Part) : (modPart s p f).dbg = s.dbg := rfl
@[simp] theorem modPart_loftF (s : State) (p : Nat) (f : Part → Part) : (modPart s p f).loftF = s.loftF := rfl
@[simp] theorem modPart_now (s : State) (p : Nat) (f : Part → Part) : (modPart s p f).now = s.now := rfl
@[simp] theorem modPart_fresh (s : State) (p : Nat) (f : Part → Part) : (modPart s p f).fresh = s.fresh := rfl
@[simp] theorem modPart_free (s : State) (p : Nat) (f : Part → Part) : (modPart s p f).free = s.free := rfl
@[simp] theorem modPart_agenda (s : State) (p : Nat) (f : Part → Part) : (modPart s p f).agenda = s.agenda := rfl
@[simp] theorem modPart_slowWalks (s : State) (p : Nat) (f : Part → Part) : (modPart s p f).slowWalks = s.slowWalks := rfl
@[simp] theorem modPart_turn (s : State) (p : Nat) (f : Part → Part) : (modPart s p f).turn = s.turn := rfl
@[simp] theorem modPart_curRow (s : State) (p : Nat) (f : Part → Part) : (modPart s p f).curRow = s.curRow := rfl
@[simp] theorem modPart_curSlot (s : State) (p : Nat) (f : Part → Part) : (modPart s p f).curSlot = s.curSlot := rfl

@[simp] theorem modVf_mem (s : State) (n : Nat) (f : Vf → Vf) : (modVf s n f).mem = s.mem := rfl
@[simp] theorem modVf_memPoison (s : State) (n : Nat) (f : Vf → Vf) : (modVf s n f).memPoison = s.memPoison := rfl
@[simp] theorem modVf_memKeys (s : State) (n : Nat) (f : Vf → Vf) : (modVf s n f).memKeys = s.memKeys := rfl
@[simp] theorem modVf_heads (s : State) (n : Nat) (f : Vf → Vf) : (modVf s n f).heads = s.heads := rfl
@[simp] theorem modVf_lanes (s : State) (n : Nat) (f : Vf → Vf) : (modVf s n f).lanes = s.lanes := rfl
@[simp] theorem modVf_cores (s : State) (n : Nat) (f : Vf → Vf) : (modVf s n f).cores = s.cores := rfl
@[simp] theorem modVf_rows (s : State) (n : Nat) (f : Vf → Vf) : (modVf s n f).rows = s.rows := rfl
@[simp] theorem modVf_parts (s : State) (n : Nat) (f : Vf → Vf) : (modVf s n f).parts = s.parts := rfl
@[simp] theorem modVf_reqs (s : State) (n : Nat) (f : Vf → Vf) : (modVf s n f).reqs = s.reqs := rfl
@[simp] theorem modVf_msgs (s : State) (n : Nat) (f : Vf → Vf) : (modVf s n f).msgs = s.msgs := rfl
@[simp] theorem modVf_msgAt (s : State) (n : Nat) (f : Vf → Vf) : (modVf s n f).msgAt = s.msgAt := rfl
@[simp] theorem modVf_msgPkt (s : State) (n : Nat) (f : Vf → Vf) : (modVf s n f).msgPkt = s.msgPkt := rfl
@[simp] theorem modVf_reached (s : State) (n : Nat) (f : Vf → Vf) : (modVf s n f).reached = s.reached := rfl
@[simp] theorem modVf_dispensers (s : State) (n : Nat) (f : Vf → Vf) : (modVf s n f).dispensers = s.dispensers := rfl
@[simp] theorem modVf_subs (s : State) (n : Nat) (f : Vf → Vf) : (modVf s n f).subs = s.subs := rfl
@[simp] theorem modVf_joins (s : State) (n : Nat) (f : Vf → Vf) : (modVf s n f).joins = s.joins := rfl
@[simp] theorem modVf_tree (s : State) (n : Nat) (f : Vf → Vf) : (modVf s n f).tree = s.tree := rfl
@[simp] theorem modVf_sentX (s : State) (n : Nat) (f : Vf → Vf) : (modVf s n f).sentX = s.sentX := rfl
@[simp] theorem modVf_links (s : State) (n : Nat) (f : Vf → Vf) : (modVf s n f).links = s.links := rfl
@[simp] theorem modVf_mesh (s : State) (n : Nat) (f : Vf → Vf) : (modVf s n f).mesh = s.mesh := rfl
@[simp] theorem modVf_noRoute (s : State) (n : Nat) (f : Vf → Vf) : (modVf s n f).noRoute = s.noRoute := rfl
@[simp] theorem modVf_pkts (s : State) (n : Nat) (f : Vf → Vf) : (modVf s n f).pkts = s.pkts := rfl
@[simp] theorem modVf_peerWin (s : State) (n : Nat) (f : Vf → Vf) : (modVf s n f).peerWin = s.peerWin := rfl
@[simp] theorem modVf_memStamp (s : State) (n : Nat) (f : Vf → Vf) : (modVf s n f).memStamp = s.memStamp := rfl
@[simp] theorem modVf_iommu (s : State) (n : Nat) (f : Vf → Vf) : (modVf s n f).iommu = s.iommu := rfl
@[simp] theorem modVf_walks (s : State) (n : Nat) (f : Vf → Vf) : (modVf s n f).walks = s.walks := rfl
@[simp] theorem modVf_markers (s : State) (n : Nat) (f : Vf → Vf) : (modVf s n f).markers = s.markers := rfl
@[simp] theorem modVf_imports (s : State) (n : Nat) (f : Vf → Vf) : (modVf s n f).imports = s.imports := rfl
@[simp] theorem modVf_peerId (s : State) (n : Nat) (f : Vf → Vf) : (modVf s n f).peerId = s.peerId := rfl
@[simp] theorem modVf_peerAnswer (s : State) (n : Nat) (f : Vf → Vf) : (modVf s n f).peerAnswer = s.peerAnswer := rfl
@[simp] theorem modVf_availRows (s : State) (n : Nat) (f : Vf → Vf) : (modVf s n f).availRows = s.availRows := rfl
@[simp] theorem modVf_plimit (s : State) (n : Nat) (f : Vf → Vf) : (modVf s n f).plimit = s.plimit := rfl
@[simp] theorem modVf_trip (s : State) (n : Nat) (f : Vf → Vf) : (modVf s n f).trip = s.trip := rfl
@[simp] theorem modVf_hot (s : State) (n : Nat) (f : Vf → Vf) : (modVf s n f).hot = s.hot := rfl
@[simp] theorem modVf_rwcmd (s : State) (n : Nat) (f : Vf → Vf) : (modVf s n f).rwcmd = s.rwcmd := rfl
@[simp] theorem modVf_rwbuf (s : State) (n : Nat) (f : Vf → Vf) : (modVf s n f).rwbuf = s.rwbuf := rfl
@[simp] theorem modVf_rwbusy (s : State) (n : Nat) (f : Vf → Vf) : (modVf s n f).rwbusy = s.rwbusy := rfl
@[simp] theorem modVf_rwcode (s : State) (n : Nat) (f : Vf → Vf) : (modVf s n f).rwcode = s.rwcode := rfl
@[simp] theorem modVf_pfMsix (s : State) (n : Nat) (f : Vf → Vf) : (modVf s n f).pfMsix = s.pfMsix := rfl
@[simp] theorem modVf_pfPend (s : State) (n : Nat) (f : Vf → Vf) : (modVf s n f).pfPend = s.pfPend := rfl
@[simp] theorem modVf_measured (s : State) (n : Nat) (f : Vf → Vf) : (modVf s n f).measured = s.measured := rfl
@[simp] theorem modVf_enumerated (s : State) (n : Nat) (f : Vf → Vf) : (modVf s n f).enumerated = s.enumerated := rfl
@[simp] theorem modVf_regAnswer (s : State) (n : Nat) (f : Vf → Vf) : (modVf s n f).regAnswer = s.regAnswer := rfl
@[simp] theorem modVf_keys (s : State) (n : Nat) (f : Vf → Vf) : (modVf s n f).keys = s.keys := rfl
@[simp] theorem modVf_confidential (s : State) (n : Nat) (f : Vf → Vf) : (modVf s n f).confidential = s.confidential := rfl
@[simp] theorem modVf_dbg (s : State) (n : Nat) (f : Vf → Vf) : (modVf s n f).dbg = s.dbg := rfl
@[simp] theorem modVf_loftF (s : State) (n : Nat) (f : Vf → Vf) : (modVf s n f).loftF = s.loftF := rfl
@[simp] theorem modVf_now (s : State) (n : Nat) (f : Vf → Vf) : (modVf s n f).now = s.now := rfl
@[simp] theorem modVf_fresh (s : State) (n : Nat) (f : Vf → Vf) : (modVf s n f).fresh = s.fresh := rfl
@[simp] theorem modVf_free (s : State) (n : Nat) (f : Vf → Vf) : (modVf s n f).free = s.free := rfl
@[simp] theorem modVf_agenda (s : State) (n : Nat) (f : Vf → Vf) : (modVf s n f).agenda = s.agenda := rfl
@[simp] theorem modVf_slowWalks (s : State) (n : Nat) (f : Vf → Vf) : (modVf s n f).slowWalks = s.slowWalks := rfl
@[simp] theorem modVf_turn (s : State) (n : Nat) (f : Vf → Vf) : (modVf s n f).turn = s.turn := rfl
@[simp] theorem modVf_curRow (s : State) (n : Nat) (f : Vf → Vf) : (modVf s n f).curRow = s.curRow := rfl
@[simp] theorem modVf_curSlot (s : State) (n : Nat) (f : Vf → Vf) : (modVf s n f).curSlot = s.curSlot := rfl

/-! The fields that a register write keeps. -/

@[simp] theorem wrH_task (h : Head) (n : BitVec 4) (x : Word) : (wrH h n x).task = h.task := by unfold wrH; split <;> rfl
@[simp] theorem wrH_pc (h : Head) (n : BitVec 4) (x : Word) : (wrH h n x).pc = h.pc := by unfold wrH; split <;> rfl
@[simp] theorem wrH_tailQ (h : Head) (n : BitVec 4) (x : Word) : (wrH h n x).tailQ = h.tailQ := by unfold wrH; split <;> rfl
@[simp] theorem wrH_mailbox (h : Head) (n : BitVec 4) (x : Word) : (wrH h n x).mailbox = h.mailbox := by unfold wrH; split <;> rfl
@[simp] theorem wrH_handler (h : Head) (n : BitVec 4) (x : Word) : (wrH h n x).handler = h.handler := by unfold wrH; split <;> rfl
@[simp] theorem wrH_stepMode (h : Head) (n : BitVec 4) (x : Word) : (wrH h n x).stepMode = h.stepMode := by unfold wrH; split <;> rfl
@[simp] theorem wrH_pp (h : Head) (n : BitVec 4) (x : Word) : (wrH h n x).pp = h.pp := by unfold wrH; split <;> rfl
@[simp] theorem wrH_drm (h : Head) (n : BitVec 4) (x : Word) : (wrH h n x).drm = h.drm := by unfold wrH; split <;> rfl
@[simp] theorem wrH_fsum (h : Head) (n : BitVec 4) (x : Word) : (wrH h n x).fsum = h.fsum := by unfold wrH; split <;> rfl
@[simp] theorem wrH_pxs (h : Head) (n : BitVec 4) (x : Word) : (wrH h n x).pxs = h.pxs := by unfold wrH; split <;> rfl
@[simp] theorem wrH_tvec (h : Head) (n : BitVec 4) (x : Word) : (wrH h n x).tvec = h.tvec := by unfold wrH; split <;> rfl
@[simp] theorem wrH_tcause (h : Head) (n : BitVec 4) (x : Word) : (wrH h n x).tcause = h.tcause := by unfold wrH; split <;> rfl
@[simp] theorem wrH_tval (h : Head) (n : BitVec 4) (x : Word) : (wrH h n x).tval = h.tval := by unfold wrH; split <;> rfl
@[simp] theorem wrH_tpc (h : Head) (n : BitVec 4) (x : Word) : (wrH h n x).tpc = h.tpc := by unfold wrH; split <;> rfl
@[simp] theorem wrH_regpc (h : Head) (n : BitVec 4) (x : Word) : (wrH h n x).regpc = h.regpc := by unfold wrH; split <;> rfl
@[simp] theorem wrH_mstatus (h : Head) (n : BitVec 4) (x : Word) : (wrH h n x).mstatus = h.mstatus := by unfold wrH; split <;> rfl
@[simp] theorem wrH_bka (h : Head) (n : BitVec 4) (x : Word) : (wrH h n x).bka = h.bka := by unfold wrH; split <;> rfl
@[simp] theorem wrH_loopc (h : Head) (n : BitVec 4) (x : Word) : (wrH h n x).loopc = h.loopc := by unfold wrH; split <;> rfl
@[simp] theorem wrH_loops (h : Head) (n : BitVec 4) (x : Word) : (wrH h n x).loops = h.loops := by unfold wrH; split <;> rfl
@[simp] theorem wrH_loope (h : Head) (n : BitVec 4) (x : Word) : (wrH h n x).loope = h.loope := by unfold wrH; split <;> rfl
@[simp] theorem wrH_rloopc (h : Head) (n : BitVec 4) (x : Word) : (wrH h n x).rloopc = h.rloopc := by unfold wrH; split <;> rfl
@[simp] theorem wrH_rloops (h : Head) (n : BitVec 4) (x : Word) : (wrH h n x).rloops = h.rloops := by unfold wrH; split <;> rfl
@[simp] theorem wrH_rloope (h : Head) (n : BitVec 4) (x : Word) : (wrH h n x).rloope = h.rloope := by unfold wrH; split <;> rfl
@[simp] theorem wrH_hsave0 (h : Head) (n : BitVec 4) (x : Word) : (wrH h n x).hsave0 = h.hsave0 := by unfold wrH; split <;> rfl
@[simp] theorem wrH_hsave1 (h : Head) (n : BitVec 4) (x : Word) : (wrH h n x).hsave1 = h.hsave1 := by unfold wrH; split <;> rfl
@[simp] theorem wrH_cycles (h : Head) (n : BitVec 4) (x : Word) : (wrH h n x).cycles = h.cycles := by unfold wrH; split <;> rfl
@[simp] theorem wrH_placedAt (h : Head) (n : BitVec 4) (x : Word) : (wrH h n x).placedAt = h.placedAt := by unfold wrH; split <;> rfl
@[simp] theorem wrH_pend (h : Head) (n : BitVec 4) (x : Word) : (wrH h n x).pend = h.pend := by unfold wrH; split <;> rfl
@[simp] theorem wrH_skipBreak (h : Head) (n : BitVec 4) (x : Word) : (wrH h n x).skipBreak = h.skipBreak := by unfold wrH; split <;> rfl
@[simp] theorem wrH_stepDue (h : Head) (n : BitVec 4) (x : Word) : (wrH h n x).stepDue = h.stepDue := by unfold wrH; split <;> rfl
@[simp] theorem wrH_flights (h : Head) (n : BitVec 4) (x : Word) : (wrH h n x).flights = h.flights := by unfold wrH; split <;> rfl
@[simp] theorem wrH_commit (h : Head) (n : BitVec 4) (x : Word) : (wrH h n x).commit = h.commit := by unfold wrH; split <;> rfl
@[simp] theorem wrH_wait (h : Head) (n : BitVec 4) (x : Word) : (wrH h n x).wait = h.wait := by unfold wrH; split <;> rfl
@[simp] theorem wrH_why (h : Head) (n : BitVec 4) (x : Word) : (wrH h n x).why = h.why := by unfold wrH; split <;> rfl
@[simp] theorem wrH_since (h : Head) (n : BitVec 4) (x : Word) : (wrH h n x).since = h.since := by unfold wrH; split <;> rfl
@[simp] theorem wrH_region (h : Head) (n : BitVec 4) (x : Word) : (wrH h n x).region = h.region := by unfold wrH; split <;> rfl
@[simp] theorem wrH_detSeq (h : Head) (n : BitVec 4) (x : Word) : (wrH h n x).detSeq = h.detSeq := by unfold wrH; split <;> rfl
@[simp] theorem wrH_events (h : Head) (n : BitVec 4) (x : Word) : (wrH h n x).events = h.events := by unfold wrH; split <;> rfl
@[simp] theorem wrH_stamp (h : Head) (n : BitVec 4) (x : Word) : (wrH h n x).stamp = h.stamp := by unfold wrH; split <;> rfl
@[simp] theorem wrH_hold (h : Head) (n : BitVec 4) (x : Word) : (wrH h n x).hold = h.hold := by unfold wrH; split <;> rfl
@[simp] theorem wrH_stall (h : Head) (n : BitVec 4) (x : Word) : (wrH h n x).stall = h.stall := by unfold wrH; split <;> rfl

@[simp] theorem wrG_v (l : Lane) (n : BitVec 5) (x : Word) : (wrG l n x).v = l.v := by unfold wrG; split <;> rfl
@[simp] theorem wrG_vFill (l : Lane) (n : BitVec 5) (x : Word) : (wrG l n x).vFill = l.vFill := by unfold wrG; split <;> rfl
@[simp] theorem wrG_m (l : Lane) (n : BitVec 5) (x : Word) : (wrG l n x).m = l.m := by unfold wrG; split <;> rfl
@[simp] theorem wrG_estat (l : Lane) (n : BitVec 5) (x : Word) : (wrG l n x).estat = l.estat := by unfold wrG; split <;> rfl
@[simp] theorem wrG_land (l : Lane) (n : BitVec 5) (x : Word) : (wrG l n x).land = l.land := by unfold wrG; split <;> rfl
@[simp] theorem wrG_claims (l : Lane) (n : BitVec 5) (x : Word) : (wrG l n x).claims = l.claims := by unfold wrG; split <;> rfl
@[simp] theorem wrG_rings (l : Lane) (n : BitVec 5) (x : Word) : (wrG l n x).rings = l.rings := by unfold wrG; split <;> rfl
@[simp] theorem wrG_recs (l : Lane) (n : BitVec 5) (x : Word) : (wrG l n x).recs = l.recs := by unfold wrG; split <;> rfl
@[simp] theorem wrG_dropped (l : Lane) (n : BitVec 5) (x : Word) : (wrG l n x).dropped = l.dropped := by unfold wrG; split <;> rfl
@[simp] theorem wrG_retry (l : Lane) (n : BitVec 5) (x : Word) : (wrG l n x).retry = l.retry := by unfold wrG; split <;> rfl
@[simp] theorem wrG_openCopies (l : Lane) (n : BitVec 5) (x : Word) : (wrG l n x).openCopies = l.openCopies := by unfold wrG; split <;> rfl
@[simp] theorem wrG_batches (l : Lane) (n : BitVec 5) (x : Word) : (wrG l n x).batches = l.batches := by unfold wrG; split <;> rfl
@[simp] theorem wrG_touched (l : Lane) (n : BitVec 5) (x : Word) : (wrG l n x).touched = l.touched := by unfold wrG; split <;> rfl
@[simp] theorem wrG_pass (l : Lane) (n : BitVec 5) (x : Word) : (wrG l n x).pass = l.pass := by unfold wrG; split <;> rfl
@[simp] theorem wrG_after (l : Lane) (n : BitVec 5) (x : Word) : (wrG l n x).after = l.after := by unfold wrG; split <;> rfl
@[simp] theorem wrG_arrivals (l : Lane) (n : BitVec 5) (x : Word) : (wrG l n x).arrivals = l.arrivals := by unfold wrG; split <;> rfl
@[simp] theorem wrG_drains (l : Lane) (n : BitVec 5) (x : Word) : (wrG l n x).drains = l.drains := by unfold wrG; split <;> rfl
@[simp] theorem wrG_pressDone (l : Lane) (n : BitVec 5) (x : Word) : (wrG l n x).pressDone = l.pressDone := by unfold wrG; split <;> rfl
@[simp] theorem wrG_events (l : Lane) (n : BitVec 5) (x : Word) : (wrG l n x).events = l.events := by unfold wrG; split <;> rfl
@[simp] theorem wrG_vecUntil (l : Lane) (n : BitVec 5) (x : Word) : (wrG l n x).vecUntil = l.vecUntil := by unfold wrG; split <;> rfl
@[simp] theorem wrG_stamp (l : Lane) (n : BitVec 5) (x : Word) : (wrG l n x).stamp = l.stamp := by unfold wrG; split <;> rfl
@[simp] theorem wrG_hold (l : Lane) (n : BitVec 5) (x : Word) : (wrG l n x).hold = l.hold := by unfold wrG; split <;> rfl

@[simp] theorem wrV_g (l : Lane) (n : BitVec 5) (x : Vec) : (wrV l n x).g = l.g := rfl
@[simp] theorem wrV_gFill (l : Lane) (n : BitVec 5) (x : Vec) : (wrV l n x).gFill = l.gFill := rfl
@[simp] theorem wrV_m (l : Lane) (n : BitVec 5) (x : Vec) : (wrV l n x).m = l.m := rfl
@[simp] theorem wrV_estat (l : Lane) (n : BitVec 5) (x : Vec) : (wrV l n x).estat = l.estat := rfl
@[simp] theorem wrV_land (l : Lane) (n : BitVec 5) (x : Vec) : (wrV l n x).land = l.land := rfl
@[simp] theorem wrV_claims (l : Lane) (n : BitVec 5) (x : Vec) : (wrV l n x).claims = l.claims := rfl
@[simp] theorem wrV_rings (l : Lane) (n : BitVec 5) (x : Vec) : (wrV l n x).rings = l.rings := rfl
@[simp] theorem wrV_recs (l : Lane) (n : BitVec 5) (x : Vec) : (wrV l n x).recs = l.recs := rfl
@[simp] theorem wrV_dropped (l : Lane) (n : BitVec 5) (x : Vec) : (wrV l n x).dropped = l.dropped := rfl
@[simp] theorem wrV_retry (l : Lane) (n : BitVec 5) (x : Vec) : (wrV l n x).retry = l.retry := rfl
@[simp] theorem wrV_openCopies (l : Lane) (n : BitVec 5) (x : Vec) : (wrV l n x).openCopies = l.openCopies := rfl
@[simp] theorem wrV_batches (l : Lane) (n : BitVec 5) (x : Vec) : (wrV l n x).batches = l.batches := rfl
@[simp] theorem wrV_touched (l : Lane) (n : BitVec 5) (x : Vec) : (wrV l n x).touched = l.touched := rfl
@[simp] theorem wrV_pass (l : Lane) (n : BitVec 5) (x : Vec) : (wrV l n x).pass = l.pass := rfl
@[simp] theorem wrV_after (l : Lane) (n : BitVec 5) (x : Vec) : (wrV l n x).after = l.after := rfl
@[simp] theorem wrV_arrivals (l : Lane) (n : BitVec 5) (x : Vec) : (wrV l n x).arrivals = l.arrivals := rfl
@[simp] theorem wrV_drains (l : Lane) (n : BitVec 5) (x : Vec) : (wrV l n x).drains = l.drains := rfl
@[simp] theorem wrV_pressDone (l : Lane) (n : BitVec 5) (x : Vec) : (wrV l n x).pressDone = l.pressDone := rfl
@[simp] theorem wrV_events (l : Lane) (n : BitVec 5) (x : Vec) : (wrV l n x).events = l.events := rfl
@[simp] theorem wrV_vecUntil (l : Lane) (n : BitVec 5) (x : Vec) : (wrV l n x).vecUntil = l.vecUntil := rfl
@[simp] theorem wrV_stamp (l : Lane) (n : BitVec 5) (x : Vec) : (wrV l n x).stamp = l.stamp := rfl
@[simp] theorem wrV_hold (l : Lane) (n : BitVec 5) (x : Vec) : (wrV l n x).hold = l.hold := rfl
@[simp] theorem wrV_poison (l : Lane) (n : BitVec 5) (x : Vec) : (wrV l n x).poison = l.poison := rfl

@[simp] theorem wrM_g (l : Lane) (n : BitVec 3) (x : Mask) : (wrM l n x).g = l.g := by unfold wrM; split <;> rfl
@[simp] theorem wrM_gFill (l : Lane) (n : BitVec 3) (x : Mask) : (wrM l n x).gFill = l.gFill := by unfold wrM; split <;> rfl
@[simp] theorem wrM_v (l : Lane) (n : BitVec 3) (x : Mask) : (wrM l n x).v = l.v := by unfold wrM; split <;> rfl
@[simp] theorem wrM_vFill (l : Lane) (n : BitVec 3) (x : Mask) : (wrM l n x).vFill = l.vFill := by unfold wrM; split <;> rfl
@[simp] theorem wrM_estat (l : Lane) (n : BitVec 3) (x : Mask) : (wrM l n x).estat = l.estat := by unfold wrM; split <;> rfl
@[simp] theorem wrM_land (l : Lane) (n : BitVec 3) (x : Mask) : (wrM l n x).land = l.land := by unfold wrM; split <;> rfl
@[simp] theorem wrM_claims (l : Lane) (n : BitVec 3) (x : Mask) : (wrM l n x).claims = l.claims := by unfold wrM; split <;> rfl
@[simp] theorem wrM_rings (l : Lane) (n : BitVec 3) (x : Mask) : (wrM l n x).rings = l.rings := by unfold wrM; split <;> rfl
@[simp] theorem wrM_recs (l : Lane) (n : BitVec 3) (x : Mask) : (wrM l n x).recs = l.recs := by unfold wrM; split <;> rfl
@[simp] theorem wrM_dropped (l : Lane) (n : BitVec 3) (x : Mask) : (wrM l n x).dropped = l.dropped := by unfold wrM; split <;> rfl
@[simp] theorem wrM_retry (l : Lane) (n : BitVec 3) (x : Mask) : (wrM l n x).retry = l.retry := by unfold wrM; split <;> rfl
@[simp] theorem wrM_openCopies (l : Lane) (n : BitVec 3) (x : Mask) : (wrM l n x).openCopies = l.openCopies := by unfold wrM; split <;> rfl
@[simp] theorem wrM_batches (l : Lane) (n : BitVec 3) (x : Mask) : (wrM l n x).batches = l.batches := by unfold wrM; split <;> rfl
@[simp] theorem wrM_touched (l : Lane) (n : BitVec 3) (x : Mask) : (wrM l n x).touched = l.touched := by unfold wrM; split <;> rfl
@[simp] theorem wrM_pass (l : Lane) (n : BitVec 3) (x : Mask) : (wrM l n x).pass = l.pass := by unfold wrM; split <;> rfl
@[simp] theorem wrM_after (l : Lane) (n : BitVec 3) (x : Mask) : (wrM l n x).after = l.after := by unfold wrM; split <;> rfl
@[simp] theorem wrM_arrivals (l : Lane) (n : BitVec 3) (x : Mask) : (wrM l n x).arrivals = l.arrivals := by unfold wrM; split <;> rfl
@[simp] theorem wrM_drains (l : Lane) (n : BitVec 3) (x : Mask) : (wrM l n x).drains = l.drains := by unfold wrM; split <;> rfl
@[simp] theorem wrM_pressDone (l : Lane) (n : BitVec 3) (x : Mask) : (wrM l n x).pressDone = l.pressDone := by unfold wrM; split <;> rfl
@[simp] theorem wrM_events (l : Lane) (n : BitVec 3) (x : Mask) : (wrM l n x).events = l.events := by unfold wrM; split <;> rfl
@[simp] theorem wrM_vecUntil (l : Lane) (n : BitVec 3) (x : Mask) : (wrM l n x).vecUntil = l.vecUntil := by unfold wrM; split <;> rfl
@[simp] theorem wrM_stamp (l : Lane) (n : BitVec 3) (x : Mask) : (wrM l n x).stamp = l.stamp := by unfold wrM; split <;> rfl
@[simp] theorem wrM_hold (l : Lane) (n : BitVec 3) (x : Mask) : (wrM l n x).hold = l.hold := by unfold wrM; split <;> rfl

@[simp] theorem orFlags_g (l : Lane) (f : Fl) : (orFlags l f).g = l.g := rfl
@[simp] theorem orFlags_gFill (l : Lane) (f : Fl) : (orFlags l f).gFill = l.gFill := rfl
@[simp] theorem orFlags_v (l : Lane) (f : Fl) : (orFlags l f).v = l.v := rfl
@[simp] theorem orFlags_vFill (l : Lane) (f : Fl) : (orFlags l f).vFill = l.vFill := rfl
@[simp] theorem orFlags_m (l : Lane) (f : Fl) : (orFlags l f).m = l.m := rfl
@[simp] theorem orFlags_land (l : Lane) (f : Fl) : (orFlags l f).land = l.land := rfl
@[simp] theorem orFlags_claims (l : Lane) (f : Fl) : (orFlags l f).claims = l.claims := rfl
@[simp] theorem orFlags_rings (l : Lane) (f : Fl) : (orFlags l f).rings = l.rings := rfl
@[simp] theorem orFlags_recs (l : Lane) (f : Fl) : (orFlags l f).recs = l.recs := rfl
@[simp] theorem orFlags_dropped (l : Lane) (f : Fl) : (orFlags l f).dropped = l.dropped := rfl
@[simp] theorem orFlags_retry (l : Lane) (f : Fl) : (orFlags l f).retry = l.retry := rfl
@[simp] theorem orFlags_openCopies (l : Lane) (f : Fl) : (orFlags l f).openCopies = l.openCopies := rfl
@[simp] theorem orFlags_batches (l : Lane) (f : Fl) : (orFlags l f).batches = l.batches := rfl
@[simp] theorem orFlags_touched (l : Lane) (f : Fl) : (orFlags l f).touched = l.touched := rfl
@[simp] theorem orFlags_pass (l : Lane) (f : Fl) : (orFlags l f).pass = l.pass := rfl
@[simp] theorem orFlags_after (l : Lane) (f : Fl) : (orFlags l f).after = l.after := rfl
@[simp] theorem orFlags_arrivals (l : Lane) (f : Fl) : (orFlags l f).arrivals = l.arrivals := rfl
@[simp] theorem orFlags_drains (l : Lane) (f : Fl) : (orFlags l f).drains = l.drains := rfl
@[simp] theorem orFlags_pressDone (l : Lane) (f : Fl) : (orFlags l f).pressDone = l.pressDone := rfl
@[simp] theorem orFlags_events (l : Lane) (f : Fl) : (orFlags l f).events = l.events := rfl
@[simp] theorem orFlags_vecUntil (l : Lane) (f : Fl) : (orFlags l f).vecUntil = l.vecUntil := rfl
@[simp] theorem orFlags_stamp (l : Lane) (f : Fl) : (orFlags l f).stamp = l.stamp := rfl
@[simp] theorem orFlags_hold (l : Lane) (f : Fl) : (orFlags l f).hold = l.hold := rfl
@[simp] theorem orFlags_poison (l : Lane) (f : Fl) : (orFlags l f).poison = l.poison := rfl

end Sys2Proof.Machine
end

