-- ==== Sys2Proof/Laws/Head.lean ====
section
/-! SUPPORT. What the shared operations of the head instructions come to for a strand that is ready. -/

namespace Sys2Proof.Machine

theorem headPoison_none {h : Head} {as : List (BitVec 4)} (hp : ∀ a ∈ as, hSound h a) : headPoison h (as.map (·.toNat)) = none := by
  unfold headPoison
  rw [Option.map_eq_none_iff, List.find?_eq_none]
  intro n hn
  obtain ⟨a, ha, rfl⟩ := List.mem_map.1 hn
  rcases hp a ha with h | h
  · subst h; simp
  · simp [h]
theorem headInstr_ready {s : State} {as : List (BitVec 4)} (hr : HeadReady s as) (i : Instr) (k) (hw : i.wellFormed = true) :
    headInstr i (as.map (·.toNat)) k s = k s.curRow s.curSlot (me s) := by
  obtain ⟨hc, hwt, hp, hs⟩ := hr
  have hc' : (getHead s s.curRow s.curSlot).commit = none := hc
  have hw' : (getHead s s.curRow s.curSlot).wait = .no := hwt
  have hp' : (getHead s s.curRow s.curSlot).pend = none := hp
  have hps : headPoison (getHead s s.curRow s.curSlot) (as.map (·.toNat)) = none := headPoison_none hs
  simp only [headInstr, here, hc', hw', hp', hps, hw]
  rfl
theorem headNext_goOn (h : Head) : headNext h = goOn h := by
  have e : (!h.handler && h.loopc != 0 && wordOfAddr (h.pc + 4) == h.loope) = atLoopEnd h := rfl
  unfold headNext seqNext goOn
  dsimp only
  rw [e]
  by_cases c : atLoopEnd h = true
  · by_cases d : 1 < h.loopc.toNat
    · simp [finishHead, c, d, addrOfWord, loopHealed]
    · have : h.loopc - 1 = 0 := by
        have hz : h.loopc ≠ 0 := by unfold atLoopEnd at c; simp at c; exact c.1.2
        have : h.loopc.toNat ≠ 0 := fun e => hz (BitVec.eq_of_toNat_eq e)
        apply BitVec.eq_of_toNat_eq
        have : h.loopc = 1 := BitVec.eq_of_toNat_eq (by simp; omega)
        simp [this]
      simpa [finishHead, endLoop, c, d, loopHealed] using this.symm
  · simp [finishHead, c, loopHealed]
theorem leavesLoop_eq (h : Head) (t : VAddr) :
    (!h.handler && h.loopc != 0 && !(decide (h.loops.toNat ≤ t.toNat) && decide (t.toNat < h.loope.toNat))) = leavesLoop h t := by
  unfold leavesLoop
  rw [Bool.not_and, ← decide_not, ← decide_not]
  simp only [Nat.not_le, Nat.not_lt]
theorem headJump_goTo (h : Head) (t : VAddr) : finishHead (jumpTo h t) = goTo h t := by
  unfold jumpTo goTo
  rw [leavesLoop_eq]
  split <;> rename_i c <;> simp [finishHead, endLoop, c, loopHealed]
theorem headAlu_ready {s : State} {d a b : BitVec 4} (hr : HeadReady s [a, b]) (i : Instr) (f) (hw : i.wellFormed = true) :
    (.next (headAlu i d a b f s) : Out) = headEnds s d (f (rdH (me s) a) (rdH (me s) b)) := by
  unfold headAlu headEnds
  rw [show [a.toNat, b.toNat] = [a, b].map (·.toNat) from rfl, headInstr_ready hr _ _ hw]
  simp only [headDone, headNext_goOn]
  rfl
theorem headImm_ready {s : State} {d a : BitVec 4} (hr : HeadReady s [a]) (i : Instr) (f) (hw : i.wellFormed = true) :
    (.next (headImm i d a f s) : Out) = headEnds s d (f (rdH (me s) a)) := by
  unfold headImm headEnds
  rw [show [a.toNat] = [a].map (·.toNat) from rfl, headInstr_ready hr _ _ hw]
  simp only [headDone, headNext_goOn]
  rfl
theorem ofInt_toInt_eq (x : Word) : BitVec.ofInt 64 x.toInt = x := BitVec.ofInt_toInt

/-- The head after a lane instruction has gone through the row: the same as after a head instruction. -/
theorem seqNext_goOn (h : Head) (fs gs : List Flight) (hw : h.wait = .no) :
    { seqNext { h with flights := fs, why := 0, stepDue := h.stepMode && !h.handler } with flights := gs } =
      { goOn h with flights := gs } := by
  rw [← headNext_goOn]
  unfold headNext finishHead seqNext
  dsimp only
  split
  · split <;> simp [hw, endLoop]
  · simp [hw]

end Sys2Proof.Machine
end

