-- ==== Sys2Proof/Laws/Trap.lean ====
section
/-! SUPPORT. What taking a trap at task level comes to, and small facts of the head instructions that trap. -/

namespace Sys2Proof.Machine

/-- What a trap does to a strand's lanes: cores and lanes change, each listed column's lane drops its traps that lose, the others stay. -/
theorem trapCols_form (r sl : Nat) (hs : sl < 8) : ∀ l : List Nat, (∀ c ∈ l, c < 16) → ∀ s : State,
    (∃ ks ls, l.foldl (trapCol r sl) s = { s with cores := ks, lanes := ls }) ∧
    (∀ c ∈ l, getLane (l.foldl (trapCol r sl) s) r c sl = dropTraps (getLane s r c sl)) ∧
    (∀ r' c' sl', c' < 16 → sl' < 8 → ¬ (r' = r ∧ sl' = sl ∧ c' ∈ l) →
      getLane (l.foldl (trapCol r sl) s) r' c' sl' = getLane s r' c' sl') := by
  intro l
  induction l with
  | nil => intro _ s; exact ⟨⟨_, _, rfl⟩, by simp, fun _ _ _ _ _ _ => rfl⟩
  | cons a l ih =>
    intro hl s
    obtain ⟨⟨ks, ls, h1⟩, h2, h3⟩ := ih (fun c hc => hl c (List.mem_cons_of_mem _ hc)) (trapCol r sl s a)
    have ha : a < 16 := hl a List.mem_cons_self
    have e1 : getLane (trapCol r sl s a) r a sl = dropTraps (getLane s r a sl) := getLane_setLane _ _ _ _ _
    have e2 : ∀ r' c' sl', c' < 16 → sl' < 8 → ¬ (r' = r ∧ sl' = sl ∧ c' = a) →
        getLane (trapCol r sl s a) r' c' sl' = getLane s r' c' sl' := by
      intro r' c' sl' hc hs' hn
      exact getLane_setLane_ne _ _ (by unfold coreIx; omega)
    have d : ∀ l : Lane, dropTraps (dropTraps l) = dropTraps l := by intro l; simp [dropTraps]
    refine ⟨⟨ks, ls, h1⟩, ?_, ?_⟩
    · intro c hc
      by_cases hca : c = a
      · subst hca
        by_cases hm : c ∈ l
        · exact (h2 c hm).trans (by rw [e1, d])
        · exact (h3 r c sl ha hs (by simp [hm])).trans e1
      · have hm : c ∈ l := by simpa [hca] using hc
        exact (h2 c hm).trans (by rw [e2 r c sl (hl c hc) hs (by simp [hca])])
    · intro r' c' sl' hc hs' hn
      refine (h3 r' c' sl' hc hs' ?_).trans (e2 r' c' sl' hc hs' ?_)
      · rintro ⟨x, y, z⟩; exact hn ⟨x, y, List.mem_cons_of_mem _ z⟩
      · rintro ⟨x, y, z⟩; exact hn ⟨x, y, by simp [z]⟩

/-- Lanes that drop traps keep their flags. -/
theorem rowFlags_congr (s t : State) (r sl : Nat) (h : ∀ c < 16, (getLane t r c sl).estat = (getLane s r c sl).estat) :
    rowFlags t r sl = rowFlags s r sl := by
  have : ∀ l : List Nat, (∀ c ∈ l, c < 16) → ∀ f : BitVec 5,
      l.foldl (fun f c => f ||| ((getLane t r c sl).estat.setWidth 5)) f = l.foldl (fun f c => f ||| ((getLane s r c sl).estat.setWidth 5)) f := by
    intro l
    induction l with
    | nil => intro _ f; rfl
    | cons a l ih =>
      intro hl f
      simp only [List.foldl]
      rw [h a (hl a List.mem_cons_self), ih fun c hc => hl c (List.mem_cons_of_mem _ hc)]
  exact this _ (fun c hc => by simpa [upTo] using hc) _

/-- A store of n bytes changes the memory and its keys alone. -/
theorem physWrN_form (key) : ∀ (n pa x : Nat) (s : State), ∃ m k, physWrN s key pa n x = { s with mem := m, memKeys := k } := by
  intro n
  induction n with
  | zero => intro pa x s; exact ⟨_, _, rfl⟩
  | succ n ih =>
    intro pa x s
    obtain ⟨m, k, h⟩ := ih (pa + 1) (x / 256) (physWr s key pa (BitVec.ofNat 8 x))
    refine ⟨m, k, ?_⟩
    unfold physWrN
    rw [h]
    rfl

/-- A trace record changes memory, keys and the trace unit alone. -/
theorem traceWrite_form (s : State) (ws : List Word) : ∃ m k d, traceWrite s ws = { s with mem := m, memKeys := k, dbg := d } := by
  unfold traceWrite
  dsimp only
  split
  · exact ⟨_, _, _, rfl⟩
  · split
    · exact ⟨_, _, _, rfl⟩
    · have : ∀ (l : List (Word × Nat)) (base : Nat) (s : State), ∃ m k,
          l.foldl (fun s p => physWrN s none (busAt s 32 (base + 8 * p.2)) 8 p.1.toNat) s = { s with mem := m, memKeys := k } := by
        intro l base
        induction l with
        | nil => intro s; exact ⟨_, _, rfl⟩
        | cons a l ih =>
          intro s
          obtain ⟨m, k, h⟩ := physWrN_form none 8 (busAt s 32 (base + 8 * a.2)) a.1.toNat s
          obtain ⟨m', k', h'⟩ := ih (physWrN s none (busAt s 32 (base + 8 * a.2)) 8 a.1.toNat)
          refine ⟨m', k', ?_⟩
          simp only [List.foldl]
          rw [h', h]
      obtain ⟨m, k, h⟩ := this ws.zipIdx _ s
      rw [h]
      exact ⟨_, _, _, rfl⟩

/-- A trap record changes memory, keys and the trace unit alone. -/
theorem traceTrap_form (s : State) (r sl : Nat) (h : Head) :
    ∃ m k d, traceTrap s r sl h = { s with mem := m, memKeys := k, dbg := d } ∧ (s.dbg.tren = false → m = s.mem) := by
  unfold traceTrap
  split
  · rename_i hc
    obtain ⟨m, k, d, hh⟩ := traceWrite_form s _
    exact ⟨m, k, d, hh, fun h0 => by simp [h0] at hc⟩
  · exact ⟨_, _, _, rfl, fun _ => rfl⟩

/-- Taking a trap at task level with a handler. -/
theorem takeTrap_spec (s : State) (r sl : Nat) (c : Cause) (col : Nat) (tval : Word) (tpc : VAddr) (hs : sl < 8)
    (h1 : (getHead s r sl).handler = false) (h2 : (getHead s r sl).tvec ≠ 0) (h3 : isIn 0x801 (getHead s r sl).poison = false) :
    let t := takeTrap s r sl c col tval tpc
    getHead t r sl = entered (getHead s r sl) (rowFlags s r sl) c col tval tpc ∧
    (∀ c < 16, getLane t r c sl = dropTraps (getLane s r c sl)) ∧
    (∀ r' c' sl', c' < 16 → sl' < 8 → (r', sl') ≠ (r, sl) → getLane t r' c' sl' = getLane s r' c' sl') ∧
    (s.dbg.tren = false → t.mem = s.mem) ∧
    (∀ r' sl', sl' < 8 → (r', sl') ≠ (r, sl) → getHead t r' sl' = getHead s r' sl') ∧ t.parts = s.parts ∧ t.vfs = s.vfs ∧ t.reqs = s.reqs := by
  intro t
  obtain ⟨⟨ks, ls, hk⟩, hl, hn⟩ := trapCols_form r sl hs (upTo 16) (fun c hc => by simpa [upTo] using hc) s
  have hf : rowFlags ((upTo 16).foldl (trapCol r sl) s) r sl = rowFlags s r sl :=
    rowFlags_congr _ _ _ _ fun c hc => by rw [hl c (by simpa [upTo] using hc)]; rfl
  rw [hk] at hl hn hf
  have e : ∃ m k d ro w, t = { setHead { s with cores := ks, lanes := ls } r sl (entered (getHead s r sl) (rowFlags s r sl) c col tval tpc) with
      mem := m, memKeys := k, dbg := d, rows := ro, walks := w } ∧ (s.dbg.tren = false → m = s.mem) := by
    show ∃ m k d ro w, takeTrap s r sl c col tval tpc = _ ∧ _
    unfold takeTrap
    simp only [h1, h2, h3, Bool.or_self, decide_false, Bool.false_eq_true, if_false]
    unfold forCols
    rw [hk]
    have hw : dropWalks (strandWalk r sl) { s with cores := ks, lanes := ls } =
      { s with cores := ks, lanes := ls, walks := (dropWalks (strandWalk r sl) s).walks } := rfl
    rw [hw]
    generalize (dropWalks (strandWalk r sl) s).walks = w
    have hf' : rowFlags { s with cores := ks, lanes := ls, walks := w } r sl = rowFlags s r sl := hf
    rw [hf']
    have hE : ({ getHead s r sl with
            flights := [], commit := none, pend := none, wait := .no, why := 0, stepDue := false, skipBreak := none,
            tcause := tcauseWord c col, tval := tval, tpc := wordOfAddr tpc, handler := true, fsum := rowFlags s r sl, pc := addrOfWord (getHead s r sl).tvec, poison := trapPoison (getHead s r sl).poison } : Head) = entered (getHead s r sl) (rowFlags s r sl) c col tval tpc := rfl
    rw [hE]
    generalize entered (getHead s r sl) (rowFlags s r sl) c col tval tpc = E
    obtain ⟨m, k, d, ht, hm⟩ := traceTrap_form (setHead { s with cores := ks, lanes := ls, walks := w } r sl E) r sl E
    rw [ht]
    split
    · exact ⟨m, k, d, _, w, rfl, hm⟩
    · exact ⟨m, k, d, _, w, rfl, hm⟩
  obtain ⟨m, k, d, ro, w, e, hm⟩ := e
  rw [e]
  refine ⟨?_, fun c hc => hl c (by simpa [upTo] using hc), ?_, hm, ?_, rfl, rfl, rfl⟩
  · exact getHead_setHead { s with cores := ks, lanes := ls } r sl _
  · intro r' c' sl' hc hs' hne
    exact hn r' c' sl' hc hs' (by rintro ⟨x, y, _⟩; exact hne (by rw [x, y]))
  · intro r' sl' h8 hne
    refine getHead_setHead_ne { s with cores := ks, lanes := ls } _ ?_
    intro he
    apply hne
    have : r' = r ∧ sl' = sl := by omega
    rw [this.1, this.2]

/-- The flags that a trap gathers. -/
theorem flagsOf_eq (s : State) : rowFlags s s.curRow s.curSlot = flagsOf s := rfl

/-- A trap at the head of a drained strand that can trap. -/
theorem headTraps_of (s : State) (c : Cause) (v : Word) (hs : s.curSlot < 8) (hf : (me s).flights = []) (hc : CanTrap s) :
    HeadTraps s (.next (headTrap s s.curRow s.curSlot c v)) c v := by
  have h := takeTrap_spec s s.curRow s.curSlot c 31 v (instrAddr (me s)) hs hc.1 hc.2.1 hc.2.2
  refine ⟨_, rfl, ?_⟩
  have hf' : (getHead s s.curRow s.curSlot).flights = [] := hf
  unfold headTrap
  simp only [hf', List.isEmpty_nil, if_true]
  exact ⟨h.1, h.2.1, fun r c sl h1 h2 _ h3 => h.2.2.1 r c sl h1 h2 h3, h.2.2.2.1, fun r sl h1 _ h3 => h.2.2.2.2.1 r sl h1 h3⟩

/-- A head instruction that is executed traps. -/
theorem headInstr_traps {s : State} {as : List (BitVec 4)} (hr : HeadDrained s as) (hs : s.curSlot < 8) (hc : CanTrap s) (i : Instr) (k) (hw : i.wellFormed = true)
    (c : Cause) (v : Word) (hk : k s.curRow s.curSlot (me s) = headTrap s s.curRow s.curSlot c v) :
    HeadTraps s (.next (headInstr i (as.map (·.toNat)) k s)) c v := by
  rw [headInstr_ready hr.1 i k hw, hk]
  exact headTraps_of s c v hs hr.2 hc

end Sys2Proof.Machine
end

