-- ==== Sys2Proof/Laws/Wave.lean ====
section
/-! SUPPORT. What a lane instruction does in a row that is free: it passes the sixteen columns at once, and each core's lane is
what its effect makes of it. -/

namespace Sys2Proof.Machine

/-- The west word that the flight carries past a core whose lane is l: the captured register, or the word it carried (R25). -/
def carried (i : Instr) (l : Lane) (w : Vec) : Vec :=
  match westReg i with
  | none => w
  | some (true, n) => rdV l n
  | some (false, n) => (rdG l n).setWidth 1024

/-- The west words of the columns, from the lanes that the effect leaves. -/
def westOf (i : Instr) (eff : Nat → Vec → Lane) : Nat → Vec
  | 0 => 0
  | c + 1 => carried i (eff c (westOf i eff c)) (westOf i eff c)

/-- The flight of the strand's instruction at a column. -/
def flightAt (s : State) (i : Instr) (c : Nat) (w : Vec) : Flight := { flightOf (getRow s s.curRow).cycle (me s) i with col := c, west := w }

/-- The state in the middle of the pass: lanes before column c have been through, the others are as they were. -/
def Passing (s st : State) (hd : Head) (eff : Nat → Lane) (c : Nat) : Prop :=
  st = { s with heads := tput s.heads (8 * s.curRow + s.curSlot) hd, lanes := st.lanes } ∧
  (∀ r k sl, k < 16 → sl < 8 → (r, sl) ≠ (s.curRow, s.curSlot) → getLane st r k sl = getLane s r k sl) ∧
  (∀ k < c, getLane st s.curRow k s.curSlot = eff k) ∧
  (∀ k < 16, c ≤ k → getLane st s.curRow k s.curSlot = laneAt s k)

/-- What the core of each column makes of the instruction: it is done, and only the strand's lane there changes. -/
def CoreDoes (s : State) (i : Instr) (eff : Nat → Vec → Lane) : Prop :=
  ∀ c < 16, ∀ st w, st = { s with heads := st.heads, lanes := st.lanes } → getLane st s.curRow c s.curSlot = laneAt s c →
    coreStep ⟨s.curRow, s.curSlot, c, flightAt s i c w⟩ st = .done (setLane st s.curRow c s.curSlot (eff c w))

/-- The west register can be captured after the effect (R25). -/
def Captures (i : Instr) (eff : Nat → Vec → Lane) : Prop := ∀ c < 15, ∀ w, westReady (eff c w) i

theorem nextEvent_nil (b : Bool) : nextEvent b [] = none := rfl

/-- No trap of an earlier instruction is pending in a row whose lanes of the strand have no events. -/
theorem earliestTrap_none (s : State) (r sl issue col : Nat) (he : ∀ c < 16, (getLane s r c sl).events = []) :
    earliestTrap s r sl issue col = none := by
  unfold earliestTrap
  dsimp only
  rw [List.flatMap_eq_nil_iff.2]
  · rfl
  · intro c hc
    rw [he c (by simpa [upTo] using hc)]
    rfl

/-- No trap is due at a core of a row without events, and without records there. -/
theorem duePending_none (s : State) (r c sl : Nat) (pc : VAddr) (issue : Nat) (hc : c < 16) (he : ∀ c < 16, (getLane s r c sl).events = [])
    (hr : (getLane s r c sl).recs = []) : duePending s r c sl pc issue = none := by
  simp [duePending, earlierTrap, earliestTrap_none _ _ _ _ _ he, he c hc, hr, nextEvent_nil, recordDue]

/-- The strand's lanes have no events after the effect. -/
def Quiet (eff : Nat → Vec → Lane) : Prop := ∀ c < 16, ∀ w, (eff c w).events = []

theorem all_congr {l : List Nat} {p q : Nat → Bool} (h : ∀ x ∈ l, p x = q x) : l.all p = l.all q := by
  induction l with
  | nil => rfl
  | cons a l ih => simp only [List.all_cons, h a List.mem_cons_self, ih fun x hx => h x (List.mem_cons_of_mem _ hx)]

theorem lane_ne {r c sl r' c' sl' : Nat} (h1 : c < 16) (h2 : c' < 16) (h3 : sl < 8) (h4 : sl' < 8)
    (h : ¬ (r' = r ∧ c' = c ∧ sl' = sl)) : coreIx r' c' * 8 + sl' ≠ coreIx r c * 8 + sl := by
  unfold coreIx
  omega

/-- A core's state in the middle of the pass, one column further. -/
theorem Passing.next {s st : State} {hd : Head} {eff : Nat → Lane} {c : Nat} (hp : Passing s st hd eff c) (hc : c < 16)
    (hs : s.curSlot < 8) : Passing s (setLane st s.curRow c s.curSlot (eff c)) hd eff (c + 1) := by
  obtain ⟨h1, h2, h3, h4⟩ := hp
  refine ⟨?_, ?_, ?_, ?_⟩
  · show { st with lanes := _ } = _
    rw [h1]
    rfl
  · intro r k sl hk hsl hne
    rw [getLane_setLane_ne _ _ (lane_ne hc hk hs hsl (by intro e; exact hne (by simp [e.1, e.2.2])))]
    exact h2 r k sl hk hsl hne
  · intro k hk
    by_cases e : k = c
    · subst e; simp
    · rw [getLane_setLane_ne _ _ (lane_ne hc (by omega) hs hs (by omega))]
      exact h3 k (by omega)
  · intro k hk hck
    rw [getLane_setLane_ne _ _ (lane_ne hc hk hs hs (by omega))]
    exact h4 k hk (by omega)

theorem captureWest_last (x : Ctx) (s : State) (h : x.c = 15) : captureWest x s = .none := by simp [captureWest, h]

/-- What a core captures from a lane whose west register is ready. -/
theorem captureWest_ready (x : Ctx) (s : State) (l : Lane) (h : x.c ≠ 15) (hl : x.lane s = l) (hw : westReady l x.f.instr)
    (hp : ∀ n, westReg x.f.instr = some (true, n) → srcPoison x s l (.v n false) = none) :
    captureWest x s = match westReg x.f.instr with
      | none => .none
      | some (true, n) => .value (rdV l n)
      | some (false, n) => .value ((rdG l n).setWidth 1024) := by
  subst hl
  unfold captureWest
  rw [if_neg h]
  unfold westReady at hw
  cases e : westReg x.f.instr with
  | none => rfl
  | some q =>
    obtain ⟨v, n⟩ := q
    rw [e] at hw
    cases v with
    | true => dsimp only at hw ⊢; rw [hw, hp n e]; rfl
    | false => dsimp only at hw ⊢; rw [hw.1, hw.2]; rfl

/-- A flight whose cores are free goes on from column c to the end of the row. -/
theorem runFlight_passes (s : State) (i : Instr) (eff : Nat → Vec → Lane) (hd : Head) (hr : LaneReady s i)
    (hst : hd.stall = []) (hhd : hd.handler = (me s).handler) (hdo : CoreDoes s i eff) (hcap : Captures i eff) (hq : Quiet eff) :
    ∀ (n c : Nat) (st : State), n + c = 16 → c < 16 →
      Passing s st hd (fun k => eff k (westOf i eff k)) c →
      ∃ st', runFlight s.curRow s.curSlot [] n (flightAt s i c (westOf i eff c)) st = .over st' ∧
        Passing s st' hd (fun k => eff k (westOf i eff k)) 16 := by
  obtain ⟨-, hslot, -, -, -, -, hruns, -, -, hcols⟩ := hr
  intro n
  induction n with
  | zero => intro c st h1 h2; omega
  | succ n ih =>
    intro c st hn hc hp
    have h4 := hp.2.2.2 c hc (Nat.le_refl c)
    obtain ⟨-, hrec, -, -, hret, hsound, hfree, hvec⟩ := hcols c hc
    have hh : getHead st s.curRow s.curSlot = hd := by rw [hp.1]; simp [getHead]
    have hrun : strandRuns st s.curRow s.curSlot = true := by
      rw [hp.1]; exact hruns
    have hmay : mayUse st s.curRow s.curSlot (flightAt s i c (westOf i eff c)).col [] = true := by
      have hret' : (hd.handler || (getLane st s.curRow c s.curSlot).retry.isEmpty) = true := by
        rw [hhd, h4]; rcases hret with h | h
        · rw [h]; rfl
        · rw [h]; simp
      unfold mayUse
      rw [hrun, hh, hst, show (flightAt s i c (westOf i eff c)).col = c from rfl, hret']
      simp [isIn]
    have hevs : ∀ k < 16, (getLane st s.curRow k s.curSlot).events = [] := by
      intro k hk
      by_cases hkc : k < c
      · rw [hp.2.2.1 k hkc]; exact hq k hk _
      · rw [hp.2.2.2 k hk (by omega)]; exact (hcols k hk).1
    have hdue : duePending st s.curRow (flightAt s i c (westOf i eff c)).col s.curSlot (flightAt s i c (westOf i eff c)).pc
        (flightAt s i c (westOf i eff c)).issue = none :=
      duePending_none _ _ _ _ _ _ hc hevs (by rw [show (flightAt s i c (westOf i eff c)).col = c from rfl, h4]; exact hrec)
    have hfree' : coreFree st s.curRow s.curSlot c = true := by
      rw [← hfree]
      unfold coreFree
      refine all_congr fun t ht => ?_
      by_cases e : t = s.curSlot
      · simp [e]
      · rw [show getHead st s.curRow t = getHead s s.curRow t from by
          rw [hp.1]; exact tget_tput_ne _ _ _ (by omega)]
    have hvec' : vecFree st s.curRow c i = true := by
      rw [← hvec]
      unfold vecFree
      have hrow : getRow st s.curRow = getRow s s.curRow := by rw [hp.1]; rfl
      rw [hrow]
      congr 1
      refine all_congr fun t ht => ?_
      have ht8 : t < 8 := by simpa [upTo] using ht
      by_cases e : t = s.curSlot
      · rw [e, h4]; rfl
      · rw [hp.2.1 s.curRow c t hc ht8 (by simp [e])]
    have hstep := hdo c hc st (westOf i eff c) (by rw [hp.1]) h4
    have hnext := hp.next (eff := fun k => eff k (westOf i eff k)) hc hslot
    unfold runFlight
    rw [show (flightAt s i c (westOf i eff c)).col = c from rfl, hfree']
    simp only [Bool.not_true, Bool.false_eq_true, if_false]
    unfold flightTurn
    rw [show (flightAt s i c (westOf i eff c)).capture = false from rfl]
    have hdue' : flightDue st s.curRow s.curSlot (flightAt s i c (westOf i eff c)) = none := by
      unfold flightDue
      rw [show (flightAt s i c (westOf i eff c)).waits.isSome = false from rfl]
      exact hdue
    have hvec'' : vecFree st s.curRow (flightAt s i c (westOf i eff c)).col (flightAt s i c (westOf i eff c)).instr = true := hvec'
    simp only [Bool.false_eq_true, if_false, hmay, hvec'', Bool.not_true, Bool.or_self, hdue']
    rw [show (flightAt s i c (westOf i eff c)).col = c from rfl, hstep]
    dsimp only
    generalize hS : setLane st s.curRow c s.curSlot (eff c (westOf i eff c)) = S at *
    by_cases hlast : c = 15
    · subst hlast
      refine ⟨S, ?_, hnext⟩
      unfold afterCore
      rw [captureWest_last _ _ rfl]
      simp
    · have hlane : (⟨s.curRow, s.curSlot, c, flightAt s i c (westOf i eff c)⟩ : Ctx).lane S = eff c (westOf i eff c) := by
        rw [← hS]; simp [Ctx.lane]
      obtain ⟨st', hgo, hfin⟩ := ih (c + 1) S (by omega) (by omega) hnext
      refine ⟨st', ?_, hfin⟩
      rw [← hgo]
      unfold afterCore
      have hclean : ∀ n, westReg (flightAt s i c (westOf i eff c)).instr = some (true, n) →
          srcPoison ⟨s.curRow, s.curSlot, c, flightAt s i c (westOf i eff c)⟩ S (eff c (westOf i eff c)) (.v n false) = none := by
        intro n hn
        have hsound' : poolBad (coreAt s c) (vregAddr (pwordOf s s.curRow) s.curSlot n.toNat) 128 = none := by
          unfold westSound at hsound
          rw [show westReg i = some (true, n) from hn] at hsound
          exact hsound
        have hcore : getCore S (coreIx s.curRow c) = coreAt s c := by rw [← hS, hp.1]; rfl
        have hpw : pwordOf S s.curRow = pwordOf s s.curRow := by rw [← hS, hp.1]; rfl
        simp only [srcPoison, Ctx.core, hcore, hpw, hsound']
        rfl
      rw [captureWest_ready _ _ _ hlast hlane (hcap c (by omega) _) hclean]
      have hinstr : (flightAt s i c (westOf i eff c)).instr = i := rfl
      have hw : westOf i eff (c + 1) = carried i (eff c (westOf i eff c)) (westOf i eff c) := rfl
      simp only [hinstr]
      rw [hw]
      unfold carried
      cases westReg i with
      | none => dsimp only; rw [if_neg hlast]; rfl
      | some q =>
        obtain ⟨v, n⟩ := q
        cases v <;> rfl

/-- A lane instruction in a free row: it is done at every core in one step. -/
theorem wave (s : State) (i : Instr) (eff : Nat → Vec → Lane) (hr : LaneReady s i) (hdo : CoreDoes s i eff) (hcap : Captures i eff)
    (hq : Quiet eff) :
    LaneDone s (issueLane i s) (fun c => eff c (westOf i eff c)) := by
  have hr' := hr
  obtain ⟨hrow, hslot, hcom, hwait, hfl, hstall, hruns, hlegal, hpois, hcols⟩ := hr
  have hcom' : (getHead s s.curRow s.curSlot).commit = none := hcom
  have hwait' : (getHead s s.curRow s.curSlot).wait = .no := hwait
  have hfl' : (getHead s s.curRow s.curSlot).flights = [] := hfl
  have hlegal' : laneLegal (pwordOf s s.curRow) (getHead s s.curRow s.curSlot).handler i (pxOf (getHead s s.curRow s.curSlot)) = true := hlegal
  have hpois' : headPoison (getHead s s.curRow s.curSlot) (feedRegs i) = none := hpois
  let hd : Head :=
    seqNext { me s with flights := (me s).flights ++ [flightAt s i 0 0], why := 0, stepDue := (me s).stepMode && !(me s).handler }
  have hsf : ∀ h : Head, (seqNext h).flights = h.flights ∧ (seqNext h).stall = h.stall ∧ (seqNext h).commit = h.commit ∧
      (seqNext h).handler = h.handler := by
    intro h; unfold seqNext; dsimp only; split
    · split <;> exact ⟨rfl, rfl, rfl, rfl⟩
    · exact ⟨rfl, rfl, rfl, rfl⟩
  have hissue : issueLane i s = putTurn s.curRow s.curSlot 0
      (runFlight s.curRow s.curSlot [] 16 (flightAt s i 0 0) (setHead s s.curRow s.curSlot hd)) := by
    unfold issueLane
    dsimp only [here]
    rw [if_neg (by rw [hcom', hwait']; simp), if_neg (by rw [hlegal']; simp), hpois']
    dsimp only
    rw [if_neg (by rw [hfl']; simp), hfl']
    show putTurn _ _ 0 (runFlight _ _ [] 16 (flightAt s i 0 0) (setHead s s.curRow s.curSlot (seqNext { me s with
      flights := [flightAt s i 0 0], why := 0, stepDue := (me s).stepMode && !(me s).handler }))) = _
    rw [show hd = seqNext { me s with flights := [flightAt s i 0 0], why := 0, stepDue := (me s).stepMode && !(me s).handler } from by
      show seqNext { me s with flights := (me s).flights ++ [flightAt s i 0 0], why := 0, stepDue := (me s).stepMode && !(me s).handler } = _
      rw [hfl]; rfl]
  have hpass : Passing s (setHead s s.curRow s.curSlot hd) hd (fun k => eff k (westOf i eff k)) 0 :=
    ⟨rfl, fun _ _ _ _ _ _ => rfl, fun k hk => absurd hk (Nat.not_lt_zero k), fun _ _ _ => rfl⟩
  obtain ⟨st, hover, hfin⟩ := runFlight_passes s i eff hd hr' ((hsf _).2.1.trans hstall) (hsf _).2.2.2 hdo hcap hq 16 0 _ rfl (by omega) hpass
  have hpump : issueLane i s = setHead st s.curRow s.curSlot (goOn (me s)) := by
    have hz : westOf i eff 0 = 0 := rfl
    rw [hz] at hover
    rw [hissue, hover]
    unfold putTurn modHead
    have hh : getHead st s.curRow s.curSlot = hd := by rw [hfin.1]; simp [getHead]
    have hf1 : hd.flights = [flightAt s i 0 0] := by rw [show hd.flights = _ from (hsf _).1, hfl]; rfl
    dsimp only
    rw [hh]
    congr 1
    show { hd with flights := hd.flights.eraseIdx 0 } = _
    rw [hf1]
    refine (seqNext_goOn (me s) _ _ hwait).trans ?_
    show { goOn (me s) with flights := [] } = goOn (me s)
    rw [← show (goOn (me s)).flights = [] from hfl]
  rw [hpump]
  refine ⟨⟨?_, ?_, ?_⟩, by simp, ?_⟩
  · show { st with heads := _ } = _
    rw [hfin.1]; rfl
  · intro r sl hsl hne
    rw [getHead_setHead_ne _ _ (by intro e; apply hne; ext <;> simp <;> omega), hfin.1]
    simp only [getHead]
    exact tget_tput_ne _ _ _ (by intro e; apply hne; ext <;> simp <;> omega)
  · intro r c sl hc hsl hne
    exact hfin.2.1 r c sl hc hsl hne
  · intro c hc
    exact hfin.2.2.1 c hc

/-! The lane operations on g registers. -/

/-- Sources that are ready let the instruction go on (R150). -/
theorem withSrcs_ready {s : State} {st : State} {c : Nat} {srcs : List Src} (hl : getLane st s.curRow c s.curSlot = laneAt s c)
    (hst : st = { s with heads := st.heads, lanes := st.lanes }) (f : Flight)
    (hs : ∀ q ∈ srcs, sourceReady s c q) (k : Lane → CoreOut) :
    withSrcs ⟨s.curRow, s.curSlot, c, f⟩ st srcs k = k (laneAt s c) := by
  have e1 : (⟨s.curRow, s.curSlot, c, f⟩ : Ctx).lane st = laneAt s c := hl
  unfold withSrcs
  simp only [e1]
  have e2 : srcs.find? (srcEmpty (laneAt s c)) = none := by
    rw [List.find?_eq_none]; intro q hq; simp [(hs q hq).1]
  have e3 : srcs.findSome? (srcPoison ⟨s.curRow, s.curSlot, c, f⟩ st (laneAt s c)) = none := by
    rw [List.findSome?_eq_none_iff]
    intro q hq
    have := (hs q hq).2
    have hc : getCore st (coreIx s.curRow c) = coreAt s c := by rw [hst]; rfl
    have hp : pwordOf st s.curRow = pwordOf s s.curRow := by rw [hst]; rfl
    cases q with
    | g n te => simp only [srcPoison]; rw [if_neg]; simpa using this
    | v n te =>
      have this : poolBad (coreAt s c) (vregAddr (pwordOf s s.curRow) s.curSlot n.toNat) 128 = none := this
      simp only [srcPoison, Ctx.core, hc, hp, this]; rfl
    | m n => simp only [srcPoison]; rw [if_neg]; simpa using this
  rw [e2, e3]

/-- The mask of a ready strand is not poisoned (R364). -/
theorem pxMask_ready {s : State} {i : Instr} (hr : LaneReady s i) {c : Nat} (hc : c < 16) (st : State) (w : Vec)
    (hl : getLane st s.curRow c s.curSlot = laneAt s c) :
    pxMaskPoison ⟨s.curRow, s.curSlot, c, flightAt s i c w⟩ st = none := by
  obtain ⟨-, -, -, -, -, -, -, -, -, hcols⟩ := hr
  have := (hcols c hc).2.2.2.1
  unfold pxMaskPoison
  have e1 : (⟨s.curRow, s.curSlot, c, flightAt s i c w⟩ : Ctx).lane st = laneAt s c := hl
  simp only [e1, show (flightAt s i c w).px = pxOf (me s) from rfl]
  rw [if_neg]
  rcases this with h | h
  · simp [h]
  · simp [h]

/-- Writing a g register keeps the west register ready. -/
theorem westReady_wrG {l : Lane} {i : Instr} (d : BitVec 5) (v : Word) (h : westReady l i) : westReady (wrG l d v) i := by
  unfold westReady at *
  cases e : westReg i with
  | none => trivial
  | some q =>
    obtain ⟨b, n⟩ := q
    rw [e] at h
    cases b with
    | true => simpa [vEmpty] using h
    | false =>
      dsimp only at h ⊢
      unfold wrG gEmpty at *
      by_cases hd : d = 0
      · simpa [hd] using h
      · simp only [if_neg hd]
        refine ⟨?_, ?_⟩
        · by_cases hn : n = 0
          · simp [hn]
          · have := h.1
            simp only [Vector.getElem_set]
            split
            · simp
            · exact this
        · have := h.2
          simp only [isIn, List.any_eq_false] at this ⊢
          intro y hy
          exact this y (List.mem_filter.1 hy).1

/-- A binary integer operation in a free row (R152). -/
theorem lane_bin (s : State) (i : Instr) (d a b : BitVec 5) (w : West) (f g : Word → Word → Word) (hfg : ∀ x y, f x y = g x y)
    (hcore : ∀ x st, coreExec i x st = intOp x st d a b w f) (hv : vecCycles i = 0) (hexec : exec i s = .next (issueLane i s))
    (ha : w = .a → westReg i = some (false, a)) (hb : w = .b → westReg i = some (false, b))
    (hr : LaneRuns s i (srcs2 a b w (pxOf (me s)))) :
    Completes (exec i s) fun t => LaneDone s t fun c => wrG (laneAt s c) d (g (opA s t c a w) (opB s t c b w)) := by
  obtain ⟨hr, hs⟩ := hr
  let eff : Nat → Vec → Lane := fun c v =>
    wrG (laneAt s c) d (f (valA ⟨s.curRow, s.curSlot, c, flightAt s i c v⟩ (laneAt s c) a w)
      (valB ⟨s.curRow, s.curSlot, c, flightAt s i c v⟩ (laneAt s c) b w))
  have hdo : CoreDoes s i eff := by
    intro c hc st v hst hl
    unfold coreStep
    rw [pxMask_ready hr hc st v hl]
    have hdone : coreExec i ⟨s.curRow, s.curSlot, c, flightAt s i c v⟩ st = .done (setLane st s.curRow c s.curSlot (eff c v)) := by
      rw [hcore]
      unfold intOp
      rw [withSrcs_ready hl hst _ (by exact hs c hc)]
      rfl
    rw [show (⟨s.curRow, s.curSlot, c, flightAt s i c v⟩ : Ctx).f.instr = i from rfl, hdone, hv]
    rfl
  have hcap : Captures i eff := by
    intro c hc v
    obtain ⟨-, -, -, -, -, -, -, -, -, hcols⟩ := hr
    exact westReady_wrG _ _ (hcols c (by omega)).2.2.1
  have hquiet : Quiet eff := by
    intro c hc v
    obtain ⟨-, -, -, -, -, -, -, -, -, hcols⟩ := hr
    exact (wrG_events _ _ _).trans (hcols c hc).1
  have hw := wave s i eff hr hdo hcap hquiet
  refine ⟨_, hexec, ?_⟩
  refine ⟨hw.1, hw.2.1, fun c hc => ?_⟩
  rw [hw.2.2 c hc]
  have key : ∀ n, westReg i = some (false, n) → westG ⟨s.curRow, s.curSlot, c, flightAt s i c (westOf i eff c)⟩ = westWord s (issueLane i s) c n := by
    intro n hn
    unfold westG westWord
    by_cases h0 : c = 0
    · simp [h0]; rfl
    · simp only [if_neg h0]
      obtain ⟨k, rfl⟩ : ∃ k, c = k + 1 := ⟨c - 1, by omega⟩
      rw [show k + 1 - 1 = k from rfl, hw.2.2 k (by omega)]
      show (carried i (eff k (westOf i eff k)) (westOf i eff k)).setWidth 64 = _
      unfold carried
      rw [hn]
      simp
  have hA : valA ⟨s.curRow, s.curSlot, c, flightAt s i c (westOf i eff c)⟩ (laneAt s c) a w = opA s (issueLane i s) c a w := by
    unfold valA opA
    cases w with
    | a => simp; exact key a (ha rfl)
    | b => simp
    | no => simp
  have hB : valB ⟨s.curRow, s.curSlot, c, flightAt s i c (westOf i eff c)⟩ (laneAt s c) b w = opB s (issueLane i s) c b w := by
    unfold valB opB
    cases w with
    | a => simp
    | b => simp; exact key b (hb rfl)
    | no => simp
  show wrG (laneAt s c) d (f (valA ⟨s.curRow, s.curSlot, c, flightAt s i c (westOf i eff c)⟩ (laneAt s c) a w)
    (valB ⟨s.curRow, s.curSlot, c, flightAt s i c (westOf i eff c)⟩ (laneAt s c) b w)) = _
  rw [hA, hB, hfg]

end Sys2Proof.Machine
end

