-- ==== Sys2Proof/Tests/Slice0.lean ====
section
/-! SUPPORT. The tests: decoding of every instruction word (words assembled from the match and field columns of
spec/opcode_table.json), the checks of WellFormed, single steps, and a witness for the hypotheses of every statement. -/

namespace Sys2Proof.Tests

open Sys2Proof Sys2Proof.Machine

/-! Decoding. -/

theorem test_decode_px : decode 0xFD408887 = .ok (.px ⟨2, true, 0, 1, 1, 1, false, false, 7⟩) := rfl
theorem test_decode_ldn : Laws.readWords [0xFC000400, 0x6C830014] = some (.ldn 4 3 1 .h false) := rfl

theorem test_decode_head_arithmetic :
  decode 0x01891800 = .ok (.addHead 12 9 3) ∧ decode 0x01236001 = .ok (.subHead 9 3 12) ∧
  decode 0x006C4802 = .ok (.andHead 3 12 9) ∧ decode 0x01891803 = .ok (.orHead 12 9 3) ∧
  decode 0x01236004 = .ok (.xorHead 9 3 12) ∧ decode 0x006C4805 = .ok (.shlHead 3 12 9) ∧
  decode 0x01891806 = .ok (.shrHead 12 9 3) ∧ decode 0x01236007 = .ok (.sarHead 9 3 12) ∧
  decode 0x006C4808 = .ok (.mulHead 3 12 9) ∧ decode 0x01891809 = .ok (.sltHead 12 9 3) ∧
  decode 0x0123600A = .ok (.sltnHead 9 3 12) ∧ decode 0x006C480B = .ok (.minHead 3 12 9) ∧
  decode 0x0189180C = .ok (.maxHead 12 9 3) ∧ decode 0x05238A31 = .ok (.addiHead 9 3 0x8a31) ∧
  decode 0x086C8A31 = .ok (.andiHead 3 12 0x8a31) ∧ decode 0x0D898A31 = .ok (.oriHead 12 9 0x8a31) ∧
  decode 0x11238A31 = .ok (.xoriHead 9 3 0x8a31) ∧ decode 0x146C0025 = .ok (.shliHead 3 12 37) ∧
  decode 0x1589012C = .ok (.shriHead 12 9 44) ∧ decode 0x15230225 = .ok (.sariHead 9 3 37) ∧
  decode 0x18608A31 = .ok (.liHead 3 0x8a31) ∧ decode 0x1D898A31 = .ok (.luiHead 12 9 0x8a31) :=
  ⟨rfl, rfl, rfl, rfl, rfl, rfl, rfl, rfl, rfl, rfl, rfl, rfl, rfl, rfl, rfl, rfl, rfl, rfl, rfl, rfl, rfl, rfl⟩

theorem test_decode_head_control :
  decode 0x20123A5C = .ok (.beq 9 3 0xa5c) ∧ decode 0x2046CA5C = .ok (.bne 3 12 0xa5c) ∧
  decode 0x20989A5C = .ok (.blt 12 9 0xa5c) ∧ decode 0x20D23A5C = .ok (.bge 9 3 0xa5c) ∧
  decode 0x2106CA5C = .ok (.bltn 3 12 0xa5c) ∧ decode 0x21589A5C = .ok (.bgen 12 9 0xa5c) ∧
  decode 0x26C0FFE1 = .ok (.jmp 0x2c0ffe1) ∧ decode 0x2AC0FFE1 = .ok (.call 0x2c0ffe1) ∧ decode 0x2C189000 = .ok (.jr 12 9) ∧
  decode 0x2C5206C5 = .ok (.loop 9 0x6c5) :=
  ⟨rfl, rfl, rfl, rfl, rfl, rfl, rfl, rfl, rfl, rfl⟩

theorem test_decode_head_memory :
  decode 0x306CA5C1 = .ok (.ldD 3 12 0xa5c true) ∧ decode 0x3189A5C4 = .ok (.stD 12 9 0xa5c false) :=
  ⟨rfl, rfl⟩

theorem test_decode_strand_control :
  decode 0x34000000 = .ok (.drain) ∧ decode 0x34000001 = .ok (.yield) ∧ decode 0x340C0002 = .ok (.exit 12) ∧
  decode 0x34000003 = .ok (.region) ∧ decode 0x34030004 = .ok (.pause 3) ∧ decode 0x35800005 = .ok (.twait 12) ∧
  decode 0x35230006 = .ok (.tileget 9 3) ∧ decode 0x34030007 = .ok (.publish 3) ∧ decode 0x3416A808 = .ok (.svc 0x2d5) ∧
  decode 0x34000009 = .ok (.tret) ∧ decode 0x3403000A = .ok (.tretAt 3) :=
  ⟨rfl, rfl, rfl, rfl, rfl, rfl, rfl, rfl, rfl, rfl, rfl⟩

theorem test_decode_groups_csrs :
  decode 0x380C0000 = .ok (.gbar 12) ∧ decode 0x386C4803 = .ok (.gvote .sum 3 12 9) ∧ decode 0x38030006 = .ok (.gleave 3) ∧
  decode 0x380C0007 = .ok (.gkill 12) ∧ decode 0x38091808 = .ok (.msend 9 3) ∧ decode 0x38600009 = .ok (.mrecv 3) ∧
  decode 0x3980000A = .ok (.mprobe 12) ∧ decode 0x3D200015 = .ok (.csrr 9 .rloope) ∧ decode 0x3C0C1009 = .ok (.csrw .bka1 12) ∧
  decode 0x3C002A5C = .ok (.bkpt 0xa5c) :=
  ⟨rfl, rfl, rfl, rfl, rfl, rfl, rfl, rfl, rfl, rfl⟩

theorem test_decode_lane_integer :
  decode 0x43753200 = .ok (.add 27 21 6 .b) ∧ decode 0x42A6D801 = .ok (.sub 21 6 27 .no) ∧
  decode 0x40DBAC02 = .ok (.and 6 27 21 .a) ∧ decode 0x43753203 = .ok (.or 27 21 6 .b) ∧
  decode 0x42A6D804 = .ok (.xor 21 6 27 .no) ∧ decode 0x40DBAC05 = .ok (.shl 6 27 21 .a) ∧
  decode 0x43753206 = .ok (.shr 27 21 6 .b) ∧ decode 0x42A6D807 = .ok (.sar 21 6 27 .no) ∧
  decode 0x40DBAC08 = .ok (.mul 6 27 21 .a) ∧ decode 0x43753209 = .ok (.slt 27 21 6 .b) ∧
  decode 0x42A6D80A = .ok (.sltn 21 6 27 .no) ∧ decode 0x40DBAC0B = .ok (.min 6 27 21 .a) ∧
  decode 0x4375320C = .ok (.max 27 21 6 .b) ∧ decode 0x42A6D80D = .ok (.minn 21 6 27 .no) ∧
  decode 0x40DBAC0E = .ok (.maxn 6 27 21 .a) ∧ decode 0x4375320F = .ok (.mulh 27 21 6 .b) ∧
  decode 0x42A6D810 = .ok (.mulhn 21 6 27 .no) ∧ decode 0x40DBAC11 = .ok (.div 6 27 21 .a) ∧
  decode 0x43753212 = .ok (.divn 27 21 6 .b) ∧ decode 0x42A6D813 = .ok (.rem 21 6 27 .no) ∧
  decode 0x40DBAC14 = .ok (.remn 6 27 21 .a) ∧ decode 0x43750415 = .ok (.clz 27 21 true) ∧
  decode 0x42A60016 = .ok (.ctz 21 6 false) ∧ decode 0x40DB0417 = .ok (.popc 6 27 true) :=
  ⟨rfl, rfl, rfl, rfl, rfl, rfl, rfl, rfl, rfl, rfl, rfl, rfl, rfl, rfl, rfl, rfl, rfl, rfl, rfl, rfl, rfl, rfl, rfl, rfl⟩

theorem test_decode_lane_constants :
  decode 0x4775B700 = .ok (.addConst 27 21 0xb7) ∧ decode 0x46A6B701 = .ok (.subConst 21 6 0xb7) ∧
  decode 0x44DBB702 = .ok (.andConst 6 27 0xb7) ∧ decode 0x4775B703 = .ok (.orConst 27 21 0xb7) ∧
  decode 0x46A6B704 = .ok (.xorConst 21 6 0xb7) ∧ decode 0x44DBB705 = .ok (.shlConst 6 27 0xb7) ∧
  decode 0x4775B706 = .ok (.shrConst 27 21 0xb7) ∧ decode 0x46A6B707 = .ok (.sarConst 21 6 0xb7) ∧
  decode 0x44DBB708 = .ok (.mulConst 6 27 0xb7) ∧ decode 0x4775B709 = .ok (.sltConst 27 21 0xb7) ∧
  decode 0x46A6B70A = .ok (.sltnConst 21 6 0xb7) ∧ decode 0x44DBB70B = .ok (.minConst 6 27 0xb7) ∧
  decode 0x4775B70C = .ok (.maxConst 27 21 0xb7) ∧ decode 0x46A6B70D = .ok (.minnConst 21 6 0xb7) ∧
  decode 0x44DBB70E = .ok (.maxnConst 6 27 0xb7) ∧ decode 0x4775B70F = .ok (.mulhConst 27 21 0xb7) ∧
  decode 0x46A6B710 = .ok (.mulhnConst 21 6 0xb7) ∧ decode 0x44DBB711 = .ok (.divConst 6 27 0xb7) ∧
  decode 0x4775B712 = .ok (.divnConst 27 21 0xb7) ∧ decode 0x46A6B713 = .ok (.remConst 21 6 0xb7) ∧
  decode 0x44DBB714 = .ok (.remnConst 6 27 0xb7) :=
  ⟨rfl, rfl, rfl, rfl, rfl, rfl, rfl, rfl, rfl, rfl, rfl, rfl, rfl, rfl, rfl, rfl, rfl, rfl, rfl, rfl, rfl⟩

theorem test_decode_lane_immediates :
  decode 0x4B758A31 = .ok (.addi 27 21 0x8a31) ∧ decode 0x4EA68A31 = .ok (.andi 21 6 0x8a31) ∧
  decode 0x50DB8A31 = .ok (.ori 6 27 0x8a31) ∧ decode 0x57758A31 = .ok (.xori 27 21 0x8a31) ∧
  decode 0x5AA6002C = .ok (.shli 21 6 44) ∧ decode 0x58DB0125 = .ok (.shri 6 27 37) ∧
  decode 0x5B75022C = .ok (.sari 27 21 44) ∧ decode 0x5EA08A31 = .ok (.li 21 0x8a31) ∧
  decode 0x60DB8A31 = .ok (.lui 6 27 0x8a31) :=
  ⟨rfl, rfl, rfl, rfl, rfl, rfl, rfl, rfl, rfl⟩

theorem test_decode_lane_float :
  decode 0x67753200 = .ok (.fadd 27 21 6 .b) ∧ decode 0x66A6D801 = .ok (.fsub 21 6 27 .no) ∧
  decode 0x64DBAC02 = .ok (.fmul 6 27 21 .a) ∧ decode 0x67753203 = .ok (.fdiv 27 21 6 .b) ∧
  decode 0x66A6D804 = .ok (.fma 21 6 27 .no) ∧ decode 0x64DBAC05 = .ok (.fmin 6 27 21 .a) ∧
  decode 0x67753206 = .ok (.fmax 27 21 6 .b) ∧ decode 0x66A6D807 = .ok (.feq 21 6 27 .no) ∧
  decode 0x64DBAC08 = .ok (.flt 6 27 21 .a) ∧ decode 0x67753209 = .ok (.fle 27 21 6 .b) ∧
  decode 0x66A6000A = .ok (.fabs 21 6 false) ∧ decode 0x64DB040B = .ok (.fneg 6 27 true) ∧
  decode 0x6775000C = .ok (.fcvti 27 21 false) ∧ decode 0x66A6040D = .ok (.icvtf 21 6 true) :=
  ⟨rfl, rfl, rfl, rfl, rfl, rfl, rfl, rfl, rfl, rfl, rfl, rfl, rfl, rfl⟩

theorem test_decode_lane_moves :
  decode 0x68C90000 = .ok (.hget 6 9) ∧ decode 0x681B0001 = .ok (.tail 27) ∧ decode 0x6AA61002 = .ok (.cmov 21 6 2) ∧
  decode 0x68C20803 = .ok (.movmg 6 2 true) ∧ decode 0x68550004 = .ok (.movgm 2 21 false) :=
  ⟨rfl, rfl, rfl, rfl, rfl⟩

theorem test_decode_lane_memory :
  decode 0x6EA6A5C5 = .ok (.ld 21 6 0xa5c .h true) ∧ decode 0x7375A5CE = .ok (.st 27 21 0xa5c .d true) ∧
  decode 0x76A6B460 = .ok (.ldv 21 6 0x5a3 false) ∧ decode 0x74DBB472 = .ok (.stv 6 27 0x5a3 true) ∧
  decode 0x7B75A5C8 = .ok (.ldp 27 21 0xa5c .w) ∧ decode 0x7AA6A5CD = .ok (.stp 21 6 0xa5c .d) ∧
  decode 0x78DBA5CE = .ok (.ldpv 6 27 0xa5c) ∧ decode 0x7B75A5CF = .ok (.stpv 27 21 0xa5c) :=
  ⟨rfl, rfl, rfl, rfl, rfl, rfl, rfl, rfl⟩

theorem test_decode_landing :
  decode 0x7EA6B46A = .ok (.ldl 21 6 0x5a3 .w 2) ∧ decode 0x7CDBB47E = .ok (.ldlv 6 27 0x5a3 2) ∧
  decode 0x82BB0800 = .ok (.take 21 27 1) ∧ decode 0x80DB1001 = .ok (.takeo 6 27 2) ∧
  decode 0x83750802 = .ok (.takev 27 21 1) ∧ decode 0x82A00803 = .ok (.lcnt 21 1) ∧ decode 0x80000804 = .ok (.ldrop 1) :=
  ⟨rfl, rfl, rfl, rfl, rfl, rfl, rfl⟩

theorem test_decode_atomics_ordering :
  decode 0x877530F6 = .ok (.amo .minn true .ar 27 21 6) ∧ decode 0x877530FF = .ok (.cas true .ar 27 21 6) ∧
  decode 0x8806D824 = .ok (.red .min false false 6 27) ∧ decode 0x8C000000 = .ok (.fence) ∧
  decode 0x8C000001 = .ok (.drainst) ∧ decode 0x8C003002 = .ok (.bar 6) ∧ decode 0x8C15D803 = .ok (.bari 27 21) ∧
  decode 0x8C00A804 = .ok (.bara 21) ∧ decode 0x8C003005 = .ok (.barw 6) :=
  ⟨rfl, rfl, rfl, rfl, rfl, rfl, rfl, rfl, rfl⟩

theorem test_decode_vector_arithmetic :
  decode 0x93753200 = .ok (.vadd 27 21 6 .b) ∧ decode 0x92A6D801 = .ok (.vsub 21 6 27 .no) ∧
  decode 0x90DBAC02 = .ok (.vmul 6 27 21 .a) ∧ decode 0x93753203 = .ok (.vfma 27 21 6 .b) ∧
  decode 0x92A6D804 = .ok (.vmin 21 6 27 .no) ∧ decode 0x90DBAC05 = .ok (.vmax 6 27 21 .a) ∧
  decode 0x93750406 = .ok (.vabs 27 21 true) ∧ decode 0x92A60007 = .ok (.vneg 21 6 false) ∧
  decode 0x94DBAC00 = .ok (.vand 6 27 21 .a) ∧ decode 0x97753201 = .ok (.vor 27 21 6 .b) ∧
  decode 0x96A6D802 = .ok (.vxor 21 6 27 .no) ∧ decode 0x94DB0003 = .ok (.vnot 6 27 false) ∧
  decode 0x97753204 = .ok (.vshl 27 21 6 .b) ∧ decode 0x96A6D805 = .ok (.vshr 21 6 27 .no) ∧
  decode 0x94DBAC06 = .ok (.vsar 6 27 21 .a) :=
  ⟨rfl, rfl, rfl, rfl, rfl, rfl, rfl, rfl, rfl, rfl, rfl, rfl, rfl, rfl, rfl⟩

theorem test_decode_vector_masks :
  decode 0x9866DA02 = .ok (.vcmp .lt 3 6 27 .b) ∧ decode 0x9AA6D810 = .ok (.vsel 21 6 27 .no) ∧
  decode 0x98A21820 = .ok (.mand 5 2 3) ∧ decode 0x98432821 = .ok (.mor 2 3 5) ∧ decode 0x98651022 = .ok (.mxor 3 5 2) ∧
  decode 0x98A20023 = .ok (.mnot 5 2) ∧ decode 0x98550024 = .ok (.mset 2 21) :=
  ⟨rfl, rfl, rfl, rfl, rfl, rfl, rfl⟩

theorem test_decode_vector_conversion :
  decode 0x9EA60400 = .ok (.vcvt 21 6 true) ∧ decode 0x9CDBAC01 = .ok (.vquant 6 27 21 .a) ∧
  decode 0x9F753202 = .ok (.vdeq 27 21 6 .b) ∧ decode 0xA2A60000 = .ok (.vrcp 21 6 false) ∧
  decode 0xA0DB0401 = .ok (.vrsq 6 27 true) ∧ decode 0xA3750002 = .ok (.vsqrt 27 21 false) ∧
  decode 0xA2A6D803 = .ok (.vdiv 21 6 27 .no) ∧ decode 0xA0DB0004 = .ok (.vexp2 6 27 false) ∧
  decode 0xA3750405 = .ok (.vlog2 27 21 true) ∧ decode 0xA2A60006 = .ok (.vsin 21 6 false) ∧
  decode 0xA0DB0407 = .ok (.vcos 6 27 true) ∧ decode 0xA3750008 = .ok (.vtanh 27 21 false) :=
  ⟨rfl, rfl, rfl, rfl, rfl, rfl, rfl, rfl, rfl, rfl, rfl, rfl⟩

theorem test_decode_vector_lanes :
  decode 0xA6A60000 = .ok (.vbcast 21 6) ∧ decode 0xA4DBA801 = .ok (.vext 6 27 21) ∧ decode 0xA7753002 = .ok (.vins 27 21 6) ∧
  decode 0xA6A6D803 = .ok (.vperm 21 6 27) ∧ decode 0xA4DBA804 = .ok (.vrot 6 27 21) ∧ decode 0xA7600005 = .ok (.viota 27) ∧
  decode 0xA6A50006 = .ok (.vpop 21 5) ∧ decode 0xAB750001 = .ok (.vred .min 27 21) :=
  ⟨rfl, rfl, rfl, rfl, rfl, rfl, rfl, rfl⟩

theorem test_decode_vector_constants :
  decode 0xAF75B700 = .ok (.vaddConst 27 21 0xb7) ∧ decode 0xAEA6B701 = .ok (.vsubConst 21 6 0xb7) ∧
  decode 0xACDBB702 = .ok (.vmulConst 6 27 0xb7) ∧ decode 0xAF75B704 = .ok (.vminConst 27 21 0xb7) ∧
  decode 0xAEA6B705 = .ok (.vmaxConst 21 6 0xb7) ∧ decode 0xACDBB710 = .ok (.vandConst 6 27 0xb7) ∧
  decode 0xAF75B711 = .ok (.vorConst 27 21 0xb7) ∧ decode 0xAEA6B712 = .ok (.vxorConst 21 6 0xb7) ∧
  decode 0xACDBB714 = .ok (.vshlConst 6 27 0xb7) ∧ decode 0xAF75B715 = .ok (.vshrConst 27 21 0xb7) ∧
  decode 0xAEA6B716 = .ok (.vsarConst 21 6 0xb7) :=
  ⟨rfl, rfl, rfl, rfl, rfl, rfl, rfl, rfl, rfl, rfl, rfl⟩

theorem test_decode_press :
  decode 0xB0AD14C3 = .ok (.mma .mp .bf16 37 5 2 3) ∧ decode 0xB000002C = .ok (.mzero 44) ∧
  decode 0xB006D8A5 = .ok (.mload 37 6 27) ∧ decode 0xB0C0A925 = .ok (.mdrain 6 37 21) ∧ decode 0xB0000180 = .ok (.mwait) ∧
  decode 0xB2A00200 = .ok (.mstat 21) :=
  ⟨rfl, rfl, rfl, rfl, rfl, rfl⟩

theorem test_decode_rings_hatch :
  decode 0xB41BA805 = .ok (.rcfg 5 27 21) ∧ decode 0xB4150102 = .ok (.rpush 2 21) ∧ decode 0xB6A00205 = .ok (.rstat 21 5) ∧
  decode 0xB8150006 = .ok (.hopen true 2 21) ∧ decode 0xB800011A = .ok (.htake 2 3) ∧ decode 0xB8153200 = .ok (.hput 21 6) ∧
  decode 0xB8000302 = .ok (.hshut 2) ∧ decode 0xB8000400 = .ok (.hwait) ∧ decode 0xBAA00500 = .ok (.hstat 21) :=
  ⟨rfl, rfl, rfl, rfl, rfl, rfl, rfl, rfl, rfl⟩

theorem test_decode_copy_engine :
  decode 0xBCDBA891 = .ok (.copy .remote .global 1 6 27 21) ∧ decode 0xBEA6D9A9 = .ok (.cred .max .i32 true 1 21 6 27) ∧
  decode 0xBC000200 = .ok (.cseal) ∧ decode 0xBC00030C = .ok (.cwait 12) ∧ decode 0xBF600402 = .ok (.cptr 27 2) ∧
  decode 0xBC153500 = .ok (.cjoin 21 6) ∧ decode 0xBC060600 = .ok (.cleave 6) :=
  ⟨rfl, rfl, rfl, rfl, rfl, rfl, rfl⟩

theorem test_decode_system :
  decode 0xC016A800 = .ok (.bkptLane 0x2d5) ∧ decode 0xC016A801 = .ok (.trap 0x2d5) ∧
  decode 0xC0DBA802 = .ok (.estat 6 27 21) ∧ decode 0xC3750003 = .ok (.dbgr 27 21) ∧ decode 0xC0153004 = .ok (.dbgw 21 6) :=
  ⟨rfl, rfl, rfl, rfl, rfl⟩

/-! WellFormed: one ill-formed term for each check. -/

theorem test_wf_px : (Instr.px ⟨0, false, 6, 0, 0, 0, false, false, 0⟩).illFormed = some .pxField := rfl
theorem test_wf_loop : (Instr.loop 1 1).illFormed = some .loopOffset := rfl
theorem test_wf_tileget : (Instr.tileget 15 1).illFormed = some .tilegetRegister := rfl
theorem test_wf_mask : (Instr.vcmp .eq 0 1 2 .no).illFormed = some .maskZero := rfl
theorem test_wf_take : (Instr.take 3 3 0).illFormed = some .takeSame := rfl
theorem test_wf_atomic : (Instr.amo .fadd true .plain 1 2 3).illFormed = some .atomic := rfl
theorem test_wf_pair : (Instr.mload 0 3 1).illFormed = some .oddPair := rfl
theorem test_wf_mma : (Instr.mma .pt .d8s 0 1 1 0).illFormed = some .mma := rfl
theorem test_wf_ring : (Instr.copy .pool .ring 0 8 1 2).illFormed = some .ringNumber := rfl
theorem test_wf_good : (Instr.mma .pt .d8 0 1 1 3).wellFormed = true := rfl

theorem test_refused_words :
    (decode 0x200).toOption = none ∧ (decode 0x40210E00).toOption = none ∧ (decode 0x21800000).toOption = none ∧
    (decode 0xC4000000).toOption = none ∧ (decode 0xB0000280).toOption = none ∧ (decode 0xBC0000C0).toOption = none := by
  refine ⟨?_, ?_, ?_, ?_, ?_, ?_⟩ <;> rfl

/-! Witnesses: for each statement with hypotheses, a state and operands that meet them, clause by clause. -/

/-- Row 0, slot 0: the one task of a job, at 0x10000 at task level, with 0x10000 mapped. -/
def base : State := probeJobIn none (probeTables State.reset)

/-- That state with another head. -/
def headed (f : Head → Head) : State := setMe base (f (me base))

/-- A head with h1 set. -/
def h1is (v : Word) (h : Head) : Head := { h with h := h.h.set 1 v }

/-- A leaf of the page at 0x10000, readable, in host memory. -/
def hostLeaf : TlbEntry := ⟨0, 0, 0x10000, 0x10000, 2 ^ 48, true, true, false, false, ⟨false, false, 0, true⟩⟩

theorem witness_ready : HeadReady base [1, 2, 15] ∧ HeadDrained base [1, 2, 15] ∧ me base ≠ Head.reset := by
  simp only [HeadDrained, HeadReady, hSound]; decide

theorem witness_StepRunsDecoded :
    let s := State.reset.withFetchWord 32 0x04C6FFFF
    NextWord s 0 0 ∧ breakDue (getHead s 0 0) = false ∧
    (∃ e, headXlate s 0 .fetch ((getHead s 0 0).pc.setWidth 64) = .ok (0x10000, ⟨false, false, 0, false⟩, e)) ∧
    physBad s 0x10000 4 = none ∧ decode (physRdN s none 0x10000 4) = .ok (.addiHead 6 6 0xFFFF) := by
  refine ⟨?_, ?_, ⟨_, rfl⟩, ?_, rfl⟩
  · simp only [NextWord, NoWalk]; decide
  · decide
  · decide
theorem witness_event : { base with agenda := [.event (.routeChange ⟨3, 11, true⟩)] }.agenda = [.event (.routeChange ⟨3, 11, true⟩)] ∧
  (Instr.routeChange ⟨3, 11, true⟩).isEvent = true := ⟨rfl, rfl⟩
/-- A lane instruction on its way. -/
def flying : Flight := ⟨.viota 1, Px.none, 0x10000, 1, 0, 0, 1, false, 0, 3, [], 0, false, none, none⟩

theorem witness_StepTraps_break : ∃ s : State, NextWord s 0 0 ∧ (getHead s 0 0).handler = false ∧ (getHead s 0 0).tvec ≠ 0 ∧
    isIn 0x801 (getHead s 0 0).poison = false ∧ breakDue (getHead s 0 0) = true := by
  refine ⟨headed fun h => { h with tvec := 4, skipBreak := none, bka := h.bka.set 3 0x10001 }, ?_, ?_⟩
  · simp only [NextWord, NoWalk]; decide
  · decide
theorem witness_StepTraps_fetch : ∃ s : State, NextWord s 0 0 ∧ (getHead s 0 0).handler = false ∧ (getHead s 0 0).tvec ≠ 0 ∧
    isIn 0x801 (getHead s 0 0).poison = false ∧ breakDue (getHead s 0 0) = false ∧ headXlate s 0 .fetch 0x20000 = .error .xlateAbsent ∧ (getHead s 0 0).pc = 0x20000 := by
  refine ⟨headed fun h => { h with tvec := 4, pc := 0x20000 }, ?_, ?_, ?_, ?_, ?_, rfl, ?_⟩
  · simp only [NextWord, NoWalk]; decide
  all_goals decide
theorem witness_StepTraps_words (poison : List Nat) (hp : poison = [0x400] ∨ poison = []) :
    let s : State := { State.reset.withFetchWord 32 0x200 with memPoison := poison }
    let t : State := modHead s 0 0 fun h => { h with tvec := 4 }
    NextWord t 0 0 ∧ (getHead t 0 0).handler = false ∧ (getHead t 0 0).tvec ≠ 0 ∧
    isIn 0x801 (getHead t 0 0).poison = false ∧ breakDue (getHead t 0 0) = false ∧
    (∃ e, headXlate t 0 .fetch ((getHead t 0 0).pc.setWidth 64) = .ok (0x10000, ⟨false, false, 0, false⟩, e)) ∧
    (physBad t 0x10000 4).isSome = decide (poison ≠ []) ∧ ∃ x, decode (physRdN t none 0x10000 4) = .error x := by
  obtain rfl | rfl := hp
  all_goals
    refine ⟨?_, ?_, ?_, ?_, ?_, ⟨_, rfl⟩, ?_, ⟨_, rfl⟩⟩
    · simp only [NextWord, NoWalk]; decide
    all_goals decide
theorem witness_DecodeEncode : (Instr.mma .pt .d8 63 1 7 15).isEvent = false ∧ (Instr.mma .pt .d8 63 1 7 15).wellFormed = true := ⟨rfl, rfl⟩
set_option maxRecDepth 10000 in
theorem witness_InvariantKept : Kept base ∧ ∃ t, step base = .next t := by
  refine ⟨?_, _, rfl⟩
  simp only [Kept]; decide
theorem witness_Jumps (v : Word) (hv : v = 0 ∨ v = 0xFFFFFFFFFFFC ∨ v = 0x1000000000000 ∨ v = 0x10002) :
    let s := headed fun h => { h1is v h with tvec := 4 }
    HeadReady s [1] ∧ HeadDrained s [1] ∧ CanTrap s ∧ rdH (me s) 1 = v := by
  obtain rfl | rfl | rfl | rfl := hv
  all_goals simp only [HeadDrained, HeadReady, hSound, CanTrap]; decide
theorem witness_LoopOpens (n : Word) (hn : n = 0 ∨ n = 5) :
    let s := headed (h1is n)
    HeadReady s [1] ∧ (me s).handler = false ∧
    ¬ ((me s).loopc ≠ 0 ∧ (me s).loops.toNat ≤ (me s).pc.toNat ∧ (me s).pc.toNat < (me s).loope.toNat) ∧ rdH (me s) 1 = n ∧
    2 ≤ (2 : BitVec 12).toNat ∧ (2047 : BitVec 12).toNat ≤ 2047 := by
  obtain rfl | rfl := hn
  all_goals simp only [HeadReady, hSound]; decide
theorem witness_LoopBack (n : Word) (e : Word) (hn : (n = 1 ∧ e = 0x10004) ∨ (n = 2 ∧ e = 0x10004) ∨ (n = 2 ∧ e = 0x10008)) :
    let s := headed fun h => { h with loopc := n, loops := 0xFFF8, loope := e }
    HeadReady s [] ∧ (me s).handler = false ∧ (me s).loopc ≠ 0 ∧ ((me s).pc + 4).setWidth 64 = (0x10004 : Word) ∧ (me s).loope = e := by
  obtain ⟨rfl, rfl⟩ | ⟨rfl, rfl⟩ | ⟨rfl, rfl⟩ := hn
  all_goals simp only [HeadReady, hSound]; decide
theorem witness_HeadMemory :
    let s := headed (h1is 0x1FFF8)
    HeadReady s [1, 2] ∧ 8 ∣ (rdH (me s) 1 + BitVec.ofInt 64 (8 * (0 : BitVec 12).toInt)).toNat ∧
    (∃ a e, headXlate s s.curRow .read 0x1FFF8 = .ok (0x1FFF8, a, e)) ∧ ∃ a e, headXlate s s.curRow .write 0x1FFF8 = .ok (0x1FFF8, a, e) := by
  refine ⟨?_, ?_, ⟨_, _, rfl⟩, ⟨_, _, rfl⟩⟩
  · simp only [HeadReady, hSound]; decide
  · decide
theorem witness_HeadAccessTraps (v : Word) (hv : v = 0x10004 ∨ v = 0x20000) :
    let s := headed fun h => { h1is v h with tvec := 4 }
    HeadDrained s [1, 2] ∧ CanTrap s ∧ (rdH (me s) 1 + BitVec.ofInt 64 (8 * (0 : BitVec 12).toInt)) = v ∧
    (8 ∣ v.toNat ↔ v = 0x20000) ∧ pendingTrap s s.curRow s.curSlot = none ∧ headXlate s s.curRow .read 0x20000 = .error .xlateAbsent ∧
    headXlate s s.curRow .write 0x20000 = .error .xlateAbsent := by
  obtain rfl | rfl := hv
  all_goals
    refine ⟨?_, ?_, ?_, ?_, rfl, rfl, rfl⟩
    · simp only [HeadDrained, HeadReady, hSound]; decide
    · simp only [CanTrap]; decide
    all_goals decide
theorem witness_publish :
    let s := headed fun h => { h1is 0x10008 h with tvec := 4 }
    let t := modRow s 0 fun x => { x with itlb := [hostLeaf] }
    (HeadDrained s [1] ∧ CanTrap s ∧ rdH (me s) 1 = 0x10008 ∧ ∃ a e, headXlate s s.curRow .write 0x10008 = .ok (0x10008, a, e) ∧ a.host = false) ∧
    HeadDrained t [1] ∧ rdH (me t) 1 = 0x10008 ∧ headXlate t t.curRow .write 0x10008 = .ok (2 ^ 48 + 8, hostLeaf.attr, hostLeaf) ∧
    hostLeaf.attr.host = true ∧ hostWaits (itlbFill t t.curRow hostLeaf) t.curRow t.curSlot = false ∧
    pendingTrap s s.curRow s.curSlot = none ∧ pendingTrap t t.curRow t.curSlot = none := by
  refine ⟨⟨?_, ?_, ?_, ⟨_, _, rfl, rfl⟩⟩, ?_, ?_, rfl, rfl, ?_, rfl, rfl⟩
  · simp only [HeadDrained, HeadReady, hSound]; decide
  · simp only [CanTrap]; decide
  · decide
  · simp only [HeadDrained, HeadReady, hSound]; decide
  all_goals decide


theorem witness_StrandControl (n : Word) (hn : n = 0 ∨ n = 16777216) :
    let s := headed fun h => { h1is n h with tailQ := [7] }
    HeadReady s [1] ∧ (me s).flights = [] ∧ min (rdH (me s) 1).toNat 16777215 = min n.toNat 16777215 ∧ (me s).tailQ = 7 :: [] := by
  obtain rfl | rfl := hn
  all_goals simp only [HeadReady, hSound]; decide
theorem witness_yield :
    let other (s : State) (t : Nat) : Prop := t < 8 ∧ t ≠ s.curSlot ∧ able s s.curRow t = true
    HeadReady base [] ∧ (∀ t, ¬ other base t) ∧ other (modHead base 0 7 fun h => { h with task := some 7 }) 7 := by
  have h : ∀ t < 8, t ≠ base.curSlot → able base base.curRow t = false := by decide
  refine ⟨?_, fun t ⟨ht, hn, ha⟩ => ?_, by decide⟩
  · simp only [HeadReady, hSound]; decide
  · rw [h t ht hn] at ha
    cases ha
theorem witness_HeadWaits :
    let s := headed fun h => { h with flights := [flying] }
    HeadReady s [1] ∧ (me s).flights ≠ [] ∧ HeadReady base [1] ∧ (me base).tailQ = [] ∧ (me base).flights = [] ∧ (me base).mailbox = [] ∧
    pendingTrap base base.curRow base.curSlot = none := by
  refine ⟨?_, ?_, ?_, rfl, rfl, rfl, rfl⟩
  · simp only [HeadReady, hSound]; decide
  · decide
  · simp only [HeadReady, hSound]; decide
theorem witness_TaskExit : HeadDrained base [1] ∧ exitWaits base base.curRow base.curSlot = false ∧
    pendingTrap base base.curRow base.curSlot = none ∧ (me base).task = some 0 ∧ rowJob base base.curRow = some (0, probeJob) := by
  refine ⟨?_, ?_, rfl, rfl, rfl⟩
  · simp only [HeadDrained, HeadReady, hSound]; decide
  · decide
theorem witness_TrapStops : HeadDrained base [] ∧ (me base).tvec = 0 ∧ (me base).task = some 0 ∧
    rowJob base base.curRow = some (0, probeJob) ∧ (me (headed fun h => { h with handler := true, tvec := 4 })).handler = true ∧
    isIn 0x801 (me (headed fun h => { h with tvec := 4, poison := [0x801] })).poison = true := by
  simp only [HeadDrained, HeadReady, hSound]; decide
theorem witness_SoftwareTraps :
    let s := headed fun h => { h with tvec := 4 }
    let t := headed fun h => { h with handler := true }
    HeadDrained s [] ∧ CanTrap s ∧ HeadDrained t [] ∧ (me t).handler = true := by
  simp only [HeadDrained, HeadReady, CanTrap, hSound]; decide
theorem witness_TrapReturns (pp : Bool) :
    let p : Px := { Px.none with rm := 3 }
    let s := headed fun h => { h1is 0x10010 h with handler := true, tpc := 0x10010, pp := pp, pxs := BitVec.ofNat 32 (fmtPx p) }
    HeadDrained s [1] ∧ (me s).handler = true ∧ 4 ∣ (rdH (me s) 1).toNat ∧ (rdH (me s) 1).toNat < 2 ^ 48 ∧
    (∀ c < 16, (laneAt s c).retry = []) ∧ (me s).pxs.toNat = fmtPx p ∧ (Instr.px p).wellFormed = true ∧ (me s).pp = pp ∧
    (me s).tpc = rdH (me s) 1 ∧
    (∀ n ∈ [0x800, 0x803, 0x804, 0x805, 0x813, 0x814, 0x815], isIn n (me s).poison = false) := by
  cases pp
  all_goals simp only [HeadDrained, HeadReady, hSound]; decide
theorem witness_HandlerOnly : HeadDrained (headed fun h => { h with tvec := 4 }) [1] ∧ CanTrap (headed fun h => { h with tvec := 4 }) := by
  simp only [HeadDrained, HeadReady, CanTrap, hSound]; decide
theorem witness_Csrs : HeadReady base [1] ∧ isIn (0x800 + csrNumber .hsave1) (me base).poison = false ∧
    Csr.bka3 ∈ [Csr.sst, Csr.tvec, Csr.bka0, Csr.bka1, Csr.bka2, Csr.bka3] ∧
    (me (headed fun h => { h with handler := true })).handler = true ∧ Csr.sst ≠ Csr.cycle := by
  simp only [HeadReady, hSound]; decide

/-- The job with a group of its one task and, with another member, of a task of a team elsewhere. -/
def grouped (many : Bool) : State :=
  modPart base 0 fun x => { x with job := some { probeJob with groups := [(0, ⟨if many then [0, 9] else [0], 0, []⟩)] } }

theorem witness_Groups (k : Word) (hk : k = 0 ∨ k = 1) (v many : Bool) :
    let s := setMe (grouped many) { h1is k (me (grouped many)) with tvec := 4, handler := v }
    HeadReady s [1, 1] ∧ HeadDrained s [1, 1] ∧ (v = false → CanTrap s) ∧ (me s).flights = [] ∧ releaseDue s s.curRow s.curSlot = false ∧
    isMember s ((getRow s s.curRow).part.getD 0) (rdH (me s) 1).toNat ((me s).task.getD 0) = decide (k = 0) ∧
    (me s).handler = v ∧ pendingTrap s s.curRow s.curSlot = none ∧ (∃ j, rowJob s s.curRow = some (0, j) ∧ j.ended = []) ∧
    (me s).task = some 0 ∧ (me s).why = 0 := by
  obtain rfl | rfl := hk <;> cases v <;> cases many
  all_goals
    refine ⟨?_, ?_, ?_, ?_, ?_, ?_, ?_, rfl, ⟨_, rfl, rfl⟩, rfl, rfl⟩
    · simp only [HeadReady, hSound]; decide
    · simp only [HeadDrained, HeadReady, hSound]; decide
    · simp only [CanTrap]; decide
    all_goals decide
theorem member_only {s : State} {j : Job} {k : Nat} (hj : (getPart s 0).job = some j)
    (hg : (tget j.groups 0 ⟨[], 0, []⟩).members = [0]) (h : isMember s 0 0 k = true) : k = 0 := by
  unfold isMember at h
  rw [hj, Bool.and_eq_true, Bool.and_eq_true] at h
  have h := h.1.2
  dsimp only at h
  rw [hg] at h
  exact (by simpa using h : 0 = k).symm

theorem witness_Groups_others (leaving : Bool) :
    let s := modHead (setMe (grouped true) { h1is 0 (me (grouped true)) with handler := true }) 1 0 fun h =>
      { h with task := some 9, wait := if leaving then .exit else .no }
    let t := setMe (grouped false) { h1is 0 (me (grouped false)) with handler := true }
    let u := modRow s 1 fun x => { x with part := some 0, phase := .placed, resident := some 9 }
    (isMember u 0 0 9 = true ∧ exiting u 0 9 = leaving ∧ ∀ r, (getRow u r).part = some 0 ∨ (getRow u r).resident = none) ∧
    ∀ k, ¬ (k ≠ 0 ∧ isMember t 0 0 k = true) := by
  refine ⟨⟨by cases leaving <;> decide, by cases leaving <;> decide, fun r => ?_⟩, fun k ⟨hk, hm⟩ => ?_⟩
  · by_cases h : r < 2
    · left
      interval_cases r <;> cases leaving <;> decide
    · right
      cases leaving <;> rcases r with _ | _ | r <;> first | omega | rfl
  · exact hk (member_only rfl rfl hm)
theorem witness_Mailboxes : HeadReady (headed fun h => { h with mailbox := [7] }) [1, 2] ∧
    (me (headed fun h => { h with mailbox := [7] })).mailbox = 7 :: [] ∧
    (me (headed fun h => { h with mailbox := [7] })).flights = [] ∧
    releaseDue (headed fun h => { h with mailbox := [7] }) 0 0 = false ∧
    pendingTrap (headed fun h => { h with mailbox := [7] }) 0 0 = none := by
  refine ⟨?_, rfl, rfl, ?_, rfl⟩
  · simp only [HeadReady, hSound]; decide
  · decide
theorem witness_Services (d : BitVec 4) (hd : d = 1 ∨ d = 14) :
    let s := headed fun h => { h1is 15 h with tvec := 4 }
    let t := { s with dispensers := [⟨0, 0, 15, 0, 0, 4, 4, 1, 1, 0⟩] }
    HeadDrained s [1] ∧ HeadDrained t [1] ∧ 1 ≤ d.toNat ∧ d.toNat ≤ 14 ∧ CanTrap s ∧ s.dispensers = [] ∧
    (∃ x ∈ t.dispensers, x.part = (getRow t t.curRow).part.getD 0 ∧ x.die = dieOfRow t.curRow ∧ x.num = (rdH (me t) 1).toNat) ∧
    pendingTrap s s.curRow s.curSlot = none ∧ pendingTrap t t.curRow t.curSlot = none := by
  obtain rfl | rfl := hd
  all_goals
    refine ⟨?_, ?_, by decide, by decide, ?_, rfl, ?_, rfl, rfl⟩
    all_goals simp only [HeadDrained, HeadReady, CanTrap, hSound]; decide
theorem witness_Prefix (b : Bool) :
    let p : Px := { Px.none with rm := 5, fa := 13 }
    let s := headed fun h => { h with tvec := 4, loopc := if b then 1 else 0, loope := 0x10004 }
    let t := headed fun h => { h with tvec := 4, pend := some p }
    (Instr.px p).wellFormed = true ∧ HeadReady s [] ∧ HeadDrained s [] ∧ CanTrap s ∧ atLoopEnd (me s) = b ∧
    (me t).commit = none ∧ (me t).wait = .no ∧ (me t).flights = [] ∧ (me t).pend = some p ∧ CanTrap t := by
  cases b
  all_goals simp only [HeadDrained, HeadReady, CanTrap, hSound]; decide
theorem witness_HeadFrame : HeadReady base [1, 2] ∧ (∃ t, exec (.addHead 3 1 2) base = .next t) ∧ (∃ t, exec (.beq 1 2 5) base = .next t) ∧
    (∃ t, exec (.call 5) base = .next t) ∧ (∃ t, exec (.jr 1 3) base = .next t) ∧ 4 ∣ (rdH (me base) 1).toNat := by
  refine ⟨?_, ⟨_, rfl⟩, ⟨_, rfl⟩, ⟨_, rfl⟩, ⟨_, rfl⟩, ?_⟩
  · simp only [HeadReady, hSound]; decide
  · decide

/-- The strand of slot 0 of row 0 with a prefix read and a lane of its own at every column, all cores alike; hd: at handler level. -/
def lanedBy (hd : Bool) (p : Option Px) (l : Nat → Lane) (k : Core) : State :=
  { headed fun h => { h with pend := p, tvec := 4, handler := hd } with
    lanes := (List.range 16).map fun c => (8 * c, l c), cores := (List.range 16).map fun c => (c, k) }

/-- The same with all lanes alike. -/
abbrev laned (hd : Bool) (p : Option Px) (l : Lane) (k : Core) : State := lanedBy hd p (fun _ => l) k

theorem laned_lane (hd : Bool) (p : Option Px) (l : Nat → Lane) (k : Core) : ∀ c < 16, laneAt (lanedBy hd p l k) c = l c := by
  intro c hc
  interval_cases c <;> rfl

theorem laned_core (hd : Bool) (p : Option Px) (l : Nat → Lane) (k : Core) : ∀ c < 16, coreAt (lanedBy hd p l k) c = k := by
  intro c hc
  interval_cases c <;> rfl

theorem laned_all {hd : Bool} {p : Option Px} {l : Lane} {k : Core} {P : Lane → Core → Prop} (h : P l k) :
    ∀ c < 16, P (laneAt (laned hd p l k) c) (coreAt (laned hd p l k) c) := fun c hc => by
  rw [laned_lane _ _ _ _ c hc, laned_core _ _ _ _ c hc]
  exact h

/-- Nothing due at a core, nothing to be issued again, nothing poisoned, and no vector instruction in its second cycle or later. -/
def Calm (l : Lane) : Prop := l.events = [] ∧ l.recs = [] ∧ l.poison = [] ∧ l.retry = [] ∧ l.vecUntil = 0

/-- Every register is full. -/
def Full (l : Lane) : Prop := l.gFill = Vector.replicate 32 0 ∧ l.vFill = Vector.replicate 32 0

theorem level_ready {hd : Bool} {p : Option Px} {l : Nat → Lane} {k : Core} {i : Instr}
    (hi : laneLegal 0x24001 hd i (p.getD Px.none) = true) (hl : ∀ c, Calm { l c with retry := [] }) (hr : hd = true ∨ ∀ c, (l c).retry = [])
    (hk : k.poolPoison = []) (hw : ∀ c, westReady (l c) i) : LaneReady (lanedBy hd p l k) i := by
  have hp : ∀ ns, headPoison (me (lanedBy hd p l k)) ns = none := fun ns => by
    have : (me (lanedBy hd p l k)).poison = [] := rfl
    simp [headPoison, this, isIn]
  refine ⟨(by decide : 0 < 32), (by decide : 0 < 8), rfl, rfl, rfl, rfl, rfl, hi, hp _, fun c hc => ?_⟩
  rw [laned_lane hd p l k c hc]
  refine ⟨(hl c).1, (hl c).2.1, hw c, .inr (by simp [show (l c).poison = [] from (hl c).2.2.1, isIn]), hr.imp_right fun h => h c, ?_, rfl, ?_⟩
  · unfold westSound
    rw [laned_core hd p l k c hc]
    split <;> simp [poolBad, hk, isIn]
  · have h := laned_lane hd p l k c hc
    have hu : ∀ t < 8, (getLane (lanedBy hd p l k) 0 c t).vecUntil = 0 := fun t ht => by
      by_cases h0 : t = 0
      · subst h0
        exact (congrArg Lane.vecUntil h).trans (hl c).2.2.2.2
      · interval_cases c <;> interval_cases t <;> first | exact absurd rfl h0 | rfl
    simp only [vecFree, upTo, Bool.or_eq_true, List.all_eq_true, List.mem_range, decide_eq_true_eq]
    exact .inr fun t ht => (hu t ht).le.trans (Nat.zero_le _)

theorem by_ready {hd : Bool} {p : Option Px} {l : Nat → Lane} {k : Core} {i : Instr}
    (hi : laneLegal 0x24001 hd i (p.getD Px.none) = true) (hl : ∀ c, Calm (l c)) (hk : k.poolPoison = []) (hw : ∀ c, westReady (l c) i) :
    LaneReady (lanedBy hd p l k) i :=
  level_ready hi (fun c => ⟨(hl c).1, (hl c).2.1, (hl c).2.2.1, rfl, (hl c).2.2.2.2⟩) (.inr fun c => (hl c).2.2.2.1) hk hw

theorem laned_ready {hd : Bool} {p : Option Px} {l : Lane} {k : Core} {i : Instr} (hi : laneLegal 0x24001 hd i (p.getD Px.none) = true)
    (hl : Calm l) (hk : k.poolPoison = []) (hw : westReady l i) : LaneReady (laned hd p l k) i :=
  by_ready hi (fun _ => hl) hk fun _ => hw

theorem full_west {l : Lane} (hl : Calm l) (hf : Full l) (i : Instr) : westReady l i := by
  unfold westReady
  split <;> simp [gEmpty, vEmpty, hl.2.2.1, hf.1, hf.2, isIn]

theorem by_runs {hd : Bool} {p : Option Px} {l : Nat → Lane} {k : Core} {i : Instr} {srcs : List Src}
    (hi : laneLegal 0x24001 hd i (p.getD Px.none) = true) (hl : ∀ c, Calm (l c)) (hk : k.poolPoison = []) (hf : ∀ c, Full (l c)) :
    VecRuns (lanedBy hd p l k) i srcs := by
  refine ⟨⟨by_ready hi hl hk fun c => full_west (hl c) (hf c) i, fun c hc q _ => ?_⟩, fun c hc => by rw [laned_core _ _ _ _ c hc, hk]⟩
  unfold sourceReady
  rw [laned_lane hd p l k c hc, laned_core hd p l k c hc]
  cases q <;> simp [srcEmpty, gEmpty, vEmpty, (hl c).2.2.1, (hf c).1, (hf c).2, isIn, poolBad, hk]

theorem laned_runs {hd : Bool} {p : Option Px} {l : Lane} {k : Core} {i : Instr} {srcs : List Src}
    (hi : laneLegal 0x24001 hd i (p.getD Px.none) = true) (hl : Calm l) (hk : k.poolPoison = []) (hf : Full l) :
    VecRuns (laned hd p l k) i srcs := by_runs hi (fun _ => hl) hk fun _ => hf

/-- A PX with formats: rm, mask, fa, fb, fd. -/
def formats (rm msk : BitVec 3) (fa fb fd : BitVec 4) : Option Px := some { Px.none with rm := rm, msk := msk, fa := fa, fb := fb, fd := fd }

theorem reset_calm : Calm Lane.reset := ⟨rfl, rfl, rfl, rfl, rfl⟩

/-- Each instruction of a list runs, with sources of every kind, under a prefix. -/
def AllRun (hd : Bool) (p : Option Px) (is : List Instr) : Prop :=
  ∀ i ∈ is, VecRuns (laned hd p Lane.reset Core.reset) i [.g 31 false, .g 0 false, .v 31 false, .v 0 false, .m 7]

theorem all_run {hd : Bool} {p : Option Px} {is : List Instr} (h : ∀ i ∈ is, laneLegal 0x24001 hd i (p.getD Px.none) = true) :
    AllRun hd p is :=
  fun i hi => laned_runs (h i hi) reset_calm rfl ⟨rfl, rfl⟩

theorem reset_noIv (hd : Bool) (p : Option Px) (k : Core) (b : Bool) (raises : Nat → Prop) : NoIv (laned hd p Lane.reset k) b raises :=
  fun c hc => .inl (by rw [laned_lane hd p _ k c hc]; rfl)

theorem witness_LaneInteger (w : West) (u : Bool) : AllRun false none
  [.add 31 0 31 w, .sub 31 0 31 w, .and 31 0 31 w, .or 31 0 31 w, .xor 31 0 31 w, .shl 31 0 31 w, .shr 31 0 31 w, .sar 31 0 31 w,
   .mul 31 0 31 w, .slt 31 0 31 w, .sltn 31 0 31 w, .min 31 0 31 w, .max 31 0 31 w, .minn 31 0 31 w, .maxn 31 0 31 w, .mulh 31 0 31 w,
   .mulhn 31 0 31 w, .div 31 0 31 w, .divn 31 0 31 w, .rem 31 0 31 w, .remn 31 0 31 w, .clz 31 0 u, .ctz 31 0 u, .popc 31 0 u] := all_run (by cases w <;> cases u <;> decide)
theorem witness_LaneConstants : (∀ k ≤ 255, ∀ c < 16, poolBad (coreAt (laned false none Lane.reset Core.reset) c) (8 * k) 8 = none) ∧
  AllRun false none [.addConst 31 0 255, .subConst 31 0 255, .andConst 31 0 255, .orConst 31 0 255, .xorConst 31 0 255, .shlConst 31 0 255,
   .shrConst 31 0 255, .sarConst 31 0 255, .mulConst 31 0 255, .sltConst 31 0 255, .sltnConst 31 0 255, .minConst 31 0 255,
   .maxConst 31 0 255, .minnConst 31 0 255, .maxnConst 31 0 255, .mulhConst 31 0 255, .mulhnConst 31 0 255, .divConst 31 0 255,
   .divnConst 31 0 255, .remConst 31 0 255, .remnConst 31 0 255, .addi 31 0 0x8000, .andi 31 0 0x8000, .ori 31 0 0x8000,
   .xori 31 0 0x8000, .shli 31 0 63, .shri 31 0 63, .sari 31 0 63, .lui 31 0 0x8000, .li 31 0x8000] :=
  ⟨fun k _ c hc => by rw [laned_core _ _ _ _ c hc]; simp [poolBad, Core.reset, isIn], all_run (by decide)⟩
theorem witness_LaneFloat (w : West) (u : Bool) : AllRun false (formats 5 0 0 0 0)
  [.fadd 31 0 31 w, .fsub 31 0 31 w, .fmul 31 0 31 w, .fdiv 31 0 31 w, .fma 31 0 31 w, .fmin 31 0 31 w, .fmax 31 0 31 w,
   .feq 31 0 31 w, .flt 31 0 31 w, .fle 31 0 31 w, .fabs 31 0 u, .fneg 31 0 u] := all_run (by cases w <;> cases u <;> decide)
theorem witness_LaneFloat_convert (u : Bool) :
    (AllRun false (formats 0 0 2 0 13) [Instr.fcvti 31 0 u]) ∧
    AllRun false (formats 0 0 13 0 2) [Instr.icvtf 31 0 u] :=
  ⟨all_run (by cases u <;> decide), all_run (by cases u <;> decide)⟩
theorem witness_LaneMoves : (AllRun false none [Instr.hget 31 15, .cmov 31 0 7, .movmg 31 7 true, .movgm 7 0 false, .mand 7 7 1, .mor 7 7 1, .mxor 7 7 1,
    .mnot 7 7, .mset 7 0, .tail 0]) ∧
    (me (laned false none Lane.reset Core.reset)).tailQ.length < 4 := ⟨all_run (by decide), by decide⟩
theorem witness_VectorArithmetic_float (w : West) : AllRun false (formats 5 7 0 0 0)
  [.vadd 15 0 15 w, .vsub 15 0 15 w, .vmul 15 0 15 w, .vmin 15 0 15 w, .vmax 15 0 15 w, .vfma 15 0 15 w,
   .vaddConst 15 0 255, .vsubConst 15 0 255, .vmulConst 15 0 255, .vminConst 15 0 255, .vmaxConst 15 0 255] := all_run (by cases w <;> decide)
theorem witness_VectorArithmetic_integer (w : West) : AllRun false (formats 5 7 13 13 13)
  [.vadd 15 0 15 w, .vsub 15 0 15 w, .vmul 15 0 15 w, .vmin 15 0 15 w, .vmax 15 0 15 w, .vfma 15 0 15 w,
   .vaddConst 15 0 255, .vsubConst 15 0 255, .vmulConst 15 0 255, .vminConst 15 0 255, .vmaxConst 15 0 255] := all_run (by cases w <;> decide)
theorem witness_VectorArithmetic_sign (u : Bool) :
    (AllRun false (formats 0 7 1 0 1) [Instr.vabs 15 0 u, .vneg 15 0 u]) ∧
    AllRun false (formats 5 0 0 0 6) [Instr.vabs 15 0 u, .vneg 15 0 u] :=
  ⟨all_run (by cases u <;> decide), all_run (by cases u <;> decide)⟩
theorem witness_VectorLogic (w : West) (u : Bool) :
    (AllRun false (formats 0 7 0 0 0) [Instr.vand 15 0 15 w, .vor 15 0 15 w, .vxor 15 0 15 w, .vnot 15 0 u, .vandConst 15 0 255, .vorConst 15 0 255,
      .vxorConst 15 0 255]) ∧
    AllRun false (formats 0 7 0 0 13) [Instr.vshl 15 0 15 w, .vshr 15 0 15 w, .vsar 15 0 15 w, .vshlConst 15 0 255, .vshrConst 15 0 255, .vsarConst 15 0 255] :=
  ⟨all_run (by cases w <;> cases u <;> decide), all_run (by cases w <;> decide)⟩
theorem witness_VectorMoves (w : West) :
    (AllRun false (formats 0 7 0 0 0) [Instr.vcmp .lt 7 0 15 w]) ∧
    AllRun false (formats 0 7 0 0 3) [Instr.vsel 15 0 15 w, .vbcast 15 31, .vperm 15 0 15, .vrot 15 0 31, .viota 15] :=
  ⟨all_run (by cases w <;> decide), all_run (by cases w <;> decide)⟩
theorem witness_VectorMoves_scalar : AllRun false (formats 0 0 0 0 13)
  [.vext 31 15 31, .vins 15 31 31, .vpop 31 7] := all_run (by decide)
theorem witness_VectorConversions (w : West) (u : Bool) :
    (AllRun false (formats 5 7 3 0 13) [Instr.vcvt 15 0 u]) ∧
    (AllRun false (formats 1 7 0 0 7) [Instr.vquant 15 0 15 w]) ∧
    (AllRun false (formats 1 7 3 3 0) [Instr.vdeq 15 0 15 w]) ∧
    (AllRun false (formats 0 7 1 0 1) [Instr.vrcp 15 0 u, .vrsq 15 0 u, .vsqrt 15 0 u, .vexp2 15 0 u, .vlog2 15 0 u, .vsin 15 0 u, .vcos 15 0 u, .vtanh 15 0 u]) ∧
    (AllRun false (formats 0 7 2 2 2) [Instr.vdiv 15 0 15 w]) ∧
    AllRun false (formats 5 7 0 0 2) [Instr.vred .max 31 15] :=
  ⟨all_run (by cases u <;> decide), all_run (by cases w <;> decide), all_run (by cases w <;> decide),
   all_run (by cases u <;> decide), all_run (by cases w <;> decide), all_run (by decide)⟩

/-- A lane with g1 and g2 set. -/
def g12 (x y : Word) : Lane := { Lane.reset with g := (Lane.reset.g.set 1 x).set 2 y }

/-- A lane with IVE set whose g1 and v3 hold the signalling NaN of single precision. -/
def signalling : Lane := { g12 0x7FA00000 0 with estat := 0x100, v := Lane.reset.v.set 3 0x7FA00000 }

/-- The cores of that job have a scratch area of 0xFE000 bytes. -/
theorem scratch_of (hd : Bool) (p : Option Px) (l : Lane) (k : Core) :
    pwordOf (laned hd p l k) (laned hd p l k).curRow = 0x24001 ∧ scratchSize 0x24001 = 0xFE000 := ⟨rfl, by decide⟩

theorem can_trap (p : Option Px) (l : Lane) (k : Core) : CanTrap (laned false p l k) := ⟨rfl, show (4 : Word) ≠ 0 by decide, rfl⟩

set_option maxRecDepth 20000 in
theorem witness_iv :
    let s := laned false (formats 0 0 0 0 0) signalling Core.reset
    (∀ i ∈ [Instr.fadd 3 1 2 .no, .fle 3 1 2 .no, .vadd 5 3 4 .no, .vcmp .lt 3 3 4 .no, .vrcp 5 3 false, .vdiv 5 3 4 .no, .vred .max 3 3],
      VecRuns s i [.g 1 false, .g 2 false, .v 3 false, .v 4 false]) ∧
    CanTrap s ∧ (laneAt s 0).estat.getLsbD 8 = true ∧ activeAt (laneAt s 0) (pxOf (me s)) 0 = true ∧
    (roundOut 0 (modeOf s) (vadd false (lowVal 0 (rdG (laneAt s 0) 1)) (lowVal 0 (rdG (laneAt s 0) 2)))).2.getLsbD 0 = true ∧
    (cmpVal .le (lowVal 0 (rdG (laneAt s 0) 1)) (lowVal 0 (rdG (laneAt s 0) 2))).2.getLsbD 0 = true ∧
    (cmpVal .lt (decodeVal 0 (elem (rdV (laneAt s 0) 3) 32 0)) (decodeVal 0 (elem (rdV (laneAt s 0) 4) 32 0))).2.getLsbD 0 = true ∧
    (∀ x, (fnRcp (fmtOf 0) (modeOf s) x (decodeVal 0 (elem (rdV (laneAt s 0) 3) 32 0))).2.getLsbD 0 = true) ∧
    (decodeVal 0 (elem (rdV (laneAt s 0) 3) 32 0)).isSnan = true := by
  refine ⟨fun i hi => laned_runs ((by decide : ∀ i ∈ [Instr.fadd 3 1 2 .no, .fle 3 1 2 .no, .vadd 5 3 4 .no, .vcmp .lt 3 3 4 .no,
    .vrcp 5 3 false, .vdiv 5 3 4 .no, .vred .max 3 3], laneLegal 0x24001 false i ((formats 0 0 0 0 0).getD Px.none) = true) i hi)
    ⟨rfl, rfl, rfl, rfl, rfl⟩ rfl ⟨rfl, rfl⟩, can_trap _ _ _, ?_, ?_, ?_, ?_, ?_, fun x => ?_, ?_⟩
  case refine_6 =>
    have hv : decodeVal 0 (elem (rdV signalling 3) 32 0) = .nan true := by decide
    exact (congrArg (fun v => (fnRcp (fmtOf 0) (modeOf (laned false (formats 0 0 0 0 0) signalling Core.reset)) x v).2.getLsbD 0) hv).trans (show Fl.iv.getLsbD 0 = true by decide)
  all_goals first | decide | rfl

theorem isOk_elim {α β : Type} {e : Except α β} (h : e.isOk = true) : ∃ x, e = .ok x := by
  cases e with
  | ok x => exact ⟨x, rfl⟩
  | error x => cases h

/-- A PX that traps on an empty first operand. -/
def trapEmpty : Option Px := some { Px.none with ea := true }

theorem witness_LaneTraps_empty (p : Option Px) (hp : p = none ∨ p = trapEmpty) :
    let l := { Lane.reset with gFill := Lane.reset.gFill.set 1 9, vFill := Lane.reset.vFill.set 0 9 }
    LaneReady (laned false p l Core.reset) (.add 31 1 31 .no) ∧ LaneReady (laned false p l Core.reset) (.vadd 15 0 15 .no) ∧
    CanTrap (laned false p l Core.reset) ∧ gEmpty (laneAt (laned false p l Core.reset) 0) 1 = true ∧
    vEmpty (laneAt (laned false p l Core.reset) 0) 0 = true ∧ (pxOf (me (laned false p l Core.reset))).ea = decide (p = trapEmpty) := by
  obtain rfl | rfl := hp
  all_goals exact ⟨laned_ready rfl ⟨rfl, rfl, rfl, rfl, rfl⟩ rfl trivial, laned_ready rfl ⟨rfl, rfl, rfl, rfl, rfl⟩ rfl trivial, can_trap _ _ _, rfl, rfl, rfl⟩
theorem witness_LaneTraps_access (v : Word) (hv : v = 0x10004 ∨ v = 0xFE000 ∨ v = 0x7F8) :
    let s := laned false none (g12 v 7) Core.reset
    CanTrap s ∧ (∀ i ∈ [Instr.ld 2 1 0 .d true, .st 2 1 0 .d true, .ldp 2 1 0 .d, .stp 2 1 0 .d], VecRuns s i [.g 1 false, .g 2 false]) ∧
    rdG (laneAt s 0) 1 + BitVec.ofInt 64 ((0 : BitVec 12).toInt * szBytes .d) = v ∧ (szBytes .d ∣ v.toNat ↔ v ≠ 0x10004) := by
  refine ⟨can_trap _ _ _, fun i hi => laned_runs ((by decide : ∀ i ∈ [Instr.ld 2 1 0 .d true, .st 2 1 0 .d true, .ldp 2 1 0 .d,
    .stp 2 1 0 .d], laneLegal 0x24001 false i Px.none = true) i hi) ⟨rfl, rfl, rfl, rfl, rfl⟩ rfl ⟨rfl, rfl⟩, ?_, ?_⟩
  · obtain rfl | rfl | rfl := hv <;> decide
  · obtain rfl | rfl | rfl := hv <;> decide

theorem witness_LaneMemory (ord : Bool) (m : BitVec 3) (hm : m = 0 ∨ m = 1) :
    let s := laned false (some { Px.none with msk := m }) (g12 0x10008 7) Core.reset
    let t := laned false none (g12 0x10008 7) Core.reset
    0 < s.fresh ∧ (∀ c < 16, (coreAt s c).wctl = 0 ∧ (coreAt s c).poolPoison = []) ∧
    (∀ i ∈ [Instr.ld 2 1 0 .d ord, .ldn 2 1 0 .w ord, .st 2 1 0 .d ord], VecRuns t i [.g 1 false, .g 2 false]) ∧
    (∀ i ∈ [Instr.ldv 15 1 0 ord, .stv 15 1 0 ord], VecRuns s i [.g 1 false, .v 15 false]) ∧
    (∀ c < 16, ∃ x, spanXlate t t.curRow c .read 0x10008 8 (BitVec.allOnes 32) = .ok x) ∧
    (∀ c < 16, ∃ x, spanXlate s s.curRow c .read 0x10008 128 (BitVec.allOnes 32) = .ok x) ∧
    (∀ c < 16, rdG (laneAt s c) 1 = 0x10008 ∧ ((rdM (laneAt s c) m).setWidth 32 = (0 : BitVec 32) ↔ m = 1)) ∧
    ∀ c < 16, walkBusy t t.curRow c t.curSlot 0x10008 8 (BitVec.allOnes 32) = false ∧
      walkBusy s s.curRow c s.curSlot 0x10008 128 (BitVec.allOnes 32) = false := by
  refine ⟨Nat.one_pos, ?_, ?_, ?_, ?_, ?_, ?_, ?_⟩
  · obtain rfl | rfl := hm <;> decide
  · exact fun i hi => laned_runs ((by cases ord <;> decide : ∀ i ∈ [Instr.ld 2 1 0 .d ord, .ldn 2 1 0 .w ord, .st 2 1 0 .d ord],
      laneLegal 0x24001 false i Px.none = true) i hi) ⟨rfl, rfl, rfl, rfl, rfl⟩ rfl ⟨rfl, rfl⟩
  · exact fun i hi => laned_runs ((by obtain rfl | rfl := hm <;> cases ord <;> decide : ∀ i ∈ [Instr.ldv 15 1 0 ord, .stv 15 1 0 ord],
      laneLegal 0x24001 false i { Px.none with msk := m } = true) i hi) ⟨rfl, rfl, rfl, rfl, rfl⟩ rfl ⟨rfl, rfl⟩
  · exact fun c hc => isOk_elim ((by decide : ∀ c < 16, (spanXlate (laned false none (g12 0x10008 7) Core.reset) 0 c .read 0x10008 8
      (BitVec.allOnes 32)).isOk = true) c hc)
  · obtain rfl | rfl := hm
    · exact fun c hc => isOk_elim ((by decide : ∀ c < 16, (spanXlate (laned false (some Px.none) (g12 0x10008 7) Core.reset) 0 c .read
        0x10008 128 (BitVec.allOnes 32)).isOk = true) c hc)
    · exact fun c hc => isOk_elim ((by decide : ∀ c < 16, (spanXlate (laned false (some { Px.none with msk := 1 }) (g12 0x10008 7)
        Core.reset) 0 c .read 0x10008 128 (BitVec.allOnes 32)).isOk = true) c hc)
  · obtain rfl | rfl := hm <;> decide
  · obtain rfl | rfl := hm <;> decide
theorem witness_PoolMemory (v : Word) (hv : v = 0x800 ∨ v = 0xFDF80) :
    let s := laned false none (g12 v 7) Core.reset
    (∀ i ∈ [Instr.ldp 2 1 0 .d, .stp 2 1 0 .d, .ldpv 15 1 0, .stpv 15 1 0], VecRuns s i [.g 1 false, .g 2 false, .v 15 false]) ∧
    ∀ c < 16, acqPending s s.curRow c s.curSlot = false ∧ (coreAt s c).poolPoison = [] ∧ 8 ∣ (rdG (laneAt s c) 1).toNat ∧ 0x800 ≤ (rdG (laneAt s c) 1).toNat ∧
      (rdG (laneAt s c) 1).toNat + 128 ≤ scratchSize (pwordOf s s.curRow) := by
  refine ⟨fun i hi => laned_runs ((by decide : ∀ i ∈ [Instr.ldp 2 1 0 .d, .stp 2 1 0 .d, .ldpv 15 1 0, .stpv 15 1 0],
    laneLegal 0x24001 false i Px.none = true) i hi) ⟨rfl, rfl, rfl, rfl, rfl⟩ rfl ⟨rfl, rfl⟩, ?_⟩
  obtain rfl | rfl := hv <;> decide

/-- Slot 0 of row 0, column 0 with a store outstanding. -/
def aStore (s : State) : Req := blankReq s .store 0 0 0

theorem ready_reqs {s : State} {i : Instr} (h : LaneReady s i) (q : List Req) : LaneReady { s with reqs := q } i := h

theorem witness_Ordering (k : Word) (hk : k = 1 ∨ k = 4) (gen : Nat) (hg : gen = 0 ∨ gen = 1) :
    let l : Lane := { g12 k 7 with arrivals := if gen = 1 then [(31, ⟨0, none, false⟩)] else [] }
    let c0 : Core := { Core.reset with pool := [(1840, 4)], bars := Core.reset.bars.set 31 ⟨1, 0, gen, []⟩ }
    let s := laned false none l c0
    (∀ i ∈ [Instr.fence, .drainst, .bari 31 1, .bara 31, .barw 31, .bar 31], VecRuns s i [.g 1 false]) ∧ s.reqs = [] ∧
    LaneReady { s with reqs := [aStore base] } .drainst ∧
    (∃ q ∈ [aStore base], q.row = s.curRow ∧ q.strand = s.curSlot ∧ q.col = 0 ∧ q.kind = .store) ∧
    (∀ c < 16, 1 ≤ (rdG (laneAt s c) 1).toNat ∧ (rdG (laneAt s c) 1).toNat ≤ (constWord (coreAt s c) 230).toNat) ∧
    (gen = 0 → ∀ c < 16, ∀ q ∈ (laneAt s c).arrivals, q.1 ≠ 31) ∧
    (gen = 1 → ∀ c < 16, (laneAt s c).arrivals = [(31, ⟨0, none, false⟩)] ∧ 0 < ((coreAt s c).bars[31]).gen) ∧
    ∀ c < 16, ((coreAt s c).bars[31]).count ≤ ((coreAt s c).bars[31]).tally + 1 := by
  refine ⟨fun i hi => laned_runs ((by decide : ∀ i ∈ [Instr.fence, .drainst, .bari 31 1, .bara 31, .barw 31, .bar 31],
    laneLegal 0x24001 false i Px.none = true) i hi) ⟨rfl, rfl, rfl, rfl, rfl⟩ rfl ⟨rfl, rfl⟩, rfl,
    ready_reqs (laned_ready (i := .drainst) rfl ⟨rfl, rfl, rfl, rfl, rfl⟩ rfl trivial) _, ⟨_, .head _, rfl, rfl, rfl, rfl⟩, ?_⟩
  obtain rfl | rfl := hk <;> obtain rfl | rfl := hg <;> decide

/-- A release in a handler's way: one of task level that a reported store holds back. -/
def aParked : Req := { aStore base with id := 9, rel := true, st := .held, handler := false }

/-- The retry list that holds it back. -/
def aRetry : List StoreRec := [⟨5, .st, 0, 0, 8, false, .dev, 0, 0, .add, .xlateAbsent, false, 0⟩]

theorem witness_Ordering_parked : ∀ i ∈ [Instr.fence, .drainst],
    let s : State := { laned true none { g12 7 7 with retry := aRetry } Core.reset with reqs := [aParked] }
    LaneReady s i ∧ aParked.row = s.curRow ∧ aParked.strand = s.curSlot ∧ ∀ q ∈ s.reqs, setAside s (me s).handler q = true := by
  intro i hi
  refine ⟨ready_reqs (level_ready ((by decide : ∀ i ∈ [Instr.fence, .drainst], laneLegal 0x24001 true i Px.none = true) i hi)
    (fun _ => ⟨rfl, rfl, rfl, rfl, rfl⟩) (.inl rfl) rfl (fun _ => by simp only [List.mem_cons, List.not_mem_nil, or_false] at hi; obtain rfl | rfl := hi <;> trivial)) _, rfl, rfl, by decide⟩

/-- A landing slot of set 3. -/
def slotIn (st : LandState) : LandSlot := ⟨3, 0, st, 5, 77, 0x10008, .xlateAbsent, 0, 0, false, false⟩

theorem witness_Landing (v : Word) (hv : v = 0x10008 ∨ v = 0x10004) (n : Nat) (hn : n = 0 ∨ n = 15) :
    let l : Lane := { g12 v 7 with land := (List.range n).map fun i => { slotIn .pending with pos := i } }
    let s := laned false none l Core.reset
    (∀ i ∈ [Instr.ldl 2 1 0 .d 3, .ldlv 2 1 0 3, .lcnt 31 3, .ldrop 3], VecRuns s i [.g 1 false, .g 2 false]) ∧
    (∀ c < 16, (coreAt s c).wctl = 0 ∧ (coreAt s c).slotQ = [] ∧ (laneAt s c).claims = []) ∧
    (∀ c < 16, ((laneAt s c).land.filter (·.set = 3)).length = n ∧
      ((List.range 8).map fun sl => (getLane s s.curRow c sl).land.length).sum < 256) ∧
    (8 ∣ v.toNat ↔ v = 0x10008) ∧ ∀ c < 16, rdG (laneAt s c) 1 = v := by
  refine ⟨fun i hi => laned_runs ((by decide : ∀ i ∈ [Instr.ldl 2 1 0 .d 3, .ldlv 2 1 0 3, .lcnt 31 3, .ldrop 3],
    laneLegal 0x24001 false i Px.none = true) i hi) ⟨rfl, rfl, rfl, rfl, rfl⟩ rfl ⟨rfl, rfl⟩, ?_, ?_, ?_, ?_⟩
  · exact laned_all (P := fun l k => k.wctl = 0 ∧ k.slotQ = [] ∧ l.claims = []) ⟨rfl, rfl, rfl⟩
  · obtain rfl | rfl := hn <;> obtain rfl | rfl := hv <;> decide
  · obtain rfl | rfl := hv <;> decide
  · exact laned_all (P := fun l _ => rdG l 1 = v) rfl
theorem witness_Landing_translates : ∀ n ∈ [0, 15],
    let l : Lane := { g12 0x10008 7 with land := (List.range n).map fun i => { slotIn .pending with pos := i } }
    let s := laned false none l Core.reset
    ∀ c < 16, (spanXlate s s.curRow c .read 0x10008 8 (BitVec.allOnes 32)).isOk = true ∧
      (spanXlate s s.curRow c .read 0x10008 128 (BitVec.allOnes 32)).isOk = true := by decide
theorem witness_Takes (st : LandState) :
    let s := laned false none { Lane.reset with land := [slotIn st] } Core.reset
    let e := laned false none Lane.reset Core.reset
    (∀ i ∈ [Instr.take 31 0 3, .takeo 31 0 3, .takev 15 31 3], LaneReady s i ∧ LaneReady e i) ∧ 0 < s.fresh ∧ CanTrap s ∧
    (∀ c < 16, (laneAt s c).claims = [] ∧ (coreAt s c).poolPoison = []) ∧ (∀ c < 16, (laneAt e c).land.filter (·.set = 3) = []) ∧
    ∀ c < 16, ∃ q, (laneAt s c).land.filter (·.set = 3) = [q] ∧ q.st = st ∧ q.claimed = false := by
  refine ⟨fun i hi => ?_, Nat.one_pos, can_trap _ _ _, ?_, ?_, ?_⟩
  · have := (by decide : ∀ i ∈ [Instr.take 31 0 3, .takeo 31 0 3, .takev 15 31 3], laneLegal 0x24001 false i Px.none = true) i hi
    exact ⟨laned_ready this ⟨rfl, rfl, rfl, rfl, rfl⟩ rfl (full_west ⟨rfl, rfl, rfl, rfl, rfl⟩ ⟨rfl, rfl⟩ i), laned_ready this ⟨rfl, rfl, rfl, rfl, rfl⟩ rfl (full_west ⟨rfl, rfl, rfl, rfl, rfl⟩ ⟨rfl, rfl⟩ i)⟩
  · exact laned_all (P := fun l k => l.claims = [] ∧ k.poolPoison = []) ⟨rfl, rfl⟩
  · exact laned_all (P := fun l _ => l.land.filter (·.set = 3) = []) rfl
  · exact laned_all (P := fun l _ => ∃ q, l.land.filter (·.set = 3) = [q] ∧ q.st = st ∧ q.claimed = false) ⟨slotIn st, rfl, rfl, rfl⟩
theorem witness_Atomics (v : Word) (hv : v = 0x10008 ∨ v = 0x10004) (ord : Ord4) :
    let s := laned false none (g12 v 7) Core.reset
    (∀ i ∈ [Instr.amo .swap true ord 2 1 2, .cas true ord 2 1 2, .red .add true true 1 2], VecRuns s i [.g 1 false, .g 2 false]) ∧
    0 < s.fresh ∧ CanTrap s ∧ (∀ c < 16, (coreAt s c).wctl = 0 ∧ portFree s (coreIx s.curRow c) 4 (coreAt s c).atomSeq = true) ∧
    (8 ∣ v.toNat ↔ v = 0x10008) ∧ (∀ c < 16, rdG (laneAt s c) 1 = v) ∧ (∀ c < 16, walkBusy s s.curRow c s.curSlot v 8 (BitVec.allOnes 32) = false) ∧
    ∀ c < 16, ∃ pa e, laneXlate (laned false none (g12 0x10008 7) Core.reset) 0 c .both 0x10008 = .ok (pa, ⟨false, false, 0, false⟩, e) := by
  refine ⟨fun i hi => laned_runs ((by cases ord <;> decide : ∀ i ∈ [Instr.amo .swap true ord 2 1 2, .cas true ord 2 1 2,
    .red .add true true 1 2], laneLegal 0x24001 false i Px.none = true) i hi) ⟨rfl, rfl, rfl, rfl, rfl⟩ rfl ⟨rfl, rfl⟩, Nat.one_pos, can_trap _ _ _,
    ?_, ?_, ?_, ?_, ?_⟩
  · obtain rfl | rfl := hv <;> decide
  · obtain rfl | rfl := hv <;> decide
  · exact laned_all (P := fun l _ => rdG l 1 = v) rfl
  · obtain rfl | rfl := hv <;> decide
  · exact fun c hc => ⟨0x10008, _, (by decide : ∀ c < 16, laneXlate (laned false none (g12 0x10008 7) Core.reset) 0 c .both 0x10008 =
      .ok (0x10008, ⟨false, false, 0, false⟩, ⟨0, 0, 0x10000, 0x10000, 0x10000, true, true, true, false, ⟨false, false, 0, false⟩⟩)) c hc⟩

/-- A Press command of a strand. -/
def command (sl : Nat) : PressCmd := ⟨0, sl, .mzero, 0, false⟩

theorem witness_Press (n : Nat) (hn : n = 0 ∨ n = 15) (scale : Bool) :
    let r : Ring := ⟨0x800, false, 2, 0, 0, [], 0⟩
    let l : Lane := { g12 0 63 with rings := (((Lane.reset.rings.set 2 r).set 3 { r with ssz := scale }).set 4 r).set 5 { r with ssz := scale } }
    let s := laned false none l { Core.reset with press := List.replicate n (command 7) }
    let m : Instr := .mma .pt .d8s 63 2 4 15
    let good (c n : Nat) (z : Bool) : Prop := (ringOf (laneAt s c) n).scnt ≠ 0 ∧ (ringOf (laneAt s c) n).ssz = z
    (∀ i ∈ [m, .mma .mp .bf16 63 0 4 15, .mzero 63, .mload 63 30 2, .mdrain 30 63 2, .mwait, .mstat 31],
      VecRuns s i [.v 30 false, .v 31 false, .g 2 false]) ∧ CanTrap s ∧ 0 < s.fresh ∧
    (∀ c < 16, (coreAt s c).press.length = n ∧ (rdG (laneAt s c) 2).toNat < 64) ∧
    (∀ c < 16, good c 2 false ∧ good c 4 false ∧ (scale = true → good c 3 true ∧ good c 5 true)) ∧ ¬ good 0 0 false ∧
    ∀ c < 16, (laneAt s c).drains = [] ∧ ∀ q ∈ (coreAt s c).press, q.strand ≠ s.curSlot := by
  refine ⟨fun i hi => laned_runs ((by decide : ∀ i ∈ [Instr.mma .pt .d8s 63 2 4 15, .mma .mp .bf16 63 0 4 15, .mzero 63, .mload 63 30 2,
    .mdrain 30 63 2, .mwait, .mstat 31], laneLegal 0x24001 false i Px.none = true) i hi) ⟨rfl, rfl, rfl, rfl, rfl⟩ rfl ⟨rfl, rfl⟩, can_trap _ _ _,
    Nat.one_pos, ?_⟩
  obtain rfl | rfl := hn <;> cases scale <;> decide

theorem witness_Rings (v : Word) (hv : v = 0 ∨ v = 0x4200000 ∨ v = 0x400000) :
    let s := laned false none { g12 0x800 v with rings := Lane.reset.rings.set 6 ⟨0x800, true, 2, 0, 0, [], 0⟩ } Core.reset
    let cnt := bits v 22 5
    (∀ i ∈ [Instr.rcfg 7 1 2, .rstat 31 7, .rpush 6 31], VecRuns s i [.g 1 false, .g 2 false, .v 31 false]) ∧ CanTrap s ∧
    (∀ c < 16, ringBusy s s.curRow c s.curSlot 7 = false ∧ rdG (laneAt s c) 2 = v ∧ (rdG (laneAt s c) 1).toNat = 0x800 ∧ (coreAt s c).press = []) ∧
    v &&& ~~~0x7E00000 = 0 ∧ cnt ≤ 16 ∧ (cnt ≠ 1 ↔ v ≠ 0x400000) ∧
    (v = 0x4200000 → v.getLsbD 21 = true ∧ 512 ∣ 0x800 ∧ 0x800 + 512 * cnt ≤ scratchSize (pwordOf s s.curRow)) ∧
    ∀ c < 16, let r := ringOf (laneAt s c) 6; r.scnt ≠ 0 ∧ r.holes = [] ∧ r.reserved + 128 ≤ (r.popped + r.scnt) * 512 := by
  refine ⟨fun i hi => laned_runs ((by decide : ∀ i ∈ [Instr.rcfg 7 1 2, .rstat 31 7, .rpush 6 31],
    laneLegal 0x24001 false i Px.none = true) i hi) ⟨rfl, rfl, rfl, rfl, rfl⟩ rfl ⟨rfl, rfl⟩, can_trap _ _ _, ?_⟩
  obtain rfl | rfl | rfl := hv <;> decide

/-- A leaf that maps the Cellar to itself. -/
def cellarLeaf : TlbEntry := ⟨0, 0, 0, 2 ^ 38, 0, true, true, false, false, ⟨false, false, 0, false⟩⟩

/-- A core with that leaf, a slot in a state, and an open or posted row, or none. -/
def hatchCore (st : HatchState) : Core :=
  { Core.reset with tlb := [cellarLeaf], hatch := Core.reset.hatch.set 3 ⟨st, 0, 0x8000, none, some 0, false⟩ }

/-- A strand whose every core names a row of its own vault. -/
def hatching (st : HatchState) : State := lanedBy false none (fun c => g12 (BitVec.ofNat 64 (2 ^ 29 * c)) 0x1000) (hatchCore st)

theorem witness_Hatch (st : HatchState) (hst : st = .free ∨ st = .ready) :
    (∀ i ∈ [Instr.hopen true 3 1, .htake 3 6, .hput 1 2, .hshut 3, .hwait, .hstat 31],
      VecRuns (hatching st) i [.g 1 false, .g 2 false]) ∧ CanTrap (hatching st) ∧
    (∀ c < 16, 2048 ∣ (rdG (laneAt (hatching st) c) 1).toNat ∧
      laneXlate (hatching st) 0 c .read (rdG (laneAt (hatching st) c) 1) = .ok (2 ^ 29 * c, cellarLeaf.attr, cellarLeaf) ∧
      laneXlate (hatching st) 0 c .write (rdG (laneAt (hatching st) c) 1) = .ok (2 ^ 29 * c, cellarLeaf.attr, cellarLeaf) ∧
      walkBusy (hatching st) 0 c 0 (rdG (laneAt (hatching st) c) 1) 1 (BitVec.allOnes 32) = false ∧ regionOf (2 ^ 29 * c) = .cellar ∧ vaultOf (2 ^ 29 * c) = coreIx 0 c) ∧
    (∀ c < 16, ∀ i : Fin 4, i ≠ 3 → (coreAt (hatching st) c).hatch[i].st = .free) ∧
    (∀ c < 16, ((coreAt (hatching st) c).hatch[3]).st = st ∧ ((coreAt (hatching st) c).hatch[3]).owner = (hatching st).curSlot ∧
      ((coreAt (hatching st) c).hatch[3]).row ≠ 2 ^ 29 * c ∧ (coreAt (hatching st) c).hputs = []) ∧
    (∀ c < 16, 256 ∣ (rdG (laneAt (hatching st) c) 2).toNat ∧ (rdG (laneAt (hatching st) c) 2).toNat + 2048 ≤ 0xFE000) ∧
    ∀ c < 16, ∀ i : Fin 4, (coreAt (hatching st) c).hatch[i].owner < 8 := by
  refine ⟨fun i hi => by_runs ((by decide : ∀ i ∈ [Instr.hopen true 3 1, .htake 3 6, .hput 1 2, .hshut 3, .hwait, .hstat 31],
    laneLegal 0x24001 false i Px.none = true) i hi) (fun _ => ⟨rfl, rfl, rfl, rfl, rfl⟩) rfl fun _ => ⟨rfl, rfl⟩, ⟨rfl, show (4 : Word) ≠ 0 by decide, rfl⟩, ?_⟩
  obtain rfl | rfl := hst <;> refine ⟨?_, ?_, ?_, ?_, ?_⟩ <;> decide
theorem witness_Hatch_take :
    let s := laned false none { g12 0x7FF 0 with rings := Lane.reset.rings.set 6 ⟨0x800, true, 4, 0, 0, [], 0⟩ } (hatchCore .ready)
    LaneReady s (.htake 3 6) ∧ LaneRuns s (.hopen false 3 1) [.g 1 false] ∧ CanTrap s ∧ ¬ 2048 ∣ (rdG (laneAt s 0) 1).toNat ∧
    ∀ c < 16, ((coreAt s c).hatch[3]).st = .ready ∧ ((coreAt s c).hatch[3]).owner = s.curSlot ∧ acqPending s s.curRow c s.curSlot = false ∧
      let r := ringOf (laneAt s c) 6; r.scnt ≠ 0 ∧ 2048 ≤ 512 * r.scnt ∧ r.reserved + 2048 ≤ (r.popped + r.scnt) * 512 :=
  ⟨laned_ready rfl ⟨rfl, rfl, rfl, rfl, rfl⟩ rfl trivial, (laned_runs rfl ⟨rfl, rfl, rfl, rfl, rfl⟩ rfl ⟨rfl, rfl⟩).1, can_trap _ _ _, by decide, by decide⟩

/-- A strand whose core has a transfer of the row of slot 3 under way. -/
def movingCore : Core := { hatchCore .ready with transfers := [⟨9, 7, 3, 0x8000, none, 7, 256, 0, some (5, [])⟩] }

theorem witness_Hatch_moving :
    let s := laned false none { g12 0x7FF 0 with rings := Lane.reset.rings.set 6 ⟨0x800, true, 4, 0, 0, [], 0⟩ } movingCore
    LaneReady s (.htake 3 6) ∧ LaneReady s (.hshut 3) ∧
    ∀ c < 16, ((coreAt s c).hatch[3]).st = .ready ∧ ((coreAt s c).hatch[3]).owner = s.curSlot ∧ acqPending s s.curRow c s.curSlot = false ∧
      (∃ m ∈ (coreAt s c).transfers, m.hatch = 3 ∧ m.row = ((coreAt s c).hatch[3]).row) ∧
      let r := ringOf (laneAt s c) 6; r.scnt ≠ 0 ∧ 2048 ≤ 512 * r.scnt ∧ r.reserved + 2048 ≤ (r.popped + r.scnt) * 512 :=
  ⟨laned_ready rfl ⟨rfl, rfl, rfl, rfl, rfl⟩ rfl trivial, laned_ready rfl ⟨rfl, rfl, rfl, rfl, rfl⟩ rfl trivial, by decide⟩

theorem witness_Copies (n : Word) (hn : n = 0x40 ∨ n = 0x41 ∨ n = 0x800) :
    let s := laned false none { g12 0x1000 n with rings := Lane.reset.rings.set 7 ⟨0x800, true, 16, 0, 0, [], 0⟩ } Core.reset
    (∀ i ∈ [Instr.copy .pool .pool 3 1 1 2, .copy .pool .ring 3 7 1 2, .cred .add .i32 true 3 1 1 2, .cred .add .i32 false 3 1 1 2, .cseal,
      .cwait 0, .cptr 31 3, .cjoin 1 2, .cleave 1], VecRuns s i [.g 1 false, .g 2 false]) ∧ CanTrap s ∧
    (∀ c < 16, ∀ x ∈ [(CopySrc.pool, CopyDst.pool), (.pool, .ring), (.pool, .remote), (.pool, .global)], n ≠ 0x41 →
      copyBad s s.curRow (laneAt s c) x.1 x.2 (rdG (laneAt s c) 1) (rdG (laneAt s c) 1) (rdG (laneAt s c) 2) 7 = none ∧
      (coreAt s c).chans[3].length < 16) ∧ (64 ∣ n.toNat ↔ n ≠ 0x41) ∧
    (∀ c < 16, (laneAt s c).batches.countP (fun x => decide (x ≠ [])) ≤ 0) ∧
    (n = 0x800 → 64 ∣ (rdG (laneAt s 0) 2).toNat ∧ 0x800 ≤ (rdG (laneAt s 0) 2).toNat ∧
      (rdG (laneAt s 0) 2).toNat < scratchSize (pwordOf s s.curRow)) ∧ (∀ c < 16, (coreAt s c).match_ = []) := by
  refine ⟨fun i hi => laned_runs ((by decide : ∀ i ∈ [Instr.copy .pool .pool 3 1 1 2, .copy .pool .ring 3 7 1 2, .cred .add .i32 true 3 1 1 2,
    .cred .add .i32 false 3 1 1 2, .cseal, .cwait 0, .cptr 31 3, .cjoin 1 2, .cleave 1], laneLegal 0x24001 false i Px.none = true) i hi)
    ⟨rfl, rfl, rfl, rfl, rfl⟩ rfl ⟨rfl, rfl⟩, can_trap _ _ _, ?_⟩
  obtain rfl | rfl | rfl := hn <;> decide

theorem witness_Copies_leave :
    let s := laned false none (g12 0x1000 0) { Core.reset with match_ := [(0x1000, 0x800)] }
    LaneRuns s (.cleave 1) [.g 1 false] ∧ ∃ p ∈ (coreAt s 0).match_, p.1 = (rdG (laneAt s 0) 1).setWidth 16 :=
  ⟨(laned_runs rfl ⟨rfl, rfl, rfl, rfl, rfl⟩ rfl ⟨rfl, rfl⟩).1, _, .head _, rfl⟩

theorem witness_LaneSystem (cls n sl : Nat) (h : (cls = 0 ∧ n = 31) ∨ (cls = 7 ∧ n = 0)) (hsl : sl = 0 ∨ sl = 7) :
    let w : Word := BitVec.ofNat 64 (n + 256 * cls + 2 ^ 24 * sl)
    let s := laned true none (g12 w 5) Core.reset
    (∀ i ∈ [Instr.estat 31 1 2, .dbgr 31 1, .dbgw 1 2], VecRuns s i [.g 1 false, .g 2 false]) ∧ (∀ c < 16, rdG (laneAt s c) 1 = w) ∧
    (∀ c < 16, isIn n (getLane s s.curRow c sl).poison = false) ∧ ((getHead s s.curRow sl).task ≠ none ↔ sl = 0) := by
  refine ⟨fun i hi => laned_runs ((by decide : ∀ i ∈ [Instr.estat 31 1 2, .dbgr 31 1, .dbgw 1 2],
    laneLegal 0x24001 true i Px.none = true) i hi) ⟨rfl, rfl, rfl, rfl, rfl⟩ rfl ⟨rfl, rfl⟩, ?_⟩
  obtain ⟨rfl, rfl⟩ | ⟨rfl, rfl⟩ := h <;> obtain rfl | rfl := hsl <;> decide

set_option maxRecDepth 10000 in
theorem witness_LaneSystem_classes (x : Nat × Nat × Nat)
    (hx : x ∈ [(1, 15, 15), (2, 7, 1), (3, 0, 0), (4, 7, 0), (4, 8, 0), (5, 3, 0), (5, 3, 0x110), (6, 31, 0), (6, 3, 1)]) :
    let w : Word := BitVec.ofNat 64 (x.2.1 + 256 * x.1 + 2 ^ 12 * x.2.2)
    let s := laned true none { g12 w 4 with land := [slotIn .arrived], arrivals := [(3, ⟨0, none, false⟩)] } Core.reset
    (∀ i ∈ [Instr.dbgr 31 1, .dbgw 1 2], VecRuns s i [.g 1 false, .g 2 false]) ∧ (getHead s s.curRow 0).task ≠ none ∧
    15 < vregCount (pwordOf s s.curRow) ∧ ∀ c < 16, let l := getLane s s.curRow c 0
      rdG (laneAt s c) 1 = w ∧ (rdG (laneAt s c) 2).toNat % 4 = 0 ∧ (coreAt s c).poolPoison = [] ∧ isIn 0x207 l.poison = false ∧
      ringInUse s s.curRow c 0 7 = false ∧ l.land.find? (fun q => q.set == 3 && q.pos == 0) = some (slotIn .arrived) ∧
      l.arrivals.find? (fun p => p.1 == 3) = some (3, ⟨0, none, false⟩) := by
  refine ⟨fun i hi => laned_runs ((by decide : ∀ i ∈ [Instr.dbgr 31 1, .dbgw 1 2],
    laneLegal 0x24001 true i Px.none = true) i hi) ⟨rfl, rfl, rfl, rfl, rfl⟩ rfl ⟨rfl, rfl⟩, ?_⟩
  simp only [List.mem_cons, List.mem_nil_iff, or_false] at hx
  obtain rfl | rfl | rfl | rfl | rfl | rfl | rfl | rfl | rfl := hx <;> decide

/-! Events. -/

/-- A request of the strand at column 3. -/
def aReq : Req := { blankReq base .load 0 3 0 with id := 1, size := 8, st := .sent }

/-- Base with one request. -/
def asking (q : Req) : State := { base with reqs := [q] }

/-- What the statements about a request ask of every state: it is the only one under way, of a placed strand. -/
def Alone (s : State) (q : Req) : Prop :=
  findReq s 1 = some q ∧ s.reqs.filter (fun p => decide (p.id = 1)) = [q] ∧ q.strand < 8 ∧ q.col < 16 ∧
  (∀ p ∈ s.reqs, p.id ≠ 1 → p.st = .performed) ∧ (getHead s q.row q.strand).task = some q.task

theorem alone {s : State} {q : Req} (hr : s.reqs = [q]) (hq : q.id = 1 ∧ q.row = 0 ∧ q.col = 3 ∧ q.strand = 0 ∧ q.task = 0)
    (ht : (getHead s 0 0).task = some 0) : Alone s q := by
  obtain ⟨h1, h2, h3, h4, h5⟩ := hq
  refine ⟨by simp [findReq, hr, h1], by simp [hr, h1], by omega, by omega, ?_, by rw [h2, h4, h5, ht]⟩
  intro p hp hn
  rw [hr, List.mem_singleton] at hp
  exact absurd (hp ▸ h1) hn

theorem reaches {s : State} {q : Req} (hm : s.mesh = []) (h : regionOf (firstPa q) ≠ .peer) : reachable s q = true := by
  have : (regionOf (firstPa q) != .peer) = true := by simpa using h
  simp [reachable, hm, this]

/-- The way of a request or of its answer is open and its bound has not run out, and no dump records what arrives. -/
def InTime (s : State) (q : Req) : Prop := expired s q = false ∧ reachable s q = true ∧ s.dbg.dumpLinks = none

theorem asking_timely {q : Req} (h1 : q.since = 0) (h2 : q.bound = 4000) : expired (asking q) q = false := by
  have : (asking q).now = 0 := rfl
  simp [expired, h1, h2, this]

theorem asking_alone {q : Req} (hq : q.id = 1 ∧ q.row = 0 ∧ q.col = 3 ∧ q.strand = 0 ∧ q.task = 0) : Alone (asking q) q := alone rfl hq rfl

theorem witness_Answers_registers (n : Nat) (hn : n = 1 ∨ n = 31) (b : Bool) :
    let q : Req := { aReq with st := .performed, dest := if b then .g n 9 else .v n 9 }
    Alone (asking q) q ∧ q.st = .performed ∧ q.bad = none ∧ q.kind = .load ∧ 0 < n ∧ n < 32 ∧
    (getCore (asking q) (coreIx q.row q.col)).poolPoison = [] ∧ InTime (asking q) q ∧ q.dest = if b then .g n 9 else .v n 9 :=
  ⟨asking_alone ⟨rfl, rfl, rfl, rfl, rfl⟩, rfl, rfl, rfl, by omega, by omega, rfl, ⟨rfl, rfl, rfl⟩, rfl⟩
theorem witness_Answers_head :
    let q : Req := { aReq with kind := .headLoad, col := 16, st := .performed, dest := .h 15 }
    let s : State := { headed fun h => { h with wait := .load 1 } with reqs := [q] }
    findReq s 1 = some q ∧ (getHead s q.row q.strand).task = some q.task ∧ q.kind = .headLoad ∧ q.st = .performed ∧
    q.bad = none ∧ (getHead s q.row q.strand).wait = .load 1 ∧ q.dest = .h 15 ∧ q.strand < 8 ∧ InTime s q :=
  ⟨rfl, rfl, rfl, rfl, rfl, rfl, rfl, by decide, rfl, rfl, rfl⟩
theorem witness_Answers_landing :
    let q : Req := { aReq with kind := .landing, st := .performed, dest := .slot 3 0 }
    let s := setLane (asking q) 0 3 0 { Lane.reset with land := [slotIn .pending] }
    Alone s q ∧ q.kind = .landing ∧ q.st = .performed ∧ q.bad = none ∧ q.dest = .slot 3 0 ∧
    InTime s q ∧ (getLane s q.row q.col q.strand).claims = [] ∧ ∃ p ∈ (getLane s q.row q.col q.strand).land, p.set = 3 ∧ p.pos = 0 :=
  ⟨alone rfl ⟨rfl, rfl, rfl, rfl, rfl⟩ rfl, rfl, rfl, rfl, rfl, ⟨rfl, rfl, rfl⟩, rfl, _, .head _, rfl, rfl⟩
theorem witness_Answers_stores (st : ReqState) (hs : st = .performed ∨ st = .failed .xlateAbsent 0x20000) (n : Nat) :
    let q : Req := { aReq with kind := .store, st := st }
    let s := setLane (asking q) 0 3 0
      { Lane.reset with recs := List.replicate n ⟨0, .st, 0, 0, 8, false, .dev, 0, 0, .add, .xlateAbsent, false, 0⟩ }
    Alone s q ∧ q.kind = .store ∧ q.st = st ∧ (getLane s q.row q.col q.strand).recs.length = n ∧ InTime s q :=
  ⟨alone rfl ⟨rfl, rfl, rfl, rfl, rfl⟩ rfl, rfl, rfl, List.length_replicate, by obtain rfl | rfl := hs <;> rfl,
    by obtain rfl | rfl := hs <;> rfl, rfl⟩
theorem witness_Answers_walk (v : Word) (hv : v = 0x10008 ∨ v = 0x20000) (b : Bool) :
    let q : Req := { aReq with kind := if b then .store else .landing, st := .walking, va := v, dest := .slot 3 0 }
    let s := setLane (asking q) 0 3 0 { Lane.reset with land := [slotIn .pending] }
    Alone s q ∧ q.st = .walking ∧ q.kind = (if b then .store else .landing) ∧ q.va = v ∧ s.walks = [] ∧ InTime s q ∧
    (getCore s (coreIx q.row q.col)).tlb.length + 2 ≤ 128 ∧ (getLane s q.row q.col q.strand).claims = [] ∧ q.dest = .slot 3 0 ∧
    (∃ p ∈ (getLane s q.row q.col q.strand).land, p.set = 3 ∧ p.pos = 0) ∧
    ((spanXlate s q.row q.col (if b then .write else .read) v 8 q.mask).isOk = true ↔ v = 0x10008) := by
  refine ⟨alone rfl ⟨rfl, rfl, rfl, rfl, rfl⟩ rfl, rfl, rfl, rfl, rfl, ⟨by cases b <;> rfl, by cases b <;> rfl, rfl⟩, ?_, rfl, rfl, ⟨_, .head _, rfl, rfl⟩, ?_⟩
  · show 0 + 2 ≤ 128
    omega
  · obtain rfl | rfl := hv <;> cases b <;> decide

/-- A miss of core 3 on a page. -/
def aMiss (page : Nat) : WalkWait := ⟨9, .core 0 3 0, 0, 0, page, 0, 0, false, 0, false, none⟩

theorem witness_Answers_miss :
    { base with walks := [aMiss 1] }.walks = [aMiss 1] ∧ (aMiss 1).done = none ∧ (aMiss 1).gone = false ∧
    ∀ q ∈ { base with walks := [aMiss 1] }.reqs, q.st ≠ .walking ∧ q.id ≠ (aMiss 1).id :=
  ⟨rfl, rfl, rfl, fun _ h => absurd h List.not_mem_nil⟩

/-- An LDL of set 3 that waits for a slot at the last column. -/
def slotWaiter : Flight := ⟨.ldl 2 1 0 .d 3, Px.none, 0x10000, 1, 0, 0, 1, false, 0, 15, [0x10008, 5], 0, false, some 4, none⟩

theorem witness_Answers_grant :
    let q : Req := { aReq with st := .performed }
    let s := modCore { headed fun h => { h with flights := [slotWaiter] } with reqs := [q] } 15 fun k => { k with slotQ := [⟨0, 0, 3⟩] }
    Alone s q ∧ (getHead s 0 0).flights = [slotWaiter] ∧ (getHead s 0 0).commit = none ∧ (getHead s 0 0).stall = [] ∧
    strandRuns s 0 0 = true ∧ (∀ k < 16, (getLane s 0 k 0).events = []) ∧ (getLane s 0 15 0).retry = [] ∧ (getLane s 0 15 0).claims = [] ∧
    (getLane s 0 15 0).recs = [] ∧ (getCore s (coreIx 0 15)).slotQ = [⟨0, 0, 3⟩] ∧
    ((getLane s 0 15 0).land.filter (·.set = 3)).length < 16 ∧ ((List.range 8).map fun i => (getLane s 0 15 i).land.length).sum < 256 ∧
    szBytes .d ∣ 0x10008 ∧ (spanXlate s 0 15 .read (BitVec.ofNat 64 0x10008) 8 (BitVec.allOnes 32)).isOk = true := by
  refine ⟨alone rfl ⟨rfl, rfl, rfl, rfl, rfl⟩ rfl, rfl, rfl, rfl, rfl, ?_, rfl, rfl, rfl, rfl, ?_, ?_, ?_, ?_⟩ <;> decide

theorem witness_Homes (k : ReqKind) (st : ReqState) (rel : Bool) (pa n : Nat) (hn : n = 1 ∨ n = 128) :
    let q : Req := { aReq with kind := k, st := st, rel := rel, segs := [(pa, n)], size := n }
    Alone (asking q) q ∧ q.segs = [(pa, q.size)] ∧ 0 < q.size ∧ q.size ≤ 128 ∧ (asking q).memPoison = [] ∧ (asking q).memKeys = [] ∧
    q.attr.enc = false ∧ q.kind = k ∧ q.st = st ∧ q.rel = rel ∧ (getLane (asking q) q.row q.col q.strand).recs = [] ∧
    (getLane (asking q) q.row q.col q.strand).retry = [] ∧ expired (asking q) q = false ∧ rowsUnread (asking q) q.row q.col q.strand 1 = [] ∧ q.xnum = 0 ∧
    stampApplied (asking q) (issuerHold (asking q) q) = true ∧ hostReadsBefore (asking q) (pa / 2 ^ 30 % 4) q.since [] < 256 :=
  ⟨asking_alone ⟨rfl, rfl, rfl, rfl, rfl⟩, rfl, show 0 < n by omega, show n ≤ 128 by omega, rfl, rfl, rfl, rfl, rfl, rfl, rfl, rfl,
   asking_timely rfl rfl, rfl, rfl, by simp [stampApplied, asking, aReq, blankReq], (by decide : 0 < 256)⟩
theorem witness_Homes_reach (k : ReqKind) (pa : Nat) (hp : pa < 2 ^ 51) :
    let q : Req := { aReq with kind := k, segs := [(pa, 8)] }
    reachable (asking q) q = true := by
  have h : regionOf pa ≠ .peer := by
    unfold regionOf
    split
    · decide
    · split
      · decide
      · omega
  exact reaches rfl h
theorem witness_Homes_places (b : Bool) (pa : Nat) (hp : pa = 0 ∨ pa = 2 ^ 50 - 128 ∨ pa = 2 ^ 50 ∨ pa = 2 ^ 51 - 128 ∨ pa = 2 ^ 50 * 3) :
    regionOf pa = (if pa < 2 ^ 50 then .cellar else if pa < 2 ^ 51 then .host else .reserved) ∧
    crossDie { aReq with kind := .store, segs := [(if b then 2 ^ 36 else 0, 8)] } = b := by
  obtain rfl | rfl | rfl | rfl | rfl := hp <;> cases b <;> decide

theorem witness_Homes_probe :
    let q : Req := { aReq with kind := .store, rel := true, st := .probing [0, 63] }
    Alone (asking q) q ∧ (tget q.probes 63 Pkt.new).lost = false ∧ routeOpen (asking q) (srcCode q) (groupRouter 63) = true ∧
    expired (asking q) q = false ∧ (getLane (asking q) q.row q.col q.strand).recs = [] ∧
    (getLane (asking q) q.row q.col q.strand).retry = [] :=
  ⟨asking_alone ⟨rfl, rfl, rfl, rfl, rfl⟩, rfl, rfl, rfl, rfl, rfl⟩

/-- An atomic operation of column 3 that is the last to be accepted. -/
def lastOf : Commit := ⟨{ slotWaiter with instr := .amo .add true .plain 2 1 2, col := 16 }, [(3, [1])], [3]⟩

theorem witness_Homes_atomic (kind : ReqKind) (n : Nat) (hn : n = 4 ∨ n = 8) :
    let q : Req := { aReq with kind := kind, segs := [(0x10008, n)], size := n }
    let s : State := { headed fun h => { h with commit := some lastOf } with reqs := [q] }
    Alone s q ∧ q.st = .sent ∧ regionOf 0x10008 = .cellar ∧ unitSeen s q = none ∧
    portFree s (coreIx q.row q.col) q.port q.seq = true ∧ (getHead s q.row q.strand).commit = some lastOf ∧ lastOf.flight.col = 16 ∧
    lastOf.left = [q.col] ∧ tget lastOf.ops q.col [] = [1] ∧ (getHead s q.row q.strand).wait = .no ∧ q.attr.det = false := by
  refine ⟨alone rfl ⟨rfl, rfl, rfl, rfl, rfl⟩ rfl, rfl, by decide, ?_, ?_, rfl, rfl, rfl, rfl, rfl, rfl⟩
  all_goals obtain rfl | rfl := hn <;> cases kind <;> decide

/-- Base with another core 5. -/
def coring (f : Core → Core) : State := modCore base 5 f

/-- A core with a slot 3 in a state, accepted at a row cycle or not. -/
def slotted (st : HatchState) (since : Option Nat) (k : Core) : Core := { k with hatch := k.hatch.set 3 ⟨st, 0, 0x8000, none, since, false⟩ }

theorem witness_VaultEngines_open (n : Nat) (hn : n = 71 ∨ n = 72) :
    let s := modRow (coring fun k => { slotted .opening none k with opens := [.slot 3], accepts := [(bankOf 0x8000, 0)] }) 0 fun x => { x with cycle := n }
    let k := getCore s 5
    k.opens = .slot 3 :: [] ∧ (getRow s (5 / 16)).cycle = n ∧ k.hatch.toList[3]? = some ⟨.opening, 0, 0x8000, none, none, false⟩ ∧
    (getRow s (5 / 16)).cur ≠ .off ∧ ((∀ p ∈ k.accepts, p.1 = bankOf 0x8000 → p.2 + 72 ≤ n) ↔ n = 72) ∧ k.accepts[3]? = none ∧
    k.refreshing = none := by
  obtain rfl | rfl := hn <;> decide
theorem witness_VaultEngines_put (n : Nat) (hn : n = 71 ∨ n = 72) :
    let p : HPut := ⟨1, 0, 0x8000, none, 0x1000, 0, false, none, 0⟩
    let s := modRow (coring fun k => { k with opens := [.put 1], hputs := [p], accepts := [(bankOf 0x8000, 0)] }) 0 fun x => { x with cycle := n }
    let k := getCore s 5
    k.opens = .put 1 :: [] ∧ k.hputs.find? (fun x => x.id == 1) = some p ∧ (getRow s (5 / 16)).cur ≠ .off ∧ (getRow s (5 / 16)).cycle = n ∧
    ((∀ x ∈ k.accepts, x.1 = bankOf 0x8000 → x.2 + 72 ≤ n) ↔ n = 72) ∧ k.accepts[3]? = none ∧ k.refreshing = none := by
  obtain rfl | rfl := hn <;> decide
theorem witness_VaultEngines_slot (st : HatchState) (n : Nat)
    (hn : st = .opening ∧ (n = 23 ∨ n = 24) ∨ st = .ready ∧ (n = 13999 ∨ n = 14000)) :
    let s := modRow (coring (slotted st (some 0))) 0 fun x => { x with cycle := n }
    (getCore s 5).hatch.toList[3]? = some ⟨st, 0, 0x8000, none, some 0, false⟩ ∧ htakeChecked s 5 3 = false ∧ (getRow s (5 / 16)).cycle = n ∧
    (getCore s 5).transfers = [] := by
  obtain ⟨rfl, rfl | rfl⟩ | ⟨rfl, rfl | rfl⟩ := hn <;> decide
theorem witness_VaultEngines_moves (n : Nat) (hn : n = 4 ∨ n = 36) :
    let m : Transfer := ⟨9, 7, 3, 0x8000, none, 7, 256, 0, some (5, [])⟩
    let p : HPut := ⟨1, 0, 0x8000, none, 0x1000, 0, false, some 0, 0⟩
    let l : Lane := { Lane.reset with rings := Lane.reset.rings.set 7 ⟨0x800, true, 4, 0, 2304, [(256, 2048)], 0⟩ }
    let s := setLane (modRow (coring fun k => { k with transfers := [m], hputs := [p] }) 0 fun x => { x with cycle := n }) 0 5 7 l
    let r := ringOf (getLane s (5 / 16) (5 % 16) m.strand) m.ring
    (getCore s 5).transfers = m :: [] ∧ (getCore s 5).hputs = p :: [] ∧ (getRow s (5 / 16)).cur ≠ .off ∧
    (getRow s (5 / 16)).cycle = n ∧ s.memPoison = [] ∧ s.memKeys = [] ∧ (getCore s 5).poolPoison = [] ∧ m.data = some (5, []) ∧ m.ring < 8 ∧ m.strand < 8 ∧ p.key = none ∧ s.now < p.issued + 4000 ∧ r.scnt ≠ 0 ∧
    2048 ≤ 512 * r.scnt ∧ r.ssz = true ∧ r.holes = [(m.at_, 2048)] := by
  obtain rfl | rfl := hn <;> decide
theorem witness_VaultEngines_refresh (n : Nat) (hn : n = 1700 ∨ n = 1879 ∨ n = 1880) (b : Bool) :
    let s := modRow (coring fun k => { slotted .ready (some 0) k with
      refreshNext := if b then 0 else 63, refreshing := if n = 1700 then none else some (0, 1700) }) 0 fun x => { x with cycle := n }
    let k := getCore s 5
    (getRow s (5 / 16)).cycle = n ∧ k.refreshDue = [] ∧ k.refreshLast = 0 ∧ (k.refreshing = none ↔ n = 1700) ∧
    (k.refreshing = some (0, 1700) ↔ n ≠ 1700) ∧
    ((∃ h ∈ k.hatch.toList, (h.st = .opening ∨ h.st = .ready) ∧ bankOf h.row = k.refreshNext) ↔ b = true) := by
  obtain rfl | rfl | rfl := hn <;> cases b <;> decide
theorem witness_VaultEngines_scrub : regionOf (64 * 0) = .cellar ∧ regionOf (64 * (2 ^ 44 - 1)) = .cellar ∧ 511 < 512 := by decide

theorem witness_CoreEngines_start (b : Bool) :
    let m : PressCmd := ⟨0, 0, .mma .pt .d8 2 4 1, 63, false⟩
    let r : Ring := ⟨0x800, false, 2, 0, if b then 16384 else 0, [], 0⟩
    let l : Lane := { Lane.reset with rings := (Lane.reset.rings.set 2 r).set 4 r }
    let s := setLane (coring fun k => { k with press := [m] }) 0 5 0 l
    (getCore s 5).press = m :: [] ∧ (getCore s 5).running = none ∧ (getCore s 5).poolPoison = [] ∧
    stagesReady (getLane s 0 5 m.strand) .d8 2 4 = b ∧ (getRow s 0).cur ≠ .off ∧
    (getRow s 0).halted = false ∧ (getRow s 0).phase = .placed := by
  cases b <;> decide
theorem witness_CoreEngines_retire (n : Nat) (hn : n = 0 ∨ n = 1 ∨ n = 16 ∨ n = 64) :
    let m : PressCmd := ⟨0, 7, .mma .pt .d8s 2 4 1, 63, false⟩
    let s := modRow (coring fun k => { k with press := [m], running := some 0 }) 0 fun x => { x with cycle := n }
    (getCore s 5).press = m :: [] ∧ (getCore s 5).running = some 0 ∧ (getCore s 5).poolPoison = [] ∧ m.strand < 8 ∧
    (getRow s 0).cycle = n ∧ (getLane s 0 5 7).drains = [] := by
  obtain rfl | rfl | rfl | rfl := hn <;> decide
theorem witness_CoreEngines_tile (sr : Semiring) (fmt : PressFmt) :
    let m : PressCmd := ⟨3, 7, .mma sr fmt 2 4 1, 63, false⟩
    let ones : List Nat := List.replicate 64 1
    let l : Lane := { Lane.reset with drains := [⟨30, 63, 63, 9, 0, [3], none⟩] }
    let s := setLane (modRow (coring fun k => { k with press := [m], running := some 0, stepRead := ⟨ones, ones, [], []⟩ }) 0
      fun x => { x with cycle := 64 }) 0 5 7 l
    (getCore s 5).press = m :: [] ∧ (getCore s 5).running = some 0 ∧ (getCore s 5).poolPoison = [] ∧ m.op = .mma sr fmt 2 4 1 ∧
    0 + 64 ≤ (getRow s 0).cycle ∧ (∀ d ∈ (getLane s 0 5 7).drains, m.num ∈ d.after) ∧ (4 : Nat) ≠ 2 + 1 ∧ (2 : Nat) ≠ 4 + 1 ∧
    (getCore s 5).stepRead.a.length = 64 ∧ (getCore s 5).stepRead.b.length = 64 :=
  ⟨rfl, rfl, rfl, rfl, Nat.le_refl 64, fun d h => by rw [List.mem_singleton.mp h]; exact .head _, by decide, by decide, rfl, rfl⟩
theorem witness_CoreEngines_drain :
    let d : MDrain := ⟨30, 63, 63, 9, 0, [4], some 0⟩
    let l : Lane := { Lane.reset with drains := [d], vFill := (Lane.reset.vFill.set 30 9).set 31 9 }
    let s := modRow (setLane base 0 5 7 l) 0 fun x => { x with cycle := 2 }
    (getRow s 0).cur ≠ .off ∧ (getCore s 5).poolPoison = [] ∧ (getLane s 0 5 7).drains = [d] ∧ d.begun = some 0 ∧ 0 + 2 ≤ (getRow s 0).cycle ∧
    (getLane s 0 5 7).vFill[30] = d.ticket ∧ (getLane s 0 5 7).vFill[31] = d.ticket := by decide

/-- A copy of a number of bytes from pool to pool. -/
def copying (n : Nat) (ports : List (Nat × List Nat)) : Copy :=
  ⟨7, 0, 3, .pool, 0x1000, .pool, 0x2000, n, 0, .dev, false, 0, none, 1, 0, 0, false, [], ports, [], none⟩

theorem witness_CoreEngines_copy (n : Nat) (hn : n = 64 ∨ n = 65) :
    let s := coring fun k => { k with chans := k.chans.set 3 [copying n []] }
    let k := getCore s 5
    k.chans.toList[3]? = some (copying n [] :: []) ∧ (∀ x < 4, x ≠ 3 → k.chans.toList[x]?.getD [] = []) ∧ k.poolPoison = [] ∧
    k.issued.map (·.id) = [] ∧ s.walks = [] ∧ (copying n []).done < (copying n []).count ∧ (getRow s 0).cur ≠ .off ∧ (getRow s 0).halted = false ∧
    (getRow s 0).phase = .placed := by
  obtain rfl | rfl := hn <;> decide
theorem witness_CoreEngines_deliver :
    let q : Req := { aReq with kind := .granule, port := 3, dstCore := 5, dstOff := 0x2000 }
    let s := asking q
    Alone s q ∧ q.kind = .granule ∧ q.st = .sent ∧ q.segs = [] ∧ q.red = none ∧ q.mcast = none ∧ q.ring = none ∧ q.dstCore = 5 ∧
    q.bad = none ∧ q.port < 4 ∧ (getRow s 0).phase ≠ .restore ∧ expired s q = false ∧ reachable s q = true :=
  ⟨asking_alone ⟨rfl, rfl, rfl, rfl, rfl⟩, rfl, rfl, rfl, rfl, rfl, rfl, rfl, rfl, by decide, by decide, by decide,
   reaches rfl (by decide)⟩
theorem witness_CoreEngines_multicast (b : Bool) :
    let q : Req := { aReq with kind := .granule, dstCore := 512, mcast := some 9, copy := 7, router := some 40 }
    let m := copying 128 (if b then [(40, [1028, 41])] else [])
    let s := modCore (asking q) 3 fun k => { k with chans := k.chans.set 3 [m] }
    Alone s q ∧ q.kind = .granule ∧ q.st = .sent ∧ q.dstCore = 512 ∧ q.mcast = some (BitVec.ofNat 16 9) ∧ coreIx q.row q.col = 3 ∧
    ((getCore s 3).chans.toList.flatten ++ (getCore s 3).issued).find? (fun x => x.id == q.copy) = some m ∧ expired s q = false ∧
    ((m.ports.find? fun x => x.1 == 40).map (·.2) = if b then some [1028, 41] else none) := by
  cases b <;> exact ⟨alone rfl ⟨rfl, rfl, rfl, rfl, rfl⟩ rfl, rfl, rfl, rfl, rfl, rfl, rfl, by decide, by decide⟩
theorem witness_CoreEngines_joins (b : Bool) :
    let j : Join := ⟨1, 5, 0, BitVec.ofNat 16 65535, b, 0, false, Pkt.new⟩
    let s := { base with joins := [j] }
    (s.joins.find? fun x => x.core == 5 && x.tag == BitVec.ofNat 16 65535) = some j ∧ j.pkt.lost = false ∧ s.now < j.since + 4000 ∧
    routeOpen s (routerOf 5) (rendezvous s ((getRow s 0).part.getD 0) (BitVec.ofNat 16 65535)) = true := ⟨rfl, rfl, Nat.zero_lt_succ 3999, rfl⟩

/-- A replica of a multicast on its way from router 0 of die 0 to router 0 of die 1 that has crossed n links. -/
def hopper (n : Nat) : Req :=
  { aReq with kind := .granule, dstCore := 512, mcast := some 9, from_ := some 0, router := some 256, out := { Pkt.new with hops := n } }

/-- A bridge with errors in the last second. -/
def bridged (corr uncor : Nat) : State :=
  { base with mesh := [(.bridge 0 1, ⟨List.replicate corr 0, List.replicate uncor 0, 0, false, false⟩)] }

theorem witness_Links_hop (corr uncor : Nat) (h : (corr, uncor) ∈ [(0, 0), (2, 16), (3, 17)]) :
    let s := bridged corr uncor
    let c : Chan := .bridge 0 1
    let next (n : Nat) := nextHop s (hopper n)
    (∀ n, c ≠ .gararo n) ∧ findReq { s with reqs := [hopper 8] } 1 = some (hopper 8) ∧ (hopper 8).st = .sent ∧
    next 8 = some (c, bridgeRouter 1 0) ∧ (∃ x, next 0 = some (.mesh 0 0 0 .skipEast, x)) ∧ next 40 = none ∧
    (getMesh s c).replays = 0 ∧ (getMesh s c).retired = false ∧
    ((getMesh s c).corr.filter fun t => decide (s.now < t + 1000000000)).length = corr ∧
    ((getMesh s c).uncor.filter fun t => decide (s.now < t + 1000000000)).length = uncor ∧
    (packetOf { hopper 9 with out := { Pkt.new with inside := some c } }).inside = some c := by
  simp only [List.mem_cons, Prod.mk.injEq, List.mem_nil_iff, or_false] at h
  obtain ⟨rfl, rfl⟩ | ⟨rfl, rfl⟩ | ⟨rfl, rfl⟩ := h <;>
    exact ⟨fun n => by simp, rfl, rfl, by decide, ⟨_, rfl⟩, by decide, by decide, by decide, by decide, by decide, rfl⟩
theorem witness_Links (st : LinkSt) (n : Nat) (hn : n = 7 ∨ n = 8) :
    let s : State := { asking aReq with links := [(11, ⟨st, true, 0, 0, 65535, n⟩)], noRoute := [(11, 5)] }
    (getLink s 11).st = st ∧ (getLink s 11).en = true ∧ ((getLink s 11).replays < 8 ↔ n = 7) ∧ (11, 5) ∈ s.noRoute := by
  obtain rfl | rfl := hn <;> cases st <;> decide
set_option maxRecDepth 10000 in
theorem witness_Links_peer :
    let s : State := { base with vfs := [], links := [(11, ⟨.up, true, 0, 0, 0, 0⟩)], imports := [(0, ⟨true, true, true, 0, 5, 0, 0⟩)] }
    peerAdmitted s 5 (2 ^ 21 - 128) 128 true true = true ∧ peerAdmitted s 5 0 1 false true = true ∧ peerAdmitted s 5 0 128 true false = true ∧
    s.dbg.dumpLinks = none ∧ s.memPoison = [] ∧ s.memKeys = [] ∧ winFind (getCore s (vaultOf 0)).vaultWin ⟨5, 3, 4⟩ 0 0 = none ∧
    (128 < 129 ∧ 2 ^ 38 < 2 ^ 38 - 127 + 128) ∧ (∀ x < 12, (getLink base x).st ≠ .up) ∧ ∀ e ∈ s.imports, e.2.limit < 2 ^ 21 / 2 ^ 21 := by
  decide
theorem witness_Links_expiry (n : Nat) (hn : n = 3999 ∨ n = 4000) :
    let s : State := { asking aReq with now := n }
    Alone s aReq ∧ aReq.kind = .load ∧ aReq.st = .sent ∧ aReq.probes = [] ∧ (getHead s aReq.row aReq.strand).commit = none ∧
    (aReq.since + aReq.bound ≤ s.now ↔ n = 4000) := by
  refine ⟨alone rfl ⟨rfl, rfl, rfl, rfl, rfl⟩ rfl, rfl, rfl, rfl, rfl, ?_⟩
  obtain rfl | rfl := hn <;> decide

/-- The leaf that maps 0x20000 to host memory, readable and writable, in those tables. -/
def hostMapped (s : State) : State := probeWord 0x5810 (2 ^ 50 + 0x8F) s

/-- A queue with a posted record of some words at host address 128 times its head, in a partition that is idle. -/
def posted (head tail : Nat) (words : List Nat) : State :=
  let s := modVf (modPart (hostMapped (probeTables State.reset)) 7 fun x => { x with en := true, first := 0 }) 31 fun v => { v with
    en := true, part := 7, croots := v.croots.set 0 ⟨true, 1⟩, queues := v.queues.set 3 { Queue.reset with en := true, head := head, tail := tail } }
  words.zipIdx.foldl (fun s p => probeWord (2 ^ 50 + 128 * (head % 16) + 8 * p.2) p.1 s) s

theorem witness_LaunchTree_tail (v : Word) (hv : v = 14 ∨ v = 15) :
    let old := getQueue (getVf (posted 0xFFFFFFFE 0 []) 31) 3
    old.head = 0xFFFFFFFE ∧ ((v.toNat % 2 ^ 32 + 2 ^ 32 - old.head) % 2 ^ 32 ≤ 2 ^ old.log ↔ v = 14) := by
  obtain rfl | rfl := hv <;> decide
set_option maxRecDepth 10000 in
theorem witness_LaunchTree_record (code : Nat) (hc : code = 0 ∨ code = 1) :
    let s := posted 15 16 [1 + code, 0x10000, 0, 0x24001, 0x100000001, 0, 0x10000, 0, 0, 0, 0, 0, 0x20000]
    let old := getQueue (getVf s 31) 3
    let w : List Word := (List.range 16).map fun i =>
      BitVec.ofNat 64 (physRdN s none (busAt s 31 (old.base.toNat + 128 * (old.head % 2 ^ old.log) + 8 * i)) 8)
    (getPart s 7).en = true ∧ (getPart s 7).job = none ∧ 127 = 4 * 31 + 3 ∧
    (queueOrder s 7).find? (fun i => queuePosted (getQueue (getVf s (i / 4)) (i % 4))) = some 127 ∧
    launchCode s 31 7 w = code ∧ (bits (w.getD 0 0) 0 8 ≠ 1 ↔ code = 1) := by
  obtain rfl | rfl := hc <;> refine ⟨?_, ?_, ?_, ?_, ?_, ?_⟩ <;> decide

/-- Base with its job in a phase, rows still to load, acknowledge, go and report. -/
def jobAt (ph : JobPhase) (rows : List Nat) : State :=
  modPart base 0 fun x => { x with quiet := 5, job := some { probeJob with
    phase := ph, toLoad := if ph = .load then rows else [], toAck := rows, toGo := rows, toReport := rows } }

theorem witness_LaunchTree_phases (ph : JobPhase) (rows : List Nat) (h : rows = [3] ∨ rows = [0, 3]) (n : Nat) (hn : n = 4 ∨ n = 5) :
    let s := modRow { jobAt ph rows with now := n } 3 fun x => { x with part := some 0 }
    ∃ j, (getPart s 0).job = some j ∧ j.phase = ph ∧ partOfRow s 3 = some 0 ∧ (getRow s 3).part = some 0 ∧ 3 ∈ j.toAck ∧ 3 ∈ j.toGo ∧
      3 ∈ j.toReport ∧ (ph = .load → 3 ∈ j.toLoad) ∧ (getRow s 3).cur ≠ .off ∧ (∀ c < 16, (getCore s (coreIx 3 c)).hputs = []) ∧
      j.launch.mbox = 0 ∧ j.ended = [] ∧ ((getPart s 0).quiet ≤ s.now ↔ n = 5) := by
  obtain rfl | rfl := h <;> obtain rfl | rfl := hn <;> cases ph <;> refine ⟨_, rfl, ?_⟩ <;> decide
theorem witness_LaunchTree_go : nextTeam (jobAt .go [0]) 0 none = some 0 ∧ partOfRow (jobAt .go [0]) 0 = some 0 := by decide
theorem witness_LaunchTree_report (n : Nat) (hn : n = 0 ∨ n = 1) :
    let job := { probeJob with launch := { probeLaunch with done := 0x20000 }, ended := if n = 1 then [(0, 65536)] else [] }
    let s := hostMapped (modRow (modPart base 0 fun x => { x with job := some job }) 0 fun x => { x with ended := [0] })
    (getPart s 0).job = some job ∧ partOfRow s 0 = some 0 ∧ 0 ∈ job.toReport ∧
    (∀ i ∈ teamsAt job.launch (partRows (getPart s 0)) (0 - (getPart s 0).first), i ∈ (getRow s 0).ended) ∧
    (bits (statusJoin job.status (rowStatus job (teamsAt job.launch (partRows (getPart s 0)) (0 - (getPart s 0).first)))) 16 25 = job.launch.size ↔
      n = 1) ∧
    ∃ e, xlate s [] job.vf job.launch.ctx .write job.launch.done = .ok (2 ^ 50, ⟨false, false, 0, true⟩, e) := by
  obtain rfl | rfl := hn <;> refine ⟨rfl, ?_, ?_, ?_, ?_, ⟨_, rfl⟩⟩ <;> decide

/-- A job of eight teams, two of them on each of the four rows, with the save areas of the Loft. -/
def manyJob : Job := { probeJob with launch := { probeLaunch with size := 8 } }

/-- Base with that job in a state. -/
def many (st : JobState) (f : Row → Row) : State := modRow (modPart base 0 fun x => { x with job := some manyJob, jstate := st }) 0 f

theorem witness_TeamMoves_slice (n : Nat) (hn : n = 999999 ∨ n = 1000000) (other : Bool) :
    let s := { many .running fun x => { x with ended := if other then [] else [4] } with now := n }
    let t := { s with heads := [(0, { me base with why := 10 })] }
    (getRow s 0).resident = some 0 ∧ rowJob s 0 = some (0, manyJob) ∧ (getRow s 0).part = some 0 ∧ (getPart s 0).jstate = .running ∧
    (getRow s 0).phase = .placed ∧ (getRow s 0).cur ≠ .off ∧ 1 < (rowTeams s 0).length ∧ (getRow s 0).halted = false ∧
    (∀ i < 8, (getHead s 0 i).task = none ∨ ((getHead s 0 i).handler = false ∧ (getHead s 0 i).wait = .no ∧ (getHead s 0 i).commit = none)) ∧
    ((getRow s 0).sliceAt + 1000 * 1000 ≤ s.now ↔ n = 1000000) ∧ nextTeam s 0 (some 0) = some (if other then 4 else 0) ∧
    (∀ i < 8, (getHead t 0 i).task = none ∨ ((getHead t 0 i).handler = false ∧ (getHead t 0 i).wait = .no ∧ (getHead t 0 i).commit = none)) ∧
    ∀ i < 8, (getHead t 0 i).task = none ∨ ((getHead t 0 i).why = 10 ∧ (getHead t 0 i).since + 100000 ≤ t.now) := by
  obtain rfl | rfl := hn <;> cases other <;> refine ⟨?_, ?_, ?_, ?_, ?_, ?_, ?_, ?_, ?_, ?_, ?_, ?_, ?_⟩ <;> decide
theorem witness_TeamMoves_save :
    let s := modPart (many .moving fun x => { x with phase := .save }) 0 fun x => { x with saving := true }
    (getRow s 0).phase = .save ∧ (getRow s 0).resident = some 0 ∧ (getRow s 0).part = some 0 ∧ (getRow s 0).cur ≠ .off ∧
    (getPart s 0).jstate = .moving ∧ (getPart s 0).saving = true ∧ (getPart s 0).killDue = false ∧ (∃ i < 8, (getHead s 0 i).task ≠ none) ∧
    s.reqs = [] ∧ (∀ c < 16, let k := getCore s (coreIx 0 c); k.hputs = [] ∧ k.transfers = [] ∧ k.running = none) ∧ freePlace s 0 = some 0 ∧
    0 < s.loftF ∧ s.loftF ≤ 32 ∧ (∀ c < 16, memWf (getCore s (coreIx 0 c)).pool = true) ∧ (getPart s 0).job = some manyJob ∧ manyJob.phase = .go ∧ manyJob.toGo = [] ∧
    ∀ i < partRows (getPart s 0), let z := getRow s ((getPart s 0).first + i)
      z.phase ≠ .placed ∧ z.phase ≠ .restore ∧ (z.phase = .save → i = 0) := by
  refine ⟨?_, ?_, ?_, ?_, ?_, ?_, ?_, ?_, ?_, ?_, ?_, ?_, ?_, ?_, ?_, ?_, ?_, ?_⟩ <;> decide
theorem witness_TeamMoves_restore :
    let m : Image := ⟨4, 0, [(0, { Head.reset with task := some 4 })], [], [], [], []⟩
    let s := many .running fun x => { x with phase := .restore, resident := none, next := some 4, images := [m] }
    (getRow s 0).phase = .restore ∧ (getRow s 0).next = some 4 ∧ (getRow s 0).cur ≠ .off ∧ (getRow s 0).part = some 0 ∧
    (getPart s 0).killDue = false ∧ (getPart s 0).job = some manyJob ∧ (getRow s 0).images.find? (fun m => m.team == 4) = some m ∧
    (tget m.heads 0 Head.reset).task = some 4 ∧ manyJob.ended = [] ∧ m.place < s.loftF ∧ m.ahead = [] ∧ s.memPoison = [] ∧
    ∀ c < 16, (getCore s (coreIx 0 c)).hputs = [] := by
  refine ⟨?_, ?_, ?_, ?_, ?_, ?_, ?_, ?_, ?_, ?_, ?_, ?_, ?_⟩ <;> decide
theorem witness_TeamMoves_group :
    let s0 := modPart (many .running fun x => x) 0 fun x => { x with job := some { manyJob with groups := [(0, ⟨[0, 4], 0, [(0, 0, 0)]⟩)] } }
    let s := { modHead s0 0 0 fun h => { h with wait := .group 0 16 } with now := 100000 }
    (getRow s 0).resident = some 0 ∧ (∃ j, rowJob s 0 = some (0, j) ∧ ∀ i < 8, (getHead s 0 i).task = none ∨
      ((getHead s 0 i).handler = false ∧ (getHead s 0 i).since + 100000 ≤ s.now ∧ ∃ g d, (getHead s 0 i).wait = .group g d ∧
        ∃ a ∈ (tget j.groups g ⟨[], 0, []⟩).arrived, (getHead s 0 i).task = some a.1 ∧ a.2.1 = 0)) ∧
    (getRow s 0).part = some 0 ∧ (getPart s 0).jstate = .running ∧ (getRow s 0).phase = .placed ∧ (getRow s 0).cur ≠ .off ∧
    1 < (rowTeams s 0).length ∧ (getRow s 0).halted = false ∧ nextTeam s 0 (some 0) = some 4 := by
  refine ⟨by decide, ⟨_, rfl, fun i hi => ?_⟩, ?_, ?_, ?_, ?_, ?_, ?_, ?_⟩
  · interval_cases i
    · exact .inr ⟨rfl, by decide, 0, 16, rfl, _, .head _, rfl, rfl⟩
    all_goals exact .inl rfl
  all_goals decide
theorem witness_TeamMoves_jctl (st : JobState) (full : Bool) :
    let s := many st fun x => { x with images := if full then (List.range 4).map fun i => ⟨4 + i, i, [], [], [], [], []⟩ else [] }
    let t := modRow (many st fun x => { x with phase := .loaded, next := some 4, started := [0, 4] }) 0 id
    (getVf s 0).en = true ∧ (getVf s 0).part = 0 ∧ (getPart s 0).job = some manyJob ∧ (getPart s 0).jstate = st ∧ (getPart s 0).first ≤ 0 ∧
    0 < (getPart s 0).first + partRows (getPart s 0) ∧ (getRow s 0).phase = .placed ∧ (getPart s 0).killDue = false ∧
    (freePlace s 0 = none ↔ full = true) ∧ (full = false → ∀ i < partRows (getPart s 0), (freePlace s ((getPart s 0).first + i)).isSome) ∧
    (∀ i < partRows (getPart s 0), (getRow s ((getPart s 0).first + i)).next = none ∧ (getRow s ((getPart s 0).first + i)).phase ≠ .restore) ∧
    (getRow t 0).phase = .loaded ∧ (getRow t 0).next = some 4 ∧ 4 ∈ (getRow t 0).started ∧ (getPart t 0).jstate = st ∧
    (getRow s 0).cur ≠ .off ∧ (getRow s 0).halted = false ∧
    ∀ i < 8, (getHead s 0 i).task = none ∨ ((getHead s 0 i).handler = false ∧ (getHead s 0 i).wait = .no ∧ (getHead s 0 i).commit = none) := by
  cases st <;> cases full <;>
    refine ⟨?_, ?_, ?_, ?_, ?_, ?_, ?_, ?_, ?_, ?_, ?_, ?_, ?_, ?_, ?_, ?_, ?_, ?_⟩ <;> decide
theorem witness_TeamMoves_jctl_kill (saving handler : Bool) :
    let s := modHead (modPart (many .moving fun x => { x with phase := if handler then .placed else if saving then .save else .restore }) 0 fun x =>
      { x with saving := saving }) 0 0 fun h => { h with handler := handler }
    (getPart s 0).job = some manyJob ∧ (getPart s 0).jstate = .moving ∧ (getPart s 0).saving = saving ∧
    (handler = false → (∀ i < partRows (getPart s 0), rowDelays s ((getPart s 0).first + i) = false) ∧
      ∃ i < partRows (getPart s 0), (getRow s ((getPart s 0).first + i)).phase = if saving then .save else .restore) ∧
    (handler = true → ∃ i < partRows (getPart s 0), rowDelays s ((getPart s 0).first + i) = true) := by
  cases saving <;> cases handler <;> refine ⟨?_, ?_, ?_, ?_, ?_⟩ <;> decide
theorem witness_TeamMoves_kill :
    let s := modVf State.reset 31 fun v => { v with en := true, part := 7 }
    let t := modPart s 7 fun x => { x with job := some manyJob, jstate := .running }
    (getVf s 31).en = true ∧ (getVf s 31).part = 7 ∧ (getPart s 7).job = none ∧ (getVf t 31).en = true ∧ (getVf t 31).part = 7 ∧
    (getPart t 7).job = some manyJob ∧ (getPart t 7).jstate ≠ .moving ∧ ∀ r, (getRow t r).part ≠ some 7 := by
  refine ⟨by decide, by decide, by decide, by decide, by decide, by decide, by decide, fun r h => ?_⟩
  cases h
theorem witness_TeamMoves_holds (n : Nat) (hn : n = 7 ∨ n = 8) :
    let s := modRow (modHead (headed fun h => { h with wait := .pause 8 }) 0 7 fun h => { h with wait := .yield [0] 8 }) 0 fun x => { x with cycle := n }
    (getHead s 0 0).wait = .pause 8 ∧ (getHead s 0 7).wait = .yield [0] 8 ∧ (getRow s 0).cycle = n := by
  obtain rfl | rfl := hn <;> decide

/-- Base with one message under way, its job's group 0 as given, and the waiting of its strand. -/
def telling (m : Msg) (g : Group) (w : HeadWait) : State :=
  modPart { headed fun h => { h with wait := w, tvec := 4 } with msgs := [(1, m)] } 0 fun x =>
    { x with job := some { manyJob with groups := [(0, g)] } }

theorem witness_JobMessages_arrivals (kind : Nat) (hk : kind = 0 ∨ kind = 3) (members : List Nat)
    (hm : members = [1] ∨ members = [0, 1, 2] ∨ members = [0, 1]) :
    let g : Group := ⟨members, 0, [(1, kind, 5)]⟩
    let s := telling (.arrive 0 0 0 0 0 kind 7) g .no
    (∃ j, (getPart s 0).job = some j ∧ tget j.groups 0 ⟨[], 0, []⟩ = g) ∧
    s.msgs.find? (fun x => x.1 == 1) = some (1, .arrive 0 0 0 0 0 kind 7) ∧
    msgArrives s 1 (.arrive 0 0 0 0 0 kind 7) = true ∧ groupBehind s 1 0 0 true = false ∧ (∀ a ∈ g.arrived, a.2.1 = kind) ∧
    (0 ∈ g.members ↔ members ≠ [1]) ∧ (g.arrived.length + 1 = g.members.length ↔ members = [0, 1]) := by
  obtain rfl | rfl := hk <;> obtain rfl | rfl | rfl := hm <;> refine ⟨⟨_, rfl, ?_⟩, ?_, ?_, ?_, ?_, ?_, ?_⟩ <;> decide
theorem witness_JobMessages_lower (arrived : List (Nat × Nat × Word))
    (ha : arrived = [] ∨ arrived = [(1, 0, 5)] ∨ arrived = [(1, 3, 5), (2, 3, 6)]) :
    let g : Group := ⟨[0, 1, 2], 0, arrived⟩
    let s := telling (.lower 0 0 0) g .no
    (∃ j, (getPart s 0).job = some j ∧ tget j.groups 0 ⟨[], 0, []⟩ = g) ∧ s.msgs.find? (fun x => x.1 == 1) = some (1, .lower 0 0 0) ∧
    msgArrives s 1 (.lower 0 0 0) = true ∧ groupBehind s 1 0 0 false = false ∧ (∀ a ∈ g.arrived, a.2.1 = 3 ∨ g.arrived.length < 2) ∧
    ((g.arrived.filter fun a => decide (a.1 ≠ 0)).length = (g.members.filter fun x => decide (x ≠ 0)).length ↔ arrived.length = 2) := by
  obtain rfl | rfl | rfl := ha <;> refine ⟨⟨_, rfl, ?_⟩, ?_, ?_, ?_, ?_, ?_⟩ <;> decide
theorem witness_JobMessages_done (mixed vote : Bool) :
    let s := telling (.done 0 0 0 9 mixed vote) ⟨[0], 1, []⟩ (.group 0 15)
    ∃ j, (getPart s 0).job = some j ∧ s.msgs.find? (fun x => x.1 == 1) = some (1, .done 0 0 0 9 mixed vote) ∧
      taskPlace s 0 j 0 = (0, 0, true) ∧ (getRow s 0).phase = .placed ∧ (getHead s 0 0).task = some 0 ∧ (getHead s 0 0).wait = .group 0 15 ∧
      j.ended = [] ∧ (getHead s 0 0).handler = false ∧ (getHead s 0 0).tvec ≠ 0 ∧ isIn 0x801 (getHead s 0 0).poison = false ∧
      haltStops s 0 0 = false ∧ (getHead s 0 0).flights = [] ∧ (getHead s 0 0).events = [] ∧ (∀ c < 16, (getLane s 0 c 0).events = []) ∧
      msgArrives s 1 (.done 0 0 0 9 mixed vote) = true := by
  cases mixed <;> cases vote <;> refine ⟨_, rfl, ?_⟩ <;> decide
theorem witness_JobMessages_token (dst : Nat) (hd : dst = 1 ∨ dst = 7 ∨ dst = 8) (n : Nat) (hn : n = 7 ∨ n = 8) :
    let s0 := telling (.token 0 0 0 0 (BitVec.ofNat 64 dst) 9) ⟨[0], 1, []⟩ (.send 1)
    let s := modRow (modPart (modHead s0 1 0 fun h => { h with task := some 1, mailbox := List.replicate n 0 }) 0 fun x =>
      { x with job := some { manyJob with ended := [(7, 65536)] } }) 1 fun x => { x with part := some 0, phase := .placed, resident := some 1 }
    ∃ j, (getPart s 0).job = some j ∧ s.msgs.find? (fun x => x.1 == 1) = some (1, .token 0 0 0 0 (BitVec.ofNat 64 dst) 9) ∧
      msgArrives s 1 (.token 0 0 0 0 (BitVec.ofNat 64 dst) 9) = true ∧ (getHead s 0 0).task = some 0 ∧ (getHead s 0 0).wait = .send 1 ∧ (j.launch.size ≤ dst ↔ dst = 8) ∧
      ((∃ e ∈ j.ended, e.1 = dst) ↔ dst = 7) ∧ taskPlace s 0 j 1 = (1, 0, true) ∧ ((getHead s 1 0).mailbox.length < 8 ↔ n = 7) := by
  obtain rfl | rfl | rfl := hd <;> obtain rfl | rfl := hn <;> refine ⟨_, rfl, ?_⟩ <;> decide
theorem witness_JobMessages_own :
    let s := modHead (telling (.token 0 0 0 0 0 9) ⟨[0], 1, []⟩ (.send 1)) 0 0 fun h => { h with mailbox := List.replicate 8 0 }
    ∃ j, (getPart s 0).job = some j ∧ msgArrives s 1 (.token 0 0 0 0 0 9) = true ∧ (getHead s 0 0).task = some 0 ∧
      (getHead s 0 0).wait = .send 1 ∧ 0 < j.launch.size ∧ j.ended = [] ∧ 8 ≤ (getHead s 0 0).mailbox.length := by
  refine ⟨_, rfl, ?_⟩
  decide
theorem witness_JobMessages_away (saved : Bool) :
    let s := modRow (modPart (telling (.token 0 0 0 0 5 9) ⟨[0], 1, []⟩ (.send 1)) 0 fun x =>
      { x with job := some { manyJob with launch := { manyJob.launch with mbox := 0x10000 } } }) 1 fun x =>
      { x with part := some 0, phase := .placed, resident := some 1, images := if saved then [⟨5, 0, [], [], [], [], []⟩] else [] }
    ∃ j, (getPart s 0).job = some j ∧ msgArrives s 1 (.token 0 0 0 0 5 9) = true ∧ taskPlace s 0 j 5 = (1, 0, false) ∧
      5 < j.launch.size ∧ j.ended = [] ∧ ((getRow s 1).images.find? (fun x => x.team == 5 / strandCount j.launch.pword) =
        if saved then some ⟨5, 0, [], [], [], [], []⟩ else none) ∧
      (∃ pa a, mboxPlace s j 5 = some (pa, a) ∧ a.enc = false ∧ memRdN s.mem pa 8 < 8) ∧ s.memKeys = [] ∧ s.memPoison = [] := by
  cases saved <;> refine ⟨_, rfl, ?_, ?_, ?_, ?_, ?_, ⟨_, _, rfl, ?_, ?_⟩, ?_, ?_⟩ <;> decide
theorem witness_JobMessages_tile (n : Nat) (hn : n = 0 ∨ n = 3 ∨ n = 4) :
    let x : Dispenser := ⟨0, 0, 15, 10, 20, 5, 7, 4, 4, n⟩
    let s := { telling (.tile 0 0 0 0 15 14) ⟨[], 0, []⟩ (.tile 1) with dispensers := [x] }
    s.msgs.find? (fun x => x.1 == 1) = some (1, .tile 0 0 0 0 15 14) ∧
    msgArrives s 1 (.tile 0 0 0 0 15 14) = true ∧ tileBehind s 1 0 0 0 0 15 = false ∧ (getHead s 0 0).wait = .tile 1 ∧
    s.dispensers.find? (fun y => y.part == 0 && y.die == 0 && y.num == 15) = some x ∧ 0 < x.tw ∧ 0 < x.th ∧
    (x.next < (x.w + x.tw - 1) / x.tw * ((x.h + x.th - 1) / x.th) ↔ n ≠ 4) := by
  obtain rfl | rfl | rfl := hn <;> decide

theorem witness_HostRegisters_shootdown (busy open_ : Bool) (st : ReqState) (hst : st = .walking ∨ st = .sent) :
    let s := modVf { base with reqs := [{ aReq with st := st }], walks := [{ aMiss 1 with done := if open_ then none else some none }] } 31
      fun v => { v with xbusy := busy, xwalks := [1, 9] }
    (getVf s 31).xbusy = busy ∧ s.enumerated = true ∧
    ((∀ k ∈ s.walks, k.done = none → k.id ∉ (getVf s 31).xwalks) ↔ open_ = false) ∧
    ((∃ k ∈ s.walks, k.done = none ∧ k.id ∈ (getVf s 31).xwalks) ↔ open_ = true) ∧ ((∀ q ∈ s.reqs, q.st = .walking → q.id ∉ (getVf s 31).xwalks) ↔ st = .sent) ∧
    ((∃ q ∈ s.reqs, q.st = .walking ∧ q.id ∈ (getVf s 31).xwalks) ↔ st = .walking) := by
  cases busy <;> cases open_ <;> obtain rfl | rfl := hst <;> decide
theorem witness_HostRegisters_aperture (off : Nat) (ho : off = 0 ∨ off = 2 ^ 23 - 128 ∨ off = 2 ^ 35 - 127) :
    let at_ := 2 ^ 29 * (16 * (getPart base 0).first) + off
    (getVf base 0).part = 0 ∧ base.memPoison = [] ∧ base.memKeys = [] ∧
    ((getVf base 0).en = true ∧ (getPart base 0).en = true ∧ ((getVf base 0).croots.toList.getD (getVf base 0).jctx ⟨false, 0⟩).v = true ∧
      off + 128 ≤ 2 ^ 33 * partRows (getPart base 0) ∧ inLoft base at_ = false ∧ inLoft base (at_ + 128 - 1) = false ↔ off = 0) := by
  obtain rfl | rfl | rfl := ho <;> decide
theorem witness_HostRegisters_part (v : Word) (hv : v = 0x31C01 ∨ v = 0x1C01 ∨ v = 0x1C00 ∨ v = 0x20001) :
    let s := modPart State.reset 0 fun x => { x with en := true, first := 4, size := 0 }
    let rows := 4 * 2 ^ bits v 16 2
    (getPart s 7).job = none ∧ (getPart base 0).job ≠ none ∧
    ((bits v 8 5 + rows ≤ 32 ∧ bits v 8 5 % 4 = 0 ∧ ∀ i < rows, s.availRows.getLsbD (bits v 8 5 + i) = true) ↔ v ≠ 0x31C01) ∧
    ((∀ q < 8, q ≠ 7 → (getPart s q).en = true →
        bits v 8 5 + rows ≤ (getPart s q).first ∨ (getPart s q).first + partRows (getPart s q) ≤ bits v 8 5) ↔ v ≠ 0x20001) ∧
    ((getPart base 0).en ≠ v.getLsbD 0 ∨ (getPart base 0).first ≠ bits v 8 5 ∨ (getPart base 0).size ≠ bits v 16 2) := by
  obtain rfl | rfl | rfl | rfl := hv <;> decide
theorem witness_HostRegisters_moves (vf x : Nat) (w : Bool) (sp : RegSpace) :
    { base with agenda := [.hostLost vf w, .regRead sp x] }.agenda = .hostLost vf w :: [.regRead sp x] ∧ base.enumerated = true ∧
    (getVf base 0).en = true := ⟨rfl, rfl, by decide⟩
theorem witness_HostRegisters_map :
    let s := modPart State.reset 7 fun x => { x with en := true }
    (∀ q < 8, ∀ j, (getPart s q).job = some j → j.vf ≠ 31) ∧ (getPart s 7).en = true ∧ (getPart s 6).en = false ∧
    ∃ q < 8, ∃ j, (getPart base q).job = some j ∧ j.vf = 0 := by
  refine ⟨fun q hq j h => ?_, by decide, by decide, 0, by decide, _, rfl, rfl⟩
  interval_cases q <;> cases h
theorem witness_HostRegisters_watch (b : Bool) :
    let s := { base with confidential := if b then [(0, 0)] else [] }
    ((rowJob s (5 / 16)).isSome = true ∧ ctxOf s (5 / 16) ∈ s.confidential ↔ b = true) ∧ 63 < 64 ∧ 2400 < bits (0x961 : Word) 0 12 ∧
    ¬ 2400 < bits (0x960 : Word) 0 12 := by
  cases b <;> decide

theorem witness_TrustAndPower_commands (c ctx kid len : Nat) (hc : c = 1 ∨ c = 2 ∨ c = 3 ∨ c = 4)
    (hx : ctx = 15 ∨ ctx = 16 ∨ ctx = 255) (hk : kid = 127 ∨ kid = 128) (hl : len = 4032 ∨ len = 4033) (v : Bool) :
    let s := { State.reset with
      rwbusy := true, rwcmd := BitVec.ofNat 64 (c + 256 * 31 + 65536 * ctx), mem := memWrN (memWrN [] (2 ^ 50) 1 kid) (2 ^ 50 + 8) 8 len }
    let t := modVf s 31 fun x => { x with croots := x.croots.set 15 ⟨v, 0⟩ }
    t.rwbusy = true ∧ bits t.rwcmd 0 8 = c ∧ bits t.rwcmd 8 5 = 31 ∧ bits t.rwcmd 16 8 = ctx ∧ t.memKeys = [] ∧ t.iommu = [] ∧ t.rwbuf.toNat < 2 ^ 49 ∧
    t.keys = [] ∧ (memRd t.mem (hostPa (t.rwbuf.toNat + 0))).toNat = kid ∧ memRdN t.mem (hostPa (t.rwbuf.toNat + 8)) 8 = len ∧
    ((getVf t 31).croots.toList.getD 15 ⟨false, 0⟩).v = v := by
  obtain rfl | rfl | rfl | rfl := hc <;> obtain rfl | rfl | rfl := hx <;> obtain rfl | rfl := hk <;> obtain rfl | rfl := hl <;> cases v <;> decide
theorem witness_TrustAndPower_refused (row : Nat) :
    let s := { State.reset with availRows := 0, hot := [3] }
    s.availRows.getLsbD row = false ∧ s.hot ≠ [] ∧ (partOfRow base 0).isSome = true ∧ partOfRow State.reset 31 = none ∧
    State.reset.availRows.getLsbD 31 = true ∧ State.reset.hot = [] ∧ s.enumerated = true ∧ State.reset.enumerated = true := by
  refine ⟨by simp, ?_, ?_, ?_, ?_, ?_, ?_, ?_⟩ <;> decide
theorem witness_TrustAndPower_limit (f : Row → Nat) :
    ∃ s : State, ((List.range 32).map fun r => f (getRow s r)).sum ≤ s.plimit := by
  obtain ⟨n, hn⟩ : ∃ n, ((List.range 32).map fun r => f (getRow State.reset r)).sum = n := ⟨_, rfl⟩
  have h (r : Nat) : getRow { State.reset with plimit := n } r = getRow State.reset r := rfl
  refine ⟨{ State.reset with plimit := n }, ?_⟩
  simp only [h, hn]
  exact Nat.le_refl n
theorem witness_TrustAndPower_key : Config.unwrapKey [] = none ∨ ∃ k, Config.unwrapKey [] = some k := by
  cases Config.unwrapKey []
  · exact .inl rfl
  · exact .inr ⟨_, rfl⟩

theorem witness_TrustAndPower_slot :
    let s := { State.reset with keys := [(127, ⟨0, 3, 4⟩)] }
    ∃ e ∈ s.keys, e.1 = 127 ∧ ¬ (e.2.vf = 31 ∧ e.2.ctx = 15) := ⟨_, .head _, rfl, by decide⟩
theorem witness_TrustAndPower_images (d : BitVec 512) (b : Bool) :
    let images := [(d, true), (d, b)]
    images[0]? = some (d, true) ∧ (∀ j ≤ 0, ∃ e, images[j]? = some e ∧ e.2 = true) ∧
    ((∀ j ≤ 1, ∃ e, images[j]? = some e ∧ e.2 = true) ↔ b = true) ∧ ¬ ∀ j ≤ 2, ∃ e, images[j]? = some e ∧ e.2 = true := by
  refine ⟨rfl, fun j hj => ⟨(d, true), ?_, rfl⟩, ⟨fun h => ?_, fun h j hj => ?_⟩, fun h => ?_⟩
  · interval_cases j
    rfl
  · obtain ⟨e, he, hb⟩ := h 1 (by omega)
    cases he
    exact hb
  · subst h
    interval_cases j <;> exact ⟨_, rfl, rfl⟩
  · obtain ⟨e, he, _⟩ := h 2 (by omega)
    cases he

theorem witness_DebugEvents_step :
    let s := headed fun h => { h with stepDue := true, tvec := 4 }
    (getHead s 0 0).stepDue = true ∧ (getHead s 0 0).task ≠ none ∧ (getHead s 0 0).flights = [] ∧ (getHead s 0 0).commit = none ∧
    (getHead s 0 0).wait = .no ∧ (getHead s 0 0).handler = false ∧ (getHead s 0 0).tvec ≠ 0 ∧ isIn 0x801 (getHead s 0 0).poison = false ∧
    strandRuns s 0 0 = true ∧ (getHead s 0 0).events = [] ∧ (∀ c < 16, (getLane s 0 c 0).events = []) ∧ (getHead base 0 0).stepDue = false ∧ strandRuns (modRow s 0 fun x => { x with halted := true }) 0 0 = false := by
  decide
theorem witness_DebugEvents_hidden (b : Bool) :
    let s := { base with confidential := if b then [(0, 0)] else [] }
    ((rowJob s 0).isSome = true ∧ ctxOf s 0 ∈ s.confidential ↔ b = true) ∧ s.dbg.tren = false ∧ s.dbg.period = 0 ∧ s.enumerated = true := by
  cases b <;> decide
theorem witness_DebugEvents_dropped (n : Nat) :
    let s := { State.reset with dbg := { Debug.reset with tren := true, trsize := 65536, drops := n } }
    s.dbg.tren = true ∧ s.dbg.trsize ≠ 0 ∧ s.dbg.drops = n ∧ s.iommu = [] ∧ s.enumerated = true :=
  ⟨rfl, (by decide : (65536 : Word) ≠ 0), rfl, rfl, rfl⟩
theorem witness_DebugEvents_pulse (at_ n : Nat) (ha : at_ = 0 ∨ at_ = 65472) (hn : n = 999 ∨ n = 1000) (on : Bool) :
    let s := { State.reset with
      now := n, dbg := { Debug.reset with tren := on, trsize := 65536, trptr := 65536 + at_, period := 1, lastPulse := 0 } }
    s.dbg.tren = on ∧ (∀ r < 32, ∀ i < 8, (getHead s r i).task.isSome = false) ∧ s.dbg.trsize.toNat = 65536 ∧
    s.dbg.trptr % 65536 + 64 ≤ 65536 ∧ s.dbg.trbase.toNat < 2 ^ 49 ∧ s.now < 2 ^ 64 ∧ s.dbg.period ≠ 0 ∧
    (s.dbg.lastPulse + 1000 * s.dbg.period ≤ s.now ↔ n = 1000) := by
  obtain rfl | rfl := ha <;> obtain rfl | rfl := hn <;> cases on <;> decide
theorem witness_DebugEvents_dump :
    let s := { State.reset with links := [(11, ⟨.up, true, 0, 0, 0, 0⟩)], dbg := { Debug.reset with dumpId := 65535, dumpLinks := some [11] } }
    (getLink s 11).st = .up ∧ 65535 % 65536 = s.dbg.dumpId ∧ s.dbg.dumpLinks = some [11] ∧ (getLink s 10).st ≠ .up ∧
    1 % 65536 ≠ s.dbg.dumpId ∧ memWf (getCore s 511).pool = true ∧ rowKey s (511 / 16) = none := by decide
theorem witness_DebugEvents_control : (∀ i < 8, (getHead State.reset 31 i).task.isSome = false) ∧ regionOf (64 * (2 ^ 44 - 1)) = .cellar ∧
    32767 < 32768 ∧ 31 < 32 ∧ rowJob base 0 = some (0, probeJob) ∧ (getHead base 0 0).task = some 0 := by
  refine ⟨by decide, by decide, by decide, by decide, rfl, rfl⟩

/-! Where the remaining instructions complete. -/

/-- A core with an empty filter watches nothing (R377). -/
theorem unfiltered {s : State} {r c sl : Nat} {ld st : Bool} {va : Word} {size : Nat} {m : BitVec 32}
    (h : (getCore s (coreIx r c)).filter = 0) : (watchCheck s r c sl ld st va size m).2 = none := by
  have hw : ∀ g, watchHits (getCore s (coreIx r c)) g = false := fun g => by simp [watchHits, h]
  unfold watchCheck
  have hf : ∀ gs : List (Nat × Nat), gs.find? (fun g => watchHits (getCore s (coreIx r c)) g.1) = none := fun gs => by simp [hw]
  simp only [hf]
  split
  · split
    · split <;> rfl
    · rfl
  · rfl

theorem witness_Completions_memory (ord : Bool) (m : BitVec 3) (hm : m = 0 ∨ m = 1) :
    let k : Core := { Core.reset with wctl := 0x301 }
    let s := laned false (some { Px.none with msk := m }) (g12 0x10008 7) k
    let t := laned false none (g12 0x10008 7) k
    (∀ i ∈ [Instr.ld 2 1 0 .d ord, .ldn 2 1 0 .w ord, .st 2 1 0 .d ord], VecRuns t i [.g 1 false, .g 2 false]) ∧
    (∀ i ∈ [Instr.ldv 15 1 0 ord, .stv 15 1 0 ord], VecRuns s i [.g 1 false, .v 15 false]) ∧ szBytes .d ∣ 0x10008 ∧
    (∀ c < 16, rdG (laneAt s c) 1 = 0x10008 ∧ ((rdM (laneAt s c) m).setWidth 32 = (0 : BitVec 32) ↔ m = 1)) ∧
    ∀ b c, c < 16 →
      (watchCheck t 0 c 0 b (!b) 0x10008 8 (BitVec.allOnes 32)).2 = none ∧ walkBusy t 0 c 0 0x10008 8 (BitVec.allOnes 32) = false ∧
      (spanXlate t 0 c .read 0x10008 8 (BitVec.allOnes 32)).isOk = true ∧
      (watchCheck s 0 c 0 b (!b) 0x10008 128 ((rdM (laneAt s c) m).setWidth 32)).2 = none ∧ walkBusy s 0 c 0 0x10008 128 ((rdM (laneAt s c) m).setWidth 32) = false ∧
      (spanXlate s 0 c .read 0x10008 128 ((rdM (laneAt s c) m).setWidth 32)).isOk = true := by
  have hf : ∀ (p : Option Px) (k : Core) (c : Nat), k.filter = 0 → c < 16 →
      (getCore (laned false p (g12 0x10008 7) k) (coreIx 0 c)).filter = 0 := fun p k c h hc =>
    (congrArg Core.filter (laned_core false p (fun _ => g12 0x10008 7) k c hc)).trans h
  refine ⟨?_, ?_, by decide, ?_, fun b c hc => ⟨unfiltered (hf _ _ c rfl hc), ?_, ?_, unfiltered (hf _ _ c rfl hc), ?_, ?_⟩⟩
  · exact fun i hi => laned_runs ((by cases ord <;> decide : ∀ i ∈ [Instr.ld 2 1 0 .d ord, .ldn 2 1 0 .w ord, .st 2 1 0 .d ord],
      laneLegal 0x24001 false i Px.none = true) i hi) ⟨rfl, rfl, rfl, rfl, rfl⟩ rfl ⟨rfl, rfl⟩
  · exact fun i hi => laned_runs ((by obtain rfl | rfl := hm <;> cases ord <;> decide : ∀ i ∈ [Instr.ldv 15 1 0 ord, .stv 15 1 0 ord],
      laneLegal 0x24001 false i { Px.none with msk := m } = true) i hi) ⟨rfl, rfl, rfl, rfl, rfl⟩ rfl ⟨rfl, rfl⟩
  · obtain rfl | rfl := hm <;> decide
  all_goals obtain rfl | rfl := hm <;> revert c <;> decide

/-- A posted store to a host window that has not been performed. -/
def aPosted : Req := { aStore base with segs := [(2 ^ 50, 8)], size := 8, st := .sent }

theorem core_reqs (s : State) (r : List Req) (c : Nat) : coreAt { s with reqs := r } c = coreAt s c := rfl

theorem witness_Completions_fence (c : BitVec 5) (hc : c = 0 ∨ c = 3) :
    let s : State := { laned false (some { Px.none with c := c }) (g12 7 7) Core.reset with reqs := [aPosted] }
    LaneReady s .fence ∧ aPosted.kind ≠ .granule ∧ isWriteKind aPosted.kind = true ∧ scopeOf c ≠ .sys ∧ aPosted.segs ≠ [] ∧
    aPosted.row = s.curRow ∧ aPosted.strand = s.curSlot ∧ aPosted.col < 16 ∧ (∀ u ∈ aPosted.segs, regionOf u.1 ≠ .cellar) ∧
    ∀ c < 16, (coreAt s c).transfers = [] := by
  refine ⟨ready_reqs (laned_ready (i := .fence) ?_ ⟨rfl, rfl, rfl, rfl, rfl⟩ rfl trivial) _, by decide, by decide, ?_, by simp [aPosted], rfl, rfl,
    by decide, fun u hu => ?_, fun k hk => ?_⟩
  · obtain rfl | rfl := hc <;> decide
  · obtain rfl | rfl := hc <;> decide
  rotate_left
  · exact (congrArg Core.transfers (core_reqs _ _ _)).trans
      (congrArg Core.transfers (laned_core false (some { Px.none with c := c }) (fun _ => g12 7 7) Core.reset k hk))
  · simp only [aPosted, List.mem_singleton] at hu
    simp [hu, regionOf]

theorem witness_Completions_drainst :
    let s : State := { laned false none (g12 7 7) Core.reset with reqs := [{ aReq with col := 3 }] }
    LaneReady s .drainst ∧ ∀ q ∈ s.reqs, q.kind ≠ .store ∧ q.kind ≠ .red :=
  ⟨ready_reqs (laned_ready (i := .drainst) rfl ⟨rfl, rfl, rfl, rfl, rfl⟩ rfl trivial) _, by decide⟩

/-- The BAR of a generation that is over, of one that this arrival ends, and of the last of four that arrive. -/
theorem witness_Completions_barriers (o : Option Arrival) (gen tally : Nat) (h : (o, gen, tally) = (some ⟨0, some 0, true⟩, 1, 0) ∨
    (o, gen, tally) = (some ⟨0, some 0, false⟩, 1, 3) ∨ (o, gen, tally) = (none, 0, 3)) :
    let l : Lane := { g12 4 7 with arrivals := (o.map fun r => (31, r)).toList }
    let s := laned false none l { Core.reset with pool := [(1840, 4)], bars := Core.reset.bars.set 31 ⟨4, tally, gen, []⟩ }
    (∀ i ∈ [Instr.bari 31 1, .bara 31, .barw 31, .bar 31], VecRuns s i [.g 1 false]) ∧ (me s).region = 0 ∧
    (∀ c < 16, 1 ≤ (rdG (laneAt s c) 1).toNat ∧ (rdG (laneAt s c) 1).toNat ≤ (constWord (coreAt s c) 230).toNat) ∧
    ∀ c < 16, let bar := (coreAt s c).bars[31]
      let arrival := ((laneAt s c).arrivals.find? fun q => q.1 == 31).map (·.2)
      (∀ r ∈ arrival, r.gen < bar.gen) ∧ (bar.count ≤ bar.tally + 1 ↔ tally = 3) ∧
      (arrival.any (fun r => r.rewound && r.region == some (me s).region) = true ↔ tally = 0) := by
  refine ⟨fun i hi => laned_runs ((by decide : ∀ i ∈ [Instr.bari 31 1, .bara 31, .barw 31, .bar 31],
    laneLegal 0x24001 false i Px.none = true) i hi) ⟨rfl, rfl, rfl, rfl, rfl⟩ rfl ⟨rfl, rfl⟩, rfl, ?_⟩
  obtain h | h | h := h <;> cases h <;> decide

theorem witness_Completions_join (x y : BitVec 5) :
    ∀ i ∈ [Instr.cjoin x y, .cleave x],
      let f : Flight := { slotWaiter with instr := i, begun := [7] }
      let s := headed fun h => { h with flights := [f] }
      let w := getLane s 0 15 0
      (getHead s 0 0).flights = [f] ∧ (getHead s 0 0).commit = none ∧ (getHead s 0 0).stall = [] ∧ strandRuns s 0 0 = true ∧
      f.col = 15 ∧ f.capture = false ∧ ((∃ x y, f.instr = .cjoin x y) ∨ ∃ x, f.instr = .cleave x) ∧ f.begun = [7] ∧ f.px.msk = 0 ∧
      f.handler = (getHead s 0 0).handler ∧ (∀ k < 16, (getLane s 0 k 0).events = []) ∧ w.recs = [] ∧ w.retry = [] ∧ ∀ j ∈ s.joins, j.id ≠ 7 := by
  intro i hi
  refine ⟨rfl, rfl, rfl, rfl, rfl, rfl, ?_, rfl, rfl, rfl, fun _ _ => rfl, rfl, rfl, fun _ h => absurd h List.not_mem_nil⟩
  obtain rfl | rfl := by simpa using hi
  · exact .inl ⟨_, _, rfl⟩
  · exact .inr ⟨_, rfl⟩

theorem witness_Completions_events (pa : Nat) (h : pa = 0 ∨ pa = 2 ^ 50 ∨ pa = 3 * 2 ^ 50 - 1) :
    let q : Req := { aReq with segs := [(pa, 1)], size := 1 }
    (Instr.vaultAccess 1).isEvent = true ∧ findReq (asking q) 1 = some q ∧ regionOf (firstPa q) ≠ .reserved := by
  refine ⟨rfl, rfl, ?_⟩
  obtain rfl | rfl | rfl := h <;> decide

/-! Single instructions, the expected values worked out by hand from the rules named. -/

/-- The state after an instruction, or the state before where there is none. -/
def after (i : Instr) (s : State) : State :=
  match exec i s with
  | .next t => t
  | _ => s

/-- R121, R122: addition wraps at 64 bits. -/
theorem test_addi_wraps : rdH (me (after (.addiHead 2 1 0xFFFF) base)) 2 = 0xFFFFFFFFFFFFFFFF := by decide
/-- R124: JR reads its target before it writes the link. -/
theorem test_jr_same_register :
    (me (after (.jr 1 1) (headed (h1is 0x10040)))).pc = 0x10040 ∧ rdH (me (after (.jr 1 1) (headed (h1is 0x10040)))) 1 = 0x10004 := by decide
/-- R123: BLT compares signed, BLTN unsigned. -/
theorem test_branch_signs : (me (after (.blt 1 0 3) (headed (h1is (-1))))).pc = 0x1000C ∧
    (me (after (.bltn 1 0 3) (headed (h1is (-1))))).pc = 0x10004 := by decide
/-- R125: a zero count skips the body. -/
theorem test_loop_zero : (me (after (.loop 1 7) base)).pc = 0x1001C ∧ (me (after (.loop 1 7) base)).loopc = 0 := by decide
/-- R138, R354, R355: SVC enters the handler with cause 0x0104 at the head. -/
theorem test_svc_entry :
    let t := after (.svc 5) (headed fun h => { h with tvec := 0x10080 })
    (me t).pc = 0x10080 ∧ (me t).tval = 5 ∧ (me t).tpc = 0x10000 ∧ (me t).handler = true ∧ (me t).tcause.toNat / 65536 = 31 := by decide
/-- R24, R152: a west chain adds up from h15 at core 0 eastwards. -/
theorem test_west_chain :
    let s := setMe (laned false none (g12 0 1) Core.reset) { me (laned false none (g12 0 1) Core.reset) with h := Head.reset.h.set 15 5 }
    let t := after (.add 1 1 2 .a) s
    rdG (laneAt t 0) 1 = 6 ∧ rdG (laneAt t 15) 1 = 21 := by decide
/-- R152: the most negative number divided by -1 wraps, and a division by 0 gives all ones. -/
theorem test_div_corners :
    rdG (laneAt (after (.div 3 1 2 .no) (laned false none (g12 0x8000000000000000 (-1)) Core.reset)) 7) 3 = 0x8000000000000000 ∧
    rdG (laneAt (after (.div 3 1 2 .no) (laned false none (g12 5 0) Core.reset)) 7) 3 = 0xFFFFFFFFFFFFFFFF := by decide
/-- R96, R154: 1 + 2^-24 is a tie, rounded to even, and inexact. -/
theorem test_fadd_tie :
    let t := after (.fadd 3 1 2 .no) (laned false none (g12 0x3F800000 0x33800000) Core.reset)
    rdG (laneAt t 9) 3 = 0x3F800000 ∧ (laneAt t 9).estat = 16 := by decide
/-- R163: STP stores little-endian. -/
theorem test_stp_bytes :
    let t := after (.stp 2 1 0 .w) (laned false none (g12 0x800 0x04030201) Core.reset)
    memRd (coreAt t 4).pool 0x800 = 1 ∧ memRd (coreAt t 4).pool 0x803 = 4 ∧ memRd (coreAt t 4).pool 0x804 = 0 := by decide
set_option maxRecDepth 10000 in
/-- R159, R248: a store performed at its vault writes its bytes and no others. -/
theorem test_vault_store :
    let t := after (.vaultAccess 1) (asking { aReq with kind := .store, segs := [(0x8000, 2)], size := 2, data := 0xABCD })
    memRd t.mem 0x8000 = 0xCD ∧ memRd t.mem 0x8001 = 0xAB ∧ memRd t.mem 0x8002 = 0 := by decide

end Sys2Proof.Tests
end

section
/-! PROOFS. Shared rules: what a host action comes to, what a step does with the schedule's moves of the host, and the tables and
memory that the host's registers and apertures act on. -/

namespace Sys2Proof.Machine

/-! Lists and tables. -/

theorem isIn_iff_mem {α : Type} [BEq α] [LawfulBEq α] {x : α} {l : List α} : isIn x l = true ↔ x ∈ l := by
  simp [isIn]

/-- A change of every record that keeps its key, and that keeps the record of an unlisted key, is the change of what is read. -/
theorem tget_map {α : Type} {t : Tbl α} {f : Nat × α → Nat × α} {g : Nat → α → α} {k : Nat} {d : α}
    (hf : ∀ j x, f (j, x) = (j, g j x)) (hd : g k d = d) : tget (t.map f) k d = g k (tget t k d) := by
  induction t with
  | nil => exact hd.symm
  | cons p r ih =>
    obtain ⟨j, x⟩ := p
    rw [List.map_cons, hf, tget, tget]
    by_cases hj : j = k
    · rw [if_pos hj, if_pos hj, hj]
    · rw [if_neg hj, if_neg hj, ih]

theorem modPart_modPart (s : State) (p : Nat) (f g : Part → Part) : modPart (modPart s p f) p g = modPart s p fun x => g (f x) := by
  simp [modPart, getPart, tput_tput]

theorem modVf_modVf (s : State) (n : Nat) (f g : Vf → Vf) : modVf (modVf s n f) n g = modVf s n fun x => g (f x) := by
  simp [modVf, getVf, tput_tput]

/-! Memory. -/

/-- The bytes of a write of n bytes, read back. -/
theorem memRd_memWrN_in (m : List Host.Cell) (a n x b : Nat) (hlo : a ≤ b) (hhi : b < a + n) :
    memRd (memWrN m a n x) b = BitVec.ofNat 8 (x / 2 ^ (8 * (b - a))) := by
  induction n generalizing m a x with
  | zero => omega
  | succ n ih =>
    rw [memWrN]
    by_cases he : b = a
    · subst he
      rw [memRd_memWrN_out _ _ _ _ _ (by omega), memRd_memWr_same, Nat.sub_self, Nat.mul_zero, Nat.pow_zero, Nat.div_one]
    · have hpow : 2 ^ (8 * (b - a)) = 256 * 2 ^ (8 * (b - (a + 1))) := by
        rw [show 8 * (b - a) = 8 + 8 * (b - (a + 1)) by omega, Nat.pow_add]
      rw [ih _ _ _ (by omega) (by omega), hpow, Nat.div_div_eq_div_mul]

/-- A byte of a number kept to n bytes is the byte of the number. -/
theorem byte_of_truncated {x n i : Nat} (hi : i < n) :
    BitVec.ofNat 8 (x % 2 ^ (8 * n) / 2 ^ (8 * i)) = BitVec.ofNat 8 (x / 2 ^ (8 * i)) := by
  apply BitVec.eq_of_toNat_eq
  have hsplit : 2 ^ (8 * n) = 2 ^ (8 * i) * 2 ^ (8 * (n - i)) := by rw [← Nat.pow_add]; congr 1; omega
  have hdvd : 2 ^ 8 ∣ 2 ^ (8 * (n - i)) := Nat.pow_dvd_pow 2 (by omega)
  rw [BitVec.toNat_ofNat, BitVec.toNat_ofNat, hsplit, Nat.mod_mul_right_div_self, Nat.mod_mod_of_dvd _ hdvd]

/-- Where no byte is under a key, a plain read is of the byte that memory lists. -/
theorem physRd_none {s : State} (hk : s.memKeys = []) (a : Nat) : physRd s none a = memRd s.mem a := by
  simp [physRd, hk]

/-- Where no byte is under a key, a plain write changes the memory alone. -/
theorem physWrN_none {s : State} (hk : s.memKeys = []) (a n x : Nat) : physWrN s none a n x = { s with mem := memWrN s.mem a n x } := by
  induction n generalizing s a x with
  | zero => rfl
  | succ n ih =>
    have hwr : physWr s none a (BitVec.ofNat 8 x) = { s with mem := memWr s.mem a (BitVec.ofNat 8 x) } := by
      simp [physWr, hk, tdel]
    rw [physWrN, hwr]
    exact ih (s := { s with mem := memWr s.mem a (BitVec.ofNat 8 x) }) hk _ _

/-! What an event of the host answers. -/

theorem hostAct_enumerated {s : State} (he : s.enumerated = true) (t : State) : hostAct s t = .next t := by
  rw [hostAct, if_pos he]

theorem hostAct_dark {s : State} (he : s.enumerated = false) (t : State) : hostAct s t = .next s := by
  rw [hostAct, he]; rfl

/-- A change of one function's record changes nothing else. -/
theorem completes_modVf {o : Host.Outcome State Fault Refusal} {s : State} {n : Nat} {f : Vf → Vf} (h : o = .next (modVf s n f)) :
    Completes o fun t => t = { s with vfs := t.vfs } ∧ getVf t n = f (getVf s n) := ⟨_, h, rfl, getVf_modVf s n f⟩

/-- A change of one partition's record changes nothing else. -/
theorem completes_modPart {o : Host.Outcome State Fault Refusal} {s : State} {p : Nat} {f : Part → Part}
    (h : o = .next (modPart s p f)) : Completes o fun t => t = { s with parts := t.parts } ∧ getPart t p = f (getPart s p) :=
  ⟨_, h, rfl, getPart_modPart s p f⟩

/-- A change of one core changes nothing else. -/
theorem completes_modCore {o : Host.Outcome State Fault Refusal} {s : State} {k : Nat} {f : Core → Core}
    (h : o = .next (modCore s k f)) : Completes o fun t => t = { s with cores := t.cores } ∧ getCore t k = f (getCore s k) :=
  ⟨_, h, rfl, getCore_modCore s k f⟩

/-! The schedule's moves of the host. -/

theorem step_regRead {s : State} {space : RegSpace} {off : Nat} {rest : List Move} (h : s.agenda = .regRead space off :: rest)
    (he : s.enumerated = true) :
    step s = .next { s with agenda := rest, regAnswer := registerRead { s with agenda := rest } space off } := by
  simp [step, plan, h, he]

theorem step_hostLost {s : State} {vf : Nat} {write : Bool} {rest : List Move} (h : s.agenda = .hostLost vf write :: rest) :
    step s = .next (hostLost { s with agenda := rest } vf write) := by
  simp [step, plan, h]

/-! Whose row it is (R387, R388). -/

theorem rowHidden_iff {s : State} {r : Nat} :
    rowHidden s r = true ↔ (rowJob s r).isSome = true ∧ ctxOf s r ∈ s.confidential := by
  rw [rowHidden, Bool.and_eq_true, isIn_iff_mem]

/-! The instructions of the host, each by its own definition. -/

theorem exec_xshootWrite (vf : Nat) (v : Word) (s : State) : exec (.xshootWrite vf v) s = hostAct s (xshootPut s vf v) := rfl
theorem exec_partWrite (p : Nat) (v : Word) (s : State) : exec (.partWrite p v) s = hostAct s (partPut s p v) := rfl
theorem exec_vfmapWrite (f : Nat) (v : Word) (s : State) : exec (.vfmapWrite f v) s = hostAct s (vfmapPut s f v) := rfl
theorem exec_plimitWrite (v : Word) (s : State) : exec (.plimitWrite v) s = hostAct s (plimitPut s v) := rfl
theorem exec_watchUpdate (core word : Nat) (v : Word) (s : State) :
    exec (.watchUpdate core word v) s = hostAct s (watchPut s core word v) := rfl
theorem exec_lqtailWrite (vf q : Nat) (v : Word) (s : State) :
    exec (.lqtailWrite vf q v) s = hostAct s (if 32 ≤ vf || 4 ≤ q then s else lqtailPut s vf q v) := rfl
theorem exec_registerWrite (space : RegSpace) (off : Nat) (v : Word) (s : State) :
    exec (.registerWrite space off v) s = execRegisterWrite space off v s := rfl
theorem exec_bar2Read (vf off size : Nat) (s : State) : exec (.bar2Read vf off size) s = execBar2Read vf off size s := rfl
theorem exec_bar2Write (vf off size data : Nat) (s : State) :
    exec (.bar2Write vf off size data) s = execBar2Write vf off size data s := rfl
theorem exec_shootdownComplete (vf : Nat) (s : State) : exec (.shootdownComplete vf) s = execShootdownComplete vf s := rfl

end Sys2Proof.Machine
end

section
/-! PROOFS. The host's registers and apertures (R6, R273, R337, R340, R342, R350, R378, R379, R384, R390, R393). -/

namespace Sys2Proof.Machine

/-! Shootdowns (R342). -/

theorem xshootPut_idle {s : State} {vf : Nat} {v : Word} (hvf : vf < 32) (hidle : (getVf s vf).xbusy = false) :
    xshootPut s vf v = modVf s vf fun x => { x with
      xbusy := true, xall := v.getLsbD 1, xctx := bits v 8 8, xva := bits v 16 32 * 65536, xwalks := walksBegun s } := by
  simp [xshootPut, hidle, hvf]

theorem xshootPut_busy {s : State} {vf : Nat} {v : Word} (hbusy : (getVf s vf).xbusy = true) : xshootPut s vf v = s := by
  simp [xshootPut, hbusy]

theorem walksOver_iff {s : State} {ids : List Nat} : walksOver s ids = true ↔
    (∀ q ∈ s.reqs, q.st = .walking → q.id ∉ ids) ∧ ∀ k ∈ s.walks, k.done = none → k.id ∉ ids := by
  simp [walksOver, isIn]

theorem walksOver_eq_false {s : State} {ids : List Nat} : walksOver s ids = false ↔
    (∃ q ∈ s.reqs, q.st = .walking ∧ q.id ∈ ids) ∨ ∃ k ∈ s.walks, k.done = none ∧ k.id ∈ ids := by
  rw [← Bool.not_eq_true, walksOver_iff, Classical.not_and_iff_not_or_not]
  simp

theorem shootHits_iff {vf : Nat} {x : Vf} {e : TlbEntry} : shootHits vf x e = true ↔
    e.vf = vf ∧ e.ctx = x.xctx ∧ (x.xall = true ∨ (e.page ≤ x.xva + 65535 ∧ x.xva < e.page + e.size)) := by
  simp [shootHits, and_assoc]

/-- A list of leaves without those that a shootdown names. -/
def leavesKept (vf : Nat) (x : Vf) (l : List TlbEntry) : List TlbEntry := l.filter fun e => !shootHits vf x e

theorem not_mem_leavesKept {vf : Nat} {x : Vf} {e : TlbEntry} (h : shootHits vf x e = true) (l : List TlbEntry) :
    e ∉ leavesKept vf x l := by
  simp [leavesKept, h]

theorem exec_shootdownComplete_early {s : State} {vf : Nat} (h : walksOver s (getVf s vf).xwalks = false) :
    exec (.shootdownComplete vf) s = .next s := by
  simp [exec_shootdownComplete, execShootdownComplete, h]

/-- Is a row one of a partition's? -/
def inPart (p : Part) (r : Nat) : Bool := p.first ≤ r && r < p.first + partRows p

theorem inPart_iff {p : Part} {r : Nat} : inPart p r = true ↔ p.first ≤ r ∧ r < p.first + partRows p := by
  simp [inPart]

/-- The state in which the TLBs of a function's partition have dropped the leaves that its shootdown names. -/
def leavesDropped (s : State) (vf : Nat) : State :=
  let x := getVf s vf
  let p := getPart s x.part
  { s with
    cores := s.cores.map fun k => if inPart p (k.1 / 16) then (k.1, { k.2 with tlb := leavesKept vf x k.2.tlb }) else k
    rows := s.rows.map fun r => if inPart p r.1 then (r.1, { r.2 with itlb := leavesKept vf x r.2.itlb }) else r }

/-- What that state holds of a core. -/
def coreFlushed (s : State) (vf k : Nat) (x : Core) : Core :=
  if inPart (getPart s (getVf s vf).part) (k / 16) then { x with tlb := leavesKept vf (getVf s vf) x.tlb } else x

/-- What that state holds of a row. -/
def rowFlushed (s : State) (vf r : Nat) (x : Row) : Row :=
  if inPart (getPart s (getVf s vf).part) r then { x with itlb := leavesKept vf (getVf s vf) x.itlb } else x

theorem getCore_leavesDropped (s : State) (vf k : Nat) : getCore (leavesDropped s vf) k = coreFlushed s vf k (getCore s k) :=
  tget_map (fun j x => by rw [coreFlushed]; dsimp only; split <;> rfl) (by rw [coreFlushed]; split <;> rfl)

theorem getRow_leavesDropped (s : State) (vf r : Nat) : getRow (leavesDropped s vf) r = rowFlushed s vf r (getRow s r) :=
  tget_map (fun j x => by rw [rowFlushed]; dsimp only; split <;> rfl) (by rw [rowFlushed]; split <;> rfl)

theorem getCore_leavesDropped_tlb {s : State} {vf r c : Nat} (hc : c < 16) (hr : inPart (getPart s (getVf s vf).part) r = true) :
    (getCore (leavesDropped s vf) (coreIx r c)).tlb = leavesKept vf (getVf s vf) (getCore s (coreIx r c)).tlb := by
  have hrow : coreIx r c / 16 = r := by rw [coreIx]; omega
  rw [getCore_leavesDropped, coreFlushed, hrow, if_pos hr]

theorem getRow_leavesDropped_itlb {s : State} {vf r : Nat} (hr : inPart (getPart s (getVf s vf).part) r = true) :
    (getRow (leavesDropped s vf) r).itlb = leavesKept vf (getVf s vf) (getRow s r).itlb := by
  rw [getRow_leavesDropped, rowFlushed, if_pos hr]

theorem exec_shootdownComplete_over {s : State} {vf : Nat} (hbusy : (getVf s vf).xbusy = true)
    (hover : walksOver s (getVf s vf).xwalks = true) :
    exec (.shootdownComplete vf) s = .next (modVf (leavesDropped s vf) vf fun x => { x with xbusy := false, xwalks := [] }) := by
  rw [exec_shootdownComplete]
  unfold execShootdownComplete
  simp only [hbusy, hover, Bool.not_true, Bool.or_self, Bool.false_eq_true, if_false]
  rfl

/-- A shootdown that completes: BUSY falls, and no TLB of the partition holds a leaf that it names. -/
theorem shootdownComplete_over {s : State} {vf : Nat} (hbusy : (getVf s vf).xbusy = true)
    (hover : walksOver s (getVf s vf).xwalks = true) :
    let w := getVf s vf
    let part := getPart s w.part
    Completes (exec (.shootdownComplete vf) s) fun t =>
      getVf t vf = { w with xbusy := false, xwalks := [] } ∧ t.mem = s.mem ∧ t.heads = s.heads ∧ t.lanes = s.lanes ∧
      ∀ e : TlbEntry, shootHits vf w e = true →
        (∀ c r, inPart part r = true → c < 16 → e ∉ (getCore t (coreIx r c)).tlb) ∧
        ∀ r, inPart part r = true → e ∉ (getRow t r).itlb := by
  intro w part
  refine ⟨_, exec_shootdownComplete_over hbusy hover, getVf_modVf _ vf _, rfl, rfl, rfl, fun e hhit => ⟨?_, ?_⟩⟩
  · intro c r hr hc
    show e ∉ (getCore (leavesDropped s vf) (coreIx r c)).tlb
    rw [getCore_leavesDropped_tlb hc hr]
    exact not_mem_leavesKept hhit _
  · intro r hr
    show e ∉ (getRow (leavesDropped s vf) r).itlb
    rw [getRow_leavesDropped_itlb hr]
    exact not_mem_leavesKept hhit _

/-! BAR2 (R337, R340). -/

theorem apertureAddr_last {p : Part} {off size : Nat} (h1 : 1 ≤ size) :
    apertureAddr p (off + size - 1) = apertureAddr p off + size - 1 := by
  rw [apertureAddr, apertureAddr]; omega

theorem apertureOk_iff {s : State} {vf off size : Nat} (h1 : 1 ≤ size) : apertureOk s vf off size = true ↔
    let w := getVf s vf
    let part := getPart s w.part
    w.en = true ∧ part.en = true ∧ (w.croots.toList.getD w.jctx ⟨false, 0⟩).v = true ∧ off + size ≤ 2 ^ 33 * partRows part ∧
      inLoft s (apertureAddr part off) = false ∧ inLoft s (apertureAddr part off + size - 1) = false := by
  simp [apertureOk, and_assoc, apertureAddr_last h1]

theorem physBad_none {s : State} (hp : s.memPoison = []) (pa n : Nat) : physBad s pa n = none := by
  simp [physBad, hp, isIn]

theorem narrowBad_clean {s : State} (hp : s.memPoison = []) (pa size : Nat) : narrowBad s pa size = false := by
  simp [narrowBad, hp, isIn]

/-- Without poison and keys an aperture reads the bytes that memory lists. -/
theorem apertureRead_clean {s : State} (hp : s.memPoison = []) (hk : s.memKeys = []) (pa size : Nat) :
    apertureRead s pa size = (s, (List.range size).map fun o => memRd s.mem (pa + o)) := by
  have hsound (g : Nat) : isIn g s.memPoison = false := by rw [hp]; rfl
  simp [apertureRead, physBad_none hp, hsound, upTo, physRd_none hk]

/-- Without poison and keys an aperture's write changes the memory alone. -/
theorem peerWrite_clean {s : State} (hp : s.memPoison = []) (hk : s.memKeys = []) (pa size data : Nat) :
    peerWrite s pa size data = { s with mem := memWrN s.mem pa size (data % 2 ^ (8 * size)) } := by
  simp [peerWrite, narrowBad_clean hp, physWrN_none hk, physHeal, hp]

theorem chargeVf_answered (s : State) (vf : Nat) (x : Option (List Byte)) : hostAnswer (chargeVf s vf) vf x =
    modVf s vf fun v => { v with errors := min (v.errors + 1) (2 ^ 32 - 1), answer := x } := by
  rw [hostAnswer, chargeVf, modVf_modVf]

section Apertures
variable {s : State} {vf off size data : Nat} (he : s.enumerated = true) (hvf : vf < 32) (h1 : 1 ≤ size)
include he hvf h1

theorem bar2Read_served (h2 : size ≤ 4096) (hok : apertureOk s vf off size = true) (hp : s.memPoison = []) (hk : s.memKeys = []) :
    exec (.bar2Read vf off size) s = .next (modVf s vf fun v => { v with
      answer := some ((List.range size).map fun o => memRd s.mem (apertureAddr (getPart s (getVf s vf).part) off + o)) }) := by
  have hsize : ¬ (size = 0) ∧ ¬ 4096 < size := by omega
  simp [exec_bar2Read, execBar2Read, he, hvf, hsize, hok, apertureRead_clean hp hk, hostAnswer]

theorem bar2Read_charged (h2 : size ≤ 4096) (hok : apertureOk s vf off size = false) :
    exec (.bar2Read vf off size) s = .next (modVf s vf fun v => { v with
      errors := min (v.errors + 1) (2 ^ 32 - 1), answer := some (List.replicate size 0xFF) }) := by
  have hsize : ¬ (size = 0) ∧ ¬ 4096 < size := by omega
  simp [exec_bar2Read, execBar2Read, he, hvf, hsize, hok, chargeVf_answered]

theorem bar2Write_served (h2 : size ≤ 512) (hok : apertureOk s vf off size = true) (hp : s.memPoison = []) (hk : s.memKeys = []) :
    exec (.bar2Write vf off size data) s = .next { s with
      mem := memWrN s.mem (apertureAddr (getPart s (getVf s vf).part) off) size (data % 2 ^ (8 * size)) } := by
  have hsize : ¬ (size = 0) ∧ ¬ 512 < size := by omega
  simp [exec_bar2Write, execBar2Write, he, hvf, hsize, hok, narrowBad_clean hp, peerWrite_clean hp hk]

theorem bar2Write_charged (h2 : size ≤ 512) (hok : apertureOk s vf off size = false) :
    exec (.bar2Write vf off size data) s = .next (modVf s vf fun v => { v with errors := min (v.errors + 1) (2 ^ 32 - 1) }) := by
  have hsize : ¬ (size = 0) ∧ ¬ 512 < size := by omega
  simp [exec_bar2Write, execBar2Write, he, hvf, hsize, hok, chargeVf]

end Apertures

/-- A write of n bytes of a number, byte by byte. -/
theorem memRd_memWrN_truncated (m : List Host.Cell) (a n x b : Nat) : memRd (memWrN m a n (x % 2 ^ (8 * n))) b =
    if a ≤ b ∧ b < a + n then BitVec.ofNat 8 (x / 2 ^ (8 * (b - a))) else memRd m b := by
  split
  · next h => rw [memRd_memWrN_in _ _ _ _ _ h.1 h.2, byte_of_truncated (by omega)]
  · next h => exact memRd_memWrN_out _ _ _ _ _ (by omega)

theorem hostLost_write {s : State} {vf : Nat} (he : s.enumerated = true) (hvf : vf < 32) (hen : (getVf s vf).en = true) :
    hostLost s vf true = modVf s vf fun v => { v with errors := min (v.errors + 1) (2 ^ 32 - 1) } := by
  simp [hostLost, he, hvf, hen, chargeVf]

theorem hostLost_read {s : State} {vf : Nat} (he : s.enumerated = true) (hvf : vf < 32) (hen : (getVf s vf).en = true) :
    hostLost s vf false = modVf s vf fun v => { v with answer := none } := by
  simp [hostLost, he, hvf, hen, hostAnswer]

/-! Partitions (R350). -/

/-- The rows that a write of PARTp names exist, are available, and begin at a multiple of 4. -/
def rowsThere (s : State) (first rows : Nat) : Prop :=
  first + rows ≤ 32 ∧ first % 4 = 0 ∧ ∀ i < rows, s.availRows.getLsbD (first + i) = true

/-- No other enabled partition has one of the rows. -/
def rowsApart (s : State) (p first rows : Nat) : Prop := ∀ q < 8, q ≠ p → (getPart s q).en = true →
  first + rows ≤ (getPart s q).first ∨ (getPart s q).first + partRows (getPart s q) ≤ first

theorem rangesMeet_eq_false {a n b m : Nat} : rangesMeet a n b m = false ↔ a + n ≤ b ∨ b + m ≤ a := by
  simp only [rangesMeet, Bool.and_eq_false_iff, decide_eq_false_iff_not, Nat.not_lt]
  exact Or.comm

theorem partRefused_eq_false {s : State} {p first size : Nat} {en : Bool} : partRefused s p en first size = false ↔
    ((getPart s p).job = none ∨ ((getPart s p).en = en ∧ (getPart s p).first = first ∧ (getPart s p).size = size)) ∧
    rowsThere s first (4 * 2 ^ size) ∧ (en = true → rowsApart s p first (4 * 2 ^ size)) := by
  simp [partRefused, rowsThere, rowsApart, upTo, rowAvail, rangesMeet_eq_false, Classical.or_iff_not_imp_left,
    Option.isSome_iff_ne_none, and_assoc]

/-- Clearing the refusal of an earlier write does not bear on the next. -/
theorem partRefused_cleared (s : State) (p first size : Nat) (en : Bool) :
    partRefused (modPart s p fun x => { x with refused := false }) p en first size = partRefused s p en first size := by
  have hothers : ((upTo 8).any fun q => q != p && (getPart (modPart s p fun x => { x with refused := false }) q).en &&
        rangesMeet first (4 * 2 ^ size) (getPart (modPart s p fun x => { x with refused := false }) q).first
          (partRows (getPart (modPart s p fun x => { x with refused := false }) q))) =
      (upTo 8).any fun q => q != p && (getPart s q).en &&
        rangesMeet first (4 * 2 ^ size) (getPart s q).first (partRows (getPart s q)) := by
    congr 1
    funext q
    by_cases hq : q = p
    · simp [hq]
    · rw [getPart_modPart_ne _ _ hq]
  simp only [partRefused, getPart_modPart, hothers]
  rfl

theorem partPut_refused {s : State} {p : Nat} {v : Word} (hp : p < 8)
    (hr : partRefused s p (v.getLsbD 0) (bits v 8 5) (bits v 16 2) = true) :
    partPut s p v = modPart s p fun x => { x with refused := true } := by
  rw [partPut, if_neg (by omega)]
  cases hclear : v.getLsbD 24
  · simp only [hr, Bool.false_eq_true, if_false, if_true]
  · simp only [partRefused_cleared, hr, modPart_modPart, if_true]

theorem partPut_taken {s : State} {p : Nat} {v : Word} (hp : p < 8)
    (hr : partRefused s p (v.getLsbD 0) (bits v 8 5) (bits v 16 2) = false) :
    partPut s p v = modPart s p fun x => { x with
      refused := if v.getLsbD 24 then false else x.refused, en := v.getLsbD 0, first := bits v 8 5, size := bits v 16 2 } := by
  rw [partPut, if_neg (by omega)]
  cases hclear : v.getLsbD 24
  · simp only [hr, Bool.false_eq_true, if_false]
  · simp only [partRefused_cleared, hr, modPart_modPart, Bool.false_eq_true, if_false, if_true]

/-! Function mapping (R350). -/

theorem vfLoaded_iff {s : State} {f : Nat} : vfLoaded s f = true ↔ ∃ q < 8, ∃ j, (getPart s q).job = some j ∧ j.vf = f := by
  simp [vfLoaded, upTo]

@[simp] theorem vfLoaded_modVf (s : State) (n f : Nat) (g : Vf → Vf) : vfLoaded (modVf s n g) f = vfLoaded s f := rfl
@[simp] theorem getPart_modVf (s : State) (n p : Nat) (g : Vf → Vf) : getPart (modVf s n g) p = getPart s p := rfl

theorem vfmapPut_refused {s : State} {f : Nat} {v : Word} (hf : f < 32)
    (hr : vfLoaded s f = true ∨ (getPart s (bits v 8 3)).en = false) :
    vfmapPut s f v = modVf s f fun x => { x with refused := true } := by
  have hcond : (vfLoaded s f || !(getPart s (bits v 8 3)).en) = true := by simpa using hr
  rw [vfmapPut, if_neg (by omega)]
  cases hclear : v.getLsbD 16
  · simp only [hcond, Bool.false_eq_true, if_false, if_true]
  · simp only [vfLoaded_modVf, getPart_modVf, hcond, modVf_modVf, if_true]

theorem vfmapPut_taken {s : State} {f : Nat} {v : Word} (hf : f < 32)
    (hl : vfLoaded s f = false) (hen : (getPart s (bits v 8 3)).en = true) :
    vfmapPut s f v = modVf s f fun x => { x with
      refused := if v.getLsbD 16 then false else x.refused, en := v.getLsbD 0, part := bits v 8 3 } := by
  have hcond : (vfLoaded s f || !(getPart s (bits v 8 3)).en) = false := by simp [hl, hen]
  rw [vfmapPut, if_neg (by omega)]
  cases hclear : v.getLsbD 16
  · simp only [hcond, Bool.false_eq_true, if_false]
  · simp only [vfLoaded_modVf, getPart_modVf, hcond, modVf_modVf, Bool.false_eq_true, if_false, if_true]

/-! Watch words (R378, R379, R388). -/

/-- A filter's words but the one replaced are kept. -/
theorem filterPut_getLsbD {f : BitVec 4096} {word : Nat} {v : Word} {i : Nat} (hi : i < 4096) :
    (filterPut f word v).getLsbD i = if i / 64 = word then v.getLsbD (i % 64) else f.getLsbD i := by
  have hdiv : 64 * (i / 64) + i % 64 = i := Nat.div_add_mod i 64
  have hmask : ((2 ^ 64 - 1) * 2 ^ (64 * word)).testBit i = decide (i / 64 = word) := by
    rw [Nat.mul_comm, Nat.testBit_two_pow_mul, Nat.testBit_two_pow_sub_one]
    by_cases hin : i / 64 = word
    · simp only [hin, decide_true, Bool.and_eq_true, decide_eq_true_eq]; omega
    · simp only [hin, decide_false, Bool.and_eq_false_iff, decide_eq_false_iff_not]; omega
  have hput : (v.toNat * 2 ^ (64 * word)).testBit i = (decide (i / 64 = word) && v.getLsbD (i % 64)) := by
    rw [Nat.mul_comm, Nat.testBit_two_pow_mul]
    by_cases hin : i / 64 = word
    · rw [show i - 64 * word = i % 64 by omega]
      simp [hin, show 64 * word ≤ i by omega, BitVec.getLsbD]
    · by_cases hle : 64 * word ≤ i
      · have hhigh : v.getLsbD (i - 64 * word) = false := BitVec.getLsbD_of_ge _ _ (by omega)
        rw [BitVec.getLsbD] at hhigh
        simp [hin, hhigh]
      · simp [hin, hle]
  simp only [filterPut, BitVec.getLsbD_or, BitVec.getLsbD_and, BitVec.getLsbD_not, BitVec.getLsbD_ofNat, hi, decide_true,
    Bool.true_and, hmask, hput]
  by_cases hin : i / 64 = word <;> simp [hin]

section Watch
variable {s : State} {core word : Nat} {v : Word}

theorem watchPut_hidden (hh : rowHidden s (core / 16) = true) : watchPut s core word v = s := by
  simp [watchPut, hh]

theorem watchPut_wctl (hc : core < 512) (hh : rowHidden s (core / 16) = false) (hw : word = 64) :
    watchPut s core word v = modCore s core fun k => { k with wctl := v &&& 0x3FF } := by
  simp [watchPut, hh, hc, hw]

theorem watchPut_filter (hc : core < 512) (hh : rowHidden s (core / 16) = false) (hw : word < 64) :
    watchPut s core word v = modCore s core fun k => { k with filter := filterPut k.filter word v } := by
  have hne : word ≠ 64 ∧ ¬ 64 < word := by omega
  simp [watchPut, hh, hc, hne]

end Watch

/-! Registers by their addresses (R6, R340, R349, R379). -/

theorem plimitPut_eq (s : State) (v : Word) :
    plimitPut s v = { s with plimit := if 2400 < bits v 0 12 then s.plimit else bits v 0 12 } := by
  rw [plimitPut]; split <;> rfl

theorem pfRegPut_part {s : State} {p : Nat} {v : Word} (hp : p < 8) : pfRegPut s (0x100 + 8 * p) v = partPut s p v := by
  have haddr : (0x100 + 8 * p) % 8 = 0 ∧ 0x100 + 8 * p < 0x140 ∧ (0x100 + 8 * p - 0x100) / 8 = p := by omega
  simp [pfRegPut, haddr]

theorem pfRegPut_vfmap {s : State} {f : Nat} {v : Word} (hf : f < 32) : pfRegPut s (0x200 + 8 * f) v = vfmapPut s f v := by
  have haddr : (0x200 + 8 * f) % 8 = 0 ∧ ¬ 0x200 + 8 * f < 0x140 ∧ 0x200 + 8 * f < 0x300 ∧
    (0x200 + 8 * f - 0x200) / 8 = f := by omega
  simp [pfRegPut, haddr]

theorem vfRegPut_xshoot {s : State} {vf : Nat} {v : Word} (hvf : vf < 32) : vfRegPut s vf 0x108 v = xshootPut s vf v := by
  simp [vfRegPut, hvf]

theorem vfRegPut_lqtail {s : State} {vf : Nat} {v : Word} (hvf : vf < 32) : vfRegPut s vf 0x18 v = lqtailPut s vf 0 v := by
  simp [vfRegPut, hvf]

theorem debugRegPut_watch {s : State} {core word : Nat} {v : Word} (hc : core < 512) (hw : word ≤ 64) :
    debugRegPut s (0x400 * core + 8 * word) v = watchPut s core word v := by
  have haddr : (0x400 * core + 8 * word) % 8 = 0 ∧ 0x400 * core + 8 * word < 0x80000 ∧ (0x400 * core + 8 * word) / 0x400 = core ∧
    (0x400 * core + 8 * word) % 0x400 / 8 = word := by omega
  simp only [debugRegPut, haddr, ne_eq, not_true_eq_false, if_false, if_true]

section
variable {s : State} (he : s.enumerated = true) (n off : Nat) (v : Word)
include he

theorem registerWrite_vf : exec (.registerWrite (.vf n) off v) s = .next (vfRegPut s n off v) := by
  simp [exec_registerWrite, execRegisterWrite, he]

theorem registerWrite_pf : exec (.registerWrite .pf off v) s = .next (pfRegPut s off v) := by
  simp [exec_registerWrite, execRegisterWrite, he]

theorem registerWrite_debug : exec (.registerWrite .debug off v) s = .next (debugRegPut s off v) := by
  simp [exec_registerWrite, execRegisterWrite, he]

end

/-- An offset that is no multiple of 8 names no register (log 42), and a write there changes nothing. -/
theorem registerWrite_reserved {s : State} (he : s.enumerated = true) {off : Nat} (hoff : off % 8 ≠ 0) (space : RegSpace) (v : Word) :
    exec (.registerWrite space off v) s = .next s := by
  cases space with
  | vf n => simp [registerWrite_vf he, vfRegPut, hoff]
  | pf => simp [registerWrite_pf he, pfRegPut, hoff]
  | debug => simp [registerWrite_debug he, debugRegPut, hoff]

/-- A read of such an offset answers 0. -/
theorem registerRead_reserved (s : State) {off : Nat} (hoff : off % 8 ≠ 0) (space : RegSpace) : registerRead s space off = 0 := by
  cases space <;> simp [registerRead, vfRegValue, pfRegValue, debugRegValue, hoff]

theorem registerRead_part {s : State} {p : Nat} (hp : p < 8) : registerRead s .pf (0x100 + 8 * p) = BitVec.ofNat 64
    ((if (getPart s p).en then 1 else 0) + (getPart s p).first * 2 ^ 8 + (getPart s p).size * 2 ^ 16 +
      if (getPart s p).refused then 2 ^ 24 else 0) := by
  have haddr : (0x100 + 8 * p) % 8 = 0 ∧ 0x100 + 8 * p ≠ 0 ∧ 0x100 + 8 * p < 0x140 ∧ (0x100 + 8 * p - 0x100) / 8 = p := by omega
  simp [registerRead, pfRegValue, haddr, partValue, regFlag, regField]

/-! Before enumeration (R384, R393). -/

theorem registerWrite_dark {s : State} (hd : s.enumerated = false) (space : RegSpace) (off : Nat) (v : Word) :
    exec (.registerWrite space off v) s = .next s := by
  simp [exec_registerWrite, execRegisterWrite, hd]

theorem bar2Read_dark {s : State} (hd : s.enumerated = false) (vf off size : Nat) : exec (.bar2Read vf off size) s = .next s := by
  simp [exec_bar2Read, execBar2Read, hd]

theorem bar2Write_dark {s : State} (hd : s.enumerated = false) (vf off size data : Nat) :
    exec (.bar2Write vf off size data) s = .next s := by
  simp [exec_bar2Write, execBar2Write, hd]

/-- No write of the host and no command of it has an effect: each is guarded by enumeration. -/
theorem host_dark {s : State} (hd : s.enumerated = false) (vf p f core word off size data x : Nat) (v : Word) :
    ∀ i ∈ [Instr.registerWrite .pf x v, .registerWrite (.vf vf) x v, .registerWrite .debug x v, .bar2Read vf off size,
      .bar2Write vf off size data, .lqtailWrite vf x v, .jctlKill vf, .jctlPre vf, .jctlRes vf, .xshootWrite vf v, .partWrite p v,
      .vfmapWrite f v, .rowpwrRun x data, .rowpwrIdle x data, .rowpwrOff x data, .rowpwrOpp x data, .plimitWrite v,
      .watchUpdate core word v, .xtctlHalt x, .xtctlRelease x, .trctlPulse, .dumpctlGo x], exec i s = .next s := by
  have hact (t : State) : hostAct s t = .next s := hostAct_dark hd t
  simp only [List.forall_mem_cons]
  exact ⟨registerWrite_dark hd _ _ _, registerWrite_dark hd _ _ _, registerWrite_dark hd _ _ _, bar2Read_dark hd _ _ _,
    bar2Write_dark hd _ _ _ _, hact _, hact _, hact _, hact _, hact _, hact _, hact _, hact _, hact _, hact _, hact _, hact _, hact _,
    hact _, hact _, hact _, hact _, fun _ h => nomatch h⟩

/-! The statement. -/

/-- Settles O57: each clause is the rule of one register or aperture, put together from the lemmas above. -/
theorem hostRegisters : Obligations.HostRegisters := by
  unfold Obligations.HostRegisters
  intro s vf p f core word off size data x v hvf hp hf hcore h1 h2 he w part base onlyVf
  have hact {t u : State} (h : t = u) : hostAct s t = .next u := h ▸ hostAct_enumerated he t
  refine ⟨?xshootIdle, ?xshootBusy, ?shootdownOver, ?shootdownEarly, ?apertures, ?lost, ?partition, ?mapping, ?plimit, ?watch, ?regPart,
    ?regVfmap, ?regPlimit, ?regXshoot, ?regLqtail, ?regWatch, ?regRwbuf, ?reserved, ?dark⟩
  case xshootIdle => exact fun hidle => completes_modVf ((exec_xshootWrite _ _ _).trans (hact (xshootPut_idle hvf hidle)))
  case xshootBusy => exact fun hbusy => (exec_xshootWrite _ _ _).trans (hact (xshootPut_busy hbusy))
  case shootdownOver =>
    intro hbusy hreqs hmisses
    obtain ⟨t, hnext, hw, hmem, hheads, hlanes, hgone⟩ := shootdownComplete_over hbusy (walksOver_iff.2 ⟨hreqs, hmisses⟩)
    refine ⟨t, hnext, hw, hmem, hheads, hlanes, fun e hevf hctx hpage => ?_⟩
    obtain ⟨hcores, hrows⟩ := hgone e (shootHits_iff.2 ⟨hevf, hctx, hpage⟩)
    exact ⟨fun c r hlo hhi => hcores c r (inPart_iff.2 ⟨hlo, hhi⟩), fun r hlo hhi => hrows r (inPart_iff.2 ⟨hlo, hhi⟩)⟩
  case shootdownEarly => exact fun _ hopen => exec_shootdownComplete_early (walksOver_eq_false.2 hopen)
  case apertures =>
    intro served
    have hok : apertureOk s vf off size = true ↔ served := apertureOk_iff h1
    refine ⟨fun hs hp hk => ⟨completes_modVf (bar2Read_served he hvf h1 h2 (hok.2 hs) hp hk), fun hsize =>
      ⟨_, bar2Write_served he hvf h1 hsize (hok.2 hs) hp hk, rfl, fun a => memRd_memWrN_truncated _ _ _ _ a⟩⟩, fun hs => ?_⟩
    have hno : apertureOk s vf off size = false := Bool.eq_false_iff.2 fun h => hs (hok.1 h)
    exact ⟨completes_modVf (bar2Read_charged he hvf h1 h2 hno), fun hsize => completes_modVf (bar2Write_charged he hvf h1 hsize hno)⟩
  case lost =>
    intro rest write hagenda hen
    cases write with
    | true => exact completes_modVf ((step_hostLost hagenda).trans (congrArg _ (hostLost_write he hvf hen)))
    | false => exact completes_modVf ((step_hostLost hagenda).trans (congrArg _ (hostLost_read he hvf hen)))
  case partition =>
    intro y en first rows clear onlyPart there apart
    have hfits : partRefused s p en first (bits v 16 2) = false ↔
      (y.job = none ∨ (y.en = en ∧ y.first = first ∧ y.size = bits v 16 2)) ∧ there ∧ (en = true → apart) :=
      partRefused_eq_false
    refine ⟨fun hjob hthere hapart => ?taken, fun hbad => ?refused, fun rest hagenda => ?read⟩
    case taken =>
      exact completes_modPart ((exec_partWrite _ _ _).trans (hact (partPut_taken hp (hfits.2 ⟨.inl hjob, hthere, hapart⟩))))
    case refused =>
      have hr : partRefused s p en first (bits v 16 2) = true := by
        rw [← Bool.not_eq_false, hfits]
        tauto
      exact completes_modPart ((exec_partWrite _ _ _).trans (hact (partPut_refused hp hr)))
    case read => rw [step_regRead hagenda he, registerRead_part hp]; rfl
  case mapping =>
    intro y onlyF loaded
    have hloaded : vfLoaded s f = true ↔ loaded := vfLoaded_iff
    refine ⟨fun hnot hen => ?taken, fun hbad => ?refused⟩
    case taken =>
      have hl : vfLoaded s f = false := Bool.eq_false_iff.2 fun h => hnot (hloaded.1 h)
      exact completes_modVf ((exec_vfmapWrite _ _ _).trans (hact (vfmapPut_taken hf hl hen)))
    case refused =>
      exact completes_modVf ((exec_vfmapWrite _ _ _).trans (hact (vfmapPut_refused hf (hbad.imp_left hloaded.2))))
  case plimit => exact (exec_plimitWrite _ _).trans (hact (plimitPut_eq _ _))
  case watch =>
    intro hidden onlyCore
    have hiff : rowHidden s (core / 16) = true ↔ hidden := rowHidden_iff
    have hshown (h : ¬ hidden) : rowHidden s (core / 16) = false := Bool.eq_false_iff.2 fun e => h (hiff.1 e)
    refine ⟨fun h => ?ignored, fun h hword => ?wctl, fun h hword => ?filter⟩
    case ignored => exact (exec_watchUpdate _ _ _ _).trans (hact (watchPut_hidden (hiff.2 h)))
    case wctl =>
      exact completes_modCore ((exec_watchUpdate _ _ _ _).trans (hact (watchPut_wctl hcore (hshown h) hword)))
    case filter =>
      obtain ⟨t, hnext, hcores, hcore'⟩ :=
        completes_modCore ((exec_watchUpdate _ _ _ _).trans (hact (watchPut_filter (v := v) hcore (hshown h) hword)))
      exact ⟨t, hnext, _, ⟨hcores, hcore'⟩, fun i hi => filterPut_getLsbD hi⟩
  case regPart => rw [registerWrite_pf he, exec_partWrite, hact rfl, pfRegPut_part hp]
  case regVfmap => rw [registerWrite_pf he, exec_vfmapWrite, hact rfl, pfRegPut_vfmap hf]
  case regPlimit => rw [registerWrite_pf he, exec_plimitWrite, hact rfl]; rfl
  case regXshoot => rw [registerWrite_vf he, exec_xshootWrite, hact rfl, vfRegPut_xshoot hvf]
  case regLqtail => rw [registerWrite_vf he, exec_lqtailWrite, hact rfl, vfRegPut_lqtail hvf]; simp [hvf]
  case regWatch => exact fun hw => by rw [registerWrite_debug he, exec_watchUpdate, hact rfl, debugRegPut_watch hcore hw]
  case regRwbuf => exact ⟨_, registerWrite_pf he _ _, rfl⟩
  case reserved =>
    intro hx
    have hwrite (sp : RegSpace) : exec (.registerWrite sp x v) s = .next s := registerWrite_reserved he hx sp v
    refine ⟨hwrite _, hwrite _, hwrite _, fun sp rest hagenda => ?_⟩
    rw [step_regRead hagenda he, registerRead_reserved _ hx]
  case dark => exact host_dark rfl vf p f core word off size data x v

end Sys2Proof.Machine
end

section
/-! PROOFS. Hard-wired registers and read after write (O27). -/

namespace Sys2Proof.Machine

/-! The h registers of a head (R31). -/

@[simp] theorem rdH_zero (h : Head) : rdH h 0 = 0 := rfl
@[simp] theorem wrH_zero (h : Head) (v : Word) : wrH h 0 v = h := rfl

theorem rdH_wrH_same (h : Head) {d : BitVec 4} (v : Word) (hd : d ≠ 0) : rdH (wrH h d v) d = v := by
  rw [rdH, wrH, if_neg hd, if_neg hd, Vector.getElem_set_self]

theorem rdH_wrH_ne (h : Head) {d n : BitVec 4} (v : Word) (hn : n ≠ d) : rdH (wrH h d v) n = rdH h n := by
  have hne : d.toNat ≠ n.toNat := BitVec.toNat_ne.1 hn.symm
  unfold rdH wrH
  by_cases hd : d = 0
  · rw [if_pos hd]
  · rw [if_neg hd, Vector.getElem_set_ne _ _ hne]

/-! The g, v and m registers of a lane (R33, R34). -/

@[simp] theorem rdG_zero (l : Lane) : rdG l 0 = 0 := rfl
@[simp] theorem wrG_zero (l : Lane) (v : Word) : wrG l 0 v = l := rfl

theorem rdG_wrG_same (l : Lane) {d : BitVec 5} (v : Word) (hd : d ≠ 0) : rdG (wrG l d v) d = v := by
  rw [rdG, wrG, if_neg hd, if_neg hd, Vector.getElem_set_self]

theorem rdG_wrG_ne (l : Lane) {d n : BitVec 5} (v : Word) (hn : n ≠ d) : rdG (wrG l d v) n = rdG l n := by
  have hne : d.toNat ≠ n.toNat := BitVec.toNat_ne.1 hn.symm
  unfold rdG wrG
  by_cases hd : d = 0
  · rw [if_pos hd]
  · rw [if_neg hd, Vector.getElem_set_ne _ _ hne]

@[simp] theorem rdV_wrV_same (l : Lane) (d : BitVec 5) (w : Vec) : rdV (wrV l d w) d = w := Vector.getElem_set_self ..

theorem rdV_wrV_ne (l : Lane) {d n : BitVec 5} (w : Vec) (hn : n ≠ d) : rdV (wrV l d w) n = rdV l n := by
  rw [rdV, wrV, Vector.getElem_set_ne _ _ (BitVec.toNat_ne.1 hn.symm)]; rfl

@[simp] theorem rdM_zero (l : Lane) : rdM l 0 = BitVec.allOnes 128 := rfl
@[simp] theorem wrM_zero (l : Lane) (v : Mask) : wrM l 0 v = l := rfl

theorem rdM_wrM_same (l : Lane) {d : BitVec 3} (v : Mask) (hd : d ≠ 0) : rdM (wrM l d v) d = v := by
  rw [rdM, wrM, if_neg hd, if_neg hd, Vector.getElem_set_self]

theorem rdM_wrM_ne (l : Lane) {d n : BitVec 3} (v : Mask) (hn : n ≠ d) : rdM (wrM l d v) n = rdM l n := by
  have hne : d.toNat ≠ n.toNat := BitVec.toNat_ne.1 hn.symm
  unfold rdM wrM
  by_cases hd : d = 0
  · rw [if_pos hd]
  · rw [if_neg hd, Vector.getElem_set_ne _ _ hne]

/-- Settles O27: each file by its laws of a read after a write. -/
theorem registerFiles : Obligations.RegisterFiles := by
  unfold Obligations.RegisterFiles
  refine ⟨fun h d n v => ?head, fun l d n v w => ?lane, fun l d n v => ?mask⟩
  case head => exact ⟨rdH_zero h, wrH_zero h v, rdH_wrH_same h v, rdH_wrH_ne h v⟩
  case lane =>
    exact ⟨rdG_zero l, wrG_zero l v, rdG_wrG_same l v, rdG_wrG_ne l v, rdV_wrV_same l d w, rdV_wrV_ne l w⟩
  case mask => exact ⟨rdM_zero l, wrM_zero l v, rdM_wrM_same l v, rdM_wrM_ne l v⟩

end Sys2Proof.Machine
end

section
/-! PROOFS. An answer of a walk, and a leaf that takes precedence over a stale one (O49). -/

namespace Sys2Proof.Machine

/-- A job's machine whose tables map the first 2 MiB by one leaf, to frame 0. -/
def remapped : State := probeJobIn none (probeWord 0x5000 0x1F (probeTables State.reset))

/-- The leaf of page 1 as a core cached it before the tables changed: no shootdown has named it. -/
def staleLeaf : TlbEntry := ⟨0, 0, 0x10000, 0x10000, 0x90000, true, true, false, false, ⟨false, false, 0, false⟩⟩

/-- A posted vector store of core 3 across pages 0 and 1. -/
def crossingStore : Req := { blankReq remapped .store 0 3 0 with id := 1, va := 0xFFC0, size := 128 }

/-- The machine with that store waiting for the walk of page 0, which its core has not cached. -/
def staleState : State := { remapped with reqs := [crossingStore], cores := [(3, { Core.reset with tlb := [staleLeaf] })] }

/-- Before the walk, the store's second page is that of the cached leaf. -/
theorem staleState_translates : ∃ a b es,
    spanXlate staleState 0 3 .write 0xFFC0 128 (BitVec.allOnes 32) = .ok ([(0xFFC0, 64), (0x90000, 64)], a, b, es) :=
  ⟨_, _, _, rfl⟩

/-- The walk of page 0 finds the leaf of both pages, which the store then leaves by. -/
theorem staleState_walked : ∃ t, exec (.walkComplete 1) staleState = .next t ∧
    t.reqs.map (·.segs) = [[(0xFFC0, 64), (0x10000, 64)]] := ⟨_, rfl, by decide⟩

/-- Refutes O49: the walk of a posted store's first page may find a leaf that covers its second page too, which a stale
leaf of the core's TLB translated otherwise; the store then leaves with other pieces than the translation before the walk. -/
theorem not_answers : ¬ Obligations.Answers := by
  unfold Obligations.Answers
  rintro ⟨hanswers, -, -⟩
  have hothers : ∀ p ∈ staleState.reqs, p.id ≠ 1 → p.st = .performed := by
    simp [staleState, crossingStore]
  obtain ⟨-, -, -, -, -, hwalk, -⟩ :=
    hanswers staleState 1 crossingStore rfl rfl (by decide) hothers rfl rfl rfl
  obtain ⟨htranslated, -⟩ := hwalk rfl rfl (by decide) rfl (by decide)
  obtain ⟨a, b, es, hbefore⟩ := staleState_translates
  obtain ⟨t, hnext, -, q, hq, -, hsegs, -⟩ := htranslated _ a b es hbefore
  obtain ⟨u, hnext', hafter⟩ := staleState_walked
  obtain rfl : u = t := by rw [hnext'] at hnext; exact (Host.Outcome.next.inj hnext)
  have hmem : q.segs ∈ u.reqs.map (·.segs) := List.mem_map_of_mem hq
  rw [hafter, hsegs] at hmem
  exact absurd hmem (by decide)

end Sys2Proof.Machine
end

section
/-! PROOFS. A load whose walk is joined after its core lost a leaf (O60). -/

namespace Sys2Proof.Machine

/-- A job's machine whose tables map pages 0, 1 and 2, each to the frame of its number. -/
def mapped : State := probeJobIn none (probeWord 0x5800 0x1F (probeWord 0x5810 0x2001F (probeTables State.reset)))

/-- The leaf of a page that is mapped to the frame of its number. -/
def leafOfPage (p : Nat) : TlbEntry := ⟨0, 0, 65536 * p, 65536, 65536 * p, true, true, true, false, ⟨false, false, 0, false⟩⟩

/-- A core whose TLB is full, the leaf of page 0 the oldest in it. -/
def fullTlbCore : Core := { Core.reset with tlb := (List.range 127).map (fun i => leafOfPage (i + 3)) ++ [leafOfPage 0] }

/-- A posted vector store of another strand at core 0 across pages 0 and 1: it waits for the walk of page 1. -/
def waitingStore : Req := { blankReq mapped .store 0 0 1 with id := 1, va := 0xFFC0, size := 128 }

/-- The machine with that store and that core, where g1 names page 2 at core 0, and page 0 at the others. -/
def evictingState : State :=
  { mapped with reqs := [waitingStore], fresh := 2, cores := [(0, fullTlbCore)],
                lanes := [(0, { Lane.reset with g := Lane.reset.g.set 1 0x20000 })] }

/-- The load through g1. -/
def evictingLoad : Instr := .ld 2 1 0 .d false

theorem evictingState_runs : LaneRuns evictingState evictingLoad [.g 1 false] := by
  have hcols : ∀ c < 16, (laneAt evictingState c).events = [] ∧ (laneAt evictingState c).recs = [] ∧
      (laneAt evictingState c).retry = [] ∧ coreFree evictingState 0 0 c = true ∧ vecFree evictingState 0 c evictingLoad = true := by
    decide
  have hsrc : ∀ c < 16, srcEmpty (laneAt evictingState c) (.g 1 false) = false ∧
      isIn (1 : BitVec 5).toNat (laneAt evictingState c).poison = false := by decide
  refine ⟨⟨by decide, by decide, rfl, rfl, rfl, rfl, rfl, rfl, rfl, fun c hc => ?_⟩, fun c hc q hq => ?_⟩
  · obtain ⟨hev, hrec, hret, hfree, hvec⟩ := hcols c hc
    exact ⟨hev, hrec, trivial, .inl rfl, .inr hret, trivial, hfree, hvec⟩
  · obtain rfl : q = .g 1 false := List.mem_singleton.1 hq
    exact hsrc c hc

/-- At every core the address is aligned and unwatched, its page translates, and no walk of it is under way. -/
theorem evictingState_loads : ∀ c < 16, let va := rdG (laneAt evictingState c) 1 + BitVec.ofInt 64 ((0 : BitVec 12).toInt * szBytes .d)
    szBytes .d ∣ va.toNat ∧ (watchCheck evictingState 0 c 0 true false va (szBytes .d) (BitVec.allOnes 32)).2 = none ∧
    walkBusy evictingState 0 c 0 va (szBytes .d) (BitVec.allOnes 32) = false ∧
    (spanXlate evictingState 0 c .read va (szBytes .d) (BitVec.allOnes 32)).isOk = true := by decide

/-- Core 0's load evicts page 0, the store asks for its walk too, and core 1's load waits for that walk. -/
theorem evictingState_waits : (getHead (issueLane evictingLoad evictingState) 0 0).flights ≠ [] := by decide

theorem exists_ok_of_isOk {ε α : Type} {x : Except ε α} (h : x.isOk = true) : ∃ a, x = .ok a := by
  cases x with
  | ok a => exact ⟨a, rfl⟩
  | error e => cases h

/-- Refutes O60: a load that fills core 0's full TLB evicts a leaf there, so that a posted access of that core asks for the walk of
its page, and the load of the next core, on the same page, joins that walk and waits. -/
theorem not_completions : ¬ Obligations.Completions := by
  unfold Obligations.Completions
  intro h
  obtain ⟨hload, -⟩ := h evictingState 2 1 0 0 0 .d false
  obtain ⟨t, hnext, -, hhead, -⟩ := hload evictingState_runs fun c hc => by
    obtain ⟨halign, hwatch, hbusy, hok⟩ := evictingState_loads c hc
    exact ⟨halign, hwatch, hbusy, exists_ok_of_isOk hok⟩
  obtain rfl : issueLane evictingLoad evictingState = t := Host.Outcome.next.inj hnext
  exact evictingState_waits (congrArg Head.flights hhead)

end Sys2Proof.Machine
end

section
/-! PROOFS. A step runs the instruction decoded at the program counter, or the scheduled event (O1). -/

namespace Sys2Proof.Machine

/-! A row without lane work (R22, R165, R361). -/

/-- A fold over functions that leave a state as it is leaves it as it is. -/
theorem foldl_fixed {α β : Type} {f : β → α → β} {b : β} : ∀ l : List α, (∀ a ∈ l, f b a = b) → l.foldl f b = b
  | [], _ => rfl
  | a :: l, h => by
    rw [List.foldl_cons, h a List.mem_cons_self]
    exact foldl_fixed l fun x hx => h x (List.mem_cons_of_mem _ hx)

/-- Machine events alone are no traps of an earlier instruction (R357). -/
theorem earliestTrap_machineEvents {s : State} {r sl : Nat} (issue col : Nat)
    (he : ∀ c < 16, ∀ e ∈ (getLane s r c sl).events, e.at_ = none) : earliestTrap s r sl issue col = none := by
  unfold earliestTrap
  dsimp only
  rw [List.flatMap_eq_nil_iff.2]
  · rfl
  · intro c hc
    rw [List.filterMap_eq_nil_iff]
    intro e hmem
    rw [he c (List.mem_range.1 hc) e hmem]
    rfl

/-- A strand without lane work, committing operation, recorded access to retry or trap of an earlier instruction does nothing in a
row's cycle before its cores. -/
theorem strandCycle_idle {s : State} {r sl : Nat} (hcommit : (getHead s r sl).commit = none) (hretry : retryDue s r sl = false)
    (he : ∀ c < 16, ∀ e ∈ (getLane s r c sl).events, e.at_ = none) : strandCycle r s sl = s := by
  simp [strandCycle, earlierTrap, earliestTrap_machineEvents _ _ he, hretry, pumpPerform, hcommit]

theorem standsAt_idle {h : Head} (hflights : h.flights = []) (hcommit : h.commit = none) (c : Nat) : standsAt h c = none := by
  simp [standsAt, frontAt, hflights, hcommit]

/-- A core at which no strand has an instruction does nothing in a row's cycle. -/
theorem coreCycle_idle {s : State} {r : Nat} (hidle : ∀ t < 8, (getHead s r t).flights = [] ∧ (getHead s r t).commit = none) (c : Nat) :
    coreCycle r s c = s := by
  have hnone (p : Flight → Bool) : (upTo 8).filter (fun sl => (standsAt (getHead s r sl) c).any p) = [] := by
    rw [List.filter_eq_nil_iff]
    intro t ht
    obtain ⟨hflights, hcommit⟩ := hidle t (List.mem_range.1 ht)
    simp [standsAt_idle hflights hcommit]
  simp only [coreCycle, hnone, List.foldl_nil]

theorem pumpRow_idle {s : State} {r : Nat}
    (hidle : ∀ t < 8, (getHead s r t).flights = [] ∧ (getHead s r t).commit = none ∧ retryDue s r t = false)
    (he : ∀ t < 8, ∀ c < 16, ∀ e ∈ (getLane s r c t).events, e.at_ = none) : pumpRow s r = s := by
  have hstrands : forSlots (strandCycle r) s = s := foldl_fixed _ fun t ht => by
    have ht8 := List.mem_range.1 ht
    obtain ⟨-, hcommit, hretry⟩ := hidle t ht8
    exact strandCycle_idle hcommit hretry (he t ht8)
  rw [pumpRow, hstrands]
  exact foldl_fixed _ fun c _ => coreCycle_idle (fun t ht => ⟨(hidle t ht).1, (hidle t ht).2.1⟩) c

/-! The reads of the row's Press steps (R300). -/

/-- Nothing but the cores has changed, and no TLB of them. -/
def CoresKeepTlbs (s t : State) : Prop := t = { s with cores := t.cores } ∧ ∀ k, (getCore t k).tlb = (getCore s k).tlb

theorem pressReads_keepsTlbs {s t : State} (h : CoresKeepTlbs s t) (r c n : Nat) : CoresKeepTlbs s (pressReads t r c n) := by
  obtain ⟨hcores, htlb⟩ := h
  have hmod (x : StepRead) : CoresKeepTlbs s (modCore t (coreIx r c) fun k => { k with stepRead := x }) := by
    refine ⟨by rw [hcores]; rfl, fun k => ?_⟩
    by_cases hk : k = coreIx r c
    · subst hk
      rw [getCore_modCore]
      exact htlb _
    · rw [getCore_modCore_ne _ _ hk, htlb]
  unfold pressReads
  dsimp only
  split
  · split
    · split
      · exact ⟨hcores, htlb⟩
      · exact hmod _
    · exact ⟨hcores, htlb⟩
  · exact ⟨hcores, htlb⟩

theorem rowReads_keepsTlbs (s : State) (r : Nat) : CoresKeepTlbs s (rowReads s r) := by
  have hself : CoresKeepTlbs s s := ⟨rfl, fun _ => rfl⟩
  unfold rowReads
  split
  · refine forCols_keeps (fun t c ht => ?_) s hself
    split
    · exact pressReads_keepsTlbs ht _ _ _
    · exact ht
  · exact hself

/-- Where no step is running, no row of a stage is read. -/
theorem rowReads_still {s : State} {r : Nat} (h : ∀ c < 16, (getCore s (coreIx r c)).running = none) : rowReads s r = s := by
  unfold rowReads
  split
  · exact foldl_fixed _ fun c hc => by rw [h c (List.mem_range.1 hc)]
  · rfl

/-! Translation reads the memory, its keys and poison, the key slots and the functions alone (R263 to R268). -/

/-- Two states have what a translation reads in common. -/
def SameTables (s t : State) : Prop :=
  t.mem = s.mem ∧ t.memKeys = s.memKeys ∧ t.memPoison = s.memPoison ∧ t.keys = s.keys ∧ t.confidential = s.confidential ∧
  t.vfs = s.vfs ∧ t.loftF = s.loftF

section
variable {s t : State} (h : SameTables s t)
include h

theorem physRdN_sameTables (key : Option (BitVec 256)) : ∀ n pa, physRdN t key pa n = physRdN s key pa n
  | 0, _ => rfl
  | n + 1, pa => by
    obtain ⟨hmem, hkeys, -⟩ := h
    rw [physRdN, physRdN, physRdN_sameTables key n, physRd, physRd, hmem, hkeys]

theorem physBad_sameTables (pa n : Nat) : physBad t pa n = physBad s pa n := by
  obtain ⟨-, -, hpoison, -⟩ := h
  rw [physBad, physBad, hpoison]

theorem kidOk_sameTables (vf ctx kid : Nat) : kidOk t vf ctx kid = kidOk s vf ctx kid := by
  obtain ⟨-, -, -, hslots, -⟩ := h
  rw [kidOk, kidOk, hslots]

theorem pteBad_sameTables (vf ctx level pte : Nat) : pteBad t vf ctx level pte = pteBad s vf ctx level pte := by
  have hkid := kidOk_sameTables h
  obtain ⟨-, -, -, -, hconf, -⟩ := h
  simp only [pteBad, hkid, hconf]

theorem walkFrom_sameTables (vf ctx va : Nat) : ∀ n level base, walkFrom t vf ctx va n level base = walkFrom s vf ctx va n level base
  | 0, _, _ => rfl
  | n + 1, level, base => by
    simp only [walkFrom, physRdN_sameTables h, physBad_sameTables h, pteBad_sameTables h, walkFrom_sameTables vf ctx va n]

theorem walk_sameTables (vf ctx va : Nat) : walk t vf ctx va = walk s vf ctx va := by
  have hroot : rootOf t vf ctx = rootOf s vf ctx := by
    obtain ⟨-, -, -, -, -, hvfs, -⟩ := h
    rw [rootOf, rootOf, getVf, getVf, hvfs]
  rw [walk, walk, hroot, walkFrom_sameTables h]

theorem xlateWith_sameTables (fails : List (Nat × Cause)) (tlb : List TlbEntry) (vf ctx : Nat) (k : Acc) (va : Word) :
    xlateWith t fails tlb vf ctx k va = xlateWith s fails tlb vf ctx k va := by
  have hkey (e : TlbEntry) : leafKeyOk t e = leafKeyOk s e := by
    have hkid := kidOk_sameTables h
    obtain ⟨-, -, -, -, hconf, -⟩ := h
    simp only [leafKeyOk, hkid, hconf]
  have hcheck (e : TlbEntry) : leafCheck t e k va.toNat = leafCheck s e k va.toNat := by
    obtain ⟨-, -, -, -, -, -, hloft⟩ := h
    have hin (pa : Nat) : inLoft t pa = inLoft s pa := by rw [inLoft, inLoft, hloft]
    simp only [leafCheck, hin]
  simp only [xlateWith, leafOf, walk_sameTables h, hkey, hcheck]

end


/-! The state in which a strand's word is read (R19, R282). -/

/-- The row of a strand that the head takes: its cycle is counted, and the strand is the one issued last. -/
def rowTaken (sl : Nat) (x : Row) : Row := { tickRow x with last := sl }

theorem rowTaken_cycle {x : Row} (sl : Nat) (h : x.cur ≠ .off) : (rowTaken sl x).cycle = x.cycle + 1 := by
  simp [rowTaken, tickRow, h]

theorem rowTaken_part (sl : Nat) (x : Row) : (rowTaken sl x).part = x.part := by
  simp only [rowTaken, tickRow]
  split <;> rfl

theorem rowTaken_itlb (sl : Nat) (x : Row) : (rowTaken sl x).itlb = x.itlb := by
  simp only [rowTaken, tickRow]
  split <;> rfl

section
variable (s : State) (r sl : Nat)

/-- Nothing but the row, the cores and the strand that acts has changed. -/
theorem beginIssue_eq :
    beginIssue s r sl = { modRow s r (rowTaken sl) with cores := (beginIssue s r sl).cores, curRow := r, curSlot := sl } := by
  obtain ⟨hcores, -⟩ := rowReads_keepsTlbs (modRow s r (rowTaken sl)) r
  exact congrArg (fun u : State => { u with curRow := r, curSlot := sl }) hcores

theorem beginIssue_tlb (k : Nat) : (getCore (beginIssue s r sl) k).tlb = (getCore s k).tlb := by
  obtain ⟨-, htlb⟩ := rowReads_keepsTlbs (modRow s r (rowTaken sl)) r
  exact htlb k

theorem beginIssue_cores (h : ∀ c < 16, (getCore s (coreIx r c)).running = none) : (beginIssue s r sl).cores = s.cores := by
  have hstill : rowReads (modRow s r (rowTaken sl)) r = modRow s r (rowTaken sl) := rowReads_still h
  have hcores := congrArg State.cores hstill
  exact hcores

theorem getRow_beginIssue : getRow (beginIssue s r sl) r = rowTaken sl (getRow s r) := by
  rw [beginIssue_eq]
  exact getRow_modRow s r (rowTaken sl)

theorem getHead_beginIssue (t : Nat) : getHead (beginIssue s r sl) r t = getHead s r t := by
  rw [beginIssue_eq]
  rfl

theorem getLane_beginIssue (c t : Nat) : getLane (beginIssue s r sl) r c t = getLane s r c t := by
  rw [beginIssue_eq]
  rfl

theorem sameTables_beginIssue : SameTables s (beginIssue s r sl) := by
  rw [beginIssue_eq]
  exact ⟨rfl, rfl, rfl, rfl, rfl, rfl, rfl⟩

theorem ctxOf_beginIssue : ctxOf (beginIssue s r sl) r = ctxOf s r := by
  have hparts : (beginIssue s r sl).parts = s.parts := by rw [beginIssue_eq]; rfl
  simp only [ctxOf, rowJob, getRow_beginIssue, rowTaken_part, getPart, hparts]

theorem headXlate_beginIssue (k : Acc) (va : Word) : headXlate (beginIssue s r sl) r k va = headXlate s r k va := by
  simp only [headXlate, headXlateWith, ctxOf_beginIssue, getRow_beginIssue, rowTaken_itlb, xlateWith_sameTables (sameTables_beginIssue s r sl)]

theorem missWaits_beginIssue (die vf ctx : Nat) (miss : List Nat) :
    missWaits (beginIssue s r sl) die vf ctx miss = missWaits s die vf ctx miss := by
  have hmisses (q : Req) : reqMisses (beginIssue s r sl) q = reqMisses s q := by rw [reqMisses, reqMisses, beginIssue_tlb]
  have hreqs : (beginIssue s r sl).reqs = s.reqs := by rw [beginIssue_eq]; rfl
  have hwalks : (beginIssue s r sl).walks = s.walks := by rw [beginIssue_eq]; rfl
  have hslow : (beginIssue s r sl).slowWalks = s.slowWalks := by rw [beginIssue_eq]; rfl
  have hmissesOf : missesOf (beginIssue s r sl) die = missesOf s die := by
    unfold missesOf
    rw [hreqs, hwalks, funext hmisses]
  have hwalksOf : walksOf (beginIssue s r sl) die = walksOf s die := by rw [walksOf, walksOf, hmissesOf]
  rw [missWaits, missWaits, hwalksOf, hslow]

end

/-! The head takes a strand's next word (R19, R69, R80, R282). -/

/-- An access that waits for no walk goes on at once. -/
theorem headGate_goes {s : State} {place : WalkPlace} {va : Word} {size : Nat} (handler : Bool) (h : NoWalk s place va size) :
    headGate s place va size handler = .go s [] s.now := by
  obtain ⟨hmine, hmiss⟩ := h
  have hpages : (missesAt (getRow s place.row).itlb (ctxOf s place.row).1 (ctxOf s place.row).2 va size (BitVec.allOnes 32)).map (·.1) =
      missPages (getRow s place.row).itlb (ctxOf s place.row).1 (ctxOf s place.row).2 va size (BitVec.allOnes 32) := by
    simp [missesAt, Function.comp_def]
  simp only [headGate, walkGate, pageGate, hmine, hpages, hmiss, List.isEmpty_nil, if_true, Bool.false_eq_true, if_false]

theorem noWalk_beginIssue {s : State} {r sl : Nat} {va : Word} {size : Nat} (h : NoWalk s (.fetch r sl) va size) :
    NoWalk (beginIssue s r sl) (.fetch r sl) va size := by
  obtain ⟨hmine, hmiss⟩ := h
  have hwalks : (beginIssue s r sl).walks = s.walks := by rw [beginIssue_eq]; rfl
  refine ⟨by rwa [waitsAt, hwalks], ?_⟩
  simpa only [WalkPlace.row, ctxOf_beginIssue, getRow_beginIssue, rowTaken_itlb, missWaits_beginIssue] using hmiss

theorem raiseDue_none {s : State} {r sl : Nat} (hhead : (getHead s r sl).events = []) (hlane : ∀ c < 16, (getLane s r c sl).events = []) :
    raiseDue s r sl = none := by
  have hearlier : earlierTrap s r sl ((getRow s r).cycle + 1) 0 = none := by
    simp [earlierTrap, earliestTrap_machineEvents _ _ fun c hc e he => by rw [hlane c hc] at he; cases he]
  have hevents : (upTo 16).findSome? (fun c => (nextEvent (getHead s r sl).handler (getLane s r c sl).events).map
      fun e => takePending s r c sl e (instrAddr (getHead s r sl))) = none := by
    rw [List.findSome?_eq_none_iff]
    intro c hc
    simp [nextEvent, hlane c (List.mem_range.1 hc)]
  simp only [raiseDue, headEvent, hearlier, hhead, nextHeadEvent, hevents, Option.map_none, Option.or_none]

/-- The issue of an instruction changes the YIELD holds of other strands alone (R132). -/
theorem issued_frame (s : State) (r sl : Nat) :
    issued s r sl = { s with heads := (issued s r sl).heads } ∧ getHead (issued s r sl) r sl = getHead s r sl := by
  refine forSlots_keeps (P := fun t => t = { s with heads := t.heads } ∧ getHead t r sl = getHead s r sl) (fun t c ht => ?_) s ⟨rfl, rfl⟩
  split
  · exact ht
  next hc =>
    split
    · obtain ⟨hframe, hhead⟩ := ht
      refine ⟨by rw [hframe]; rfl, ?_⟩
      rw [modHead, getHead_setHead_ne _ _ (by omega), hhead]
    · exact ht

theorem mem_tlbAdd (n : Nat) (e : TlbEntry) (l : List TlbEntry) : e ∈ tlbAdd (n + 1) e l := by
  unfold tlbAdd
  split
  next h => simpa [isIn] using h
  · simp

/-- The state in which the instruction of a strand's next word issues. -/
def wordIssued (s : State) (r sl : Nat) (e : TlbEntry) : State := issued (itlbFill (beginIssue s r sl) r e) r sl

theorem planStrand_word {s : State} {r sl pa : Nat} {attr : Attr} {e : TlbEntry} {i : Instr}
    (hwalk : NoWalk s (.fetch r sl) (wordOfAddr (getHead s r sl).pc) 4) (hhead : (getHead s r sl).events = [])
    (hlane : ∀ c < 16, (getLane s r c sl).events = []) (hstep : (getHead s r sl).stepDue = false)
    (hbreak : breakDue (getHead s r sl) = false)
    (hx : headXlate s r .fetch (wordOfAddr (getHead s r sl).pc) = .ok (pa, attr, e)) (hgood : physBad s pa 4 = none)
    (hdec : decode (physRdN s (attrKey s attr) pa 4) = .ok i) :
    planStrand s r sl = .go (match (getHead s r sl).pend with | some p => i.withPx p | none => i) (wordIssued s r sl e) := by
  have htables := sameTables_beginIssue s r sl
  have hkey : attrKey (beginIssue s r sl) attr = attrKey s attr := by rw [beginIssue_eq]; rfl
  have hdue : eventDue (beginIssue s r sl) r sl = false := by
    rw [eventDue, raiseDue_none (by rwa [getHead_beginIssue]) fun c hc => by rw [getLane_beginIssue, hlane c hc]]
    simp
  have hfetch : fetchWith (beginIssue s r sl) [] r (getHead s r sl) =
      .ok (itlbFill (beginIssue s r sl) r e, physRdN s (attrKey s attr) pa 4) := by
    have hx' := (headXlate_beginIssue s r sl .fetch (wordOfAddr (getHead s r sl).pc)).trans hx
    rw [headXlate] at hx'
    simp only [fetchWith, hx', physBad_sameTables htables, hgood, physRdN_sameTables htables, hkey]
    rfl
  have hpend : (getHead (itlbFill (beginIssue s r sl) r e) r sl).pend = (getHead s r sl).pend :=
    congrArg Head.pend (getHead_beginIssue s r sl sl)
  simp only [planStrand, hdue, getHead_beginIssue, hstep, hbreak, headGate_goes _ (noWalk_beginIssue hwalk), hfetch, planWord, hdec, hpend]
  cases (getHead s r sl).pend <;> rfl

theorem step_of_plan {s t : State} {i : Instr} (h : plan s = .go i t) : step s = exec i t := by
  unfold step
  rw [h]

/-- A row whose lane work has drained, and whose turn it is, plans the strand that its head picks. -/
theorem plan_of_pickStrand {s : State} {r sl : Nat} (hagenda : s.agenda = []) (hturn : s.turn = r) (hidle : pumpRow s r = s)
    (hpick : pickStrand s r = some sl) : plan s = planStrand s r sl := by
  have hrow : planRow s r = planStrand s r sl := by
    unfold planRow
    rw [hidle]
    dsimp only
    rw [hpick]
  unfold plan
  rw [hagenda, hturn, ← hrow]

/-- Nothing but the heads, the cores, the row and the strand that acts has changed, and at the strand's own head nothing. -/
theorem wordIssued_frame (s : State) (r sl : Nat) (e : TlbEntry) :
    wordIssued s r sl e =
      { s with rows := (itlbFill (beginIssue s r sl) r e).rows, cores := (beginIssue s r sl).cores, heads := (wordIssued s r sl e).heads,
               curRow := r, curSlot := sl } ∧
    getHead (wordIssued s r sl e) r sl = getHead s r sl := by
  obtain ⟨hframe, hhead⟩ := issued_frame (itlbFill (beginIssue s r sl) r e) r sl
  have hbegun := congrArg (fun u : State =>
    { u with rows := (itlbFill (beginIssue s r sl) r e).rows, heads := (wordIssued s r sl e).heads }) (beginIssue_eq s r sl)
  exact ⟨hframe.trans hbegun, hhead.trans (getHead_beginIssue s r sl sl)⟩

theorem getRow_wordIssued (s : State) (r sl : Nat) (e : TlbEntry) :
    getRow (wordIssued s r sl e) r = { rowTaken sl (getRow s r) with itlb := tlbAdd 32 e (getRow s r).itlb } := by
  obtain ⟨hframe, -⟩ := wordIssued_frame s r sl e
  have hrows := congrArg State.rows hframe
  have hrow : getRow (itlbFill (beginIssue s r sl) r e) r = { rowTaken sl (getRow s r) with itlb := tlbAdd 32 e (getRow s r).itlb } := by
    rw [itlbFill, getRow_modRow, getRow_beginIssue, rowTaken_itlb]
  rw [← hrow, getRow, getRow, hrows]

/-- Settles O1, over the row's cycle in the order of the plan: no lane work goes on, the head picks the strand, nothing is due at it, and
the word is fetched and decoded. -/
theorem stepRunsDecoded : Obligations.StepRunsDecoded := by
  unfold Obligations.StepRunsDecoded
  refine ⟨?_, fun s i l hagenda hevent => step_of_plan (by simp [plan, hagenda, hevent])⟩
  rintro s r sl pa attr e i ⟨hagenda, hturn, -, hidle, hevents, hwalk, hpick, hhead, hlane, hstep⟩ h hbreak hx hgood hdec
  have hplan := plan_of_pickStrand hagenda hturn (pumpRow_idle hidle hevents) hpick
  rw [planStrand_word hwalk hhead hlane hstep hbreak hx hgood hdec] at hplan
  obtain ⟨hframe, hself⟩ := wordIssued_frame s r sl e
  have hrow := congrArg State.curRow hframe
  have hslot := congrArg State.curSlot hframe
  have hlanes := congrArg State.lanes hframe
  have hmem := congrArg State.mem hframe
  have hreqs := congrArg State.reqs hframe
  have hcores := congrArg State.cores hframe
  have hme : me (wordIssued s r sl e) = h := by rw [me, hrow, hslot, hself]
  refine ⟨wordIssued s r sl e, step_of_plan hplan, hrow, hslot, hme, hlanes, hmem, hreqs, hcores,
    fun hrun => hcores.trans (beginIssue_cores s r sl hrun), ?_⟩
  rw [getRow_wordIssued]
  exact ⟨rfl, mem_tlbAdd 31 e _, rowTaken_cycle sl⟩

end Sys2Proof.Machine
end

section
/-! PROOFS. Lane instructions without west operand, traps at the first core, committing instructions, and rings (O45). -/

namespace Sys2Proof.Machine

/-! A lane instruction without west operand in a free row (R22, R24). -/

/-- An instruction that takes nothing from the west is done at every core as its own lane there says. -/
theorem laneDone_of_local {s : State} {i : Instr} {eff : Nat → Lane} (hr : LaneReady s i) (hwest : westReg i = none) (hv : vecCycles i = 0)
    (hquiet : ∀ c < 16, (eff c).events = [])
    (hcore : ∀ c < 16, ∀ st w, st = { s with heads := st.heads, lanes := st.lanes } → getLane st s.curRow c s.curSlot = laneAt s c →
      coreExec i ⟨s.curRow, s.curSlot, c, flightAt s i c w⟩ st = .done (setLane st s.curRow c s.curSlot (eff c))) :
    LaneDone s (issueLane i s) eff := by
  refine wave s i (fun c _ => eff c) hr (fun c hc st w hst hl => ?_) (fun c _ w => ?_) fun c hc _ => hquiet c hc
  · have hi : (⟨s.curRow, s.curSlot, c, flightAt s i c w⟩ : Ctx).f.instr = i := rfl
    rw [coreStep, pxMask_ready hr hc st w hl, hi, hcore c hc st w hst hl, hv]
    rfl
  · rw [westReady, hwest]
    trivial

/-! A lane instruction that traps at the first core (R22, R355). -/

/-- The head once its lane instruction has entered the row. -/
def headLeft (s : State) (i : Instr) : Head :=
  seqNext { me s with flights := [flightAt s i 0 0], why := 0, stepDue := (me s).stepMode && !(me s).handler }

/-- But for its flights, that head has gone on. -/
theorem headLeft_goOn {s : State} {i : Instr} (hw : (me s).wait = .no) :
    { headLeft s i with flights := [] } = { goOn (me s) with flights := [] } := seqNext_goOn (me s) _ _ hw

theorem isIn_loopHealed {n : Nat} {l : List Nat} (ends : Bool) (h : isIn n l = false) : isIn n (loopHealed ends l) = false := by
  unfold loopHealed
  split
  · simp only [isIn, List.any_eq_false] at h ⊢
    exact fun y hy => h y (List.mem_filter.1 hy).1
  · exact h

/-- The strand's own head plays no part in whether the others leave a core free. -/
theorem coreFree_setHead (s : State) (r sl c : Nat) (h : Head) : coreFree (setHead s r sl h) r sl c = coreFree s r sl c := by
  unfold coreFree
  refine all_congr fun t _ => ?_
  by_cases e : t = sl
  · simp [e]
  · rw [getHead_setHead_ne _ _ (by omega)]

/-- A ready strand may use each core, also once its head has changed, its level and stalls kept. -/
theorem mayUse_ready {s : State} {i : Instr} (hr : LaneReady s i) {h : Head} (hst : h.stall = []) (hhd : h.handler = (me s).handler)
    {c : Nat} (hc : c < 16) : mayUse (setHead s s.curRow s.curSlot h) s.curRow s.curSlot c [] = true := by
  obtain ⟨-, -, -, -, -, -, hruns, -, -, hcols⟩ := hr
  obtain ⟨-, -, -, -, hret, -⟩ := hcols c hc
  have hruns' : strandRuns (setHead s s.curRow s.curSlot h) s.curRow s.curSlot = true := hruns
  have hretry : ((me s).handler || (laneAt s c).retry.isEmpty) = true := by
    rcases hret with e | e <;> simp [e]
  have hretry' : (h.handler || (getLane (setHead s s.curRow s.curSlot h) s.curRow c s.curSlot).retry.isEmpty) = true := by
    rw [hhd]
    exact hretry
  unfold mayUse
  rw [hruns', getHead_setHead, hst, hretry']
  simp [isIn]

/-- Nothing is due at a core of a ready strand. -/
theorem duePending_ready {s : State} {i : Instr} (hr : LaneReady s i) (h : Head) {c : Nat} (hc : c < 16) (pc : VAddr) (issue : Nat) :
    duePending (setHead s s.curRow s.curSlot h) s.curRow c s.curSlot pc issue = none := by
  obtain ⟨-, -, -, -, -, -, -, -, -, hcols⟩ := hr
  obtain ⟨-, hrec, -⟩ := hcols c hc
  exact duePending_none _ _ _ _ _ _ hc (fun k hk => (hcols k hk).1) hrec

/-- A ready instruction enters the row. -/
theorem issueLane_ready {s : State} {i : Instr} (hr : LaneReady s i) :
    issueLane i s = putTurn s.curRow s.curSlot 0
      (runFlight s.curRow s.curSlot [] 16 (flightAt s i 0 0) (setHead s s.curRow s.curSlot (headLeft s i))) := by
  obtain ⟨-, -, hcommit, hwait, hflights, -, -, hlegal, hpoison, -⟩ := hr
  unfold me at hcommit hwait hflights hlegal hpoison
  unfold issueLane
  dsimp only [here]
  rw [if_neg (by simp [hcommit, hwait]), if_neg (by simp [hlegal]), hpoison]
  dsimp only
  rw [if_neg (by simp [hflights]), hflights]
  rfl

theorem issueLane_traps {s : State} {i : Instr} {cause : Cause} {v : Word} (hr : LaneReady s i)
    (hstep : coreStep ⟨s.curRow, s.curSlot, 0, flightAt s i 0 0⟩ (setHead s s.curRow s.curSlot (headLeft s i)) =
      .trap (setHead s s.curRow s.curSlot (headLeft s i)) cause v) :
    issueLane i s =
      takeTrap (setHead s s.curRow s.curSlot (headLeft s i)) s.curRow s.curSlot cause 0 v (instrAddr (me s)) := by
  have hready := hr
  obtain ⟨-, -, -, hwait, -, hstall, -, -, -, hcols⟩ := hready
  obtain ⟨-, -, -, -, -, -, hfree, hvec⟩ := hcols 0 (by omega)
  have hleft := headLeft_goOn (i := i) hwait
  have hst : (headLeft s i).stall = [] := (congrArg Head.stall hleft :).trans hstall
  have hhd : (headLeft s i).handler = (me s).handler := (congrArg Head.handler hleft :)
  have hfree' := (coreFree_setHead s s.curRow s.curSlot 0 (headLeft s i)).trans hfree
  have hvec' : vecFree (setHead s s.curRow s.curSlot (headLeft s i)) s.curRow 0 i = true := hvec
  have hmay := mayUse_ready hr hst hhd (show 0 < 16 by omega)
  have hdue : flightDue (setHead s s.curRow s.curSlot (headLeft s i)) s.curRow s.curSlot (flightAt s i 0 0) = none :=
    duePending_ready hr (headLeft s i) (show 0 < 16 by omega) _ _
  have hturn : flightTurn s.curRow s.curSlot [] (flightAt s i 0 0) (setHead s s.curRow s.curSlot (headLeft s i)) =
      .trapped (takeTrap (setHead s s.curRow s.curSlot (headLeft s i)) s.curRow s.curSlot cause 0 v (instrAddr (me s))) := by
    unfold flightTurn
    rw [show (flightAt s i 0 0).capture = false from rfl, show (flightAt s i 0 0).col = 0 from rfl,
      show (flightAt s i 0 0).instr = i from rfl, hmay, hvec', hdue]
    dsimp only
    rw [hstep]
    simp only [Bool.false_eq_true, Bool.not_true, Bool.or_self, if_false, takeFirst]
    rw [earliestTrap_none (setHead s s.curRow s.curSlot (headLeft s i)) _ _ _ _ fun k hk => (hcols k hk).1]
    rfl
  rw [issueLane_ready hr]
  unfold runFlight
  rw [show (flightAt s i 0 0).col = 0 from rfl, hfree', hturn]
  rfl

/-- A trap at the first core, of a strand that can enter its handler. -/
theorem trapsAt0_of_coreStep {s : State} {i : Instr} {cause : Cause} {v : Word} (hr : LaneReady s i) (hcan : CanTrap s)
    (hexec : exec i s = .next (issueLane i s))
    (hstep : coreStep ⟨s.curRow, s.curSlot, 0, flightAt s i 0 0⟩ (setHead s s.curRow s.curSlot (headLeft s i)) =
      .trap (setHead s s.curRow s.curSlot (headLeft s i)) cause v) : TrapsAt0 s i cause v := by
  obtain ⟨hhandler, htvec, hpoison⟩ := hcan
  have hready := hr
  obtain ⟨-, hslot, -, hwait, -⟩ := hready
  have hleft := headLeft_goOn (i := i) hwait
  have hhd : (headLeft s i).handler = (me s).handler := (congrArg Head.handler hleft :)
  have htv : (headLeft s i).tvec = (me s).tvec := (congrArg Head.tvec hleft :)
  have hpo : (headLeft s i).poison = (goOn (me s)).poison := (congrArg Head.poison hleft :)
  have hent (fl : BitVec 5) (tpc : VAddr) : entered (headLeft s i) fl cause 0 v tpc = entered (goOn (me s)) fl cause 0 v tpc :=
    (congrArg (fun h : Head => entered h fl cause 0 v tpc) hleft :)
  obtain ⟨hhead, -, -, hmem, -⟩ := takeTrap_spec (setHead s s.curRow s.curSlot (headLeft s i)) s.curRow s.curSlot cause 0 v
    (instrAddr (me s)) hslot (by rw [getHead_setHead, hhd, hhandler]) (by rwa [getHead_setHead, htv])
    (by rw [getHead_setHead, hpo]; exact isIn_loopHealed _ hpoison)
  rw [getHead_setHead, hent] at hhead
  exact ⟨_, hexec.trans (congrArg Host.Outcome.next (issueLane_traps hr hstep)), hmem, hhead⟩


/-! A committing instruction in a free row: every core checks it, and every core accepts it, in one step (R165, R204). -/

/-- The operands that the first n columns have read in the check pass. -/
def passedOps (ops : Nat → List Nat) : Nat → Tbl (List Nat)
  | 0 => []
  | n + 1 => tput (passedOps ops n) n (ops n)

theorem tget_passedOps {ops : Nat → List Nat} {c : Nat} : ∀ n, c < n → tget (passedOps ops n) c [] = ops c
  | n + 1, h => by
    by_cases hc : c = n
    · rw [hc, passedOps, tget_tput_same]
    · rw [passedOps, tget_tput_ne _ _ _ hc, tget_passedOps n (by omega)]

/-- The head of a strand whose committing instruction reaches column c of its check pass. -/
def headChecking (s : State) (i : Instr) (ops : Nat → List Nat) (c : Nat) : Head :=
  { me s with commit := some ⟨flightAt s i c 0, passedOps ops c, upTo 16⟩, why := 14 }

/-- The head of a strand whose committing instruction the columns before c have accepted. -/
def headAccepting (s : State) (i : Instr) (ops : Nat → List Nat) (c : Nat) : Head :=
  { me s with commit := some ⟨flightAt s i 16 0, passedOps ops 16, (upTo 16).filter fun k => c ≤ k⟩, why := 14 }

/-- The state with the committing instruction at column c of its check pass. -/
def checkingState (s : State) (i : Instr) (ops : Nat → List Nat) (c : Nat) : State :=
  setHead s s.curRow s.curSlot (headChecking s i ops c)

/-- The check pass finds the operands at every core. -/
def CoreChecks (s : State) (i : Instr) (ops : Nat → List Nat) : Prop :=
  ∀ c < 16, ∀ st, st = { s with heads := st.heads } →
    checkExec i ⟨s.curRow, s.curSlot, c, flightAt s i c 0⟩ st = .ok st (ops c)

/-- Every core's target accepts at once: only the strand's lane there and the core change. -/
def CoreAccepts (s : State) (i : Instr) (ops : Nat → List Nat) (eff : Nat → Lane) (core : Nat → Core → Core) : Prop :=
  ∀ c < 16, ∀ st, st = { s with heads := st.heads, lanes := st.lanes, cores := st.cores } →
    getLane st s.curRow c s.curSlot = laneAt s c →
    performExec i ⟨s.curRow, s.curSlot, c, flightAt s i 16 0⟩ st (ops c) =
      .accepted (modCore (setLane st s.curRow c s.curSlot (eff c)) (coreIx s.curRow c) (core c))

/-- The head goes on and opens a region, whatever its reason to wait was. -/
theorem acceptedHead_eq {h : Head} (hwait : h.wait = .no) (w : Nat) :
    let r := openRegion (seqNext { h with why := w })
    acceptedHead h = { r with why := 0, stepDue := r.stepMode && !r.handler } := by
  intro r
  have hgo : acceptedHead h = openRegion (headNext h) := by rw [acceptedHead, headNext_goOn]; rfl
  rw [hgo]
  subst r
  unfold headNext openRegion finishHead seqNext endLoop
  dsimp only
  split
  · split <;> simp [hwait]
  · simp [hwait]

section
variable {s : State} {i : Instr} {ops : Nat → List Nat}

theorem checkTurn_passes (hr : LaneReady s i) (hchecks : CoreChecks s i ops) {c : Nat} (hc : c < 16) :
    checkTurn s.curRow s.curSlot ⟨flightAt s i c 0, passedOps ops c, upTo 16⟩ (checkingState s i ops c) =
      (true, checkingState s i ops (c + 1)) := by
  have hready := hr
  obtain ⟨-, -, -, -, -, hstall, -⟩ := hready
  have hmay : mayUse (checkingState s i ops c) s.curRow s.curSlot c [] = true :=
    mayUse_ready (h := headChecking s i ops c) hr hstall rfl hc
  have hdue : duePending (checkingState s i ops c) s.curRow c s.curSlot (flightAt s i c 0).pc (flightAt s i c 0).issue = none :=
    duePending_ready hr _ hc _ _
  have hcheck := hchecks c hc (checkingState s i ops c) rfl
  unfold checkTurn
  simp only [show (flightAt s i c 0).col = c from rfl, show (flightAt s i c 0).instr = i from rfl, hmay, hdue, hcheck]
  rw [if_neg (by simp), modHead, checkingState, getHead_setHead, setHead_setHead]
  rfl

/-- The check pass goes through the row. -/
theorem runCheck_passes (hr : LaneReady s i) (hchecks : CoreChecks s i ops) : ∀ n c, n + c = 16 →
    runCheck s.curRow s.curSlot n (checkingState s i ops c) = (true, checkingState s i ops 16) := by
  intro n
  induction n with
  | zero =>
    intro c hc
    obtain rfl : c = 16 := by omega
    rfl
  | succ n ih =>
    intro c hc
    have hcols := hr
    obtain ⟨-, -, -, -, -, -, -, -, -, hcols⟩ := hcols
    obtain ⟨-, -, -, -, -, -, hfree, -⟩ := hcols c (by omega)
    have hcommit : (getHead (checkingState s i ops c) s.curRow s.curSlot).commit =
        some ⟨flightAt s i c 0, passedOps ops c, upTo 16⟩ := by rw [checkingState, getHead_setHead]; rfl
    have hfree' : coreFree (checkingState s i ops c) s.curRow s.curSlot c = true := (coreFree_setHead _ _ _ _ _).trans hfree
    unfold runCheck
    rw [hcommit]
    simp only [show (flightAt s i c 0).col = c from rfl, hfree', checkTurn_passes hr hchecks (show c < 16 by omega)]
    exact ih (c + 1) (by omega)

theorem columnsFrom_next (c : Nat) : ((upTo 16).filter fun k => c ≤ k).filter (· != c) = (upTo 16).filter fun k => c + 1 ≤ k := by
  rw [List.filter_filter]
  refine List.filter_congr fun k _ => ?_
  rw [Bool.eq_iff_iff]
  simp
  omega

/-- A column but the last accepts: the others are left. -/
theorem acceptHead_next {c : Nat} (hc : c < 15) : acceptHead c (headAccepting s i ops c) = headAccepting s i ops (c + 1) := by
  have hleft : ((upTo 16).filter fun k => c + 1 ≤ k).isEmpty = false := by
    rw [List.isEmpty_eq_false_iff]
    exact List.ne_nil_of_mem (a := 15) (List.mem_filter.2 ⟨by decide, by simpa using hc⟩)
  simp only [acceptHead, headAccepting, columnsFrom_next, hleft, Bool.and_false, Bool.false_eq_true, if_false]

/-- The last column accepts: the region ends, and the head goes on (R165). -/
theorem acceptHead_last (hcommit : (me s).commit = none) (hwait : (me s).wait = .no) (hred : isReduction i = false) :
    acceptHead 15 (headAccepting s i ops 15) = acceptedHead (me s) := by
  have hbase : { headAccepting s i ops 15 with commit := none } = { me s with why := 14 } := by
    show { me s with commit := none, why := 14 } = { me s with commit := (me s).commit, why := 14 }
    rw [hcommit]
  have hfin : acceptHead 15 (headAccepting s i ops 15) =
      let h := openRegion (seqNext { headAccepting s i ops 15 with commit := none })
      { h with why := 0, stepDue := h.stepMode && !h.handler, detSeq := h.detSeq + if isReduction i then 1 else 0 } := by
    simp only [acceptHead, headAccepting, columnsFrom_next]
    rfl
  rw [hfin, hbase, hred]
  exact (acceptedHead_eq hwait 14).symm

/-- The head of a strand whose committing instruction the columns before c have accepted, also once all have. -/
def headAccepted (s : State) (i : Instr) (ops : Nat → List Nat) (c : Nat) : Head :=
  if c < 16 then headAccepting s i ops c else acceptedHead (me s)

theorem acceptHead_column (hr : LaneReady s i) (hred : isReduction i = false) {c : Nat} (hc : c < 16) :
    acceptHead c (headAccepted s i ops c) = headAccepted s i ops (c + 1) := by
  obtain ⟨-, -, hcommit, hwait, -⟩ := hr
  rw [headAccepted, if_pos hc]
  by_cases hlast : c = 15
  · subst hlast
    exact acceptHead_last hcommit hwait hred
  · rw [acceptHead_next (by omega), headAccepted, if_pos (by omega)]

theorem onlyCores_trans {s t u : State} (h : t = { s with heads := t.heads, lanes := t.lanes, cores := t.cores })
    (h' : u = { t with heads := u.heads, lanes := u.lanes, cores := u.cores }) :
    u = { s with heads := u.heads, lanes := u.lanes, cores := u.cores } :=
  h'.trans (congrArg (fun v : State => { v with heads := u.heads, lanes := u.lanes, cores := u.cores }) h :)

/-- The state once the columns before c have accepted. -/
structure Accepted (s : State) (i : Instr) (ops : Nat → List Nat) (eff : Nat → Lane) (core : Nat → Core → Core) (c : Nat) (st : State) :
    Prop where
  frame : st = { s with heads := st.heads, lanes := st.lanes, cores := st.cores }
  head : getHead st s.curRow s.curSlot = headAccepted s i ops c
  heads : ∀ r sl, sl < 8 → (r, sl) ≠ (s.curRow, s.curSlot) → getHead st r sl = getHead s r sl
  others : ∀ r k sl, k < 16 → sl < 8 → (r, sl) ≠ (s.curRow, s.curSlot) → getLane st r k sl = getLane s r k sl
  cores : ∀ k, (∀ c < 16, k ≠ coreIx s.curRow c) → getCore st k = getCore s k
  lane : ∀ k < 16, getLane st s.curRow k s.curSlot = if k < c then eff k else laneAt s k
  core : ∀ k < 16, getCore st (coreIx s.curRow k) = if k < c then core k (coreAt s k) else coreAt s k

section
variable {eff : Nat → Lane} {core : Nat → Core → Core} {c : Nat} {st : State}

/-- A column accepts. -/
theorem Accepted.next (hr : LaneReady s i) (hred : isReduction i = false) (haccepts : CoreAccepts s i ops eff core) (hc : c < 16)
    (h : Accepted s i ops eff core c st) : Accepted s i ops eff core (c + 1) (performAt s.curRow s.curSlot st c) := by
  have hready := hr
  obtain ⟨-, hslot, -, -, -, hstall, hruns, -⟩ := hready
  have hlane : getLane st s.curRow c s.curSlot = laneAt s c := by rw [h.lane c hc, if_neg (by omega)]
  have hruns' : strandRuns st s.curRow s.curSlot = true := by rw [h.frame]; exact hruns
  have haccept := haccepts c hc st h.frame hlane
  have hmine : isIn c ((upTo 16).filter fun k => c ≤ k) = true := by
    simp [isIn, upTo, hc]
  have hperform : performAt s.curRow s.curSlot st c = setHead
      (modCore (setLane st s.curRow c s.curSlot (eff c)) (coreIx s.curRow c) (core c)) s.curRow s.curSlot (headAccepted s i ops (c + 1)) := by
    have hcommit : (getHead st s.curRow s.curSlot).commit =
        some ⟨flightAt s i 16 0, passedOps ops 16, (upTo 16).filter fun k => c ≤ k⟩ := by rw [h.head, headAccepted, if_pos hc]; rfl
    have hstall' : (getHead st s.curRow s.curSlot).stall = [] := by rw [h.head, headAccepted, if_pos hc]; exact hstall
    unfold performAt
    rw [hcommit]
    simp only [hmine, hruns', hstall', tget_passedOps 16 hc, show (flightAt s i 16 0).instr = i from rfl, haccept]
    rw [if_pos (by rfl), modHead]
    congr 1
    exact (congrArg (acceptHead c) h.head).trans (acceptHead_column hr hred hc)
  rw [hperform]
  refine ⟨onlyCores_trans h.frame rfl, getHead_setHead _ _ _ _, fun r sl hsl hne => ?_, fun r k sl hk hsl hne => ?_, fun k hk => ?_,
    fun k hk => ?_, fun k hk => ?_⟩
  · rw [← h.heads r sl hsl hne]
    exact getHead_setHead_ne _ _ fun e => hne (by ext <;> simp <;> omega)
  · rw [← h.others r k sl hk hsl hne]
    exact getLane_setLane_ne st _ (lane_ne hc hk hslot hsl fun e => hne (by simp [e.1, e.2.2]))
  · rw [← h.cores k hk]
    exact getCore_modCore_ne (setLane st s.curRow c s.curSlot (eff c)) _ (hk c hc)
  · by_cases hkc : k = c
    · subst hkc
      rw [if_pos (by omega)]
      exact getLane_setLane st _ _ _ _
    · have hold := h.lane k hk
      rw [if_congr (show k < c + 1 ↔ k < c by omega) rfl rfl, ← hold]
      exact getLane_setLane_ne st _ (lane_ne hc hk hslot hslot (by omega))
  · by_cases hkc : k = c
    · subst hkc
      rw [if_pos (by omega)]
      refine (getCore_modCore (setLane st s.curRow k s.curSlot (eff k)) _ _).trans (congrArg (core k) ?_)
      exact (h.core k hk).trans (if_neg (by omega))
    · have hold := h.core k hk
      rw [if_congr (show k < c + 1 ↔ k < c by omega) rfl rfl, ← hold]
      exact getCore_modCore_ne (setLane st s.curRow c s.curSlot (eff c)) _ (by unfold coreIx; omega)

end

/-- The perform step goes through the row. -/
theorem forCols_accepts {eff : Nat → Lane} {core : Nat → Core → Core} (hr : LaneReady s i) (hred : isReduction i = false)
    (haccepts : CoreAccepts s i ops eff core) :
    Accepted s i ops eff core 16 (forCols (performAt s.curRow s.curSlot) (checkingState s i ops 16)) := by
  have hready := hr
  obtain ⟨-, hslot, -⟩ := hready
  have hall : ∀ n, n ≤ 16 → Accepted s i ops eff core n ((upTo n).foldl (performAt s.curRow s.curSlot) (checkingState s i ops 16)) := by
    intro n
    induction n with
    | zero =>
      intro _
      have hstart : headChecking s i ops 16 = headAccepting s i ops 0 := by simp [headChecking, headAccepting]
      refine ⟨rfl, by rw [checkingState, hstart]; exact getHead_setHead _ _ _ _, fun r sl hsl hne => ?_, fun _ _ _ _ _ _ => rfl,
        fun _ _ => rfl, fun _ _ => rfl, fun _ _ => rfl⟩
      exact getHead_setHead_ne s _ fun e => hne (by ext <;> simp <;> omega)
    | succ n ih =>
      intro hn
      rw [upTo, List.range_succ, List.foldl_append]
      exact Accepted.next hr hred haccepts (by omega) (ih (by omega))
  exact hall 16 (le_refl 16)

/-- A ready committing instruction, which its cores check and accept at once, is accepted in one step. -/
theorem issueCommit_accepts {eff : Nat → Lane} {core : Nat → Core → Core} (hr : LaneReady s i) (hred : isReduction i = false)
    (hchecks : CoreChecks s i ops) (haccepts : CoreAccepts s i ops eff core) :
    CoreRel s (issueCommit i s) (acceptedHead (me s)) fun c _ l' k k' => l' = eff c ∧ k' = core c k := by
  have hissue : issueCommit i s = forCols (performAt s.curRow s.curSlot) (checkingState s i ops 16) := by
    have hready := hr
    obtain ⟨-, -, hcommit, hwait, hflights, -, -, hlegal, -⟩ := hready
    unfold me at hcommit hwait hflights hlegal
    have hcheck := runCheck_passes hr hchecks 16 0 rfl
    unfold issueCommit
    dsimp only [here]
    rw [if_neg (by simp [hcommit, hwait]), if_neg (by simp [hlegal]), if_neg (by simp [hflights])]
    change (match runCheck s.curRow s.curSlot 16 (checkingState s i ops 0) with
      | (true, s') => forCols (performAt s.curRow s.curSlot) s'
      | (false, s') => s') = _
    rw [hcheck]
  have h := forCols_accepts (s := s) (i := i) hr hred haccepts
  rw [← hissue] at h
  refine ⟨⟨h.frame, h.heads, h.others, h.cores⟩, h.head, fun c hc => ⟨(h.lane c hc).trans (if_pos hc), ?_⟩⟩
  rw [coreAt, congrArg State.curRow h.frame]
  exact (h.core c hc).trans (if_pos hc)

end


/-! The stream of a ring (R39, R205). -/

section
variable {q : Ring}

theorem Ring.addr_of_on (h : q.scnt ≠ 0) (x : Nat) : q.addr x = q.base + q.z * (x / q.z % q.scnt) + x % q.z := by
  simp [Ring.addr, Ring.on, h]

/-- Positions of one stage stand one after the other in the pool. -/
theorem Ring.addr_add (q : Ring) {x i : Nat} (h : x % q.z + i < q.z) : q.addr (x + i) = q.addr x + i := by
  have hdiv : (x + i) / q.z = x / q.z ∧ (x + i) % q.z = x % q.z + i := by
    rw [Nat.div_mod_unique (by omega)]
    exact ⟨by have := Nat.div_add_mod x q.z; omega, h⟩
  rw [Ring.addr, Ring.addr, hdiv.1, hdiv.2, ← Nat.add_assoc]

/-- 128 bytes that follow each other in the stream stand at places of their own. -/
theorem Ring.addr_injOn (q : Ring) {x i j : Nat} (hi : i < 128) (hj : j < 128) (h : q.addr (x + i) = q.addr (x + j)) : i = j := by
  unfold Ring.addr at h
  have hz : q.z = 512 ∨ q.z = 16384 := by
    unfold Ring.z
    split <;> simp
  rcases hz with hz | hz <;> rw [hz] at h <;> omega

/-- Bytes of the stream from the end of a stage on stand in the stage that follows. -/
theorem Ring.addr_next (q : Ring) {x i : Nat} (hi : i < 128) (h : q.z - x % q.z ≤ i) :
    q.addr (x + i) = q.addr (x + (q.z - x % q.z)) + (i - (q.z - x % q.z)) := by
  have hz : x % q.z < q.z ∧ 128 ≤ q.z := by
    unfold Ring.z
    split <;> omega
  have hstart : (x + (q.z - x % q.z)) % q.z = 0 := by
    have hsum : x + (q.z - x % q.z) = q.z * (x / q.z + 1) := by
      have := Nat.div_add_mod x q.z
      rw [Nat.mul_add]
      omega
    rw [hsum, Nat.mul_mod_right]
  rw [← Ring.addr_add q (by omega)]
  congr 1
  omega

/-- A write within one stage. -/
theorem ringPut_whole (k : Core) {x : Nat} (v : Nat) (h : x % q.z + 128 ≤ q.z) :
    (ringPut k q x 128 v).pool = memWrN k.pool (q.addr x) 128 v := by
  have hfirst : min 128 (q.z - x % q.z) = 128 := by omega
  simp [ringPut, Ring.pieces, poolWrN, hfirst]

/-- A write across the end of a stage: m bytes there, the others at the start of the next one. -/
theorem ringPut_split (k : Core) {x m : Nat} (v : Nat) (hm : q.z - x % q.z = m) (h : m < 128) :
    (ringPut k q x 128 v).pool = memWrN (memWrN k.pool (q.addr x) m v) (q.addr (x + m)) (128 - m) (v / 2 ^ (8 * m)) := by
  have hfirst : min 128 (q.z - x % q.z) = m := by omega
  simp [ringPut, Ring.pieces, poolWrN, hfirst, h]

/-- Nothing of the core but its pool changes. -/
theorem ringPut_frame (k : Core) (x n v : Nat) :
    ringPut k q x n v = { k with pool := (ringPut k q x n v).pool, poolPoison := (ringPut k q x n v).poolPoison } := by
  unfold ringPut Ring.pieces
  dsimp only
  split <;> rfl

/-- Byte i of the vector stands at stream position x + i. -/
theorem ringPut_byte (k : Core) (x v : Nat) {i : Nat} (hi : i < 128) :
    memRd (ringPut k q x 128 v).pool (q.addr (x + i)) = BitVec.ofNat 8 (v / 2 ^ (8 * i)) := by
  by_cases hwhole : x % q.z + 128 ≤ q.z
  · rw [ringPut_whole k v hwhole, Ring.addr_add q (by omega), memRd_memWrN_in _ _ _ _ _ (by omega) (by omega), Nat.add_sub_cancel_left]
  · obtain ⟨m, hm⟩ : ∃ m, q.z - x % q.z = m := ⟨_, rfl⟩
    rw [ringPut_split k v hm (by omega)]
    by_cases hfirst : i < m
    · have hout : q.addr (x + i) < q.addr (x + m) ∨ q.addr (x + m) + (128 - m) ≤ q.addr (x + i) := by
        by_contra hin
        have hsame := Ring.addr_next q (x := x) (i := m + (q.addr (x + i) - q.addr (x + m))) (by omega) (by omega)
        have := Ring.addr_injOn q hi (by omega) (show q.addr (x + i) = q.addr (x + (m + (q.addr (x + i) - q.addr (x + m)))) by
          rw [hsame, hm]; omega)
        omega
      rw [memRd_memWrN_out _ _ _ _ _ hout, Ring.addr_add q (by omega), memRd_memWrN_in _ _ _ _ _ (by omega) (by omega),
        Nat.add_sub_cancel_left]
    · rw [Ring.addr_next q hi (by omega), hm, memRd_memWrN_in _ _ _ _ _ (by omega) (by omega), Nat.add_sub_cancel_left,
        Nat.div_div_eq_div_mul, ← Nat.pow_add, show 8 * m + 8 * (i - m) = 8 * i by omega]

/-- No other byte of the pool changes. -/
theorem ringPut_out (k : Core) (x v : Nat) {a : Nat} (ha : ∀ i < 128, a ≠ q.addr (x + i)) :
    memRd (ringPut k q x 128 v).pool a = memRd k.pool a := by
  by_cases hwhole : x % q.z + 128 ≤ q.z
  · have hout : a < q.addr x ∨ q.addr x + 128 ≤ a := by
      by_contra hin
      exact ha (a - q.addr x) (by omega) (by rw [Ring.addr_add q (by omega)]; omega)
    rw [ringPut_whole k v hwhole, memRd_memWrN_out _ _ _ _ _ hout]
  · obtain ⟨m, hm⟩ : ∃ m, q.z - x % q.z = m := ⟨_, rfl⟩
    have hfirst : a < q.addr x ∨ q.addr x + m ≤ a := by
      by_contra hin
      exact ha (a - q.addr x) (by omega) (by rw [Ring.addr_add q (by omega)]; omega)
    have hsecond : a < q.addr (x + m) ∨ q.addr (x + m) + (128 - m) ≤ a := by
      by_contra hin
      exact ha (m + (a - q.addr (x + m))) (by omega) (by rw [Ring.addr_next q (by omega) (by omega), hm]; omega)
    rw [ringPut_split k v hm (by omega), memRd_memWrN_out _ _ _ _ _ hsecond, memRd_memWrN_out _ _ _ _ _ hfirst]

end

/-! The ring instructions at a core (R206 to R208). -/

/-- A ring geometry that RCFG takes: no other bits of the word set, no single stage, and the stages aligned and within the scratch. -/
def RingFits (pw : Word) (base : Nat) (gb : Word) : Prop :=
  gb &&& ~~~0x7E00000 = 0 ∧ bits gb 22 5 ≠ 1 ∧ bits gb 22 5 ≤ 16 ∧
    (bits gb 22 5 ≠ 0 → 512 ∣ base ∧ 0x800 ≤ base ∧ base + (if gb.getLsbD 21 then 512 else 16384) * bits gb 22 5 ≤ scratchSize pw)

/-- The test by which RCFG refuses a geometry. -/
def ringRefused (pw : Word) (base : Nat) (gb : Word) : Bool :=
  (gb &&& ~~~0x7E00000) != 0 || bits gb 22 5 = 1 || 16 < bits gb 22 5 ||
    (bits gb 22 5 != 0 && (base % 512 != 0 || base < 0x800 ||
      scratchSize pw < base + (if gb.getLsbD 21 then 512 else 16384) * bits gb 22 5))

theorem ringRefused_iff {pw : Word} {base : Nat} {gb : Word} : ringRefused pw base gb = true ↔ ¬ RingFits pw base gb := by
  unfold ringRefused RingFits
  rw [Nat.dvd_iff_mod_eq_zero]
  simp only [Bool.or_eq_true, Bool.and_eq_true, bne_iff_ne, decide_eq_true_eq]
  by_cases hclean : gb &&& ~~~0x7E00000 = 0
  · simp only [hclean, ne_eq, not_true_eq_false, false_or, true_and]
    omega
  · simp only [hclean, ne_eq, not_false_eq_true, true_or, false_and]

/-- The ring that RCFG leaves. -/
def ringConfigured (l : Lane) (q : BitVec 3) (a b : BitVec 5) : Lane :=
  setRing l q.toNat ⟨(rdG l a).toNat, (rdG l b).getLsbD 21, bits (rdG l b) 22 5, 0, 0, [], 0⟩

/-- What RCFG does at a core where its sources are there and no transfer into the ring is under way. -/
theorem coreRcfg_ready {s st : State} {c : Nat} {q : BitVec 3} {a b : BitVec 5} (f : Flight)
    (hst : st = { s with heads := st.heads, lanes := st.lanes }) (hl : getLane st s.curRow c s.curSlot = laneAt s c)
    (hs : ∀ x ∈ [Src.g a false, .g b false], sourceReady s c x) (hbusy : ringBusy s s.curRow c s.curSlot q.toNat = false) :
    coreRcfg ⟨s.curRow, s.curSlot, c, f⟩ st q a b =
      if ringRefused (pwordOf s s.curRow) (rdG (laneAt s c) a).toNat (rdG (laneAt s c) b) then .trap st .ringCfg (rdG (laneAt s c) b)
      else if (coreAt s c).press.any fun k => k.strand == s.curSlot && cmdUses k q.toNat then
        .trap st .ringBusy (BitVec.ofNat 64 q.toNat)
      else .done (setLane st s.curRow c s.curSlot (ringConfigured (laneAt s c) q a b)) := by
  have hbusy' : ringBusy st s.curRow c s.curSlot q.toNat = false := by rw [hst]; exact hbusy
  have hpw : pwordOf st s.curRow = pwordOf s s.curRow := by rw [hst]; rfl
  have hcore : getCore st (coreIx s.curRow c) = coreAt s c := by rw [hst]; rfl
  unfold coreRcfg
  rw [withSrcs_ready hl hst f hs]
  simp only [hbusy', hpw, Ctx.core, hcore]
  rfl

/-- The check pass finds sources that are ready. -/
theorem checkSrcs_ready {s st : State} {c : Nat} {srcs : List Src} (f : Flight) (hl : getLane st s.curRow c s.curSlot = laneAt s c)
    (hst : st = { s with heads := st.heads, lanes := st.lanes }) (hs : ∀ x ∈ srcs, sourceReady s c x) (k : Lane → CheckOut) :
    checkSrcs ⟨s.curRow, s.curSlot, c, f⟩ st srcs k = k (laneAt s c) := by
  have hlane : (⟨s.curRow, s.curSlot, c, f⟩ : Ctx).lane st = laneAt s c := hl
  have hfull : srcs.find? (srcEmpty (laneAt s c)) = none := by
    rw [List.find?_eq_none]
    intro x hx
    simp [(hs x hx).1]
  have hsound : srcs.findSome? (srcPoison ⟨s.curRow, s.curSlot, c, f⟩ st (laneAt s c)) = none := by
    rw [List.findSome?_eq_none_iff]
    intro x hx
    obtain ⟨-, hx⟩ := hs x hx
    have hcore : getCore st (coreIx s.curRow c) = coreAt s c := by rw [hst]; rfl
    have hpw : pwordOf st s.curRow = pwordOf s s.curRow := by rw [hst]; rfl
    cases x with
    | g n te =>
      have hx : isIn n.toNat (laneAt s c).poison = false := hx
      simp [srcPoison, hx]
    | v n te =>
      have hx : poolBad (coreAt s c) (vregAddr (pwordOf s s.curRow) s.curSlot n.toNat) 128 = none := hx
      simp [srcPoison, Ctx.core, hcore, hpw, hx]
    | m n =>
      have hx : isIn (0x200 + n.toNat) (laneAt s c).poison = false := hx
      simp [srcPoison, hx]
  simp only [checkSrcs, hlane, hfull, hsound]

theorem checkRpush_ready {s st : State} {c : Nat} {f : Flight} {q : BitVec 3} {a : BitVec 5}
    (hl : getLane st s.curRow c s.curSlot = laneAt s c) (hst : st = { s with heads := st.heads, lanes := st.lanes })
    (hs : ∀ x ∈ [Src.v a false], sourceReady s c x) (hon : (ringOf (laneAt s c) q.toNat).scnt ≠ 0) :
    checkRpush ⟨s.curRow, s.curSlot, c, f⟩ st q a = .ok st [(rdV (laneAt s c) a).toNat] := by
  unfold checkRpush
  rw [checkSrcs_ready f hl hst hs, if_pos (by simpa [Ring.on] using hon)]

/-- RPUSH with room writes the stream, and leaves no hole in it. -/
theorem performRpush_room {s st : State} {c : Nat} {f : Flight} {q : BitVec 3} {ops : List Nat}
    (hl : getLane st s.curRow c s.curSlot = laneAt s c) (hholes : (ringOf (laneAt s c) q.toNat).holes = [])
    (hroom : (ringOf (laneAt s c) q.toNat).room 128 = true) :
    performRpush ⟨s.curRow, s.curSlot, c, f⟩ st q ops =
      let r := ringOf (laneAt s c) q.toNat
      .accepted (modCore (setLane st s.curRow c s.curSlot (setRing (laneAt s c) q.toNat { r with reserved := r.reserved + 128 }))
        (coreIx s.curRow c) fun k => ringPut k r r.reserved 128 (ops.headD 0)) := by
  have hcut (x : Nat) : holesCut x 128 [(x, 128)] = [] := by simp [holesCut]
  unfold performRpush
  simp only [Ctx.lane, Ctx.set, Ctx.core, hl, hroom, if_true, Ring.reserve, Ring.wrote, hholes, List.nil_append, OfNat.ofNat_ne_zero,
    if_false, hcut]
  rfl

/-- RPUSH of a row whose rings all have room: the core that each column leaves. -/
theorem issueCommit_rpush {s : State} {q : BitVec 3} {a : BitVec 5} (hruns : LaneRuns s (.rpush q a) [.v a false])
    (hok : ∀ c < 16, let r := ringOf (laneAt s c) q.toNat
      r.scnt ≠ 0 ∧ r.holes = [] ∧ r.reserved + 128 ≤ (r.popped + r.scnt) * r.z) :
    CoreRel s (issueCommit (.rpush q a) s) (acceptedHead (me s)) fun c l l' k k' =>
      let r := ringOf l q.toNat
      l' = setRing l q.toNat { r with reserved := r.reserved + 128 } ∧ k' = ringPut k r r.reserved 128 (rdV (laneAt s c) a).toNat := by
  obtain ⟨hr, hs⟩ := hruns
  have hchecks : CoreChecks s (.rpush q a) fun c => [(rdV (laneAt s c) a).toNat] := fun c hc st hst => by
    obtain ⟨hon, -⟩ := hok c hc
    exact checkRpush_ready (by rw [hst]; rfl) (by rw [hst]) (hs c hc) hon
  have haccepts : CoreAccepts s (.rpush q a) (fun c => [(rdV (laneAt s c) a).toNat])
      (fun c => setRing (laneAt s c) q.toNat
        { ringOf (laneAt s c) q.toNat with reserved := (ringOf (laneAt s c) q.toNat).reserved + 128 })
      (fun c k => ringPut k (ringOf (laneAt s c) q.toNat) (ringOf (laneAt s c) q.toNat).reserved 128 (rdV (laneAt s c) a).toNat) :=
    fun c hc st _ hl => by
      obtain ⟨-, hholes, hroom⟩ := hok c hc
      exact performRpush_room hl hholes (decide_eq_true hroom)
  exact issueCommit_accepts hr rfl hchecks haccepts

section
variable {s : State} {q : BitVec 3} {a b d : BitVec 5}

/-- RCFG with geometries that fit, into rings that nothing uses. -/
theorem laneDone_rcfg (hruns : LaneRuns s (.rcfg q a b) [.g a false, .g b false])
    (hok : ∀ c < 16, ringBusy s s.curRow c s.curSlot q.toNat = false ∧
      RingFits (pwordOf s s.curRow) (rdG (laneAt s c) a).toNat (rdG (laneAt s c) b) ∧
      ∀ k ∈ (coreAt s c).press, k.strand = s.curSlot → cmdUses k q.toNat = false) :
    LaneDone s (issueLane (.rcfg q a b) s) fun c => ringConfigured (laneAt s c) q a b := by
  obtain ⟨hr, hs⟩ := hruns
  refine laneDone_of_local (i := .rcfg q a b) (eff := fun c => ringConfigured (laneAt s c) q a b) hr rfl rfl (fun c hc => ?_)
    fun c hc st w hst hl => ?_
  · obtain ⟨-, -, -, -, -, -, -, -, -, hcols⟩ := hr
    obtain ⟨hevents, -⟩ := hcols c hc
    exact hevents
  · obtain ⟨hbusy, hfits, hfree⟩ := hok c hc
    have hgood : ringRefused (pwordOf s s.curRow) (rdG (laneAt s c) a).toNat (rdG (laneAt s c) b) = false := by
      rw [Bool.eq_false_iff, Ne, ringRefused_iff, not_not]
      exact hfits
    have hpress : ((coreAt s c).press.any fun k => k.strand == s.curSlot && cmdUses k q.toNat) = false := by
      rw [List.any_eq_false]
      intro k hk
      by_cases hmine : k.strand = s.curSlot
      · simp [hfree k hk hmine]
      · simp [hmine]
    refine (coreRcfg_ready _ hst hl (hs c hc) hbusy).trans ?_
    rw [hgood, hpress]
    rfl

/-- RCFG whose geometry does not fit at the first core. -/
theorem trapsAt0_rcfg (hruns : LaneRuns s (.rcfg q a b) [.g a false, .g b false]) (hcan : CanTrap s)
    (hbusy : ringBusy s s.curRow 0 s.curSlot q.toNat = false)
    (hbad : ¬ RingFits (pwordOf s s.curRow) (rdG (laneAt s 0) a).toNat (rdG (laneAt s 0) b)) :
    TrapsAt0 s (.rcfg q a b) .ringCfg (rdG (laneAt s 0) b) := by
  obtain ⟨hr, hs⟩ := hruns
  have hcore := coreRcfg_ready (st := setHead s s.curRow s.curSlot (headLeft s (.rcfg q a b))) (flightAt s (.rcfg q a b) 0 0) rfl rfl
    (hs 0 (by omega)) hbusy
  rw [if_pos (ringRefused_iff.2 hbad)] at hcore
  have hexec : coreExec (flightAt s (.rcfg q a b) 0 0).instr ⟨s.curRow, s.curSlot, 0, flightAt s (.rcfg q a b) 0 0⟩
    (setHead s s.curRow s.curSlot (headLeft s (.rcfg q a b))) = _ := hcore
  refine trapsAt0_of_coreStep hr hcan rfl ?_
  rw [coreStep, pxMask_ready hr (show 0 < 16 by omega) (setHead s s.curRow s.curSlot (headLeft s (.rcfg q a b))) 0 rfl]
  simp only [hexec]

/-- RSTAT reads the descriptor. -/
theorem laneDone_rstat (hr : LaneReady s (.rstat d q)) :
    LaneDone s (issueLane (.rstat d q) s) fun c => wrG (laneAt s c) d (ringOf (laneAt s c) q.toNat).word := by
  refine laneDone_of_local (i := .rstat d q) hr rfl rfl (fun c hc => ?_) fun c hc st w hst hl => ?_
  · obtain ⟨-, -, -, -, -, -, -, -, -, hcols⟩ := hr
    obtain ⟨hevents, -⟩ := hcols c hc
    exact (wrG_events _ _ _).trans hevents
  · change coreRstat _ _ _ _ = _
    rw [coreRstat, doneG, Ctx.lane, Ctx.set, hl]

end

/-- Settles O45: RCFG and RSTAT pass the row as waves, a bad geometry traps at the first core, and RPUSH is accepted at every core
at once, its bytes in the pieces of at most two stages. -/
theorem rings : Obligations.Rings := by
  unfold Obligations.Rings
  intro s q a b d base gb z cnt clean fits ring
  refine ⟨fun hruns => ⟨fun hok => ⟨_, rfl, laneDone_rcfg hruns hok⟩, trapsAt0_rcfg hruns⟩, fun hr => ⟨_, rfl, laneDone_rstat hr⟩,
    fun hruns hok => ?_⟩
  obtain ⟨honly, hhead, hcols⟩ := issueCommit_rpush hruns hok
  refine ⟨_, rfl, honly, hhead, fun c hc => ?_⟩
  obtain ⟨hlane, hcore⟩ := hcols c hc
  obtain ⟨hon, -⟩ := hok c hc
  have hplace (x : Nat) := Ring.addr_of_on (q := ring (laneAt s c)) hon x
  rw [hcore]
  exact ⟨hlane, ringPut_frame _ _ _ _, fun i hi => (congrArg (memRd _) (hplace _).symm).trans (ringPut_byte (coreAt s c) _ _ hi),
    fun x hx => ringPut_out (coreAt s c) _ _ fun i hi => (hx i hi).trans_eq (hplace _).symm⟩

end Sys2Proof.Machine
end

section
/-! PROOFS. Encoding and decoding agree on every instruction (O4), and on the words that the spec writes out (O3). -/

namespace Sys2Proof.Laws.RoundTrip

/-- The round trip of every instruction: one lemma for each constructor, in the order of the opcode table. -/
theorem statement_of (i : Instr) : Statement i :=
  i.casesOn
    -- PX and the head
    px addHead subHead andHead orHead xorHead shlHead shrHead sarHead mulHead sltHead sltnHead minHead maxHead addiHead
    andiHead oriHead xoriHead shliHead shriHead sariHead liHead luiHead beq bne blt bge bltn bgen jmp call jr loop ldD
    stD drain yield exit region pause twait tileget publish svc tret tretAt gbar gvote gleave gkill msend mrecv mprobe
    csrr csrw bkpt
    -- scalar lane arithmetic and moves
    add sub and or xor shl shr sar mul slt sltn min max minn maxn mulh mulhn div divn rem remn clz ctz popc addConst
    subConst andConst orConst xorConst shlConst shrConst sarConst mulConst sltConst sltnConst minConst maxConst
    minnConst maxnConst mulhConst mulhnConst divConst divnConst remConst remnConst addi andi ori xori shli shri sari li
    lui fadd fsub fmul fdiv fma fmin fmax feq flt fle fabs fneg fcvti icvtf hget tail cmov movmg movgm
    -- lane memory, landing, atomics and ordering
    ld ldn st ldv stv ldp stp ldpv stpv ldl ldlv landingSlotGrant take takeo takev lcnt ldrop amo cas red fence drainst
    bar bari bara barw
    -- vectors and masks
    vadd vsub vmul vfma vmin vmax vabs vneg vand vor vxor vnot vshl vshr vsar vcmp vsel mand mor mxor mnot mset vcvt
    vquant vdeq vrcp vrsq vsqrt vdiv vexp2 vlog2 vsin vcos vtanh vbcast vext vins vperm vrot viota vpop vred vaddConst
    vsubConst vmulConst vminConst vmaxConst vandConst vorConst vxorConst vshlConst vshrConst vsarConst
    -- Press, rings, Hatch, copies and debug
    mma mzero mload mdrain mwait mstat rcfg rpush rstat hopen htake hput hshut hwait hstat copy cred cseal cwait cptr
    cjoin cleave bkptLane trap estat dbgr dbgw
    -- events
    step loadArrival storeAck storeFaultReturn landingArrival walkComplete vaultAccess crossDieWrite reductionApply
    releaseProbe probeAnswer hatchOpenAccept hatchReady hatchForcedClose htakeTransfer hputComplete refreshStart
    refreshEnd scrub pressStepStart pressStepRetire mdrainRead copyInject copyDeliver multicastReplicate multicastJoin
    multicastPrune routerHop linkReplay linkRetrain peerRequest deviceHostWrite deviceHostRead deliveryBoundExpiry
    shootdownComplete lqtailWrite launchFetch launchMessage launchAck goMessage sliceEnd sliceIdleEnd teamSave
    teamRestore groupArrival groupCompletion memberLower mailboxToken dispenserRequest rowReport jctlKill jctlPre
    jctlRes xshootWrite bar2Read bar2Write partWrite vfmapWrite attest keyload keydrop vaulterr rowpwrRun rowpwrIdle
    rowpwrOff rowpwrOpp oppSwitchDone plimitWrite thermalTrip deviceReset xtctlHalt xtctlRelease trctlPulse
    samplingPeriod dumpctlGo dumpMarker watchUpdate registerWrite pauseEnd yieldHoldEnd loadPhaseStart linkUp
    routeChange uncorrectableError

end Sys2Proof.Laws.RoundTrip

namespace Sys2Proof.Machine

/-- Settles O4: by cases on the instruction, each constructor by the round trip of its format. -/
theorem decodeEncode : Obligations.DecodeEncode := by
  unfold Obligations.DecodeEncode
  exact Laws.RoundTrip.statement_of

/-- The words that the spec refuses: a function, a format or a sub-field without a meaning, or a field that must be 0 (R81). -/
theorem decode_refused (w : Nat) (h : w ∈ [0x200, 0x40210E00, 0x21800000, 0xC4000000, 0xB0000280, 0xB0010C13, 0xBC0000C0]) :
    ∃ x, decode w = .error x := by
  simp only [List.mem_cons, List.not_mem_nil, or_false] at h
  obtain rfl | rfl | rfl | rfl | rfl | rfl | rfl := h
  all_goals exact ⟨_, rfl⟩

/-- Settles O3: each word evaluates to its instruction, or to the reason of its refusal. -/
theorem decodeWords : Obligations.DecodeWords := by
  unfold Obligations.DecodeWords
  exact ⟨rfl, rfl, rfl, rfl, rfl, rfl, rfl, rfl, rfl, rfl, rfl, rfl, rfl, rfl, rfl, rfl, rfl, rfl, rfl, rfl, rfl, rfl, rfl, rfl, rfl,
    rfl, rfl, rfl, rfl, rfl, rfl, rfl, rfl, rfl, decode_refused⟩

end Sys2Proof.Machine
end

section
/-! PROOFS. A strand of any slot that can trap enters its handler (R355). -/

namespace Sys2Proof.Machine

theorem rowFlags_dropWalks (p : WalkPlace → Bool) (s : State) (r sl : Nat) : rowFlags (dropWalks p s) r sl = rowFlags s r sl := rfl

theorem dropTraps_estat (l : Lane) : (dropTraps l).estat = l.estat := rfl

/-- What a trap does to its own strand's lanes: the listed columns drop the traps that lose. -/
theorem trapCols_own (r sl : Nat) : ∀ (l : List Nat) (s : State),
    (∃ ks ls, l.foldl (trapCol r sl) s = { s with cores := ks, lanes := ls }) ∧
    ∀ c, getLane (l.foldl (trapCol r sl) s) r c sl = if c ∈ l then dropTraps (getLane s r c sl) else getLane s r c sl
  | [], s => ⟨⟨_, _, rfl⟩, fun c => by simp⟩
  | a :: l, s => by
    obtain ⟨⟨ks, ls, hform⟩, hlanes⟩ := trapCols_own r sl l (trapCol r sl s a)
    have hsame : getLane (trapCol r sl s a) r a sl = dropTraps (getLane s r a sl) := getLane_setLane _ _ _ _ _
    have hother {c : Nat} (hc : c ≠ a) : getLane (trapCol r sl s a) r c sl = getLane s r c sl :=
      getLane_setLane_ne _ _ (by unfold coreIx; omega)
    have htwice (x : Lane) : dropTraps (dropTraps x) = dropTraps x := by simp [dropTraps]
    refine ⟨⟨ks, ls, hform⟩, fun c => (hlanes c).trans ?_⟩
    by_cases hc : c = a
    · subst hc
      simp [hsame, htwice]
    · simp [hother hc, hc]

/-- The last part of taking a trap: the head is in its handler, the trap is recorded, and a row armed for the cause halts (R355, R380,
R381). -/
def handlerEntry (s : State) (r sl : Nat) (c : Cause) (h : Head) : State :=
  let t := traceTrap (setHead s r sl h) r sl h
  if (getRow t r).arm && armedBy (getRow t r).causes c then haltRow t r (some sl) else t

theorem handlerEntry_form (s : State) (r sl : Nat) (c : Cause) (h : Head) : ∃ m k d ro,
    handlerEntry s r sl c h = { setHead s r sl h with mem := m, memKeys := k, dbg := d, rows := ro } ∧
      (s.dbg.tren = false → m = s.mem) := by
  obtain ⟨m, k, d, htrace, hmem⟩ := traceTrap_form (setHead s r sl h) r sl h
  rw [handlerEntry, htrace]
  dsimp only
  split
  all_goals exact ⟨m, k, d, _, rfl, hmem⟩

section
variable {s : State} {r sl : Nat} (c : Cause) (col : Nat) (tval : Word) (tpc : VAddr)
  (hlevel : (getHead s r sl).handler = false) (htvec : (getHead s r sl).tvec ≠ 0) (hsound : isIn 0x801 (getHead s r sl).poison = false)
include hlevel htvec hsound

theorem takeTrap_atTask : takeTrap s r sl c col tval tpc =
    handlerEntry (dropWalks (strandWalk r sl) (forCols (trapCol r sl) s)) r sl c
      (entered (getHead s r sl) (rowFlags (forCols (trapCol r sl) s) r sl) c col tval tpc) := by
  simp only [takeTrap, hlevel, htvec, hsound, Bool.or_self, decide_false, Bool.false_eq_true, if_false, rowFlags_dropWalks]
  rfl

/-- The head enters the handler, the strand's lanes drop the traps that lose, and memory changes by a trace record alone. -/
theorem takeTrap_own :
    getHead (takeTrap s r sl c col tval tpc) r sl = entered (getHead s r sl) (rowFlags s r sl) c col tval tpc ∧
    (∀ k < 16, getLane (takeTrap s r sl c col tval tpc) r k sl = dropTraps (getLane s r k sl)) ∧
    (s.dbg.tren = false → (takeTrap s r sl c col tval tpc).mem = s.mem) := by
  obtain ⟨⟨ks, ls, hcols⟩, hlanes⟩ : (∃ ks ls, forCols (trapCol r sl) s = { s with cores := ks, lanes := ls }) ∧
      ∀ k, getLane (forCols (trapCol r sl) s) r k sl = if k ∈ upTo 16 then dropTraps (getLane s r k sl) else getLane s r k sl :=
    trapCols_own r sl (upTo 16) s
  have hdropped (k : Nat) (hk : k < 16) : getLane (forCols (trapCol r sl) s) r k sl = dropTraps (getLane s r k sl) := by
    rw [hlanes, if_pos (show k ∈ upTo 16 from List.mem_range.2 hk)]
  have hflags : rowFlags (forCols (trapCol r sl) s) r sl = rowFlags s r sl :=
    rowFlags_congr _ _ _ _ fun k hk => by rw [hdropped k hk, dropTraps_estat]
  rw [takeTrap_atTask c col tval tpc hlevel htvec hsound, hflags]
  rw [hcols] at hdropped ⊢
  obtain ⟨m, k, d, ro, hform, hmem⟩ := handlerEntry_form (dropWalks (strandWalk r sl) { s with cores := ks, lanes := ls }) r sl c
    (entered (getHead s r sl) (rowFlags s r sl) c col tval tpc)
  rw [hform]
  exact ⟨getHead_setHead _ _ _ _, hdropped, hmem⟩

end

/-- A trap at the head of a drained strand that can trap, whatever its slot. -/
theorem headTraps_headTrap {s : State} (c : Cause) (v : Word) (hflights : (me s).flights = []) (hcan : CanTrap s) :
    HeadTraps s (.next (headTrap s s.curRow s.curSlot c v)) c v := by
  obtain ⟨hlevel, htvec, hsound⟩ := hcan
  have htrap : headTrap s s.curRow s.curSlot c v = takeTrap s s.curRow s.curSlot c 31 v (instrAddr (me s)) := by
    rw [headTrap]
    exact if_pos (List.isEmpty_iff.2 hflights)
  obtain ⟨hhead, hlanes, hmem⟩ := takeTrap_own c 31 v (instrAddr (me s)) hlevel htvec hsound
  have hothers (hslot : s.curSlot < 8) := takeTrap_spec s s.curRow s.curSlot c 31 v (instrAddr (me s)) hslot hlevel htvec hsound
  rw [htrap]
  refine ⟨_, rfl, hhead, hlanes, fun r k sl hk hsl hslot hne => ?_, hmem, fun r sl hsl hslot hne => ?_⟩
  · obtain ⟨-, -, hlane, -⟩ := hothers hslot
    exact hlane r k sl hk hsl hne
  · obtain ⟨-, -, -, -, hother, -⟩ := hothers hslot
    exact hother r sl hsl hne

end Sys2Proof.Machine
end

section
/-! PROOFS. PX, and head instructions after one (O26). -/

namespace Sys2Proof.Machine

/-- A word that the head does not execute traps ILLEGAL with the word in TVAL's low half, and in its high half the PX before it, or 0
(R81). -/
theorem headTraps_illegalWord {s : State} (w : Nat) (hflights : (me s).flights = []) (hcan : CanTrap s) :
    HeadTraps s (.next (illegalWord s s.curRow s.curSlot w)) .illegal
      (BitVec.ofNat 64 (w + 2 ^ 32 * (match (me s).pend with | some p => fmtPx p | none => 0))) :=
  headTraps_headTrap _ _ hflights hcan

/-- Any head instruction after a PX is an illegal word (R70). -/
theorem headInstr_pend {s : State} {p : Px} (i : Instr) (reads : List Nat) (k : Nat → Nat → Head → State)
    (hcommit : (me s).commit = none) (hwait : (me s).wait = .no) (hpend : (me s).pend = some p) :
    headInstr i reads k s = illegalWord s s.curRow s.curSlot (encodeWord i) := by
  rw [me] at hcommit hwait hpend
  simp only [headInstr, here, hcommit, hwait, hpend]
  rfl

theorem headTraps_afterPx {s : State} {p : Px} {i : Instr} {reads : List Nat} {k : Nat → Nat → Head → State}
    (hexec : exec i s = .next (headInstr i reads k s)) (hcommit : (me s).commit = none) (hwait : (me s).wait = .no)
    (hflights : (me s).flights = []) (hpend : (me s).pend = some p) (hcan : CanTrap s) :
    HeadTraps s (exec i s) .illegal (BitVec.ofNat 64 (encodeWord i + 2 ^ 32 * fmtPx p)) := by
  rw [hexec, headInstr_pend i reads k hcommit hwait hpend]
  simpa only [hpend] using headTraps_illegalWord (encodeWord i) hflights hcan

/-- PX that is executed: illegal in the last word of the body of the active loop, else kept for the next word (R66, R70). -/
theorem exec_px {s : State} {p : Px} (hready : HeadReady s []) (hwf : (Instr.px p).wellFormed = true) :
    exec (.px p) s = .next (if atLoopEnd (me s) then illegalWord s s.curRow s.curSlot (encodeWord (.px p))
      else setMe s { me s with pend := some p, pc := (me s).pc + 4, skipBreak := none }) :=
  congrArg Host.Outcome.next (headInstr_ready hready (.px p) _ hwf)

/-- Settles O26: a ready PX by its two branches, and the instructions after one because each asks first whether a PX is pending. -/
theorem prefixes : Obligations.Prefix := by
  unfold Obligations.Prefix
  refine ⟨fun s p hwf => ⟨fun hready hend => ?_, fun hdrained hcan hend => ?_⟩,
    fun s p q d a b off hcommit hwait hflights hpend hcan i hi => ?_⟩
  · rw [exec_px hready hwf, hend]
    rfl
  · obtain ⟨hready, hflights⟩ := hdrained
    rw [exec_px hready hwf, if_pos hend]
    obtain ⟨-, -, hpend, -⟩ := hready
    have htraps := headTraps_illegalWord (encodeWord (.px p)) hflights hcan
    rw [hpend] at htraps
    exact htraps
  · simp only [List.mem_cons, List.not_mem_nil, or_false] at hi
    obtain rfl | rfl | rfl | rfl | rfl := hi
    all_goals exact headTraps_afterPx rfl hcommit hwait hflights hpend hcan

end Sys2Proof.Machine
end

section
/-! PROOFS. Words at which a step traps: a breakpoint, a fetch that faults, a word that decodes to nothing (O2). -/

namespace Sys2Proof.Machine

/-! The strand's own word (R19, R71, R282). -/

theorem lt_of_pickStrand {s : State} {r sl : Nat} (h : pickStrand s r = some sl) : sl < 8 := by
  obtain ⟨i, -, rfl⟩ := List.mem_map.1 (List.mem_of_find?_eq_some h)
  exact Nat.mod_lt _ (by decide)

theorem me_beginIssue (s : State) (r sl : Nat) : me (beginIssue s r sl) = getHead s r sl := getHead_beginIssue s r sl sl

theorem me_setMe (s : State) (h : Head) : me (setMe s h) = h := getHead_setHead s s.curRow s.curSlot h

theorem prefixKept_place (s : State) (r sl : Nat) : (prefixKept s r sl).curRow = r ∧ (prefixKept s r sl).curSlot = sl := by
  unfold prefixKept
  dsimp only
  split
  all_goals exact ⟨rfl, rfl⟩

/-- A PX kept in SST changes nothing that decides whether the strand can trap. -/
theorem prefixKept_head (s : State) (r sl : Nat) :
    (me (prefixKept s r sl)).flights = (getHead s r sl).flights ∧ (me (prefixKept s r sl)).handler = (getHead s r sl).handler ∧
    (me (prefixKept s r sl)).tvec = (getHead s r sl).tvec ∧ (me (prefixKept s r sl)).poison = (getHead s r sl).poison := by
  unfold prefixKept
  dsimp only
  split
  · rw [me_setMe, me_beginIssue]
    exact ⟨rfl, rfl, rfl, rfl⟩
  · rw [me_beginIssue]
    exact ⟨rfl, rfl, rfl, rfl⟩

/-- A trap between a PX and its word keeps the PX in SST (R71). -/
theorem betweenTrap_beginIssue {s : State} {r sl : Nat} (c : Cause) (tval : Word) (hflights : (getHead s r sl).flights = []) :
    betweenTrap (beginIssue s r sl) r sl c tval = headTrap (prefixKept s r sl) r sl c tval := by
  have hhead := getHead_beginIssue s r sl sl
  simp only [betweenTrap, prefixKept, me_beginIssue, hhead, hflights]
  cases (getHead s r sl).pend <;> rfl

/-- A trap at the strand's word enters the handler, with a PX before the word kept in SST. -/
theorem headTraps_betweenTrap {s : State} {r sl : Nat} (c : Cause) (tval : Word) (hflights : (getHead s r sl).flights = [])
    (hlevel : (getHead s r sl).handler = false) (htvec : (getHead s r sl).tvec ≠ 0)
    (hsound : isIn 0x801 (getHead s r sl).poison = false) :
    HeadTraps (prefixKept s r sl) (.next (betweenTrap (beginIssue s r sl) r sl c tval)) c tval := by
  obtain ⟨hrow, hslot⟩ := prefixKept_place s r sl
  obtain ⟨hf, hl, ht, hp⟩ := prefixKept_head s r sl
  have htraps := headTraps_headTrap c tval (hf.trans hflights) ⟨hl.trans hlevel, ht ▸ htvec, hp ▸ hsound⟩
  rw [betweenTrap_beginIssue c tval hflights]
  rwa [hrow, hslot] at htraps

/-! The fetch in the state in which the word is read (R19, R271, R354). -/

theorem headXlateWith_beginIssue (s : State) (r sl : Nat) (k : Acc) (va : Word) :
    headXlateWith (beginIssue s r sl) [] r k va = headXlate s r k va := headXlate_beginIssue s r sl k va

section
variable {s : State} {r sl pa : Nat} {attr : Attr} {e : TlbEntry}

theorem fetchWith_fault {c : Cause} (hx : headXlate s r .fetch (wordOfAddr (getHead s r sl).pc) = .error c) :
    fetchWith (beginIssue s r sl) [] r (getHead s r sl) = .error (c, wordOfAddr (getHead s r sl).pc) := by
  simp only [fetchWith, headXlateWith_beginIssue, hx]

theorem fetchWith_poisoned (hx : headXlate s r .fetch (wordOfAddr (getHead s r sl).pc) = .ok (pa, attr, e))
    (hbad : (physBad s pa 4).isSome = true) :
    fetchWith (beginIssue s r sl) [] r (getHead s r sl) =
      .error (.poison, BitVec.ofNat 64 ((getHead s r sl).pc.toNat / 64 * 64)) := by
  simp only [fetchWith, headXlateWith_beginIssue, hx, physBad_sameTables (sameTables_beginIssue s r sl), hbad]
  rfl

theorem fetchWith_word (hx : headXlate s r .fetch (wordOfAddr (getHead s r sl).pc) = .ok (pa, attr, e)) (hgood : physBad s pa 4 = none) :
    fetchWith (beginIssue s r sl) [] r (getHead s r sl) =
      .ok (itlbFill (beginIssue s r sl) r e, physRdN s (attrKey s attr) pa 4) := by
  have htables := sameTables_beginIssue s r sl
  have hkey : attrKey (beginIssue s r sl) attr = attrKey s attr := by rw [beginIssue_eq]; rfl
  simp only [fetchWith, headXlateWith_beginIssue, hx, physBad_sameTables htables, hgood, physRdN_sameTables htables, hkey]
  rfl

end

/-! The step at the strand's word. -/

section
variable {s : State} {r sl : Nat} (h : NextWord s r sl)
include h

theorem flights_of_nextWord : (getHead s r sl).flights = [] := by
  obtain ⟨-, -, -, hidle, -, -, hpick, -⟩ := h
  obtain ⟨hflights, -⟩ := hidle sl (lt_of_pickStrand hpick)
  exact hflights

theorem plan_nextWord : plan s = planStrand s r sl := by
  obtain ⟨hagenda, hturn, -, hidle, hevents, -, hpick, -⟩ := h
  exact plan_of_pickStrand hagenda hturn (pumpRow_idle hidle hevents) hpick

theorem eventDue_nextWord : eventDue (beginIssue s r sl) r sl = false := by
  obtain ⟨-, -, -, -, -, -, -, hhead, hlane, -⟩ := h
  have hnone : raiseDue (beginIssue s r sl) r sl = none :=
    raiseDue_none (by rwa [getHead_beginIssue]) fun c hc => by rw [getLane_beginIssue, hlane c hc]
  simp [eventDue, hnone]

theorem headGate_nextWord : headGate (beginIssue s r sl) (.fetch r sl) (wordOfAddr (getHead s r sl).pc) 4 (getHead s r sl).handler =
    .go (beginIssue s r sl) [] (beginIssue s r sl).now := by
  obtain ⟨-, -, -, -, -, hwalk, -⟩ := h
  exact headGate_goes _ (noWalk_beginIssue hwalk)

theorem step_break (hbreak : breakDue (getHead s r sl) = true) :
    step s = .next (betweenTrap (beginIssue s r sl) r sl .break (wordOfAddr (getHead s r sl).pc)) := by
  have hevent := eventDue_nextWord h
  have hplan := plan_nextWord h
  obtain ⟨-, -, -, -, -, -, -, -, -, hstep⟩ := h
  simp only [step, hplan, planStrand, hevent, getHead_beginIssue, hstep, hbreak]
  rfl

theorem step_fetchFault {c : Cause} {tval : Word} (hbreak : breakDue (getHead s r sl) = false)
    (hfetch : fetchWith (beginIssue s r sl) [] r (getHead s r sl) = .error (c, tval)) :
    step s = .next (betweenTrap (beginIssue s r sl) r sl c tval) := by
  have hevent := eventDue_nextWord h
  have hplan := plan_nextWord h
  have hgate := headGate_nextWord h
  obtain ⟨-, -, -, -, -, -, -, -, -, hstep⟩ := h
  simp only [step, hplan, planStrand, hevent, getHead_beginIssue, hstep, hbreak, hgate, hfetch]
  rfl

theorem step_illegal {t : State} {w : Nat} {x : DecodeErr} (hbreak : breakDue (getHead s r sl) = false)
    (hfetch : fetchWith (beginIssue s r sl) [] r (getHead s r sl) = .ok (t, w)) (hdec : decode w = .error x) :
    step s = .next (illegalWord t r sl w) := by
  have hevent := eventDue_nextWord h
  have hplan := plan_nextWord h
  have hgate := headGate_nextWord h
  obtain ⟨-, -, -, -, -, -, -, -, -, hstep⟩ := h
  simp only [step, hplan, planStrand, hevent, getHead_beginIssue, hstep, hbreak, hgate, hfetch, planWord, hdec]
  rfl

end

/-- Caching a leaf in the row's TLB changes nothing that HeadTraps speaks of. -/
theorem headTraps_itlbFill {s : State} {r : Nat} {e : TlbEntry} {o : Out} {c : Cause} {v : Word} :
    HeadTraps (itlbFill s r e) o c v ↔ HeadTraps s o c v := Iff.rfl

/-- Settles O2: the head meets the breakpoint first, then the fetch, then the word, and each of the three ends in a trap at the head. -/
theorem stepTraps : Obligations.StepTraps := by
  unfold Obligations.StepTraps
  intro s r sl hnext h pc hlevel htvec hsound
  have hflights := flights_of_nextWord hnext
  have hbetween (c : Cause) (v : Word) := headTraps_betweenTrap c v hflights hlevel htvec hsound
  refine ⟨fun hbreak => ?_, fun hbreak => ⟨fun c hx => ?_, fun pa attr e hx => ⟨fun hbad => ?_, fun hgood x hdec => ?_⟩⟩⟩
  · rw [step_break hnext hbreak]
    exact hbetween .break pc
  · rw [step_fetchFault hnext hbreak (fetchWith_fault hx)]
    exact hbetween c pc
  · rw [step_fetchFault hnext hbreak (fetchWith_poisoned hx hbad)]
    exact hbetween .poison _
  · rw [step_illegal hnext hbreak (fetchWith_word hx hgood) hdec]
    have hread : me (itlbFill (beginIssue s r sl) r e) = h := me_beginIssue s r sl
    have htraps := headTraps_illegalWord (s := itlbFill (beginIssue s r sl) r e) (physRdN s (attrKey s attr) pa 4)
      (by rwa [hread]) (by rw [CanTrap, hread]; exact ⟨hlevel, htvec, hsound⟩)
    rw [headTraps_itlbFill, hread] at htraps
    exact htraps

end Sys2Proof.Machine
end

section
/-! PROOFS. A front copy whose source read has been dropped (O52). -/

namespace Sys2Proof.Machine

/-- A copy of one granule from pool to pool whose record holds a source read that has been dropped. -/
def droppedCopy : Copy :=
  ⟨1, 0, 0, .pool, 0x1000, .pool, 0x2000, 64, 0, .dev, false, 0, none, 0, 0, 0, false, [], [], [], some (0, { Pkt.new with lost := true })⟩

/-- A job's machine with that copy at the front of channel 0 of core 0. -/
def droppedState : State :=
  modCore (probeJobIn none (probeTables State.reset)) 0 fun k => { k with chans := k.chans.set 0 [droppedCopy] }

theorem droppedState_front : (getCore droppedState 0).chans.toList[0]? = some [droppedCopy] := by decide

theorem droppedState_others (x : Nat) (hx : x ≠ 0) : (getCore droppedState 0).chans.toList[x]?.getD [] = [] := by
  obtain hlt | hge := Nat.lt_or_ge x 4
  · interval_cases x
    · exact absurd rfl hx
    all_goals decide
  · rw [List.getElem?_eq_none (by simpa using hge), Option.getD_none]

theorem exec_copyInject (core ch : Nat) (s : State) : exec (.copyInject core ch) s =
    .next (if rowGoing (getRow s (core / 16)) && nextChan s core == some ch then copyInject s core ch else s) := rfl

/-- The engine waits for the answer to the read, which never comes. -/
theorem droppedState_waits : exec (.copyInject 0 0) droppedState = .next droppedState := by
  have hnone : nextChan droppedState 0 = none := by decide
  rw [exec_copyInject, hnone, if_neg (by simp)]

/-- Refutes O52: the copyInject clause asks nothing of the front copy's source read that is under way, and where the record says that this
read has been dropped the channel waits for its bound to run out and injects no granule. -/
theorem not_coreEngines : ¬ Obligations.CoreEngines := by
  unfold Obligations.CoreEngines
  intro h
  obtain ⟨-, -, -, hinject, -⟩ := h droppedState 0 0 0 0 (by decide) (by decide)
  obtain ⟨t, hnext, -, -, -, ⟨q, hq, -⟩, -⟩ := hinject droppedCopy [] (by decide) droppedState_front droppedState_others rfl rfl
    (by decide) (by decide) rfl rfl rfl rfl (by decide)
  obtain rfl : droppedState = t := Host.Outcome.next.inj (droppedState_waits.symm.trans hnext)
  exact List.cons_ne_nil q [] (List.self_eq_append_right.1 hq)

end Sys2Proof.Machine
end

section
/-! PROOFS. Vector instructions element by element (R182 to R184, R188), and their IV trap (R97, R354). -/

namespace Sys2Proof.Machine

/-! Vectors built from elements (R182). -/

theorem foldr_digits_lt (n : Nat) (l : List Nat) : l.foldr (fun x acc => x % 2 ^ n + 2 ^ n * acc) 0 < 2 ^ (n * l.length) := by
  induction l with
  | nil => simp
  | cons x l ih =>
    have hx : x % 2 ^ n < 2 ^ n := Nat.mod_lt _ (Nat.two_pow_pos n)
    rw [List.foldr_cons, List.length_cons, Nat.mul_succ, Nat.add_comm (n * _), Nat.pow_add]
    calc x % 2 ^ n + 2 ^ n * _ < 2 ^ n + 2 ^ n * _ := Nat.add_lt_add_right hx _
      _ = 2 ^ n * (l.foldr (fun x acc => x % 2 ^ n + 2 ^ n * acc) 0 + 1) := by ring
      _ ≤ _ := Nat.mul_le_mul_left _ ih

theorem foldr_digits_elem (n : Nat) (l : List Nat) (j : Nat) :
    l.foldr (fun x acc => x % 2 ^ n + 2 ^ n * acc) 0 / 2 ^ (n * j) % 2 ^ n = l.getD j 0 % 2 ^ n := by
  induction l generalizing j with
  | nil => simp
  | cons x l ih =>
    have hpos : 0 < 2 ^ n := Nat.two_pow_pos n
    cases j with
    | zero => simp
    | succ j =>
      rw [List.foldr_cons, Nat.mul_succ, Nat.add_comm (n * j), Nat.pow_add, ← Nat.div_div_eq_div_mul, Nat.add_mul_div_left _ _ hpos,
        Nat.div_eq_of_lt (Nat.mod_lt _ hpos), Nat.zero_add, ih]
      rfl

/-- Elements that fit fill the vector up to their end. -/
theorem ofElems_toNat {n : Nat} {l : List Nat} (h : n * l.length ≤ 1024) :
    (ofElems n l).toNat = l.foldr (fun x acc => x % 2 ^ n + 2 ^ n * acc) 0 := by
  rw [ofElems, BitVec.toNat_ofNat, Nat.mod_eq_of_lt]
  exact lt_of_lt_of_le (foldr_digits_lt n l) (Nat.pow_le_pow_right Nat.two_pos h)

theorem ofElems_lt {n : Nat} {l : List Nat} (h : n * l.length ≤ 1024) : (ofElems n l).toNat < 2 ^ (n * l.length) := by
  rw [ofElems_toNat h]
  exact foldr_digits_lt n l

theorem elem_ofElems {n : Nat} {l : List Nat} (h : n * l.length ≤ 1024) (j : Nat) : elem (ofElems n l) n j = l.getD j 0 % 2 ^ n := by
  rw [elem, vbits, ofElems_toNat h, foldr_digits_elem]

theorem elem_lt (v : Vec) (n j : Nat) : elem v n j < 2 ^ n := Nat.mod_lt _ (Nat.two_pow_pos n)

/-! A masked result (R183, R184). -/

/-- Pattern and flags of an element: an inactive one becomes 0 or keeps its old value, without a flag. -/
def maskedElem (l : Lane) (p : Px) (d : BitVec 5) (n : Nat) (r : Nat → Nat × Fl) (j : Nat) : Nat × Fl :=
  if activeAt l p j then r j else (if p.mz then 0 else elem (rdV l d) n j, 0)

/-- The flags of a masked result. -/
def maskedFlags (l : Lane) (p : Px) (d : BitVec 5) (n e : Nat) (r : Nat → Nat × Fl) : Fl :=
  ((upTo e).map (maskedElem l p d n r)).foldl (fun f q => f ||| q.2) 0

/-- The lane with a masked result in vd and its flags in ESTAT. -/
def withMasked (l : Lane) (p : Px) (d : BitVec 5) (n e : Nat) (r : Nat → Nat × Fl) : Lane :=
  wrV (orFlags l (maskedFlags l p d n e r)) d (ofElems n (((upTo e).map (maskedElem l p d n r)).map (·.1)))

theorem getLsbD_foldl_flags {α : Type} (g : α → Fl) (b : Nat) (l : List α) (f : Fl) :
    (l.foldl (fun f q => f ||| g q) f).getLsbD b = true ↔ f.getLsbD b = true ∨ ∃ q ∈ l, (g q).getLsbD b = true := by
  induction l generalizing f with
  | nil => simp
  | cons a l ih => simp [ih, or_assoc]

section
variable (l : Lane) (p : Px) (d : BitVec 5) (n e : Nat) (r : Nat → Nat × Fl)

theorem maskedElem_flag (b j : Nat) :
    (maskedElem l p d n r j).2.getLsbD b = true ↔ activeAt l p j = true ∧ (r j).2.getLsbD b = true := by
  unfold maskedElem
  split <;> simp_all

theorem maskedFlags_iff (b : Nat) : (maskedFlags l p d n e r).getLsbD b = true ↔
    ∃ j < e, activeAt l p j = true ∧ (r j).2.getLsbD b = true := by
  rw [maskedFlags, getLsbD_foldl_flags]
  simp [upTo, maskedElem_flag]

theorem vecWrites_withMasked (h : n * e ≤ 1024) : VecWrites l (withMasked l p d n e r) p d n e r := by
  have hlen : (((upTo e).map (maskedElem l p d n r)).map (·.1)).length = e := by simp [upTo]
  have hlt := ofElems_lt (n := n) (l := ((upTo e).map (maskedElem l p d n r)).map (·.1)) (by rwa [hlen])
  rw [hlen] at hlt
  refine ⟨_, _, rfl, hlt, fun j hj => ?_, fun b _ => maskedFlags_iff l p d n e r b⟩
  have hget : (((upTo e).map (maskedElem l p d n r)).map (·.1)).getD j 0 = (maskedElem l p d n r j).1 := by
    simp [List.getD, upTo, hj]
  rw [elem_ofElems (by rwa [hlen]), hget, maskedElem]
  split
  · rfl
  · split
    · exact Nat.zero_mod _
    · exact Nat.mod_eq_of_lt (elem_lt _ _ _)

end

/-! Writing a masked result, or its IV trap (R97). -/

/-- The lowest active element that sets IV is the one that the trap names. -/
theorem findIdx_masked {l : Lane} {p : Px} {d : BitVec 5} {n e : Nat} {r : Nat → Nat × Fl} {j : Nat} (hj : j < e)
    (hraises : activeAt l p j = true ∧ (r j).2.getLsbD 0 = true) (hlow : ∀ k < j, ¬ (activeAt l p k = true ∧ (r k).2.getLsbD 0 = true)) :
    ((upTo e).map (maskedElem l p d n r)).findIdx? (fun q => q.2.getLsbD 0) = some j := by
  rw [List.findIdx?_eq_some_iff_getElem]
  refine ⟨by simpa [upTo] using hj, ?_, fun k hk => ?_⟩
  · simp only [upTo, List.getElem_map, List.getElem_range, maskedElem_flag]
    exact hraises
  · simp only [upTo, List.getElem_map, List.getElem_range, maskedElem_flag]
    exact hlow k hk

theorem doneV_eq (x : Ctx) (s : State) (l : Lane) (d : BitVec 5) (n e : Nat) (r : Nat → Nat × Fl) :
    doneV x s l d n e r =
      if ivTraps l.estat (maskedFlags l x.f.px d n e r) then
        .trap s .iv (BitVec.ofNat 64 ((((upTo e).map (maskedElem l x.f.px d n r)).findIdx? fun q => q.2.getLsbD 0).getD 0))
      else .done (putV x (x.set s (orFlags l (maskedFlags l x.f.px d n e r))) d
        (ofElems n (((upTo e).map (maskedElem l x.f.px d n r)).map (·.1)))) := rfl

/-- In a pool without poison a v register is written alone. -/
theorem putV_set {x : Ctx} {s : State} (l : Lane) (d : BitVec 5) (v : Vec) (hpool : (getCore s x.core).poolPoison = []) :
    putV x (x.set s l) d v = x.set s (wrV l d v) := by
  have hcore : (getCore (setLane s x.r x.c x.sl (wrV l d v)) x.core).poolPoison = [] := hpool
  simp only [putV, Ctx.set, Ctx.lane, getLane_setLane, setLane_setLane, hcore, List.isEmpty_nil, if_true]

theorem doneV_quiet {x : Ctx} {s : State} {l : Lane} {d : BitVec 5} {n e : Nat} {r : Nat → Nat × Fl}
    (hpool : (getCore s x.core).poolPoison = []) (hiv : ivTraps l.estat (maskedFlags l x.f.px d n e r) = false) :
    doneV x s l d n e r = .done (x.set s (withMasked l x.f.px d n e r)) := by
  rw [doneV_eq, hiv, if_neg (by decide), putV_set _ _ _ hpool, withMasked]

theorem ivTraps_iff {w : Word} {f : Fl} : ivTraps w f = true ↔ w.getLsbD 8 = true ∧ f.getLsbD 0 = true := by
  rw [ivTraps, Bool.and_eq_true]

theorem doneV_traps {x : Ctx} {s : State} {l : Lane} {d : BitVec 5} {n e j : Nat} {r : Nat → Nat × Fl} (hive : l.estat.getLsbD 8 = true)
    (hj : j < e) (hraises : activeAt l x.f.px j = true ∧ (r j).2.getLsbD 0 = true)
    (hlow : ∀ k < j, ¬ (activeAt l x.f.px k = true ∧ (r k).2.getLsbD 0 = true)) :
    doneV x s l d n e r = .trap s .iv (BitVec.ofNat 64 j) := by
  rw [doneV_eq, if_pos (ivTraps_iff.2 ⟨hive, (maskedFlags_iff l x.f.px d n e r 0).2 ⟨j, hj, hraises⟩⟩), findIdx_masked hj hraises hlow,
    Option.getD_some]

/-! A vector instruction whose west operand is a v register, in a free row (R22, R24, R188). -/

/-- A vector instruction as the statements describe it: its word, its destination and operands with the formats of west words, its
sources, the width and the number of its elements, and each element of the result from the operands. -/
structure VecForm where
  i : Instr
  d : BitVec 5
  a : BitVec 5
  b : BitVec 5
  west : West
  codeA : BitVec 4
  codeB : BitVec 4
  srcs : List Src
  n : Nat
  e : Nat
  result : Vec → Vec → Nat → Nat × Fl

/-- The context of a strand's instruction at a column. -/
def ctxAt (s : State) (i : Instr) (c : Nat) (w : Vec) : Ctx := ⟨s.curRow, s.curSlot, c, flightAt s i c w⟩

/-- A strand's instruction is of a form: the model executes it as a lane instruction, with those operands and that result. -/
structure VecForm.Describes (v : VecForm) (s : State) : Prop where
  exec : exec v.i s = .next (issueLane v.i s)
  core : ∀ c w st, coreExec v.i (ctxAt s v.i c w) st = withSrcs (ctxAt s v.i c w) st v.srcs fun l =>
    doneV (ctxAt s v.i c w) st l v.d v.n v.e (v.result (vecA (ctxAt s v.i c w) l v.a v.west v.codeA.toNat)
      (vecB (ctxAt s v.i c w) l v.b v.west v.codeB.toNat))
  westA : v.west = .a → westReg v.i = some (true, v.a)
  westB : v.west = .b → westReg v.i = some (true, v.b)
  fits : v.n * v.e ≤ 1024

/-- The elements of the result at a column, from the word captured to the west. -/
def VecForm.resultAt (v : VecForm) (s : State) (c : Nat) (w : Vec) : Nat → Nat × Fl :=
  v.result (vecA (ctxAt s v.i c w) (laneAt s c) v.a v.west v.codeA.toNat) (vecB (ctxAt s v.i c w) (laneAt s c) v.b v.west v.codeB.toNat)

/-- Does a column take no IV trap with that word (R97)? -/
def VecForm.QuietAt (v : VecForm) (s : State) (c : Nat) (w : Vec) : Prop :=
  ivTraps (laneAt s c).estat (maskedFlags (laneAt s c) (pxOf (me s)) v.d v.n v.e (v.resultAt s c w)) = false

/-- Would an active element set IV at a column where both operands are its own registers? -/
def VecForm.RaisesOwn (v : VecForm) (s : State) (c : Nat) : Prop :=
  ∃ j < v.e, activeAt (laneAt s c) (pxOf (me s)) j = true ∧
    (v.result (rdV (laneAt s c) v.a) (rdV (laneAt s c) v.b) j).2.getLsbD 0 = true

/-- The lane after a vector instruction with those elements of the result. -/
def VecForm.after (v : VecForm) (s : State) (l : Lane) (r : Nat → Nat × Fl) : Lane :=
  vecTaken v.i (getRow s s.curRow).cycle (withMasked l (pxOf (me s)) v.d v.n v.e r)

/-- The lane after it at a column. -/
def VecForm.eff (v : VecForm) (s : State) (c : Nat) (w : Vec) : Lane := v.after s (laneAt s c) (v.resultAt s c w)

section
variable (v : VecForm) (s : State) (l : Lane) (r : Nat → Nat × Fl)

theorem VecForm.after_frame : ∃ x : Lane, v.after s l r =
    { l with estat := x.estat, v := x.v, vecUntil := x.vecUntil, vFill := l.vFill.set v.d.toNat 0 } := by
  refine ⟨v.after s l r, ?_⟩
  unfold after vecTaken
  split <;> rfl

theorem VecForm.after_events : (v.after s l r).events = l.events := by
  obtain ⟨x, hx⟩ := v.after_frame s l r
  rw [hx]

/-- A west register that was full is full, be it the destination (R36). -/
theorem VecForm.westReady_after (h : westReady l v.i) : westReady (v.after s l r) v.i := by
  obtain ⟨x, hx⟩ := v.after_frame s l r
  rw [hx]
  unfold westReady at h ⊢
  match westReg v.i, h with
  | none, _ => trivial
  | some (false, _), h => exact h
  | some (true, m), h =>
    simp only [vEmpty, bne_eq_false_iff_eq, Vector.getElem_set] at h ⊢
    split
    · rfl
    · exact h

end

theorem vecWrites_after {v : VecForm} {s : State} (l : Lane) (r : Nat → Nat × Fl) (hfits : v.n * v.e ≤ 1024) :
    VecWrites (vecTaken v.i (getRow s s.curRow).cycle l) (v.after s l r) (pxOf (me s)) v.d v.n v.e r := by
  have hmasked (y : Lane) : vecTaken v.i (getRow s s.curRow).cycle (withMasked y (pxOf (me s)) v.d v.n v.e r) =
      withMasked (vecTaken v.i (getRow s s.curRow).cycle y) (pxOf (me s)) v.d v.n v.e r := by
    unfold vecTaken
    split <;> rfl
  rw [VecForm.after, hmasked]
  exact vecWrites_withMasked _ _ _ _ _ _ hfits

/-- A core's vector unit is taken as the lane is written (R188). -/
theorem taken_set (x : Ctx) (s : State) (l : Lane) (i : Instr) :
    (if 1 < vecCycles i then modLane (x.set s l) x.r x.c x.sl (vecTaken i (getRow (x.set s l) x.r).cycle) else x.set s l) =
      x.set s (vecTaken i (getRow s x.r).cycle l) := by
  have hrow : getRow (x.set s l) x.r = getRow s x.r := rfl
  by_cases hcycles : 1 < vecCycles i
  · rw [if_pos hcycles, hrow, modLane, Ctx.set, getLane_setLane, setLane_setLane, Ctx.set]
  · rw [if_neg hcycles, vecTaken, if_neg hcycles]

/-- A core that writes the strand's lane, and takes its vector unit. -/
theorem coreStep_set {x : Ctx} {s : State} {l : Lane} (hmask : pxMaskPoison x s = none) (hexec : coreExec x.f.instr x s = .done (x.set s l)) :
    coreStep x s = .done (x.set s (vecTaken x.f.instr (getRow s x.r).cycle l)) := by
  rw [coreStep, hmask, hexec]
  dsimp only
  rw [taken_set]

theorem vecTaken_events (i : Instr) (n : Nat) (l : Lane) : (vecTaken i n l).events = l.events := by
  unfold vecTaken
  split <;> rfl

theorem VecForm.coreStep_quiet {v : VecForm} {s : State} (hd : v.Describes s) (hr : VecRuns s v.i v.srcs) {c : Nat} (hc : c < 16)
    {st : State} {w : Vec} (hst : st = { s with heads := st.heads, lanes := st.lanes })
    (hl : getLane st s.curRow c s.curSlot = laneAt s c) (hiv : v.QuietAt s c w) :
    coreStep (ctxAt s v.i c w) st = .done (setLane st s.curRow c s.curSlot (v.eff s c w)) := by
  obtain ⟨⟨hready, hsrcs⟩, hpools⟩ := hr
  have hpool : (getCore st (ctxAt s v.i c w).core).poolPoison = [] := by
    rw [hst]
    exact hpools c hc
  have hexec : coreExec v.i (ctxAt s v.i c w) st =
      .done ((ctxAt s v.i c w).set st (withMasked (laneAt s c) (pxOf (me s)) v.d v.n v.e (v.resultAt s c w))) := by
    rw [hd.core, ctxAt, withSrcs_ready hl hst _ (hsrcs c hc)]
    exact doneV_quiet hpool hiv
  have hrow : getRow st (ctxAt s v.i c w).r = getRow s s.curRow := by rw [hst]; rfl
  have hmask : pxMaskPoison (ctxAt s v.i c w) st = none := pxMask_ready hready hc st w hl
  rw [coreStep_set hmask hexec, hrow]
  rfl

/-- Where no IV trap can be taken, no core takes one, whatever the words from the west are (R97). -/
theorem VecForm.noIv_quiet {v : VecForm} {s : State} (hiv : NoIv s (v.west != .no) (v.RaisesOwn s)) {c : Nat} (hc : c < 16) (w : Vec) :
    v.QuietAt s c w := by
  rw [QuietAt, ← Bool.not_eq_true, ivTraps_iff, maskedFlags_iff]
  rintro ⟨hive, hraises⟩
  obtain hoff | ⟨hlocal, hquiet⟩ := hiv c hc
  · rw [hive] at hoff
    cases hoff
  · have hno : v.west = .no := by simpa using hlocal
    simp only [resultAt, vecA, vecB, hno] at hraises
    exact hquiet hraises

/-- What the core to the west has left in the register is the word that a core captures (R24, R25, R186). -/
theorem VecForm.westV_eq {v : VecForm} {s : State} {eff : Nat → Vec → Lane}
    (hdone : LaneDone s (issueLane v.i s) fun c => eff c (westOf v.i eff c))
    {m : BitVec 5} (hm : westReg v.i = some (true, m)) (code : BitVec 4) {c : Nat} (hc : c < 16) :
    westV (ctxAt s v.i c (westOf v.i eff c)) code.toNat = westVec s (issueLane v.i s) c code.toNat m := by
  obtain ⟨-, -, hlanes⟩ := hdone
  unfold westV westVec
  cases c with
  | zero => rfl
  | succ c =>
    rw [show (ctxAt s v.i (c + 1) (westOf v.i eff (c + 1))).c = c + 1 from rfl, if_neg (Nat.succ_ne_zero c), if_neg (Nat.succ_ne_zero c),
      Nat.add_sub_cancel, hlanes c (by omega)]
    show carried v.i _ _ = _
    rw [carried, hm]

section
variable {v : VecForm} {s : State} (hd : v.Describes s) (hr : VecRuns s v.i v.srcs)
include hd hr

theorem VecForm.passes (hiv : ∀ c < 16, ∀ w, v.QuietAt s c w) :
    LaneDone s (issueLane v.i s) fun c => v.eff s c (westOf v.i (v.eff s) c) := by
  have hready := hr
  obtain ⟨⟨hlane, -⟩, -⟩ := hready
  have hcols := hlane
  obtain ⟨-, -, -, -, -, -, -, -, -, hcols⟩ := hcols
  refine wave s v.i (v.eff s) hlane (fun c hc st w hst hl => coreStep_quiet hd hr hc hst hl (hiv c hc w)) (fun c hc w => ?_) fun c hc w => ?_
  · obtain ⟨-, -, hwest, -⟩ := hcols c (by omega)
    exact westReady_after _ _ _ _ hwest
  · obtain ⟨hevents, -⟩ := hcols c hc
    exact (after_events _ _ _ _).trans hevents

theorem VecForm.completes (hiv : NoIv s (v.west != .no) (v.RaisesOwn s)) :
    Completes (exec v.i s) fun t => LaneRel s t fun c l l' =>
      VecWrites (vecTaken v.i (getRow s s.curRow).cycle l) l' (pxOf (me s)) v.d v.n v.e
        (v.result (vopA s t c v.a v.west v.codeA) (vopB s t c v.b v.west v.codeB)) := by
  have hdone := passes hd hr fun c hc w => noIv_quiet hiv hc w
  have hlanes := hdone
  obtain ⟨honly, hhead, hlanes⟩ := hlanes
  refine ⟨_, hd.exec, honly, hhead, fun c hc => ?_⟩
  have ha : vecA (ctxAt s v.i c (westOf v.i (v.eff s) c)) (laneAt s c) v.a v.west v.codeA.toNat =
      vopA s (issueLane v.i s) c v.a v.west v.codeA := by
    unfold vecA vopA
    split
    next h => exact westV_eq hdone (hd.westA h) _ hc
    · rfl
  have hb : vecB (ctxAt s v.i c (westOf v.i (v.eff s) c)) (laneAt s c) v.b v.west v.codeB.toNat =
      vopB s (issueLane v.i s) c v.b v.west v.codeB := by
    unfold vecB vopB
    split
    next h => exact westV_eq hdone (hd.westB h) _ hc
    · rfl
  rw [hlanes c hc]
  dsimp only
  rw [eff, resultAt, ha, hb]
  exact vecWrites_after _ _ hd.fits

end

/-! A trap at the first core before anything is written (R97, R354). -/

/-- A trap at the first core leaves every register, flag and byte of memory as it was. -/
theorem trapsClean0_of_coreStep {s : State} {i : Instr} {cause : Cause} {v : Word} (hr : LaneReady s i) (hcan : CanTrap s)
    (hexec : exec i s = .next (issueLane i s))
    (hstep : coreStep ⟨s.curRow, s.curSlot, 0, flightAt s i 0 0⟩ (setHead s s.curRow s.curSlot (headLeft s i)) =
      .trap (setHead s s.curRow s.curSlot (headLeft s i)) cause v) : TrapsClean0 s i cause v := by
  obtain ⟨t, hnext, hmem, hhead⟩ := trapsAt0_of_coreStep hr hcan hexec hstep
  obtain ⟨hlevel, htvec, hsound⟩ := hcan
  have hready := hr
  obtain ⟨-, hslot, -, hwait, -⟩ := hready
  have hleft := headLeft_goOn (i := i) hwait
  have hhd : (headLeft s i).handler = (me s).handler := (congrArg Head.handler hleft :)
  have htv : (headLeft s i).tvec = (me s).tvec := (congrArg Head.tvec hleft :)
  have hpo : (headLeft s i).poison = (goOn (me s)).poison := (congrArg Head.poison hleft :)
  obtain ⟨-, hown, hlanes, -, hheads, -⟩ := takeTrap_spec (setHead s s.curRow s.curSlot (headLeft s i)) s.curRow s.curSlot cause 0 v
    (instrAddr (me s)) hslot (by rw [getHead_setHead, hhd, hlevel]) (by rwa [getHead_setHead, htv])
    (by rw [getHead_setHead, hpo]; exact isIn_loopHealed _ hsound)
  obtain rfl : takeTrap (setHead s s.curRow s.curSlot (headLeft s i)) s.curRow s.curSlot cause 0 v (instrAddr (me s)) = t :=
    Host.Outcome.next.inj ((hexec.trans (congrArg _ (issueLane_traps hr hstep))).symm.trans hnext)
  refine ⟨_, hnext, ⟨hown, fun r c sl hc hsl _ hne => hlanes r c sl hc hsl hne, hmem, fun r sl hsl _ hne => ?_⟩, hhead⟩
  rw [hheads r sl hsl hne]
  exact getHead_setHead_ne _ _ fun h => hne (by ext <;> simp <;> omega)

theorem coreStep_trap {x : Ctx} {s t : State} {cause : Cause} {v : Word} (hmask : pxMaskPoison x s = none)
    (htrap : coreExec x.f.instr x s = .trap t cause v) : coreStep x s = .trap t cause v := by
  rw [coreStep, hmask]
  dsimp only
  rw [htrap]

theorem VecForm.iv_trap {v : VecForm} {s : State} (hd : v.Describes s) (hr : VecRuns s v.i v.srcs) :
    IvTraps s v.i v.e fun j => activeAt (laneAt s 0) (pxOf (me s)) j = true ∧
      (v.result (vopA s s 0 v.a v.west v.codeA) (vopB s s 0 v.b v.west v.codeB) j).2.getLsbD 0 = true := by
  intro hcan hive j hj hraises hlow
  obtain ⟨⟨hready, hsrcs⟩, -⟩ := hr
  have hl : getLane (setHead s s.curRow s.curSlot (headLeft s v.i)) s.curRow 0 s.curSlot = laneAt s 0 := rfl
  refine trapsClean0_of_coreStep hready hcan hd.exec (coreStep_trap (pxMask_ready hready (by decide) _ _ hl) ?_)
  refine (hd.core 0 0 _).trans ?_
  rw [ctxAt, withSrcs_ready hl rfl _ (hsrcs 0 (by decide))]
  exact doneV_traps hive hj hraises hlow

theorem laneReady_of_vecRuns {s : State} {i : Instr} {srcs : List Src} (hr : VecRuns s i srcs) : LaneReady s i := by
  obtain ⟨⟨hready, -⟩, -⟩ := hr
  exact hready

/-- An instruction of a form completes where no core can take IV, and traps IV where core 0 does. -/
theorem VecForm.law {v : VecForm} {s : State} (hd : LaneReady s v.i → v.Describes s) :
    (VecRuns s v.i v.srcs → NoIv s (v.west != .no) (v.RaisesOwn s) →
      Completes (exec v.i s) fun t => LaneRel s t fun c l l' =>
        VecWrites (vecTaken v.i (getRow s s.curRow).cycle l) l' (pxOf (me s)) v.d v.n v.e
          (v.result (vopA s t c v.a v.west v.codeA) (vopB s t c v.b v.west v.codeB))) ∧
    (VecRuns s v.i v.srcs → IvTraps s v.i v.e fun j => activeAt (laneAt s 0) (pxOf (me s)) j = true ∧
      (v.result (vopA s s 0 v.a v.west v.codeA) (vopB s s 0 v.b v.west v.codeB) j).2.getLsbD 0 = true) :=
  ⟨fun hr hiv => completes (hd (laneReady_of_vecRuns hr)) hr hiv, fun hr => iv_trap (hd (laneReady_of_vecRuns hr)) hr⟩

end Sys2Proof.Machine
end

section
/-! PROOFS. Conversions, quantisation, special functions and the reduction (O36). -/

namespace Sys2Proof.Machine

/-! The forms of one operand and of two (R189, R196 to R199). -/

/-- A unary vector form: each element of the result from that of the operand. -/
def unaryForm (s : State) (i : Instr) (d a : BitVec 5) (u : Bool) (e : Nat) (r : Nat → Nat × Fl) : VecForm :=
  let p := pxOf (me s)
  ⟨i, d, a, a, west1 u, p.fa, p.fa, vsrcs1 a u p ++ mergeSrc d p, wid p.fd, e, fun x _ j => r (elem x (wid p.fa) j)⟩

/-- A binary vector form. -/
def binaryForm (s : State) (i : Instr) (d a b : BitVec 5) (w : West) (n e : Nat) (r : Vec → Vec → Nat → Nat × Fl) : VecForm :=
  let p := pxOf (me s)
  ⟨i, d, a, b, w, p.fa, p.fb, vsrcs2 a b w p ++ mergeSrc d p, n, e, r⟩

theorem west1_ne_no (u : Bool) : (west1 u != .no) = u := by cases u <;> rfl

theorem west1_ne_b (u : Bool) : west1 u ≠ .b := by cases u <;> decide

theorem eq_true_of_west1 {u : Bool} (h : west1 u = .a) : u = true := by
  cases u
  · cases h
  · rfl

theorem mul_count_le {n m : Nat} (h : n ≤ m) : n * (1024 / m) ≤ 1024 := (Nat.mul_le_mul_right _ h).trans (Nat.mul_div_le _ _)

/-- The PX of a ready instruction is one that its entry allows (R67, R80). -/
theorem pxLegal_of_ready {s : State} {i : Instr} (hr : LaneReady s i) : pxLegal i (pxOf (me s)) = true := by
  obtain ⟨-, -, -, -, -, -, -, hlegal, -⟩ := hr
  simp only [laneLegal, Bool.and_eq_true] at hlegal
  obtain ⟨⟨⟨-, hpx⟩, -⟩, -⟩ := hlegal
  exact hpx

theorem unary_law {s : State} {i : Instr} {d a : BitVec 5} {u : Bool} {e : Nat} {r : Nat → Nat × Fl}
    (hd : LaneReady s i → (unaryForm s i d a u e r).Describes s) :
    let p := pxOf (me s)
    (VecRuns s i (vsrcs1 a u p ++ mergeSrc d p) → (NoIv s u fun c => ∃ j < e, activeAt (laneAt s c) p j = true ∧
        (r (elem (rdV (laneAt s c) a) (wid p.fa) j)).2.getLsbD 0 = true) →
      Completes (exec i s) fun t => LaneRel s t fun c l l' =>
        VecWrites (vecTaken i (getRow s s.curRow).cycle l) l' p d (wid p.fd) e fun j =>
          r (elem (vopA s t c a (west1 u) p.fa) (wid p.fa) j)) ∧
    (VecRuns s i (vsrcs1 a u p ++ mergeSrc d p) → IvTraps s i e fun j => activeAt (laneAt s 0) p j = true ∧
      (r (elem (vopA s s 0 a (west1 u) p.fa) (wid p.fa) j)).2.getLsbD 0 = true) := by
  have hlaw := VecForm.law (v := unaryForm s i d a u e r) hd
  rwa [show (unaryForm s i d a u e r).west = west1 u from rfl, west1_ne_no] at hlaw

/-- Instructions of one operand. -/
theorem unaryForm_describes {s : State} {i : Instr} {d a : BitVec 5} {u : Bool} {e : Nat} {r : Nat → Nat × Fl}
    (hexec : exec i s = .next (issueLane i s)) (hwest : westReg i = if u then some (true, a) else none)
    (hfits : wid (pxOf (me s)).fd * e ≤ 1024)
    (hcore : ∀ c w st, coreExec i (ctxAt s i c w) st = withSrcs (ctxAt s i c w) st (vsrcs1 a u (pxOf (me s)) ++ mergeSrc d (pxOf (me s))) fun l =>
      doneV (ctxAt s i c w) st l d (wid (pxOf (me s)).fd) e fun j =>
        r (elem (vecA (ctxAt s i c w) l a (west1 u) (pxOf (me s)).fa.toNat) (wid (pxOf (me s)).fa) j)) :
    (unaryForm s i d a u e r).Describes s where
  exec := hexec
  core := hcore
  westA h := hwest.trans (if_pos (eq_true_of_west1 h))
  westB h := absurd h (west1_ne_b u)
  fits := hfits

/-- VCVT (R196). -/
theorem vcvt_describes (s : State) (d a : BitVec 5) (u : Bool) :
    let p := pxOf (me s)
    (unaryForm s (.vcvt d a u) d a u (1024 / max (wid p.fa) (wid p.fd)) fun x =>
      encodeVal p.fa.toNat p.fd.toNat (modeOf s) (decodeVal p.fa.toNat x)).Describes s :=
  unaryForm_describes rfl rfl (mul_count_le (Nat.le_max_right _ _)) fun _ _ _ => rfl

/-! The special functions (R199). -/

/-- One element of a special function, with the part's choice for it (R115). -/
def specialElem (s : State) (no : Nat) (f : Fmt → Rm → Nat → Val → Nat × Fl) (x : Nat) : Nat × Fl :=
  let p := pxOf (me s)
  f (fmtOf p.fd.toNat) (modeOf s) (Config.approxPick no (16 * p.fa.toNat + p.fd.toNat) x) (decodeVal p.fa.toNat x)

/-- A special function, whose operand and result are of one width. -/
theorem special_describes {s : State} {d a : BitVec 5} {u : Bool} (i : Instr) (no : Nat) (f : Fmt → Rm → Nat → Val → Nat × Fl)
    (hexec : exec i s = .next (issueLane i s)) (hwest : westReg i = if u then some (true, a) else none)
    (hcore : ∀ x st, coreExec i x st = vecFn x st d a u no f)
    (hlegal : pxLegal i (pxOf (me s)) = true → sameWidth (pxOf (me s)).fa (pxOf (me s)).fd = true) (hr : LaneReady s i) :
    (unaryForm s i d a u (1024 / wid (pxOf (me s)).fd) (specialElem s no f)).Describes s := by
  have hwidth : wid (pxOf (me s)).fa = wid (pxOf (me s)).fd := beq_iff_eq.1 (hlegal (pxLegal_of_ready hr))
  refine unaryForm_describes hexec hwest (mul_count_le le_rfl) fun c w st => ?_
  rw [hcore, hwidth]
  rfl

/-! Quantisation and division (R197 to R199). -/

theorem binary_law {s : State} {i : Instr} {d a b : BitVec 5} {w : West} {n e : Nat} {r : Vec → Vec → Nat → Nat × Fl}
    (hd : LaneReady s i → (binaryForm s i d a b w n e r).Describes s) :
    let p := pxOf (me s)
    (VecRuns s i (vsrcs2 a b w p ++ mergeSrc d p) → (NoIv s (w != .no) fun c => ∃ j < e, activeAt (laneAt s c) p j = true ∧
        (r (rdV (laneAt s c) a) (rdV (laneAt s c) b) j).2.getLsbD 0 = true) →
      Completes (exec i s) fun t => LaneRel s t fun c l l' =>
        VecWrites (vecTaken i (getRow s s.curRow).cycle l) l' p d n e (r (vopA s t c a w p.fa) (vopB s t c b w p.fb))) ∧
    (VecRuns s i (vsrcs2 a b w p ++ mergeSrc d p) → IvTraps s i e fun j => activeAt (laneAt s 0) p j = true ∧
      (r (vopA s s 0 a w p.fa) (vopB s s 0 b w p.fb) j).2.getLsbD 0 = true) :=
  VecForm.law (v := binaryForm s i d a b w n e r) hd

/-- Instructions of two operands. -/
theorem binaryForm_describes {s : State} {i : Instr} {d a b : BitVec 5} {w : West} {n e : Nat} {r : Vec → Vec → Nat → Nat × Fl}
    (hexec : exec i s = .next (issueLane i s))
    (hwest : westReg i = match w with | .no => none | .a => some (true, a) | .b => some (true, b)) (hfits : n * e ≤ 1024)
    (hcore : ∀ c v st, coreExec i (ctxAt s i c v) st = withSrcs (ctxAt s i c v) st (vsrcs2 a b w (pxOf (me s)) ++ mergeSrc d (pxOf (me s))) fun l =>
      doneV (ctxAt s i c v) st l d n e (r (vecA (ctxAt s i c v) l a w (pxOf (me s)).fa.toNat) (vecB (ctxAt s i c v) l b w (pxOf (me s)).fb.toNat))) :
    (binaryForm s i d a b w n e r).Describes s where
  exec := hexec
  core := hcore
  westA h := by
    obtain rfl : w = .a := h
    exact hwest
  westB h := by
    obtain rfl : w = .b := h
    exact hwest
  fits := hfits

theorem codeWidth_of_isFloat {c : BitVec 4} (h : isFloat c = true) : 8 ≤ codeWidth c.toNat := by
  have hle : c.toNat ≤ 2 := of_decide_eq_true h
  interval_cases c.toNat
  all_goals decide

/-- One element of VQUANT (R198). -/
def quantElem (s : State) (x y : Vec) (j : Nat) : Nat × Fl :=
  let p := pxOf (me s)
  let q := vdiv (decodeVal p.fa.toNat (elem x (wid p.fa) j)) (scaleOf p.fb y (j / 32))
  let z := if p.fd = 7 then vadd (modeOf s == .rdn) q.1 (zeroPoint y (j / 32)) else (q.1, 0)
  let r := encodeVal 0 p.fd.toNat (modeOf s) z.1
  (r.1, q.2 ||| z.2 ||| r.2)

theorem vquant_describes {s : State} {d a b : BitVec 5} {w : West} (hr : LaneReady s (.vquant d a b w)) :
    (binaryForm s (.vquant d a b w) d a b w 8 (1024 / wid (pxOf (me s)).fa) (quantElem s)).Describes s := by
  have hlegal : ((useArith true true false).admits (pxOf (me s)) && quantOk false (pxOf (me s))) = true := pxLegal_of_ready hr
  simp only [quantOk, Bool.and_eq_true] at hlegal
  obtain ⟨-, hfloat, -⟩ := hlegal
  exact binaryForm_describes rfl rfl (mul_count_le (codeWidth_of_isFloat hfloat)) fun _ _ _ => rfl

/-- The product of VDEQ's element and scale: a D8 scale of the zero code and a NaN scale have rules of their own (R198). -/
def dequantScaled (s : State) (y : Vec) (j : Nat) (z : Val) : Val × Fl :=
  let p := pxOf (me s)
  if p.fa = 3 ∧ elem y 8 (j / 32) = 0 then
    match z with
    | .num _ => (.dyadic false 0 0, 0)
    | _ => (.nan false, Fl.iv)
  else if (scaleOf p.fb y (j / 32)).isNan then (.nan false, Fl.iv) else vmul z (scaleOf p.fb y (j / 32))

/-- One element of VDEQ (R198). -/
def dequantElem (s : State) (x y : Vec) (j : Nat) : Nat × Fl :=
  let p := pxOf (me s)
  let v := decodeVal p.fa.toNat (elem x 8 j)
  let z := if p.fa = 7 then vadd (modeOf s == .rdn) v (zeroPoint y (j / 32)).negate else (v, 0)
  let q := roundOut p.fd (modeOf s) (dequantScaled s y j z.1)
  (q.1, z.2 ||| q.2)

theorem dequantScaled_eq (s : State) (y : Vec) (j : Nat) (z : Val) :
    dequantScaled s y j z =
      if (decide ((pxOf (me s)).fa = 3) && decide (elem y 8 (j / 32) = 0)) = true then
        match z with
        | .num _ => (.dyadic false 0 0, 0)
        | _ => (.nan false, Fl.iv)
      else if (scaleOf (pxOf (me s)).fb y (j / 32)).isNan then (.nan false, Fl.iv) else vmul z (scaleOf (pxOf (me s)).fb y (j / 32)) :=
  if_congr (by rw [Bool.and_eq_true, decide_eq_true_eq, decide_eq_true_eq]) rfl rfl

theorem vdeq_describes (s : State) (d a b : BitVec 5) (w : West) :
    (binaryForm s (.vdeq d a b w) d a b w (wid (pxOf (me s)).fd) (1024 / wid (pxOf (me s)).fd) (dequantElem s)).Describes s := by
  refine binaryForm_describes rfl rfl (mul_count_le le_rfl) fun _ _ _ => ?_
  unfold dequantElem
  simp only [dequantScaled_eq]
  rfl

/-- One element of VDIV (R199). -/
def divElem (s : State) (x y : Vec) (j : Nat) : Nat × Fl :=
  let p := pxOf (me s)
  roundOut p.fd (modeOf s) (vdiv (decodeVal p.fa.toNat (elem x (wid p.fd) j)) (decodeVal p.fb.toNat (elem y (wid p.fd) j)))

theorem vdiv_describes {s : State} {d a b : BitVec 5} {w : West} (hr : LaneReady s (.vdiv d a b w)) :
    (binaryForm s (.vdiv d a b w) d a b w (wid (pxOf (me s)).fd) (1024 / wid (pxOf (me s)).fd) (divElem s)).Describes s := by
  have hlegal : ((useArith true true false).admits (pxOf (me s)) && isFloat (pxOf (me s)).fa && isFloat (pxOf (me s)).fb &&
    isFloat (pxOf (me s)).fd && sameWidth (pxOf (me s)).fa (pxOf (me s)).fd && sameWidth (pxOf (me s)).fb (pxOf (me s)).fd) = true :=
    pxLegal_of_ready hr
  simp only [Bool.and_eq_true] at hlegal
  obtain ⟨⟨⟨-, hfloat⟩, -⟩, -⟩ := hlegal
  refine binaryForm_describes rfl rfl (mul_count_le le_rfl) fun c v st => ?_
  have helem (x y : Vec) : vecArith (ctxAt s (.vdiv d a b w) c v) vdiv (fun u _ => u) x y = divElem s x y := by
    funext j
    exact if_pos hfloat
  calc coreExec (.vdiv d a b w) (ctxAt s (.vdiv d a b w) c v) st
    _ = withSrcs (ctxAt s (.vdiv d a b w) c v) st (vsrcs2 a b w (pxOf (me s)) ++ mergeSrc d (pxOf (me s))) fun l =>
        doneV (ctxAt s (.vdiv d a b w) c v) st l d (wid (pxOf (me s)).fd) (1024 / wid (pxOf (me s)).fd)
          (vecArith (ctxAt s (.vdiv d a b w) c v) vdiv (fun u _ => u) (vecA (ctxAt s (.vdiv d a b w) c v) l a w (pxOf (me s)).fa.toNat)
            (vecB (ctxAt s (.vdiv d a b w) c v) l b w (pxOf (me s)).fb.toNat)) := rfl
    _ = _ := by simp only [helem]

/-! The reduction (R201). -/

/-- A leaf of VRED's tree at a lane. -/
def redLeaf (s : State) (op : RedOp) (a : BitVec 5) (l : Lane) (j : Nat) : RedNode :=
  let p := pxOf (me s)
  let v := decodeVal p.fa.toNat (elem (rdV l a) (wid p.fa) j)
  if activeAt l p j = false then ⟨redIdentity op, 0, j, none⟩
  else if v.isSnan then ⟨.nan false, Fl.iv, j, some j⟩ else ⟨v, 0, j, none⟩

/-- The root of that tree. -/
def redRoot (s : State) (op : RedOp) (a : BitVec 5) (l : Lane) : RedNode :=
  let p := pxOf (me s)
  (redTree op (fmtOf p.fd.toNat) (modeOf s) 6 ((List.range (1024 / wid p.fa)).map (redLeaf s op a l))).headD ⟨.nan false, 0, 0, none⟩

/-- VRED's result, and its flags. -/
def redResult (s : State) (op : RedOp) (a : BitVec 5) (l : Lane) : Nat × Fl :=
  let r := (fmtOf (pxOf (me s)).fd.toNat).round (modeOf s) (redRoot s op a l).v
  (r.1, (redRoot s op a l).fl ||| r.2)

theorem redLeaf_eq (s : State) (op : RedOp) (a : BitVec 5) (l : Lane) (j : Nat) :
    redLeaf s op a l j =
      if (rdM l (pxOf (me s)).msk).getLsbD j then
        let v := decodeVal (pxOf (me s)).fa.toNat (elem (rdV l a) (wid (pxOf (me s)).fa) j)
        if v.isSnan then ⟨.nan false, Fl.iv, j, some j⟩ else ⟨v, 0, j, none⟩
      else ⟨redIdentity op, 0, j, none⟩ := by
  cases hactive : (rdM l (pxOf (me s)).msk).getLsbD j
  · exact (if_pos hactive).trans (if_neg Bool.false_ne_true).symm
  · exact (if_neg (by rw [activeAt, hactive]; decide)).trans (if_pos rfl).symm

theorem coreVred_eq (s : State) (op : RedOp) (d a : BitVec 5) (c : Nat) (w : Vec) (st : State) :
    coreExec (.vred op d a) (ctxAt s (.vred op d a) c w) st =
      withSrcs (ctxAt s (.vred op d a) c w) st [.v a (pxOf (me s)).ea] fun l =>
        if ivTraps l.estat (redResult s op a l).2 then .trap st .iv (BitVec.ofNat 64 ((redRoot s op a l).iv.getD 0))
        else .done ((ctxAt s (.vred op d a) c w).set st (flagged l d (redResult s op a l))) := by
  have hroot : redRoot s op a = fun l => (redTree op (fmtOf (pxOf (me s)).fd.toNat) (modeOf s) 6
      ((List.range (1024 / wid (pxOf (me s)).fa)).map fun j =>
        if (rdM l (pxOf (me s)).msk).getLsbD j then
          let v := decodeVal (pxOf (me s)).fa.toNat (elem (rdV l a) (wid (pxOf (me s)).fa) j)
          if v.isSnan then (⟨.nan false, Fl.iv, j, some j⟩ : RedNode) else ⟨v, 0, j, none⟩
        else ⟨redIdentity op, 0, j, none⟩)).headD ⟨.nan false, 0, 0, none⟩ := by
    funext l
    rw [redRoot, funext (redLeaf_eq s op a l)]
  unfold redResult
  rw [hroot]
  rfl

/-- The lane after VRED at a column. -/
def redDone (s : State) (op : RedOp) (d a : BitVec 5) (c : Nat) : Lane :=
  flagged (vecTaken (.vred op d a) (getRow s s.curRow).cycle (laneAt s c)) d (redResult s op a (laneAt s c))

theorem vecTaken_flagged (i : Instr) (n : Nat) (l : Lane) (d : BitVec 5) (r : Nat × Fl) :
    vecTaken i n (flagged l d r) = flagged (vecTaken i n l) d r := by
  unfold vecTaken flagged wrG
  by_cases hd : d = 0
  · simp only [if_pos hd]
    split <;> rfl
  · simp only [if_neg hd]
    split <;> rfl

section
variable {s : State} {op : RedOp} {d a : BitVec 5} (hr : LaneRuns s (.vred op d a) [.v a (pxOf (me s)).ea])
include hr

/-- Where no core takes IV the reduction is written at each (R97, R188, R201). -/
theorem vred_completes (hiv : NoIv s false fun c => (redResult s op a (laneAt s c)).2.getLsbD 0 = true) :
    Completes (exec (.vred op d a) s) fun t => LaneDone s t fun c =>
      redDone s op d a c := by
  obtain ⟨hready, hsrcs⟩ := hr
  have hcols := hready
  obtain ⟨-, -, -, -, -, -, -, -, -, hcols⟩ := hcols
  have hquiet (c : Nat) (hc : c < 16) : ivTraps (laneAt s c).estat (redResult s op a (laneAt s c)).2 = false := by
    rw [← Bool.not_eq_true, ivTraps_iff]
    rintro ⟨hive, hraises⟩
    obtain hoff | ⟨-, hnot⟩ := hiv c hc
    · rw [hive] at hoff
      cases hoff
    · exact hnot hraises
  refine ⟨_, rfl, wave s (.vred op d a) (fun c _ => redDone s op d a c) hready (fun c hc st w hst hl => ?_) (fun c _ _ => trivial)
    fun c hc _ => ?_⟩
  · have hmask : pxMaskPoison (ctxAt s (.vred op d a) c w) st = none := pxMask_ready hready hc st w hl
    have hexec : coreExec (.vred op d a) (ctxAt s (.vred op d a) c w) st = .done ((ctxAt s (.vred op d a) c w).set st
        (flagged (laneAt s c) d (redResult s op a (laneAt s c)))) := by
      rw [coreVred_eq, ctxAt, withSrcs_ready hl hst _ (hsrcs c hc), hquiet c hc]
      rfl
    have hrow : getRow st (ctxAt s (.vred op d a) c w).r = getRow s s.curRow := by rw [hst]; rfl
    refine (coreStep_set hmask hexec).trans ?_
    rw [hrow, vecTaken_flagged]
    rfl
  · obtain ⟨hevents, -⟩ := hcols c hc
    exact (wrG_events _ _ _).trans ((vecTaken_events _ _ _).trans hevents)

theorem vred_traps (hcan : CanTrap s) (hive : (laneAt s 0).estat.getLsbD 8 = true)
    (hraises : (redResult s op a (laneAt s 0)).2.getLsbD 0 = true) :
    TrapsClean0 s (.vred op d a) .iv (BitVec.ofNat 64 ((redRoot s op a (laneAt s 0)).iv.getD 0)) := by
  obtain ⟨hready, hsrcs⟩ := hr
  have hl : getLane (setHead s s.curRow s.curSlot (headLeft s (.vred op d a))) s.curRow 0 s.curSlot = laneAt s 0 := rfl
  refine trapsClean0_of_coreStep hready hcan rfl (coreStep_trap (pxMask_ready hready (by decide) _ _ hl) ?_)
  refine (coreVred_eq s op d a 0 0 _).trans ?_
  rw [ctxAt, withSrcs_ready hl rfl _ (hsrcs 0 (by decide))]
  exact if_pos (ivTraps_iff.2 ⟨hive, hraises⟩)

end

/-- Settles O36: each conversion, quantisation and special function is a vector form, and a form's law holds of it; VRED has its own. -/
theorem vectorConversions : Obligations.VectorConversions := by
  unfold Obligations.VectorConversions
  intro s d a b w u op p rm fd na nd merge busy does1 does2 pick fn
  refine ⟨?vcvt, ?vquant, ?vdeq, ?vrcp, ?vrsq, ?vsqrt, ?vdiv, ?vexp2, ?vlog2, ?vsin, ?vcos, ?vtanh, ?vredCompletes, ?vredTraps⟩
  case vcvt => exact unary_law fun _ => vcvt_describes s d a u
  case vquant => exact binary_law vquant_describes
  case vdeq => exact binary_law fun _ => vdeq_describes s d a b w
  case vrcp =>
    exact unary_law (special_describes (.vrcp d a u) 0 fnRcp rfl rfl (fun _ _ => rfl) fun h => (Bool.and_eq_true_iff.1 h).2)
  case vrsq =>
    exact unary_law (special_describes (.vrsq d a u) 1 fnRsq rfl rfl (fun _ _ => rfl) fun h => (Bool.and_eq_true_iff.1 h).2)
  case vsqrt =>
    exact unary_law (special_describes (.vsqrt d a u) 2 (fun f r _ v => fnSqrt f r v) rfl rfl (fun _ _ => rfl) fun h => (Bool.and_eq_true_iff.1 h).2)
  case vdiv => exact binary_law vdiv_describes
  case vexp2 =>
    exact unary_law (special_describes (.vexp2 d a u) 4 fnExp2 rfl rfl (fun _ _ => rfl) fun h => (Bool.and_eq_true_iff.1 h).2)
  case vlog2 =>
    exact unary_law (special_describes (.vlog2 d a u) 5 fnLog2 rfl rfl (fun _ _ => rfl) fun h => (Bool.and_eq_true_iff.1 h).2)
  case vsin =>
    exact unary_law (special_describes (.vsin d a u) 6 (fnTrig false) rfl rfl (fun _ _ => rfl) fun h => (Bool.and_eq_true_iff.1 h).2)
  case vcos =>
    exact unary_law (special_describes (.vcos d a u) 7 (fnTrig true) rfl rfl (fun _ _ => rfl) fun h => (Bool.and_eq_true_iff.1 h).2)
  case vtanh =>
    exact unary_law (special_describes (.vtanh d a u) 8 fnTanh rfl rfl (fun _ _ => rfl) fun h => (Bool.and_eq_true_iff.1 h).2)
  case vredCompletes => exact vred_completes
  case vredTraps => exact vred_traps

end Sys2Proof.Machine
end

section
/-! PROOFS. A head instruction that is executed goes on, jumps or waits: arithmetic, branches, jumps and loops (O7 to O12, O28). -/

namespace Sys2Proof.Machine

/-! A head instruction of a strand that is ready (R117 to R120). -/

/-- A ready head instruction has its effect. -/
theorem exec_ready {s : State} {as : List (BitVec 4)} {i : Instr} {k : Nat → Nat → Head → State} (hready : HeadReady s as)
    (hexec : exec i s = .next (headInstr i (as.map (·.toNat)) k s)) (hwf : i.wellFormed = true) :
    exec i s = .next (k s.curRow s.curSlot (me s)) := by
  rw [hexec, headInstr_ready hready i k hwf]

theorem headDone_eq (s : State) (h : Head) : headDone s s.curRow s.curSlot h = setMe s (goOn h) := by
  rw [headDone, headNext_goOn, setMe]

theorem headJump_eq (s : State) (h : Head) (t : VAddr) : headJump s s.curRow s.curSlot h t = setMe s (goTo h t) := by
  rw [headJump, headJump_goTo, setMe]

theorem HeadReady.mono {s : State} {as bs : List (BitVec 4)} (h : HeadReady s as) (hsub : ∀ a ∈ bs, a ∈ as) : HeadReady s bs := by
  obtain ⟨hcommit, hwait, hpend, hsound⟩ := h
  exact ⟨hcommit, hwait, hpend, fun a ha => hsound a (hsub a ha)⟩

theorem HeadReady.nil {s : State} {as : List (BitVec 4)} (h : HeadReady s as) : HeadReady s [] :=
  h.mono fun _ ha => absurd ha List.not_mem_nil

/-- A ready head instruction that writes hd ends with it. -/
theorem exec_writes {s : State} {as : List (BitVec 4)} {i : Instr} {d : BitVec 4} {f : Nat → Nat → Head → Word} (hready : HeadReady s as)
    (hexec : exec i s = .next (headInstr i (as.map (·.toNat)) (fun r sl h => headDone s r sl (wrH h d (f r sl h))) s))
    (hwf : i.wellFormed = true) {v : Word} (hv : f s.curRow s.curSlot (me s) = v) : exec i s = headEnds s d v := by
  rw [exec_ready hready hexec hwf, headDone_eq, hv, headEnds]

/-! The operations on integers (R121, R122). -/

theorem aluAdd_eq (x y : Word) : aluAdd x y = BitVec.ofInt 64 (x.toInt + y.toInt) := by
  rw [BitVec.ofInt_add, BitVec.ofInt_toInt, BitVec.ofInt_toInt, aluAdd]

theorem aluSub_eq (x y : Word) : aluSub x y = BitVec.ofInt 64 (x.toInt - y.toInt) := by
  rw [Int.sub_eq_add_neg, BitVec.ofInt_add, BitVec.ofInt_neg, BitVec.ofInt_toInt, BitVec.ofInt_toInt, aluSub, BitVec.sub_eq_add_neg]

theorem aluMul_eq (x y : Word) : aluMul x y = BitVec.ofInt 64 (x.toInt * y.toInt) := by
  rw [BitVec.ofInt_mul, BitVec.ofInt_toInt, BitVec.ofInt_toInt, aluMul]

theorem shiftLeft_eq_ofNat (x : Word) (n : Nat) : x <<< n = BitVec.ofNat 64 (x.toNat * 2 ^ n) := by
  apply BitVec.eq_of_toNat_eq
  rw [BitVec.toNat_shiftLeft, BitVec.toNat_ofNat, Nat.shiftLeft_eq]

theorem ushiftRight_eq_ofNat (x : Word) (n : Nat) : x >>> n = BitVec.ofNat 64 (x.toNat / 2 ^ n) := by
  apply BitVec.eq_of_toNat_eq
  rw [BitVec.toNat_ushiftRight, BitVec.toNat_ofNat, Nat.shiftRight_eq_div_pow, Nat.mod_eq_of_lt]
  exact lt_of_le_of_lt (Nat.div_le_self _ _) x.isLt

theorem sshiftRight_eq_ofInt (x : Word) (n : Nat) : x.sshiftRight n = BitVec.ofInt 64 (x.toInt / 2 ^ n) := by
  rw [BitVec.sshiftRight, Int.shiftRight_eq_div_pow]
  norm_cast

theorem shiftCount_setWidth (n : BitVec 6) : shiftCount (n.setWidth 64) = n.toNat := by
  rw [shiftCount, BitVec.toNat_setWidth]
  omega

theorem aluMin_eq (x y : Word) : aluMin x y = BitVec.ofInt 64 (min x.toInt y.toInt) := by
  rw [aluMin, min_def]
  split <;> rw [BitVec.ofInt_toInt]

theorem aluMax_eq (x y : Word) : aluMax x y = BitVec.ofInt 64 (max x.toInt y.toInt) := by
  rw [aluMax, max_comm, max_def]
  split <;> rw [BitVec.ofInt_toInt]

theorem aluLui_eq (x : Word) (imm : BitVec 16) : aluLui x imm = BitVec.ofNat 64 (x.toNat * 2 ^ 16 + imm.toNat) := by
  have himm : imm.toNat < 2 ^ 16 := imm.isLt
  have hhigh : (x <<< 16).toNat = x.toNat % 2 ^ 48 * 2 ^ 16 := by
    rw [BitVec.toNat_shiftLeft, Nat.shiftLeft_eq]
    omega
  have hlow : (imm.setWidth 64).toNat = imm.toNat := by
    rw [BitVec.toNat_setWidth]
    omega
  apply BitVec.eq_of_toNat_eq
  rw [aluLui, BitVec.toNat_or, hhigh, hlow, ← Nat.shiftLeft_eq, ← Nat.shiftLeft_add_eq_or_of_lt himm, Nat.shiftLeft_eq, BitVec.toNat_ofNat]
  omega

/-! The statements about arithmetic. -/

/-- Settles O7: each operation is executed at once, and is its operation on integers. -/
theorem headArithmetic : Obligations.HeadArithmetic := by
  unfold Obligations.HeadArithmetic
  intro s d a b hready x y n
  have hends (i : Instr) (f : Word → Word → Word) (hexec : exec i s = .next (headAlu i d a b f s)) (hwf : i.wellFormed = true) {v : Word}
      (hv : f x y = v) : exec i s = headEnds s d v := by
    rw [hexec, headAlu_ready hready i f hwf, hv]
  refine ⟨hends _ aluAdd rfl rfl (aluAdd_eq x y), hends _ aluSub rfl rfl (aluSub_eq x y), hends _ aluAnd rfl rfl rfl,
    hends _ aluOr rfl rfl rfl, hends _ aluXor rfl rfl rfl, hends _ aluShl rfl rfl (shiftLeft_eq_ofNat x n),
    hends _ aluShr rfl rfl (ushiftRight_eq_ofNat x n), hends _ aluSar rfl rfl (sshiftRight_eq_ofInt x n), hends _ aluMul rfl rfl (aluMul_eq x y),
    hends _ aluSlt rfl rfl rfl, hends _ aluSltn rfl rfl rfl, hends _ aluMin rfl rfl (aluMin_eq x y),
    hends _ aluMax rfl rfl (aluMax_eq x y)⟩

/-- Settles O8: the same operations, the second operand from the word. -/
theorem headImmediate : Obligations.HeadImmediate := by
  unfold Obligations.HeadImmediate
  intro s d a imm n hready x k
  have hends (i : Instr) (f : Word → Word) (hexec : exec i s = .next (headImm i d a f s)) (hwf : i.wellFormed = true) {v : Word}
      (hv : f x = v) : exec i s = headEnds s d v := by
    rw [hexec, headImm_ready hready i f hwf, hv]
  have himm : k.toInt = imm.toInt := BitVec.toInt_signExtend_of_le (by decide)
  refine ⟨hends _ _ rfl rfl ((aluAdd_eq x k).trans (by rw [himm])), hends _ _ rfl rfl rfl, hends _ _ rfl rfl rfl,
    hends _ _ rfl rfl rfl, hends _ _ rfl rfl ?shli, hends _ _ rfl rfl ?shri, hends _ _ rfl rfl ?sari, ?li, hends _ _ rfl rfl (aluLui_eq x imm)⟩
  case shli => rw [aluShl, shiftCount_setWidth, shiftLeft_eq_ofNat]
  case shri => rw [aluShr, shiftCount_setWidth, ushiftRight_eq_ofNat]
  case sari => rw [aluSar, shiftCount_setWidth, sshiftRight_eq_ofInt]
  case li => exact exec_writes (f := fun _ _ _ => immWord imm) hready.nil rfl rfl rfl

/-! Branches, jumps and loops (R123 to R125). -/

/-- A signed offset of n bits, as the words of jumps hold it. -/
theorem sext_toNat {n : Nat} (x : BitVec n) : sext x.toNat n = x.toInt := by
  rw [sext, BitVec.toInt_eq_toNat_cond, Nat.mod_eq_of_lt x.isLt]
  push_cast
  split <;> split <;> omega

theorem branchTarget_eq {n : Nat} (pc : VAddr) (off : BitVec n) :
    branchTarget pc off.toNat n = BitVec.ofInt 48 (pc.toNat + 4 * off.toInt) := by
  rw [branchTarget, sext_toNat, BitVec.ofInt_add, BitVec.ofInt_natCast, BitVec.ofNat_toNat, BitVec.setWidth_eq]

/-- A ready branch. -/
theorem exec_branch {s : State} {a b : BitVec 4} {off : BitVec 12} {i : Instr} {cond : Word → Word → Bool} (hready : HeadReady s [a, b])
    (hexec : exec i s = .next (headBranch i a b off cond s)) (hwf : i.wellFormed = true) {c : Prop} [Decidable c]
    (hc : cond (rdH (me s) a) (rdH (me s) b) = true ↔ c) :
    exec i s = .next (setMe s (if c then goTo (me s) (BitVec.ofInt 48 ((me s).pc.toNat + 4 * off.toInt)) else goOn (me s))) := by
  rw [exec_ready (as := [a, b]) hready hexec hwf]
  by_cases h : c
  · rw [if_pos h, if_pos (hc.2 h), headJump_eq, branchTarget_eq]
  · rw [if_neg h, if_neg (mt hc.1 h), headDone_eq]

/-- Settles O9: each branch by its condition. -/
theorem branches : Obligations.Branches := by
  unfold Obligations.Branches
  intro s a b off hready h x y goes
  exact ⟨exec_branch hready rfl rfl beq_iff_eq, exec_branch hready rfl rfl bne_iff_ne, exec_branch hready rfl rfl decide_eq_true_iff,
    exec_branch hready rfl rfl decide_eq_true_iff, exec_branch hready rfl rfl decide_eq_true_iff,
    exec_branch hready rfl rfl decide_eq_true_iff⟩

theorem targetOk_iff {w : Word} : targetOk w = true ↔ 4 ∣ w.toNat ∧ w.toNat < 2 ^ 48 := by
  rw [targetOk, Bool.and_eq_true, beq_iff_eq, beq_iff_eq, Nat.dvd_iff_mod_eq_zero, Nat.div_eq_zero_iff]
  simp

/-- A ready JR. -/
theorem exec_jr {s : State} {a : BitVec 4} (b : BitVec 4) (hready : HeadReady s [a]) :
    exec (.jr a b) s = .next (if targetOk (rdH (me s) a) then
        setMe s (goTo (wrH (me s) b ((me s).pc + 4 |>.setWidth 64)) ((rdH (me s) a).setWidth 48))
      else headTrap s s.curRow s.curSlot .fetchTarget (rdH (me s) a)) := by
  rw [exec_ready (i := .jr a b) (as := [a]) hready rfl rfl]
  simp only [headJump_eq]
  rfl

/-- Settles O10: JMP and CALL jump, JR by its test of the target. -/
theorem jumps : Obligations.Jumps := by
  unfold Obligations.Jumps
  refine ⟨?_, fun s a b hdrained hcan hbad => ?trap⟩
  · intro s off a b hready h target link
    refine ⟨?jmp, ?call, fun halign hlow => ?jr⟩
    case jmp => rw [exec_ready (i := .jmp off) (as := []) hready.nil rfl rfl, headJump_eq, branchTarget_eq]
    case call =>
      rw [exec_ready (i := .call off) (as := []) hready.nil rfl rfl, headJump_eq, branchTarget_eq]
      rfl
    case jr => rw [exec_jr b hready, if_pos (targetOk_iff.2 ⟨halign, hlow⟩)]
  case trap =>
    obtain ⟨hready, hflights⟩ := hdrained
    rw [exec_jr b hready, if_neg (mt targetOk_iff.1 hbad)]
    exact headTraps_headTrap _ _ hflights hcan

theorem inLoop_iff {h : Head} {a : VAddr} : inLoop h a = true ↔ h.loopc ≠ 0 ∧ h.loops.toNat ≤ a.toNat ∧ a.toNat < h.loope.toNat := by
  simp [inLoop, and_assoc]

/-- Settles O11: LOOP by its count. -/
theorem loopOpens : Obligations.LoopOpens := by
  unfold Obligations.LoopOpens
  intro s a off hready hlo hhi htask hout h past idle
  have hwf : (Instr.loop a off).wellFormed = true := by simp [Instr.wellFormed, Instr.illFormed, hlo, hhi]
  have hopen : ((me s).handler || inLoop (me s) (me s).pc) = false := by
    rw [htask, Bool.false_or, ← Bool.not_eq_true, inLoop_iff]
    exact hout
  rw [exec_ready (as := [a]) hready rfl hwf, hopen]
  by_cases hzero : rdH (me s) a = 0
  · simp only [h, hzero]
    rfl
  · have hfilter : (me s).poison.filter (fun n => !(n == 0x810 || n == 0x811 || n == 0x812)) =
        (me s).poison.filter fun n => decide (n ≠ 0x810 ∧ n ≠ 0x811 ∧ n ≠ 0x812) :=
      List.filter_congr fun n _ => by rw [Bool.eq_iff_iff]; simp [and_assoc]
    simp only [h, if_neg hzero, hfilter]
    rfl

/-! The end of a loop body (R125). -/

theorem atLoopEnd_iff {h : Head} : atLoopEnd h = true ↔ h.handler = false ∧ h.loopc ≠ 0 ∧ (h.pc + 4).setWidth 64 = h.loope := by
  simp [atLoopEnd, and_assoc]

theorem goOn_straight {h : Head} (hend : ¬ atLoopEnd h = true) : (goOn h).loopc = h.loopc ∧ (goOn h).pc = h.pc + 4 := by
  simp [goOn, hend]

theorem goOn_repeats {h : Head} (hend : atLoopEnd h = true) (hmore : 1 < h.loopc.toNat) :
    (goOn h).loopc.toNat = h.loopc.toNat - 1 ∧ (goOn h).pc = h.loops.setWidth 48 := by
  have hcount : (h.loopc - 1).toNat = h.loopc.toNat - 1 := by bv_omega
  simp only [goOn, hend, hmore, decide_true, Bool.and_self, if_true, hcount, and_self]

theorem goOn_ends {h : Head} (hend : atLoopEnd h = true) (hone : h.loopc = 1) : (goOn h).loopc = 0 ∧ (goOn h).pc = h.pc + 4 := by
  simp [goOn, hend, hone]

/-- The head after REGION, before it goes on (R134). -/
def regionOpened (h : Head) : Head :=
  { h with region := h.region + 1, regpc := (h.pc + 4).setWidth 64, rloopc := h.loopc, rloops := h.loops, rloope := h.loope,
           poison := snapPoison h.poison }

theorem exec_region {s : State} (hready : HeadReady s []) : exec .region s = .next (setMe s (goOn (regionOpened (me s)))) := by
  rw [exec_ready (i := .region) (as := []) hready rfl rfl, headDone_eq]
  rfl

/-- Settles O12: REGION goes on, and going on counts the loop down at its end alone. -/
theorem loopBack : Obligations.LoopBack := by
  unfold Obligations.LoopBack
  intro s hready
  refine ⟨_, exec_region hready, ?_⟩
  dsimp only
  rw [← atLoopEnd_iff, setMe, getHead_setHead]
  exact ⟨rfl, rfl, fun hat hone => goOn_ends (h := regionOpened (me s)) hat hone,
    fun hat hmore => goOn_repeats (h := regionOpened (me s)) hat hmore, fun hnot => goOn_straight (h := regionOpened (me s)) hnot⟩

/-! What these instructions leave unchanged (R117, R119). -/

theorem csrValue_setMe (s : State) (k h : Head) (c : Csr) : csrValue (setMe s k) s.curRow h c = csrValue s s.curRow h c := by
  cases c <;> rfl

theorem csrValue_goOn (s : State) (r : Nat) (h : Head) {c : Csr} (hc : c ≠ .loopc) : csrValue s r (goOn h) c = csrValue s r h c := by
  cases c with
  | loopc => exact absurd rfl hc
  | _ => rfl

theorem csrValue_goTo (s : State) (r : Nat) (h : Head) (t : VAddr) {c : Csr} (hc : c ≠ .loopc) :
    csrValue s r (goTo h t) c = csrValue s r h c := by
  cases c with
  | loopc => exact absurd rfl hc
  | _ => rfl

theorem csrValue_wrH (s : State) (r : Nat) (h : Head) (d : BitVec 4) (v : Word) (c : Csr) :
    csrValue s r (wrH h d v) c = csrValue s r h c := by
  unfold wrH
  split
  · rfl
  · cases c <;> rfl

/-- The head after a head instruction that writes one h register and goes on, or jumps. -/
def wentOn (h : Head) (w : BitVec 4) (v : Word) : Option VAddr → Head
  | none => goOn (wrH h w v)
  | some t => goTo (wrH h w v) t

theorem wentOn_rdH (h : Head) {w r : BitVec 4} (v : Word) (t : Option VAddr) (hr : r ≠ w) : rdH (wentOn h w v t) r = rdH h r := by
  cases t <;> exact rdH_wrH_ne h v hr

theorem wentOn_csr (s : State) (h : Head) (w : BitVec 4) (v : Word) (t : Option VAddr) {c : Csr} (hc : c ≠ .loopc) :
    csrValue s s.curRow (wentOn h w v t) c = csrValue s s.curRow h c := by
  rw [← csrValue_wrH s s.curRow h w v c]
  cases t with
  | none => exact csrValue_goOn s s.curRow _ hc
  | some t => exact csrValue_goTo s s.curRow _ t hc

theorem wentOn_queues (h : Head) (w : BitVec 4) (v : Word) (t : Option VAddr) :
    (wentOn h w v t).mailbox = h.mailbox ∧ (wentOn h w v t).tailQ = h.tailQ := by
  cases t <;> exact ⟨wrH_mailbox h w v, wrH_tailQ h w v⟩

/-- A strand's head is that of no other strand. -/
theorem getHead_setMe_ne (s : State) (h : Head) {r sl : Nat} (hsl : sl < 8) (hslot : s.curSlot < 8) (hne : (r, sl) ≠ (s.curRow, s.curSlot)) :
    getHead (setMe s h) r sl = getHead s r sl :=
  getHead_setHead_ne s h fun e => hne (by ext <;> simp <;> omega)

/-- Writes one h register, w, and goes on or jumps. -/
def EndsAt (s : State) (w : BitVec 4) (o : Host.Outcome State Fault Refusal) : Prop :=
  ∃ v t, o = .next (setMe s (wentOn (me s) w v t))

theorem EndsAt.writes {s : State} {w : BitVec 4} {o : Host.Outcome State Fault Refusal} {v : Word} (h : o = headEnds s w v) :
    EndsAt s w o := ⟨v, none, h⟩

theorem EndsAt.branch {s : State} {o : Host.Outcome State Fault Refusal} {c : Prop} [Decidable c] {t : VAddr}
    (h : o = .next (setMe s (if c then goTo (me s) t else goOn (me s)))) : EndsAt s 0 o := by
  by_cases hc : c
  · exact ⟨0, some t, by rw [h, if_pos hc]; rfl⟩
  · exact ⟨0, none, by rw [h, if_neg hc]; rfl⟩

/-- Settles O28: each instruction writes one h register and goes on or jumps, which touches nothing else; that it does is what the
statements above say of it. -/
theorem headFrame : Obligations.HeadFrame := by
  unfold Obligations.HeadFrame
  intro s t d a b imm n off far i w hready hi hexec
  have hone : HeadReady s [a] := hready.mono (by simp)
  have hends : EndsAt s w (exec i s) := by
    obtain ⟨hjumps, -⟩ := jumps
    obtain ⟨hjmp, hcall, hjr⟩ := hjumps s far a b hone
    rcases hi with ⟨rfl, hi⟩ | ⟨rfl, hi⟩ | ⟨rfl, rfl⟩ | ⟨rfl, rfl, halign, hlow⟩
    · obtain ⟨h1, h2, h3, h4, h5, h6, h7, h8, h9, h10, h11, h12, h13⟩ := headArithmetic s w a b hready
      obtain ⟨k1, k2, k3, k4, k5, k6, k7, k8, k9⟩ := headImmediate s w a imm n hone
      simp only [List.mem_cons, List.not_mem_nil, or_false] at hi
      rcases hi with rfl | rfl | rfl | rfl | rfl | rfl | rfl | rfl | rfl | rfl | rfl | rfl | rfl | rfl | rfl | rfl | rfl | rfl | rfl |
        rfl | rfl | rfl
      exacts [.writes h1, .writes h2, .writes h3, .writes h4, .writes h5, .writes h6, .writes h7, .writes h8, .writes h9, .writes h10,
        .writes h11, .writes h12, .writes h13, .writes k1, .writes k2, .writes k3, .writes k4, .writes k5, .writes k6, .writes k7,
        .writes k8, .writes k9]
    · obtain ⟨h1, h2, h3, h4, h5, h6⟩ := branches s a b off hready
      simp only [List.mem_cons, List.not_mem_nil, or_false] at hi
      rcases hi with rfl | rfl | rfl | rfl | rfl | rfl | rfl
      exacts [.branch h1, .branch h2, .branch h3, .branch h4, .branch h5, .branch h6, ⟨0, some _, hjmp⟩]
    · exact ⟨_, some _, hcall⟩
    · exact ⟨_, some _, hjr halign hlow⟩
  obtain ⟨v, target, hnext⟩ := hends
  obtain rfl : t = setMe s (wentOn (me s) w v target) := Host.Outcome.next.inj (hexec.symm.trans hnext)
  rw [me_setMe]
  obtain ⟨hmail, htail⟩ := wentOn_queues (me s) w v target
  exact ⟨fun r hr => wentOn_rdH (me s) v target hr, fun c hc => (csrValue_setMe s _ _ c).trans (wentOn_csr s (me s) w v target hc),
    hmail, htail, fun r sl hsl hslot hne => getHead_setMe_ne s _ hsl hslot hne, rfl, rfl, rfl, fun _ => rfl⟩

end Sys2Proof.Machine
end

section
/-! PROOFS. Strand control, waits, software traps and handler-level instructions, CSRs and mailboxes (O15, O16, O19, O21, O22, O24). -/

namespace Sys2Proof.Machine

/-! Waits (R131, R286, R381). -/

/-- The strand's head while it waits for a reason: the wait began now, unless it waited for that reason before. -/
def waitingFor (s : State) (why : Nat) : Head :=
  { me s with why := why, since := if (me s).why = why then (me s).since else s.now }

theorem headWait_eq (s : State) (why : Nat) : headWait s s.curRow s.curSlot why = setMe s (waitingFor s why) := by
  have hhead : (if (me s).why = why then me s else { me s with why := why, since := s.now }) = waitingFor s why := by
    unfold waitingFor
    split
    next h => rw [← h]
    next => rfl
  rw [headWait, modHead, setMe, ← hhead, me]

theorem afterDrain_waits {s : State} {k : State} (h : (me s).flights ≠ []) :
    afterDrain s s.curRow s.curSlot (me s) k = setMe s (waitingFor s 13) := by
  rw [afterDrain, if_neg (by simpa using h), headWait_eq]

theorem afterDrain_drained {s : State} {k : State} (h : (me s).flights = []) : afterDrain s s.curRow s.curSlot (me s) k = k := by
  rw [afterDrain, if_pos (by simpa using h)]

theorem afterDrainDue_goes {s : State} {k : State} (h : (me s).flights = []) (hdue : pendingTrap s s.curRow s.curSlot = none) :
    afterDrainDue s s.curRow s.curSlot (me s) k = k := by
  rw [afterDrainDue, afterDrain_drained h, hdue]
  rfl

/-! DRAIN, YIELD, PAUSE and TWAIT (R30, R131, R132, R135). -/

theorem exec_drain {s : State} (hready : HeadReady s []) : exec .drain s =
    .next (afterDrain s s.curRow s.curSlot (me s) (setMe s (goOn { me s with fsum := flagsOf s }))) := by
  rw [exec_ready (i := .drain) (as := []) hready rfl rfl, headDone_eq]
  rfl

/-- The strand's head once a timed hold has begun. -/
def heldFor (s : State) (w : HeadWait) (why : Nat) : Head := { goOn (me s) with wait := w, why := why, since := s.now }

theorem exec_pause {s : State} {a : BitVec 4} (hready : HeadReady s [a]) : exec (.pause a) s =
    let n := min (rdH (me s) a).toNat 16777215
    .next (setMe s (heldFor s (if n = 0 then .no else .pause ((getRow s s.curRow).cycle + n)) (if n = 0 then 0 else 18))) := by
  rw [exec_ready (i := .pause a) (as := [a]) hready rfl rfl, headNext_goOn]
  rfl

theorem exec_yield {s : State} (hready : HeadReady s []) : exec .yield s =
    let l := ableOthers s s.curRow s.curSlot
    .next (setMe s (heldFor s (if l.isEmpty then .no else .yield l ((getRow s s.curRow).cycle + 8)) (if l.isEmpty then 0 else 18))) := by
  rw [exec_ready (i := .yield) (as := []) hready rfl rfl, headNext_goOn]
  rfl

theorem mem_ableOthers {s : State} {r sl t : Nat} : t ∈ ableOthers s r sl ↔ t < 8 ∧ t ≠ sl ∧ able s r t = true := by
  simp [ableOthers, upTo]

theorem exec_twait_waits {s : State} {d : BitVec 4} (hready : HeadReady s []) (hempty : (me s).tailQ = []) :
    exec (.twait d) s = .next (setMe s (waitingFor s 9)) := by
  rw [exec_ready (i := .twait d) (as := []) hready rfl rfl, hempty, headWait_eq]

theorem exec_twait_takes {s : State} {d : BitVec 4} {x : Word} {q : List Word} (hready : HeadReady s []) (htail : (me s).tailQ = x :: q) :
    exec (.twait d) s = .next (setMe s (goOn (wrH { me s with tailQ := q } d x))) := by
  rw [exec_ready (i := .twait d) (as := []) hready rfl rfl, htail]
  exact congrArg Host.Outcome.next (headDone_eq s _)

/-- Settles O15: each instruction by its own law. -/
theorem strandControl : Obligations.StrandControl := by
  unfold Obligations.StrandControl
  refine ⟨?_, fun s hready => ?_⟩
  · intro s a d hready h n
    refine ⟨fun hflights => ?drain, exec_region hready.nil, fun hzero => ?pauseZero, fun hpos => ?pause,
      fun x q htail => exec_twait_takes hready.nil htail⟩
    case drain => rw [exec_drain hready.nil, afterDrain_drained hflights]
    case pauseZero =>
      rw [exec_pause hready]
      simp only [if_pos (show min (rdH (me s) a).toNat 16777215 = 0 from hzero)]
      rfl
    case pause =>
      rw [exec_pause hready]
      simp only [if_neg (show ¬ min (rdH (me s) a).toNat 16777215 = 0 from hpos)]
      rfl
  · intro other
    have hmem (t : Nat) : t ∈ ableOthers s s.curRow s.curSlot ↔ other t := mem_ableOthers
    refine ⟨fun hnone => ?alone, fun hsome => ⟨_, hmem, ?holds⟩⟩
    case alone =>
      have hempty : ableOthers s s.curRow s.curSlot = [] := List.eq_nil_iff_forall_not_mem.2 fun t ht => hnone t ((hmem t).1 ht)
      rw [exec_yield hready, hempty]
      rfl
    case holds =>
      obtain ⟨t, ht⟩ := hsome
      have hne : (ableOthers s s.curRow s.curSlot).isEmpty = false := List.isEmpty_eq_false_iff.2 (List.ne_nil_of_mem ((hmem t).2 ht))
      rw [exec_yield hready]
      simp only [hne]
      rfl

/-! Messages of tasks (R143, R144). -/

theorem exec_msend {s : State} {a b : BitVec 4} (hready : HeadReady s [a, b]) : exec (.msend a b) s =
    .next (afterDrainDue s s.curRow s.curSlot (me s) (if releaseDue s s.curRow s.curSlot then setMe s (waitingFor s 14)
      else setMe (sends s (.token ((getRow s s.curRow).part.getD 0) s.curRow s.curSlot ((me s).task.getD 0) (rdH (me s) a) (rdH (me s) b)))
        { me s with wait := .send s.fresh, why := 21, since := s.now })) := by
  rw [exec_ready (i := .msend a b) (as := [a, b]) hready rfl rfl, headWait_eq]
  rfl

/-- A committing head instruction goes on and opens a region (R119). -/
theorem headCommit_eq (s : State) (h : Head) : headCommit s s.curRow s.curSlot h = setMe s (opened (goOn h)) := by
  rw [headCommit, setMe, ← headNext_goOn]
  rfl

theorem exec_mrecv_drains {s : State} {d : BitVec 4} (hready : HeadReady s []) (hflights : (me s).flights ≠ []) :
    exec (.mrecv d) s = .next (setMe s (waitingFor s 13)) := by
  rw [exec_ready (i := .mrecv d) (as := []) hready rfl rfl, afterDrainDue, afterDrain_waits hflights]

theorem exec_mrecv_waits {s : State} {d : BitVec 4} (hready : HeadReady s []) (hmail : (me s).mailbox = []) :
    exec (.mrecv d) s = .next (afterDrainDue s s.curRow s.curSlot (me s) (setMe s (waitingFor s 10))) := by
  rw [exec_ready (i := .mrecv d) (as := []) hready rfl rfl, hmail, headWait_eq]

theorem exec_mrecv_takes {s : State} {d : BitVec 4} {x : Word} {q : List Word} (hready : HeadReady s []) (hmail : (me s).mailbox = x :: q) :
    exec (.mrecv d) s = .next (afterDrainDue s s.curRow s.curSlot (me s) (setMe s (opened (goOn (wrH { me s with mailbox := q } d x))))) := by
  rw [exec_ready (i := .mrecv d) (as := []) hready rfl rfl, hmail, ← headCommit_eq]

/-- Settles O24: the token leaves, is taken, or is counted. -/
theorem mailboxes : Obligations.Mailboxes := by
  unfold Obligations.Mailboxes
  intro s d a b hready h p
  refine ⟨fun hflights hdue hrel => ?msend, fun x q hflights hdue hmail => ?mrecv, ?mprobe⟩
  case msend =>
    rw [exec_msend hready, afterDrainDue_goes hflights hdue, hrel]
    rfl
  case mrecv =>
    rw [exec_mrecv_takes hready.nil hmail, afterDrainDue_goes hflights hdue]
  case mprobe => exact exec_writes (i := .mprobe d) (f := fun _ _ h => BitVec.ofNat 64 h.mailbox.length) hready.nil rfl rfl rfl

/-! Arrivals at groups (R141). -/

/-- The message of an arrival at a group (R141). -/
def arrivalMsg (s : State) (g : Word) (kind : Nat) (v : Word) : Msg :=
  .arrive ((getRow s s.curRow).part.getD 0) g.toNat ((me s).task.getD 0) s.curRow s.curSlot kind v

theorem groupArrive_member {s : State} {g : Word} {kind d : Nat} {v : Word}
    (hmember : isMember s ((getRow s s.curRow).part.getD 0) g.toNat ((me s).task.getD 0) = true) :
    groupArrive s s.curRow s.curSlot (me s) g kind d v = afterDrainDue s s.curRow s.curSlot (me s)
      (if releaseDue s s.curRow s.curSlot then setMe s (waitingFor s 11)
       else setMe (sends s (arrivalMsg s g kind v)) { me s with wait := .group g.toNat d, why := 11, since := s.now }) := by
  unfold groupArrive
  dsimp only [partOf]
  rw [hmember, headWait_eq]
  rfl

theorem groupArrive_stranger {s : State} {g : Word} {kind d : Nat} {v : Word}
    (hmember : isMember s ((getRow s s.curRow).part.getD 0) g.toNat ((me s).task.getD 0) = false) :
    groupArrive s s.curRow s.curSlot (me s) g kind d v = headTrap s s.curRow s.curSlot .groupMember g := by
  unfold groupArrive
  dsimp only [partOf]
  rw [hmember]
  rfl

theorem exec_gbar {s : State} {a : BitVec 4} (hready : HeadReady s [a]) :
    exec (.gbar a) s = .next (groupArrive s s.curRow s.curSlot (me s) (rdH (me s) a) 0 0 0) :=
  exec_ready (i := .gbar a) (as := [a]) hready rfl rfl

theorem exec_gvote {s : State} {op : VoteOp} {d a b : BitVec 4} (hready : HeadReady s [a, b]) :
    exec (.gvote op d a b) s = .next (groupArrive s s.curRow s.curSlot (me s) (rdH (me s) b) (voteKind op) d.toNat (rdH (me s) a)) :=
  exec_ready (i := .gvote op d a b) (as := [a, b]) hready rfl rfl

/-! The waits (R30, R131, R141, R143, R144). -/

theorem exec_exit {s : State} {a : BitVec 4} (hready : HeadReady s [a]) : exec (.exit a) s =
    .next (afterDrain s s.curRow s.curSlot (me s)
      (if exitWaits s s.curRow s.curSlot then headWait (setMe s { me s with wait := .exit }) s.curRow s.curSlot 13
      else
        match pendingTrap s s.curRow s.curSlot with
        | some s => s
        | none => endTask s s.curRow s.curSlot (statusWord (bits (rdH (me s) a) 0 16) 0))) :=
  exec_ready (i := .exit a) (as := [a]) hready rfl rfl

/-- Settles O16: each instruction meets the wait before it does anything. -/
theorem headWaits : Obligations.HeadWaits := by
  unfold Obligations.HeadWaits
  intro s a d hready h waits
  refine ⟨fun hflights => ⟨?drain, ?exit, ?mrecv⟩, fun htail => exec_twait_waits hready.nil htail, fun hflights hmail hdue => ?noToken,
    fun hflights hdue hrel => ⟨?msend, fun hmember => ⟨?gbar, fun op => ?gvote⟩⟩⟩
  case drain => rw [exec_drain hready.nil, afterDrain_waits hflights]; rfl
  case exit => rw [exec_exit hready, afterDrain_waits hflights]; rfl
  case mrecv => exact exec_mrecv_drains hready.nil hflights
  case noToken =>
    rw [exec_mrecv_waits hready.nil hmail, afterDrainDue_goes hflights hdue]
    rfl
  case msend =>
    rw [exec_msend (hready.mono (by simp)), afterDrainDue_goes hflights hdue, hrel]
    rfl
  case gbar =>
    rw [exec_gbar hready, groupArrive_member hmember, afterDrainDue_goes hflights hdue, hrel]
    rfl
  case gvote =>
    rw [exec_gvote (hready.mono (by simp)), groupArrive_member hmember, afterDrainDue_goes hflights hdue, hrel]
    rfl

/-! Software traps (R138, R145, R238). -/

/-- BKPT.lane and TRAP of a strand that is ready are legal (R238). -/
theorem issueTrap_ready {s : State} {i : Instr} (n : BitVec 10) (c : Cause) (quiet : Bool) (hready : HeadReady s [])
    (hlegal : laneLegal (pwordOf s s.curRow) (me s).handler i Px.none = true) :
    issueTrap i n c quiet s = if (me s).handler && quiet then setMe s (goOn (me s)) else headTrap s s.curRow s.curSlot c (n.setWidth 64) := by
  obtain ⟨hcommit, hwait, hpend, -⟩ := hready
  have hpx : pxOf (me s) = Px.none := by rw [pxOf, hpend]; rfl
  rw [← hpx] at hlegal
  rw [← headDone_eq]
  unfold me at hcommit hwait hlegal ⊢
  simp only [issueTrap, here, hcommit, hwait, hlegal]
  rfl

/-- Settles O19: each of the four traps at once, and BKPT.lane goes on at handler level. -/
theorem softwareTraps : Obligations.SoftwareTraps := by
  unfold Obligations.SoftwareTraps
  rintro s n m ⟨hready, hflights⟩
  have hany (h : Bool) : (h || true) = true := Bool.or_true h
  have hbkpt : exec (.bkptLane n) s = .next (if (me s).handler && true then setMe s (goOn (me s))
      else headTrap s s.curRow s.curSlot .bkpt (n.setWidth 64)) := congrArg Host.Outcome.next (issueTrap_ready n .bkpt true hready (hany _))
  have htrap : exec (.trap n) s = .next (if (me s).handler && false then setMe s (goOn (me s))
      else headTrap s s.curRow s.curSlot .trap (n.setWidth 64)) := congrArg Host.Outcome.next (issueTrap_ready n .trap false hready (hany _))
  refine ⟨fun hcan => ?_, fun hlevel => by rw [hbkpt, hlevel]; rfl⟩
  have htraps (c : Cause) (v : Word) := headTraps_headTrap c v hflights hcan
  obtain ⟨hlevel, -, -⟩ := hcan
  refine ⟨?svc, ?bkpt, ?trap, ?bkptLane⟩
  case svc =>
    rw [exec_ready (i := .svc n) (as := []) hready rfl rfl]
    exact htraps _ _
  case bkpt =>
    rw [exec_ready (i := .bkpt m) (as := []) hready rfl rfl]
    exact htraps _ _
  case trap =>
    rw [htrap, Bool.and_false]
    exact htraps _ _
  case bkptLane =>
    rw [hbkpt, hlevel]
    exact htraps _ _

/-! Handler-level instructions at task level (R120, R240). -/

/-- An illegal word of a drained strand without a PX traps with the word. -/
theorem headTraps_illegal {s : State} (w : Nat) (hdrained : HeadDrained s []) (hcan : CanTrap s) :
    HeadTraps s (.next (illegalWord s s.curRow s.curSlot w)) .illegal (BitVec.ofNat 64 w) := by
  obtain ⟨⟨-, -, hpend, -⟩, hflights⟩ := hdrained
  have htraps := headTraps_illegalWord w hflights hcan
  rw [hpend] at htraps
  exact htraps

theorem HeadDrained.nil {s : State} {as : List (BitVec 4)} (h : HeadDrained s as) : HeadDrained s [] := ⟨h.1.nil, h.2⟩

/-- A head instruction whose effect is ILLEGAL traps so. -/
theorem headTraps_refused {s : State} {as : List (BitVec 4)} {i : Instr} {k : Nat → Nat → Head → State} (hdrained : HeadDrained s as)
    (hcan : CanTrap s) (hexec : exec i s = .next (headInstr i (as.map (·.toNat)) k s)) (hwf : i.wellFormed = true)
    (hk : k s.curRow s.curSlot (me s) = illegalWord s s.curRow s.curSlot (encodeWord i)) :
    HeadTraps s (exec i s) .illegal (BitVec.ofNat 64 (encodeWord i)) := by
  rw [exec_ready hdrained.1 hexec hwf, hk]
  exact headTraps_illegal _ hdrained.nil hcan

/-- A lane instruction that the head may not issue is illegal (R80). -/
theorem issueLane_refused {s : State} {i : Instr} (hready : HeadReady s [])
    (hlegal : laneLegal (pwordOf s s.curRow) (me s).handler i (pxOf (me s)) = false) :
    issueLane i s = illegalWord s s.curRow s.curSlot (encodeWord i) := by
  obtain ⟨hcommit, hwait, -, -⟩ := hready
  unfold me at hcommit hwait hlegal
  simp only [issueLane, here, hcommit, hwait, hlegal]
  rfl

theorem headTraps_handlerOnly {s : State} {i : Instr} (hdrained : HeadDrained s []) (hcan : CanTrap s)
    (hexec : exec i s = .next (issueLane i s)) (honly : handlerOnly i = true) :
    HeadTraps s (exec i s) .illegal (BitVec.ofNat 64 (encodeWord i)) := by
  have hlegal : laneLegal (pwordOf s s.curRow) (me s).handler i (pxOf (me s)) = false := by
    obtain ⟨hlevel, -, -⟩ := hcan
    simp [laneLegal, hlevel, honly]
  rw [hexec, issueLane_refused hdrained.1 hlegal]
  exact headTraps_illegal _ hdrained hcan

theorem csrWritable_task {c : Csr} (h : c ∉ [Csr.sst, Csr.tvec, Csr.bka0, Csr.bka1, Csr.bka2, Csr.bka3]) : csrWritable false c = false := by
  cases c <;> simp_all [csrWritable]

/-- Settles O21: each instruction asks for the level before anything else. -/
theorem handlerOnlyTraps : Obligations.HandlerOnly := by
  unfold Obligations.HandlerOnly
  intro s a c x y hdrained hcan
  have hlevel := hcan
  obtain ⟨hlevel, -, -⟩ := hlevel
  refine ⟨?tret, ?tretAt, ?gkill, fun hc => ?csrw, ?dbgr, ?dbgw⟩
  case tret => exact headTraps_refused (i := .tret) (as := []) hdrained.nil hcan rfl rfl (by rw [hlevel]; rfl)
  case tretAt => exact headTraps_refused (i := .tretAt a) (as := [a]) hdrained hcan rfl rfl (by rw [hlevel]; rfl)
  case gkill => exact headTraps_refused (i := .gkill a) (as := [a]) hdrained hcan rfl rfl (by rw [hlevel]; rfl)
  case csrw => exact headTraps_refused (i := .csrw c a) (as := [a]) hdrained hcan rfl rfl (by rw [hlevel, csrWritable_task hc]; rfl)
  case dbgr => exact headTraps_handlerOnly hdrained.nil hcan rfl rfl
  case dbgw => exact headTraps_handlerOnly hdrained.nil hcan rfl rfl

/-! Control and status registers (R145 to R149). -/

theorem csrWritable_iff {handler : Bool} {c : Csr} : csrWritable handler c = true ↔
    c ≠ .cycle ∧ (handler = true ∨ c ∈ [Csr.sst, Csr.tvec, Csr.bka0, Csr.bka1, Csr.bka2, Csr.bka3]) := by
  cases c <;> simp [csrWritable]

theorem exec_csrw {s : State} {c : Csr} {a : BitVec 4} (hready : HeadReady s [a]) (hmay : csrWritable (me s).handler c = true) :
    exec (.csrw c a) s = .next (setMe s (goOn (healHead (csrPut (me s) c (rdH (me s) a)) (0x800 + csrNumber c)))) := by
  rw [exec_ready (i := .csrw c a) (as := [a]) hready rfl rfl, if_pos hmay, headDone_eq]

theorem csrPut_frame (h : Head) (c : Csr) (w : Word) : (csrPut h c w).h = h.h ∧ (csrPut h c w).pc = h.pc ∧
    (csrPut h c w).tailQ = h.tailQ ∧ (csrPut h c w).mailbox = h.mailbox ∧ (csrPut h c w).flights = h.flights := by
  cases c with
  | sst =>
    simp only [csrPut]
    split <;> split <;> exact ⟨rfl, rfl, rfl, rfl, rfl⟩
  | _ => exact ⟨rfl, rfl, rfl, rfl, rfl⟩

/-- A write of one CSR leaves the others as they are (R145). -/
theorem csrValue_csrPut_ne (s : State) (r : Nat) (h : Head) {c c' : Csr} (w : Word) (hne : c' ≠ c) :
    csrValue s r (csrPut h c w) c' = csrValue s r h c' := by
  cases c with
  | sst =>
    simp only [csrPut]
    cases c' with
    | sst => exact absurd rfl hne
    | _ => split <;> split <;> rfl
  | _ => cases c' <;> simp_all [csrPut, csrValue, bkaOf] <;> rfl

/-- SST as a number (R147). -/
def sstNat (h : Head) : Nat :=
  (if h.handler then 1 else 0) + (if h.stepMode then 2 else 0) + (if h.pp then 4 else 0) + 16 * h.drm.toNat + 128 * h.fsum.toNat +
    2 ^ 32 * h.pxs.toNat

theorem sstWord_toNat (h : Head) : (sstWord h).toNat = sstNat h := by
  have hdrm := h.drm.isLt
  have hfsum := h.fsum.isLt
  have hpxs := h.pxs.isLt
  rw [sstWord, BitVec.toNat_ofNat, sstNat, Nat.mod_eq_of_lt]
  split <;> split <;> split <;> omega

/-- The fields of SST (R147). -/
theorem bits_sstWord (h : Head) : bits (sstWord h) 0 1 = (if h.handler then 1 else 0) ∧ bits (sstWord h) 1 1 = (if h.stepMode then 1 else 0) ∧
    bits (sstWord h) 2 1 = (if h.pp then 1 else 0) ∧ bits (sstWord h) 4 3 = h.drm.toNat ∧ bits (sstWord h) 7 5 = h.fsum.toNat ∧
    bits (sstWord h) 32 32 = h.pxs.toNat := by
  have hdrm := h.drm.isLt
  have hfsum := h.fsum.isLt
  have hpxs := h.pxs.isLt
  simp only [bits, sstWord_toNat, sstNat]
  cases h.handler <;> cases h.stepMode <;> cases h.pp <;> simp <;> omega

theorem ite_getLsbD (w : Word) (i : Nat) : (if w.getLsbD i then 1 else 0) = bits w i 1 := by
  rw [bits, ← BitVec.testBit_toNat, Nat.testBit_eq_decide_div_mod_eq]
  have : w.toNat / 2 ^ i % 2 < 2 := Nat.mod_lt _ (by decide)
  simp only [decide_eq_true_eq, Nat.pow_one]
  split <;> omega

/-- What a write of SST takes (R147). -/
theorem csrPut_sst_fields (h : Head) (w : Word) :
    let k := csrPut h .sst w
    k.handler = h.handler ∧ k.fsum = h.fsum ∧
    k.drm = (if 1 ≤ bits w 4 3 && bits w 4 3 ≤ 5 then BitVec.ofNat 3 (bits w 4 3) else h.drm) ∧
    k.stepMode = (if h.handler then w.getLsbD 1 else h.stepMode) ∧ k.pp = (if h.handler then w.getLsbD 2 else h.pp) ∧
    k.pxs = if h.handler then BitVec.ofNat 32 (bits w 32 32) else h.pxs := by
  intro k
  have hk : k = csrPut h .sst w := rfl
  by_cases hdrm : (decide (1 ≤ bits w 4 3) && decide (bits w 4 3 ≤ 5)) = true <;> by_cases hlevel : h.handler = true <;>
    simp only [hk, csrPut, hdrm, hlevel, if_true, if_false, Bool.false_eq_true, and_self]

/-- A bit of SST that a write takes where the level may write it (R147). -/
theorem sst_bit {c b : Bool} {old w : Word} {i : Nat} (hb : bits old i 1 = if b then 1 else 0) :
    (if (if c then w.getLsbD i else b) then 2 ^ i else 0) = bits (if c then w else old) i 1 * 2 ^ i := by
  have hscaled (x : Bool) : (if x then 2 ^ i else 0) = (if x then 1 else 0) * 2 ^ i := by cases x <;> simp
  rw [hscaled]
  cases c
  · simp only [Bool.false_eq_true, if_false, hb]
  · simp only [if_true, ite_getLsbD]

/-- A field of SST that a write takes where the level or the value lets it (R147). -/
theorem sst_field {c : Bool} {n : Nat} {b : BitVec n} {old w : Word} {lo : Nat} (hb : bits old lo n = b.toNat) :
    2 ^ lo * (if c then BitVec.ofNat n (bits w lo n) else b).toNat = bits (if c then w else old) lo n * 2 ^ lo := by
  rw [Nat.mul_comm]
  cases c
  · simp only [Bool.false_eq_true, if_false, hb]
  · simp only [if_true, BitVec.toNat_ofNat, bits, Nat.mod_mod]

theorem sstWord_csrPut (h : Head) (w : Word) : sstWord (csrPut h .sst w) = csrAfter h.handler .sst (sstWord h) w := by
  obtain ⟨hlevel, hstep, hpp, hdrm, hfsum, hpxs⟩ := bits_sstWord h
  obtain ⟨klevel, kfsum, kdrm, kstep, kpp, kpxs⟩ := csrPut_sst_fields h w
  have hguard := sst_field (c := decide (1 ≤ bits w 4 3) && decide (bits w 4 3 ≤ 5)) (w := w) hdrm
  have hlow := congrArg₂ (· + ·) (congrArg₂ (· + ·) (sst_bit (c := false) (w := w) hlevel) (sst_bit (c := h.handler) (w := w) hstep))
    (sst_bit (c := h.handler) (w := w) hpp)
  have hall := congrArg₂ (· + ·) (congrArg₂ (· + ·) (congrArg₂ (· + ·) hlow hguard) (sst_field (c := false) (w := w) hfsum))
    (sst_field (c := h.handler) (w := w) hpxs)
  rw [sstWord, klevel, kfsum, kdrm, kstep, kpp, kpxs]
  exact congrArg (BitVec.ofNat 64) hall

theorem bkaOf_set (h : Head) (b : Vector Word 4) {n : Nat} (hn : n < 4) (x : Word) (hb : b = h.bka.set n x) : bkaOf { h with bka := b } n = x := by
  simp [bkaOf, hb, List.getD, hn]

/-- What a CSR reads as after a write (R146 to R149). -/
theorem csrValue_csrPut (s : State) (r : Nat) (h : Head) (c : Csr) (w : Word) :
    csrValue s r (csrPut h c w) c = csrAfter h.handler c (csrValue s r h c) w := by
  cases c with
  | sst => exact sstWord_csrPut h w
  | bka0 | bka1 | bka2 | bka3 => exact bkaOf_set h _ (by decide) _ rfl
  | _ => rfl

theorem csrValue_healHead (s : State) (r : Nat) (h : Head) (n : Nat) (c : Csr) : csrValue s r (healHead h n) c = csrValue s r h c := by
  cases c <;> rfl

/-- Settles O22: CSRR by its test of poison, CSRW by its test of the level and the layout of the register. -/
theorem csrs : Obligations.Csrs := by
  unfold Obligations.Csrs
  refine ⟨fun s d c hready hsound => ?read, fun s c a hready hmay => ?write⟩
  case read =>
    rw [exec_ready (i := .csrr d c) (as := []) hready rfl rfl, if_neg (by simp [hsound]), headDone_eq]
    rfl
  case write =>
    obtain ⟨hh, hpc, htail, hmail, hflights⟩ := csrPut_frame (me s) c (rdH (me s) a)
    exact ⟨_, exec_csrw hready (csrWritable_iff.2 hmay), (csrValue_healHead _ _ _ _ _).trans (csrValue_csrPut s s.curRow (me s) c _),
      fun c' hne => (csrValue_healHead _ _ _ _ _).trans (csrValue_csrPut_ne s s.curRow (me s) _ hne), hh, hpc, htail, hmail, hflights⟩

end Sys2Proof.Machine
end

section
/-! PROOFS. The head's loads, stores and services (O13, O14, O25). -/

namespace Sys2Proof.Machine

/-! Requests of a head (R128, R324). -/

/-- The request as it is on its way: what its issue has filled in (R323, R333). -/
def Departed (q q' : Req) : Prop :=
  ∃ bound stamp xnum out since, q' = { q with bound := bound, stamp := stamp, xnum := xnum, out := out, since := since, st := .sent }

/-- The request once it is launched: held, where it is a release, else on its way (R324). -/
def Launched (q q' : Req) : Prop := if q.rel then ∃ bound, q' = { q with bound := bound, st := .held } else Departed q q'

/-- The state after a request of a head has left, but for the numbers given out. -/
def LeftWith (s t : State) (q : Req) : Prop :=
  t = { s with reqs := t.reqs, sentX := t.sentX, pkts := t.pkts } ∧ (putReq s q).reqs = t.reqs

theorem numberX_eq (s : State) (q : Req) : ∃ sx n, numberX s q = ({ s with sentX := sx }, { q with xnum := n }) := by
  unfold numberX
  split
  · exact ⟨_, _, rfl⟩
  · exact ⟨s.sentX, q.xnum, rfl⟩

theorem numberPkt_eq (s : State) (q : Req) : ∃ pk o, numberPkt s q = ({ s with pkts := pk }, { q with out := o }) := ⟨_, _, rfl⟩

/-- A head's request touches no strand at a core. -/
theorem touch_head (s : State) {q : Req} (hcol : q.col = 16) : (if isWriteKind q.kind then touch s q else s) = s := by
  have htouch : touch s q = s := if_neg (by omega)
  rw [htouch, ite_self]

theorem sendReq_head (s : State) {q : Req} (hcol : q.col = 16) : ∃ q', Departed q q' ∧ LeftWith s (sendReq s q) q' := by
  obtain ⟨sx, n, hnumber⟩ := numberX_eq s { q with stamp := issuerStamp s q }
  obtain ⟨pk, o, hpkt⟩ := numberPkt_eq { s with sentX := sx } { q with stamp := issuerStamp s q, xnum := n }
  simp only [sendReq, stampReq, hnumber, hpkt]
  split
  all_goals
    rw [touch_head _ (by exact hcol)]
    exact ⟨_, ⟨_, _, _, _, _, rfl⟩, rfl, rfl⟩

/-- The replacement of a request is among the requests. -/
theorem mem_putReq {s : State} {p q : Req} (hp : p ∈ s.reqs) (hid : p.id = q.id) : q ∈ (putReq s q).reqs :=
  List.mem_map.2 ⟨p, hp, if_pos hid⟩

theorem launched_held {q q' : Req} (hrel : q.rel = true) : Launched q q' ↔ ∃ bound, q' = { q with bound := bound, st := .held } := by
  unfold Launched
  rw [if_pos hrel]

theorem launched_departed {q q' : Req} (hrel : ¬ q.rel = true) : Launched q q' ↔ Departed q q' := by
  unfold Launched
  rw [if_neg hrel]

/-- A request that a head has added and launches: held, if it is a release, else on its way. -/
theorem launchReq_head {s : State} {q : Req} (hcol : q.col = 16) (hq : q ∈ s.reqs) :
    ∃ q', Launched q q' ∧ q' ∈ (launchReq s q).reqs ∧
      launchReq s q = { s with reqs := (launchReq s q).reqs, sentX := (launchReq s q).sentX, pkts := (launchReq s q).pkts } := by
  obtain ⟨p, hp⟩ : ∃ p : Req, p = { q with bound := max q.bound (segsBound q.segs) } := ⟨_, rfl⟩
  have hid : q.id = p.id := by rw [hp]
  have hlaunch : launchReq s q = if q.rel then putReq s { p with st := .held } else sendReq (putReq s p) p := by rw [hp]; rfl
  by_cases hrel : q.rel = true
  · rw [hlaunch, if_pos hrel]
    exact ⟨{ p with st := .held }, (launched_held hrel).2 ⟨_, by rw [hp]⟩, mem_putReq hq hid, rfl⟩
  · obtain ⟨q', hdeparted, hstate, hreqs⟩ := sendReq_head (putReq s p) (q := p) (by rw [hp]; exact hcol)
    obtain ⟨_, _, _, _, _, hq'⟩ := hdeparted
    rw [hlaunch, if_neg hrel]
    refine ⟨q', (launched_departed hrel).2 ⟨_, _, _, _, _, by rw [hq', hp]⟩, ?_, ?_⟩
    · rw [← hreqs]
      exact mem_putReq (mem_putReq hq hid) (by rw [hq'])
    · rw [hstate]
      rfl

/-! The access of a head (R128, R270). -/

theorem headAddr_eq (h : Head) (a : BitVec 4) (off : BitVec 12) : headAddr h a off = rdH h a + BitVec.ofInt 64 (8 * off.toInt) := by
  rw [headAddr, laneAddr, sext_toNat, word, Int.mul_comm]
  rfl

theorem headAccess_misaligned {s : State} {k : Acc} {addr : Word} {go : State → Nat → Attr → Nat → State} (h : ¬ 8 ∣ addr.toNat) :
    headAccess s s.curRow s.curSlot k addr go = headTrap s s.curRow s.curSlot .memAlign addr :=
  if_pos fun h0 => h (Nat.dvd_of_mod_eq_zero h0)

theorem headAccess_aligned {s : State} {k : Acc} {addr : Word} {go : State → Nat → Attr → Nat → State} (h : 8 ∣ addr.toNat)
    (hfree : NoWalk s (.head s.curRow s.curSlot) addr 8) :
    headAccess s s.curRow s.curSlot k addr go = match headXlate s s.curRow k addr with
      | .error c => headTrap s s.curRow s.curSlot c addr
      | .ok (pa, attr, e) => go (itlbFill s s.curRow e) pa attr s.now := by
  rw [headAccess, if_neg (not_not_intro (Nat.mod_eq_zero_of_dvd h)), headGate_goes _ hfree]
  rfl

theorem headAccess_faults {s : State} {k : Acc} {addr : Word} {go : State → Nat → Attr → Nat → State} {c : Cause} (h : 8 ∣ addr.toNat)
    (hfree : NoWalk s (.head s.curRow s.curSlot) addr 8) (hx : headXlate s s.curRow k addr = .error c) :
    headAccess s s.curRow s.curSlot k addr go = headTrap s s.curRow s.curSlot c addr := by
  rw [headAccess_aligned h hfree, hx]

theorem headAccess_goes {s : State} {k : Acc} {addr : Word} {go : State → Nat → Attr → Nat → State} {pa : Nat} {attr : Attr} {e : TlbEntry}
    (h : 8 ∣ addr.toNat) (hfree : NoWalk s (.head s.curRow s.curSlot) addr 8) (hx : headXlate s s.curRow k addr = .ok (pa, attr, e)) :
    headAccess s s.curRow s.curSlot k addr go = go (itlbFill s s.curRow e) pa attr s.now := by
  rw [headAccess_aligned h hfree, hx]

/-! LD.d and ST.d (R128). -/

/-- The load that LD.d sends for a strand. -/
def ldReq (s : State) (r sl : Nat) (addr : Word) (d : BitVec 4) (acq : Bool) (pa : Nat) (attr : Attr) (since : Nat) : Req :=
  { blankReq s .headLoad r 16 sl with
    since := since, va := addr, segs := [(pa, 8)], attr := attr, size := 8, acq := acq, dest := .h d.toNat, bound := boundOf pa }

/-- The store that ST.d posts for a strand. -/
def stReq (s : State) (r sl : Nat) (addr v : Word) (rel : Bool) (pa : Nat) (attr : Attr) (since : Nat) : Req :=
  { blankReq s .headStore r 16 sl with
    since := since, va := addr, segs := [(pa, 8)], attr := attr, size := 8, rel := rel, data := v.setWidth 1024, bound := boundOf pa }

/-- The increment that PUBLISH sends for a strand (R137). -/
def publishReq (s : State) (r sl : Nat) (addr : Word) (pa : Nat) (attr : Attr) (since : Nat) : Req :=
  { blankReq s .publish r 16 sl with
    since := since, va := addr, segs := [(pa, 8)], attr := attr, size := 8, rel := true, scope := .sys, bound := boundOf pa }

theorem exec_ldD {s : State} {d a : BitVec 4} {off : BitVec 12} {acq : Bool} (hready : HeadReady s [a]) :
    exec (.ldD d a off acq) s = .next (headAccess s s.curRow s.curSlot .read (headAddr (me s) a off) fun u pa attr since =>
      let q := ldReq u s.curRow s.curSlot (headAddr (me s) a off) d acq pa attr since
      sendReq (modHead (pushReq u q) s.curRow s.curSlot fun h => { h with wait := .load u.fresh, why := 0, since := u.now }) q) :=
  exec_ready (i := .ldD d a off acq) (as := [a]) hready rfl rfl

theorem exec_stD {s : State} {d a : BitVec 4} {off : BitVec 12} {rel : Bool} (hready : HeadReady s [a, d]) :
    exec (.stD d a off rel) s = .next (headAccess s s.curRow s.curSlot .write (headAddr (me s) a off) fun u pa attr since =>
      let q := stReq u s.curRow s.curSlot (headAddr (me s) a off) (rdH (me s) d) rel pa attr since
      launchReq (headDone (pushReq u q) s.curRow s.curSlot (me s)) q) :=
  exec_ready (i := .stD d a off rel) (as := [a, d]) hready rfl rfl

/-- The strand has added a request and waits, or goes on: memory and the lanes are as they were. -/
def Issued (s t : State) (h : Head) (P : Req → Prop) : Prop := t.mem = s.mem ∧ t.lanes = s.lanes ∧ me t = h ∧ ∃ q ∈ t.reqs, P q

/-- The state in which a strand's request has been added and its head changed. -/
def withReq (s : State) (e : TlbEntry) (q : Req) (h : Head) : State := setMe (pushReq (itlbFill s s.curRow e) q) h

theorem issued_sendReq {s : State} {e : TlbEntry} {q : Req} {h : Head} (hcol : q.col = 16) :
    Issued s (sendReq (withReq s e q h) q) h (Departed q) := by
  obtain ⟨q', hdeparted, hstate, hreqs⟩ := sendReq_head (withReq s e q h) hcol
  have hq : q ∈ (withReq s e q h).reqs := List.mem_append_right _ (List.mem_singleton_self q)
  have hid : q.id = q'.id := by
    obtain ⟨_, _, _, _, _, rfl⟩ := hdeparted
    rfl
  have hmem : q' ∈ (sendReq (withReq s e q h) q).reqs := by
    rw [← hreqs]
    exact mem_putReq hq hid
  refine ⟨?_, ?_, ?_, q', hmem, hdeparted⟩
  all_goals rw [hstate]
  exacts [rfl, rfl, me_setMe _ _]

theorem issued_launchReq {s : State} {e : TlbEntry} {q : Req} {h : Head} (hcol : q.col = 16) :
    Issued s (launchReq (withReq s e q h) q) h (Launched q) := by
  have hq : q ∈ (withReq s e q h).reqs := List.mem_append_right _ (List.mem_singleton_self q)
  obtain ⟨q', hlaunched, hmem, hstate⟩ := launchReq_head hcol hq
  refine ⟨?_, ?_, ?_, q', hmem, hlaunched⟩
  all_goals rw [hstate]
  exacts [rfl, rfl, me_setMe _ _]

/-- Settles O13: the request is added and leaves, or is held; the head waits for the load and goes on behind the store. -/
theorem headMemory : Obligations.HeadMemory := by
  unfold Obligations.HeadMemory
  intro s d a off ord pa attr e addr halign hfree
  refine ⟨fun hready hx => ?load, fun hready hx => ?store⟩
  case load =>
    rw [exec_ldD hready, headAddr_eq, headAccess_goes halign hfree hx]
    let q := ldReq (itlbFill s s.curRow e) s.curRow s.curSlot addr d ord pa attr s.now
    obtain ⟨hmem, hlanes, hme, q', hq', _, _, _, _, _, rfl⟩ :=
      issued_sendReq (s := s) (e := e) (q := q) (h := { me s with wait := .load s.fresh, why := 0, since := s.now }) rfl
    exact ⟨_, rfl, hmem, hlanes, hme, _, hq', rfl, rfl, rfl, rfl, rfl, rfl, rfl, rfl, rfl, rfl⟩
  case store =>
    rw [exec_stD hready, headAddr_eq, headAccess_goes halign hfree hx]
    let q := stReq (itlbFill s s.curRow e) s.curRow s.curSlot addr (rdH (me s) d) ord pa attr s.now
    obtain ⟨hmem, hlanes, hme, q', hq', hlaunched⟩ := issued_launchReq (s := s) (e := e) (q := q) (h := goOn (me s)) rfl
    have hgoes := headDone_eq (pushReq (itlbFill s s.curRow e) q) (me s)
    refine ⟨_, congrArg (fun w => Host.Outcome.next (launchReq w q)) hgoes, hmem, hlanes, hme, q', hq', ?_⟩
    cases ord with
    | true =>
      obtain ⟨_, rfl⟩ := (launched_held rfl).1 hlaunched
      exact ⟨rfl, rfl, rfl, rfl, rfl, rfl, rfl, rfl, rfl, rfl⟩
    | false =>
      obtain ⟨_, _, _, _, _, rfl⟩ := (launched_departed Bool.false_ne_true).1 hlaunched
      exact ⟨rfl, rfl, rfl, rfl, rfl, rfl, rfl, rfl, rfl, rfl⟩

/-! PUBLISH and TILEGET (R136, R137). -/

theorem exec_publish {s : State} {a : BitVec 4} (hready : HeadReady s [a]) :
    exec (.publish a) s = .next (afterDrainDue s s.curRow s.curSlot (me s)
      (headAccess s s.curRow s.curSlot .write (rdH (me s) a) fun u pa attr since =>
        if !attr.host then headTrap u s.curRow s.curSlot .publishHost (rdH (me s) a)
        else if hostWaits u s.curRow s.curSlot then headWait u s.curRow s.curSlot 14
        else
          let q := publishReq u s.curRow s.curSlot (rdH (me s) a) pa attr since
          launchReq (modHead (pushReq u q) s.curRow s.curSlot fun h => { h with wait := .publish u.fresh, why := 14, since := u.now }) q)) :=
  exec_ready (i := .publish a) (as := [a]) hready rfl rfl

/-- Settles O14: a misaligned address traps before the translation, and a translated one of PUBLISH by its page. -/
theorem headAccessTraps : Obligations.HeadAccessTraps := by
  unfold Obligations.HeadAccessTraps
  intro s d a off ord ⟨hready, hflights⟩ hcan addr target due free
  have hone : HeadReady s [a] := hready.mono (by simp)
  have htraps (c : Cause) (v : Word) := headTraps_headTrap c v hflights hcan
  refine ⟨fun hbad => ⟨?ldAlign, ?stAlign⟩, fun c halign hfree hx => ?ld, fun c halign hfree hx => ?st, fun hbad hdue => ?publishAlign,
    fun c halign hfree hdue hx => ?publish, fun pa attr e halign hfree hdue hx hhost => ?notHost⟩
  case ldAlign =>
    rw [exec_ldD hone, headAddr_eq, headAccess_misaligned hbad]
    exact htraps _ _
  case stAlign =>
    rw [exec_stD hready, headAddr_eq, headAccess_misaligned hbad]
    exact htraps _ _
  case ld =>
    rw [exec_ldD hone, headAddr_eq, headAccess_faults halign hfree hx]
    exact htraps _ _
  case st =>
    rw [exec_stD hready, headAddr_eq, headAccess_faults halign hfree hx]
    exact htraps _ _
  case publishAlign =>
    rw [exec_publish hone, afterDrainDue_goes hflights hdue, headAccess_misaligned hbad]
    exact htraps _ _
  case publish =>
    rw [exec_publish hone, afterDrainDue_goes hflights hdue, headAccess_faults halign hfree hx]
    exact htraps _ _
  case notHost =>
    rw [exec_publish hone, afterDrainDue_goes hflights hdue, headAccess_goes halign hfree hx, hhost]
    exact headTraps_itlbFill.1 (headTraps_headTrap (s := itlbFill s s.curRow e) _ _ hflights hcan)

/-- Is there a dispenser of a number for a row's job on the row's die (R136)? -/
def dispenserThere (s : State) (n : Nat) : Bool :=
  s.dispensers.any fun x => x.part == (getRow s s.curRow).part.getD 0 && x.die == dieOfRow s.curRow && x.num == n

theorem dispenserThere_iff {s : State} {n : Nat} : dispenserThere s n = true ↔
    ∃ x ∈ s.dispensers, x.part = (getRow s s.curRow).part.getD 0 ∧ x.die = dieOfRow s.curRow ∧ x.num = n := by
  simp [dispenserThere, and_assoc]

theorem exec_tileget {s : State} {d a : BitVec 4} (hready : HeadReady s [a]) (hlo : 1 ≤ d.toNat) (hhi : d.toNat ≤ 14) :
    exec (.tileget d a) s = .next (afterDrainDue s s.curRow s.curSlot (me s)
      (if 15 < (rdH (me s) a).toNat || !dispenserThere s (rdH (me s) a).toNat then
        headTrap s s.curRow s.curSlot .tileNone (rdH (me s) a)
      else
        setMe (sends s (.tile ((getRow s s.curRow).part.getD 0) s.curRow s.curSlot (dieOfRow s.curRow) (rdH (me s) a).toNat d.toNat))
          { me s with wait := .tile s.fresh, why := 14, since := s.now })) := by
  have hwf : (Instr.tileget d a).wellFormed = true := by simp [Instr.wellFormed, Instr.illFormed, hlo, hhi]
  exact exec_ready (i := .tileget d a) (as := [a]) hready rfl hwf

/-- Settles O25: TILEGET by the dispensers of the row's die, PUBLISH by its access. -/
theorem services : Obligations.Services := by
  unfold Obligations.Services
  refine ⟨?_, ?_⟩
  · intro s d a ⟨hready, hflights⟩ hdue hlo hhi p n there
    rw [exec_tileget hready hlo hhi, afterDrainDue_goes hflights hdue]
    have hthere : (decide (15 < n) || !dispenserThere s n) = true ↔ ¬ there := by
      rw [Bool.or_eq_true, decide_eq_true_iff, Bool.not_eq_true', ← Bool.not_eq_true, dispenserThere_iff, Classical.not_and_iff_not_or_not,
        Nat.not_le]
    refine ⟨fun h => ?asks, fun h hcan => ?none⟩
    case asks => rw [if_neg (mt hthere.1 (not_not_intro h))]
    case none =>
      rw [if_pos (hthere.2 h)]
      exact headTraps_headTrap _ _ hflights hcan
  · intro s a pa attr e ⟨hready, hflights⟩ hdue halign hfree hx hhost hwaits
    rw [exec_publish hready, afterDrainDue_goes hflights hdue, headAccess_goes halign hfree hx, hhost]
    simp only [hwaits]
    let q := publishReq (itlbFill s s.curRow e) s.curRow s.curSlot (rdH (me s) a) pa attr s.now
    obtain ⟨hmem, hlanes, hme, q', hq', hlaunched⟩ :=
      issued_launchReq (s := s) (e := e) (q := q) (h := { me s with wait := .publish s.fresh, why := 14, since := s.now }) rfl
    obtain ⟨_, rfl⟩ := (launched_held rfl).1 hlaunched
    exact ⟨_, rfl, hmem, hlanes, hme, _, hq', rfl, rfl, rfl, rfl, rfl, rfl⟩

end Sys2Proof.Machine
end

section
/-! PROOFS. The returns from the handler (O20). -/

namespace Sys2Proof.Machine

/-! The strand's lanes (R29, R361). -/

/-- What a rewind keeps of a lane; an empty landing register stays empty (R29). -/
def LaneRewound (l l' : Lane) : Prop := l'.g = l.g ∧ l'.v = l.v ∧ l'.m = l.m ∧ l'.retry = l.retry ∧ (l.land = [] → l'.land = [])

theorem LaneRewound.refl (l : Lane) : LaneRewound l l := ⟨rfl, rfl, rfl, rfl, id⟩

theorem LaneRewound.trans {l l' l'' : Lane} (h : LaneRewound l l') (h' : LaneRewound l' l'') : LaneRewound l l'' := by
  obtain ⟨hg, hv, hm, hretry, hland⟩ := h
  obtain ⟨hg', hv', hm', hretry', hland'⟩ := h'
  exact ⟨hg'.trans hg, hv'.trans hv, hm'.trans hm, hretry'.trans hretry, hland' ∘ hland⟩

/-- Another column's lane of a strand is another lane. -/
theorem getLane_setLane_col (s : State) {r c c' sl : Nat} (l : Lane) (h : c' ≠ c) :
    getLane (setLane s r c sl l) r c' sl = getLane s r c' sl := getLane_setLane_ne s l (by unfold coreIx; omega)

theorem rewindCol_lane (r sl region : Nat) (s : State) (c : Nat) :
    LaneRewound (getLane s r c sl) (getLane (rewindCol r sl region s c) r c sl) ∧ (getLane (rewindCol r sl region s c) r c sl).land = [] ∧
    ∀ c', c' ≠ c → getLane (rewindCol r sl region s c) r c' sl = getLane s r c' sl := by
  refine ⟨?_, ?_, fun c' hc => getLane_setLane_col _ _ hc⟩
  all_goals
    rw [rewindCol, modLane, getLane_setLane]
  exacts [⟨rfl, rfl, rfl, rfl, fun _ => rfl⟩, rfl]

/-- The columns of a rewind: each one's lane is rewound, and nothing but lanes, cores and requests changes. -/
theorem rewindCols_own (r sl region : Nat) : ∀ (l : List Nat) (s : State),
    (∃ rq ks ls, l.foldl (rewindCol r sl region) s = { s with reqs := rq, cores := ks, lanes := ls }) ∧
    ∀ c, LaneRewound (getLane s r c sl) (getLane (l.foldl (rewindCol r sl region) s) r c sl) ∧
      (c ∈ l → (getLane (l.foldl (rewindCol r sl region) s) r c sl).land = [])
  | [], s => ⟨⟨_, _, _, rfl⟩, fun c => ⟨.refl _, fun h => absurd h List.not_mem_nil⟩⟩
  | a :: l, s => by
    obtain ⟨⟨rq, ks, ls, hform⟩, hlanes⟩ := rewindCols_own r sl region l (rewindCol r sl region s a)
    obtain ⟨hown, hland, hother⟩ := rewindCol_lane r sl region s a
    refine ⟨⟨rq, ks, ls, hform⟩, fun c => ?_⟩
    obtain ⟨hrest, hempty⟩ := hlanes c
    by_cases hc : c = a
    · subst hc
      have ⟨_, _, _, _, hstays⟩ := hrest
      exact ⟨hown.trans hrest, fun _ => hstays hland⟩
    · rw [hother c hc] at hrest
      exact ⟨hrest, fun hmem => hempty ((List.mem_cons.1 hmem).resolve_left hc)⟩

/-- Empty retry lists that are discarded: every lane of the strand reads as before. -/
theorem dropRetries_own (r sl : Nat) : ∀ (l : List Nat) (s : State), (∀ c ∈ l, (getLane s r c sl).retry = []) →
    (∃ ls, l.foldl (fun s c => modLane s r c sl fun l => { l with retry := [] }) s = { s with lanes := ls }) ∧
    ∀ c, getLane (l.foldl (fun s c => modLane s r c sl fun l => { l with retry := [] }) s) r c sl = getLane s r c sl
  | [], s, _ => ⟨⟨_, rfl⟩, fun c => rfl⟩
  | a :: l, s, h => by
    have hsame (c : Nat) : getLane (modLane s r a sl fun l => { l with retry := [] }) r c sl = getLane s r c sl := by
      by_cases hc : c = a
      · rw [hc, modLane, getLane_setLane, ← h a List.mem_cons_self]
      · exact getLane_setLane_col _ _ hc
    obtain ⟨⟨ls, hform⟩, hlanes⟩ := dropRetries_own r sl l (modLane s r a sl fun l => { l with retry := [] })
      fun c hc => by rw [hsame]; exact h c (List.mem_cons_of_mem _ hc)
    exact ⟨⟨ls, hform⟩, fun c => (hlanes c).trans (hsame c)⟩

/-- Empty retry lists issue nothing. -/
theorem issueRetries_none {s : State} {r sl : Nat} (h : ∀ c < 16, (getLane s r c sl).retry = []) : issueRetries s r sl = s :=
  foldl_fixed _ fun c hc => by rw [h c (List.mem_range.1 hc)]

/-- A strand without recorded accesses leaves the handler: its lanes read as before, and only a halt may end (R361, R380). -/
theorem leaveHandler_own {s : State} {r sl : Nat} (h : ∀ c < 16, (getLane s r c sl).retry = []) :
    (∃ ls ro, leaveHandler s r sl = { s with lanes := ls, rows := ro }) ∧
    ∀ c, getLane (leaveHandler s r sl) r c sl = getLane s r c sl := by
  obtain ⟨⟨ls, hform⟩, hlanes⟩ := dropRetries_own r sl (upTo 16) s fun c hc => h c (List.mem_range.1 hc)
  have hafter (drop : Bool) : (∃ ls ro, afterReturn s r sl drop = { s with lanes := ls, rows := ro }) ∧
      ∀ c, getLane (afterReturn s r sl drop) r c sl = getLane s r c sl := by
    cases drop with
    | true =>
      simp only [afterReturn, if_true, forCols]
      split
      · exact ⟨⟨_, _, by rw [hform]; rfl⟩, hlanes⟩
      · exact ⟨⟨ls, s.rows, hform⟩, hlanes⟩
    | false =>
      simp only [afterReturn, Bool.false_eq_true, if_false]
      split
      · exact ⟨⟨_, _, rfl⟩, fun c => rfl⟩
      · exact ⟨⟨_, _, rfl⟩, fun c => rfl⟩
  obtain ⟨hform', hlanes'⟩ := hafter ((getHead s r sl).tval.getLsbD 63)
  have hleave : leaveHandler s r sl = afterReturn s r sl ((getHead s r sl).tval.getLsbD 63) := by
    have hissue := issueRetries_none (s := afterReturn s r sl ((getHead s r sl).tval.getLsbD 63)) (r := r) (sl := sl)
      fun c hc => by rw [hlanes']; exact h c hc
    simp only [leaveHandler, hissue, ite_self]
  rw [hleave]
  exact ⟨hform', hlanes'⟩

/-! TRET (R29, R139). -/

/-- Sound CSRs are read (R364). -/
theorem csrSound_sound {s : State} {r sl : Nat} {h : Head} {ns : List Nat} {k : State} (hsound : ∀ n ∈ ns, isIn (0x800 + n) h.poison = false) :
    csrSound s r sl h ns k = k := by
  rw [csrSound, List.find?_eq_none.2 fun n hn => by simp [hsound n hn]]

theorem exec_tret {s : State} (hready : HeadReady s []) (hlevel : (me s).handler = true) :
    exec .tret s = .next (csrSound s s.curRow s.curSlot (me s) [0x003, 0x005, 0x013, 0x014, 0x015]
      (afterDrain s s.curRow s.curSlot (me s) (leaveHandler (returnPlain s s.curRow s.curSlot) s.curRow s.curSlot))) := by
  rw [exec_ready (i := .tret) (as := []) hready rfl rfl, hlevel]
  rfl

theorem exec_tretAt {s : State} {a : BitVec 4} (hready : HeadReady s [a]) (hlevel : (me s).handler = true) :
    exec (.tretAt a) s = .next (csrSound s s.curRow s.curSlot (me s) [0x000, 0x003, 0x004]
      (afterDrain s s.curRow s.curSlot (me s)
        (if targetOk (rdH (me s) a) then leaveHandler (returnAt s s.curRow s.curSlot ((rdH (me s) a).setWidth 48)) s.curRow s.curSlot
         else headTrap s s.curRow s.curSlot .fetchTarget (rdH (me s) a)))) := by
  rw [exec_ready (i := .tretAt a) (as := [a]) hready rfl rfl, hlevel]
  rfl

/-- The head after a rewind (R29). -/
def atRegion (h : Head) : Head :=
  { h with pc := h.regpc.setWidth 48, loopc := h.rloopc, loops := h.rloops, loope := h.rloope, tailQ := [], flights := [], commit := none,
           pend := none, pp := false, pxs := 0, wait := .no, why := 0, poison := unsnapPoison h.poison }

/-- What a rewind changes: the head, and of the strand's lanes what lies in its region. -/
theorem rewind_form (s : State) (r sl : Nat) : ∃ rq ks ls ws,
    rewind s r sl = { setHead s r sl (atRegion (getHead s r sl)) with reqs := rq, cores := ks, lanes := ls, walks := ws } := by
  obtain ⟨⟨rq, ks, ls, hform⟩, -⟩ := rewindCols_own r sl (getHead s r sl).region (upTo 16) s
  rw [rewind, forCols, hform]
  exact ⟨_, _, _, _, rfl⟩

theorem rewind_lanes (s : State) (r sl : Nat) : (rewind s r sl).lanes = (forCols (rewindCol r sl (getHead s r sl).region) s).lanes := by
  rw [rewind]
  generalize forCols (rewindCol r sl (getHead s r sl).region) s = t
  rfl

theorem rewind_lane (s : State) (r c sl : Nat) : LaneRewound (getLane s r c sl) (getLane (rewind s r sl) r c sl) ∧
    (c < 16 → (getLane (rewind s r sl) r c sl).land = []) := by
  obtain ⟨-, hlanes⟩ := rewindCols_own r sl (getHead s r sl).region (upTo 16) s
  obtain ⟨hrewound, hland⟩ := hlanes c
  rw [getLane, getLane, rewind_lanes]
  exact ⟨hrewound, fun hc => hland (List.mem_range.2 hc)⟩

/-- The head after TRET (R29, R139). -/
def returned (h : Head) : Head := atRegion { h with handler := false, pp := false, pxs := 0 }

theorem returnPlain_form (s : State) (r sl : Nat) : ∃ rq ks ls ws, returnPlain s r sl =
    { setHead s r sl (returned (getHead s r sl)) with reqs := rq, cores := ks, lanes := ls, walks := ws } := by
  obtain ⟨rq, ks, ls, ws, hform⟩ := rewind_form (modHead s r sl fun h => { h with handler := false, pp := false, pxs := 0 }) r sl
  refine ⟨rq, ks, ls, ws, ?_⟩
  rw [returnPlain, hform, modHead, setHead_setHead, getHead_setHead]
  rfl

theorem returnPlain_lane (s : State) (r c sl : Nat) : LaneRewound (getLane s r c sl) (getLane (returnPlain s r sl) r c sl) ∧
    (c < 16 → (getLane (returnPlain s r sl) r c sl).land = []) :=
  rewind_lane (modHead s r sl fun h => { h with handler := false, pp := false, pxs := 0 }) r c sl

/-- A sound snapshot leaves no poison of the loop state (R364). -/
theorem unsnapPoison_sound {l : List Nat} (hsound : ∀ n ∈ [0x813, 0x814, 0x815], isIn n l = false) :
    unsnapPoison l = l.filter fun n => decide (n ≠ 0x810 ∧ n ≠ 0x811 ∧ n ≠ 0x812) := by
  have hsnap : (l.filter fun n => n == 0x813 || n == 0x814 || n == 0x815) = [] := by
    refine List.filter_eq_nil_iff.2 fun n hn hbad => ?_
    have hin : isIn n l = true := isIn_iff_mem.2 hn
    have hsnapshot : n ∈ [0x813, 0x814, 0x815] := by simpa [or_assoc] using hbad
    rw [hsound n hsnapshot] at hin
    exact Bool.false_ne_true hin
  rw [unsnapPoison, hsnap, List.map_nil, List.append_nil]
  exact List.filter_congr fun n _ => by rw [Bool.eq_iff_iff]; simp [and_assoc]

/-- The word of a legal PX is that PX (R71). -/
theorem decode_fmtPx {p : Px} (hwf : (Instr.px p).wellFormed = true) : decode (fmtPx p) = .ok (.px p) := by
  have hread : (decode (fmtPx p)).toOption = some (.px p) := Laws.RoundTrip.px p rfl hwf
  cases hdecode : decode (fmtPx p) with
  | error e =>
    rw [hdecode] at hread
    exact absurd hread (by simp [Except.toOption])
  | ok i =>
    rw [hdecode] at hread
    exact congrArg Except.ok (Option.some.inj hread)

/-- The saved PX operands that TRET.at puts back (R139). -/
def prefixBack (h : Head) (a : Word) : Option Px :=
  if h.pp && a == h.tpc then
    match decode h.pxs.toNat with
    | .ok (.px p) => some p
    | _ => none
  else none

theorem prefixBack_saved {h : Head} {p : Px} (hpp : h.pp = true) (hpxs : h.pxs.toNat = fmtPx p) (hwf : (Instr.px p).wellFormed = true) :
    prefixBack h h.tpc = some p := by
  simp [prefixBack, hpp, hpxs, decode_fmtPx hwf]

theorem prefixBack_none {h : Head} {a : Word} (hno : h.pp = false ∨ h.tpc ≠ a) : prefixBack h a = none := by
  refine if_neg fun hyes => ?_
  obtain ⟨hpp, htpc⟩ := Bool.and_eq_true_iff.1 hyes
  rcases hno with hno | hno
  · exact Bool.false_ne_true (hno.symm.trans hpp)
  · exact hno (beq_iff_eq.1 htpc).symm

/-- The head after TRET.at (R139). -/
def returnedAt (h : Head) (a : VAddr) : Head :=
  { h with handler := false, pp := false, pxs := 0, skipBreak := some a, pc := a, pend := prefixBack h (a.setWidth 64) }

theorem returnAt_eq (s : State) (r sl : Nat) (a : VAddr) : returnAt s r sl a = setHead s r sl (returnedAt (getHead s r sl) a) := rfl

/-- Settles O20: the head is rewound or set to its address, and leaving the handler changes no lane. -/
theorem trapReturns : Obligations.TrapReturns := by
  unfold Obligations.TrapReturns
  refine ⟨?_, ?_⟩
  · intro s ⟨hready, hflights⟩ hlevel hretry hsound
    obtain ⟨rq, ks, ls, ws, hreturn⟩ := returnPlain_form s s.curRow s.curSlot
    have hlanes (c : Nat) := returnPlain_lane s s.curRow c s.curSlot
    have hnone (c : Nat) (hc : c < 16) : (getLane (returnPlain s s.curRow s.curSlot) s.curRow c s.curSlot).retry = [] := by
      obtain ⟨⟨-, -, -, hsame, -⟩, -⟩ := hlanes c
      rw [hsame]
      exact hretry c hc
    obtain ⟨⟨ls', ro, hform⟩, hleft⟩ := leaveHandler_own hnone
    rw [exec_tret hready hlevel, csrSound_sound (by simpa using hsound), afterDrain_drained hflights]
    refine ⟨_, rfl, ?_, ?_, fun c hc => ?_⟩
    · rw [hform, hreturn, ← unsnapPoison_sound fun n hn => hsound n (by simp at hn ⊢; tauto)]
      exact getHead_setHead _ _ _ _
    · rw [hform, hreturn]
      rfl
    · obtain ⟨⟨hg, hv, hm, -, -⟩, hland⟩ := hlanes c
      rw [hleft]
      exact ⟨hg, hv, hm, hland hc⟩
  · intro s a p ⟨hready, hflights⟩ hlevel halign hlow hretry hprefix hsound
    obtain ⟨⟨ls, ro, hform⟩, hleft⟩ := leaveHandler_own (s := returnAt s s.curRow s.curSlot ((rdH (me s) a).setWidth 48)) hretry
    rw [exec_tretAt hready hlevel, csrSound_sound (by simpa using hsound), afterDrain_drained hflights,
      if_pos (targetOk_iff.2 ⟨halign, hlow⟩)]
    have hhead : getHead (leaveHandler (returnAt s s.curRow s.curSlot ((rdH (me s) a).setWidth 48)) s.curRow s.curSlot) s.curRow s.curSlot =
        returnedAt (me s) ((rdH (me s) a).setWidth 48) := by
      rw [hform, returnAt_eq]
      exact getHead_setHead _ _ _ _
    have hwide : ((rdH (me s) a).setWidth 48).setWidth 64 = rdH (me s) a := by
      apply BitVec.eq_of_toNat_eq
      rw [BitVec.toNat_setWidth, BitVec.toNat_setWidth]
      omega
    refine ⟨_, rfl, ?_⟩
    dsimp only
    rw [hhead]
    refine ⟨rfl, rfl, rfl, rfl, rfl, rfl, rfl, ?mem, fun c _ => hleft c, fun hpp htpc => ?saved, fun hno => ?dropped⟩
    case mem => rw [hform, returnAt_eq]; rfl
    case saved =>
      obtain ⟨hpxs, hwf⟩ := hprefix hpp
      rw [returnedAt, hwide, ← htpc]
      exact prefixBack_saved hpp hpxs hwf
    case dropped =>
      rw [returnedAt, hwide]
      exact prefixBack_none hno

end Sys2Proof.Machine
end

section
/-! PROOFS. The end of a task (R133, R142, R286, R296): EXIT, the groups and GKILL (O17, O23). -/

namespace Sys2Proof.Machine

/-! What touches no task: the heads, the rows and the partitions stay as they are, and no time passes. -/

/-- The tasks, their rows and their jobs are as they were. -/
structure TasksKept (s t : State) : Prop where
  heads : t.heads = s.heads
  rows : t.rows = s.rows
  parts : t.parts = s.parts
  now : t.now = s.now

namespace TasksKept

theorem refl (s : State) : TasksKept s s := ⟨rfl, rfl, rfl, rfl⟩

theorem trans {s t u : State} (h : TasksKept s t) (k : TasksKept t u) : TasksKept s u :=
  ⟨k.heads.trans h.heads, k.rows.trans h.rows, k.parts.trans h.parts, k.now.trans h.now⟩

/-- The same, the last change named first. -/
theorem after {s t u : State} (k : TasksKept t u) (h : TasksKept s t) : TasksKept s u := h.trans k

theorem foldl {α : Type} {f : State → α → State} (hf : ∀ s a, TasksKept s (f s a)) (l : List α) (s : State) :
    TasksKept s (l.foldl f s) := foldl_keeps (P := TasksKept s) (fun t a h => h.trans (hf t a)) l s (refl s)

theorem forCols {f : State → Nat → State} (hf : ∀ s c, TasksKept s (f s c)) (s : State) : TasksKept s (Machine.forCols f s) :=
  foldl hf _ s

theorem forSlots {f : State → Nat → State} (hf : ∀ s c, TasksKept s (f s c)) (s : State) : TasksKept s (Machine.forSlots f s) :=
  foldl hf _ s

theorem getHead {s t : State} (h : TasksKept s t) (r sl : Nat) : Machine.getHead t r sl = Machine.getHead s r sl := by
  rw [Machine.getHead, h.heads]; rfl

theorem getRow {s t : State} (h : TasksKept s t) (r : Nat) : Machine.getRow t r = Machine.getRow s r := by
  rw [Machine.getRow, h.rows]; rfl

theorem getPart {s t : State} (h : TasksKept s t) (p : Nat) : Machine.getPart t p = Machine.getPart s p := by
  rw [Machine.getPart, h.parts]; rfl

end TasksKept

theorem modCore_tasks (s : State) (k : Nat) (f : Core → Core) : TasksKept s (modCore s k f) := ⟨rfl, rfl, rfl, rfl⟩

theorem setLane_tasks (s : State) (r c sl : Nat) (l : Lane) : TasksKept s (setLane s r c sl l) := ⟨rfl, rfl, rfl, rfl⟩

theorem dropWalks_tasks (mine : WalkPlace → Bool) (s : State) : TasksKept s (dropWalks mine s) := ⟨rfl, rfl, rfl, rfl⟩

/-! Memory. -/

theorem physWrN_tasks (key : Option (BitVec 256)) (n : Nat) (s : State) (pa x : Nat) : TasksKept s (physWrN s key pa n x) := by
  obtain ⟨m, k, hform⟩ := physWrN_form key n pa x s
  rw [hform]
  exact ⟨rfl, rfl, rfl, rfl⟩

theorem physHeal_tasks (s : State) (gs : List Nat) : TasksKept s (physHeal s gs) := ⟨rfl, rfl, rfl, rfl⟩

theorem heldStep_tasks (s : State) (h : Held) : TasksKept s (heldStep s h) := by
  unfold heldStep
  split
  · exact .refl s
  · exact physWrN_tasks _ _ _ _ _

/-- The held elements of DET pages are applied to memory (R372). -/
theorem applyHeld_tasks (s : State) (p : Nat) (tasks : List Nat) : TasksKept s (applyHeld s p tasks) := by
  unfold applyHeld
  extract_lets mine all
  split
  · exact .refl s
  · exact .after (.foldl heldStep_tasks _ _) ⟨rfl, rfl, rfl, rfl⟩

theorem mboxPut_tasks (s : State) (j : Job) (n : Nat) (tokens : List Word) : TasksKept s (mboxPut s j n tokens) := by
  unfold mboxPut
  split
  · exact .refl s
  next pa a _ =>
    exact .after (.foldl (fun s i => physWrN_tasks _ _ s _ _) _ _) ((physWrN_tasks _ 8 s pa _).trans (physHeal_tasks _ _))

theorem settleHputs_tasks (s : State) (core : Nat) : TasksKept s (settleHputs s core) := by
  have hgranule (p : HPut) (k : Core) (s : State) (i : Nat) : TasksKept s (hputGranule p k s i) := by
    unfold hputGranule
    extract_lets a pa
    split
    · exact ⟨rfl, rfl, rfl, rfl⟩
    · exact (physWrN_tasks p.key 64 s pa _).trans (physHeal_tasks _ _)
  have hwrite (s : State) (p : HPut) : TasksKept s (hputWrite core s p) := by
    rw [hputWrite]
    exact .foldl (hgranule _ _) _ _
  have hwritten : TasksKept s ((getCore s core).hputs.foldl (hputWrite core) s) := .foldl hwrite _ s
  rw [settleHputs]
  exact hwritten.trans ⟨rfl, rfl, rfl, rfl⟩

/-! Messages and the fabric (R142, R307, R309). -/

theorem sendMsg_tasks (s : State) (m : Msg) : TasksKept s (sendMsg s m) := ⟨rfl, rfl, rfl, rfl⟩

theorem leaveGroups_tasks (s : State) (p task : Nat) : TasksKept s (leaveGroups s p task) := by
  unfold leaveGroups
  split
  · exact .refl s
  · refine .foldl (fun s g => ?_) _ _
    split
    · exact sendMsg_tasks _ _
    · exact .refl s

theorem pruneTree_tasks (p : Nat) (tag : BitVec 16) : ∀ (l : List (Nat × Nat)) (s : State), TasksKept s (pruneTree s p tag l)
  | [], s => .refl s
  | (router, port) :: l, s => by
    have hcut : TasksKept s { s with tree := s.tree.filter (· != (p, tag, router, port)) } := ⟨rfl, rfl, rfl, rfl⟩
    rw [pruneTree]
    split
    · exact hcut.trans (pruneTree_tasks p tag l _)
    · exact hcut

theorem unsubscribe_tasks (s : State) (p core : Nat) (tag : BitVec 16) : TasksKept s (unsubscribe s p core tag) := by
  unfold unsubscribe
  split
  · exact .trans (pruneTree_tasks p tag _ s) ⟨rfl, rfl, rfl, rfl⟩
  · exact .refl s

theorem leaveTags_tasks (s : State) (r : Nat) : TasksKept s (leaveTags s r) :=
  .after (.foldl (fun s _ => unsubscribe_tasks s _ _ _) _ _) ⟨rfl, rfl, rfl, rfl⟩

/-! The Press (R301). -/

theorem startDrains_tasks (s : State) (r c sl : Nat) : TasksKept s (startDrains s r c sl) := by
  unfold startDrains
  extract_lets k l
  split
  · exact .refl s
  · exact ⟨rfl, rfl, rfl, rfl⟩

theorem pressReads_tasks (s : State) (r c n : Nat) : TasksKept s (pressReads s r c n) := by
  unfold pressReads
  extract_lets k
  split
  · split
    · extract_lets l x
      split
      · exact .refl s
      · exact ⟨rfl, rfl, rfl, rfl⟩
    · exact .refl s
  · exact .refl s

theorem pressApply_tasks (s : State) (r c : Nat) (cmd : PressCmd) (rest : List PressCmd) : TasksKept s (pressApply s r c cmd rest) := by
  unfold pressApply
  extract_lets core tile l
  split
  · exact .after (startDrains_tasks _ _ _ _) ⟨rfl, rfl, rfl, rfl⟩
  · exact .after (startDrains_tasks _ _ _ _) ⟨rfl, rfl, rfl, rfl⟩
  · exact .after (startDrains_tasks _ _ _ _) (.trans (pressReads_tasks s r c 64) ⟨rfl, rfl, rfl, rfl⟩)

theorem pressSettle_tasks (s : State) (r c : Nat) (slots : List Nat) : TasksKept s (pressSettle s r c slots) := by
  unfold pressSettle
  extract_lets k
  split
  · split
    · exact pressApply_tasks _ _ _ _ _
    · exact .refl s
  · exact .refl s

theorem dropPress_tasks (s : State) (r c sl : Nat) : TasksKept s (dropPress s r c sl) :=
  .after (startDrains_tasks _ _ _ _) (.trans (pressSettle_tasks s r c [sl]) ⟨rfl, rfl, rfl, rfl⟩)

/-! A row goes on to its next team (R281, R286). -/

/-- A head as a row holds it in which a team has just been placed: it waits for nothing, and its task had not ended. -/
def Fresh (s : State) (r : Nat) (h : Head) : Prop :=
  h.wait = .no ∧ ∀ x p j, h.task = some x → rowJob s r = some (p, j) → ∀ q ∈ j.ended, q.1 ≠ x

theorem Fresh.reset (s : State) (r : Nat) : Fresh s r Head.reset := ⟨rfl, fun _ _ _ h => nomatch h⟩

/-- Outside a row nothing that concerns tasks has changed. -/
structure RowAlone (r : Nat) (s t : State) : Prop where
  now : t.now = s.now
  parts : t.parts = s.parts
  rows : ∀ r', r' ≠ r → getRow t r' = getRow s r'
  heads : ∀ i, (∀ sl < 8, i ≠ 8 * r + sl) → tget t.heads i Head.reset = tget s.heads i Head.reset

/-- A row may have gone on to another team, and nothing else of tasks has changed. -/
structure RowTurned (r : Nat) (s t : State) : Prop extends RowAlone r s t where
  part : (getRow t r).part = (getRow s r).part
  slots : (∀ sl < 8, getHead t r sl = getHead s r sl) ∨ ∀ sl < 8, Fresh s r (getHead t r sl)

theorem RowAlone.trans {r : Nat} {s t u : State} (h : RowAlone r s t) (k : RowAlone r t u) : RowAlone r s u :=
  ⟨k.now.trans h.now, k.parts.trans h.parts, fun r' hr => (k.rows r' hr).trans (h.rows r' hr), fun i hi => (k.heads i hi).trans (h.heads i hi)⟩

theorem TasksKept.rowAlone {s t : State} (h : TasksKept s t) (r : Nat) : RowAlone r s t :=
  ⟨h.now, h.parts, fun r' _ => h.getRow r', fun i _ => by rw [h.heads]⟩

theorem TasksKept.rowTurned {s t : State} (h : TasksKept s t) (r : Nat) : RowTurned r s t :=
  ⟨h.rowAlone r, by rw [h.getRow], .inl fun sl _ => h.getHead r sl⟩

theorem rowJob_congr {s t : State} {r : Nat} (hparts : t.parts = s.parts) (hpart : (getRow t r).part = (getRow s r).part) :
    rowJob t r = rowJob s r := by
  have hget (p : Nat) : getPart t p = getPart s p := by rw [getPart, hparts]; rfl
  simp only [rowJob, hpart, hget]

theorem RowTurned.trans {r : Nat} {s t u : State} (h : RowTurned r s t) (k : RowTurned r t u) : RowTurned r s u := by
  refine ⟨h.toRowAlone.trans k.toRowAlone, k.part.trans h.part, ?_⟩
  rcases k.slots with hsame | hfresh
  · rcases h.slots with hsame' | hfresh'
    · exact .inl fun sl hsl => (hsame sl hsl).trans (hsame' sl hsl)
    · exact .inr fun sl hsl => by rw [hsame sl hsl]; exact hfresh' sl hsl
  · refine .inr fun sl hsl => ?_
    have hslot := hfresh sl hsl
    rwa [Fresh, rowJob_congr h.parts h.part] at hslot

/-- A change of a row that leaves its partition as it is. -/
theorem rowTurned_modRow (s : State) (r : Nat) (f : Row → Row) (hf : (f (getRow s r)).part = (getRow s r).part) :
    RowTurned r s (modRow s r f) :=
  ⟨⟨rfl, rfl, fun _ hr => getRow_modRow_ne s f hr, fun _ _ => rfl⟩, by rw [getRow_modRow, hf], .inl fun _ _ => rfl⟩

/-- The first placement of a task in its slot, or of none (R17, R281, R294). -/
def placeSlot (j : Job) (r t : Nat) (s : State) (sl : Nat) : State :=
  let task := strandCount j.launch.pword * t + sl
  if sl < teamSize j.launch t && !(j.ended.any fun p => p.1 == task) then
    let (mail, events) := firstMail s j task
    setHead (if mail.isEmpty && events.isEmpty then s else mboxPut s j task []) r sl
      { firstHead j.launch task (getRow s r).cycle mail with events := events }
  else setHead s r sl Head.reset

theorem placeTeam_none {s : State} {r t : Nat} (h : rowJob s r = none) : placeTeam s r t = s := by
  rw [placeTeam, h]

/-- The cores of a row at the first placement of a team. -/
def firstCores (j : Job) (r t : Nat) (s : State) : State :=
  forCols (fun s c => forSlots (fun s sl => setLane s r c sl Lane.reset)
    (modCore (settleHputs s (coreIx r c)) (coreIx r c) (firstCore (teamSize j.launch t)))) s

theorem placeTeam_some {s : State} {r t p : Nat} {j : Job} (h : rowJob s r = some (p, j)) :
    placeTeam s r t = modRow (forSlots (placeSlot j r t) (firstCores j r t s)) r fun x =>
      { x with phase := .placed, resident := some t, started := if isIn t x.started then x.started else x.started ++ [t],
               sliceAt := (forSlots (placeSlot j r t) (firstCores j r t s)).now, next := none } := by
  rw [placeTeam, h]
  rfl

theorem firstCores_tasks (j : Job) (r t : Nat) (s : State) : TasksKept s (firstCores j r t s) :=
  .forCols (fun s c => .after (.forSlots (fun s sl => setLane_tasks s r c sl _) _)
    ((settleHputs_tasks s _).trans (modCore_tasks _ _ _))) s

/-- What one slot's placement sets: its head. -/
theorem placeSlot_form (j : Job) (r t : Nat) (s : State) (sl : Nat) : ∃ w h, placeSlot j r t s sl = setHead w r sl h ∧ TasksKept s w ∧
    h.wait = .no ∧ ∀ x, h.task = some x → ∀ q ∈ j.ended, q.1 ≠ x := by
  unfold placeSlot
  extract_lets task
  split
  next hplaced =>
    obtain ⟨-, hended⟩ := Bool.and_eq_true_iff.1 hplaced
    refine ⟨_, _, rfl, ?_, rfl, fun x hx q hq he => ?_⟩
    · split
      · exact .refl s
      · exact mboxPut_tasks _ _ _ _
    · have hxt : task = x := Option.some.inj hx
      have hany : (j.ended.any fun p => p.1 == task) = true := List.any_eq_true.2 ⟨q, hq, by simp [he, hxt]⟩
      simp [hany] at hended
  next => exact ⟨s, _, rfl, .refl s, rfl, fun _ h => nomatch h⟩

/-- The slots of a row, placed one after the other. -/
theorem placeSlots_law {j : Job} {r t p : Nat} : ∀ (l : List Nat) (s : State), (∀ sl ∈ l, sl < 8) → rowJob s r = some (p, j) →
    RowAlone r s (l.foldl (placeSlot j r t) s) ∧ (l.foldl (placeSlot j r t) s).rows = s.rows ∧
    (∀ i, (∀ sl ∈ l, i ≠ 8 * r + sl) → tget (l.foldl (placeSlot j r t) s).heads i Head.reset = tget s.heads i Head.reset) ∧
    ∀ sl ∈ l, Fresh s r (getHead (l.foldl (placeSlot j r t) s) r sl)
  | [], s, _, _ => ⟨(TasksKept.refl s).rowAlone r, rfl, fun _ _ => rfl, fun _ h => absurd h List.not_mem_nil⟩
  | a :: l, s, hslots, hjob => by
    obtain ⟨w, h, hform, hkept, hwait, htask⟩ := placeSlot_form j r t s a
    have hslots' : ∀ sl ∈ l, sl < 8 := fun sl hsl => hslots sl (List.mem_cons_of_mem _ hsl)
    have hown : RowAlone r s (setHead w r a h) :=
      (hkept.rowAlone r).trans ⟨rfl, rfl, fun _ _ => rfl, fun i hi => tget_tput_ne _ _ _ (hi a (hslots a List.mem_cons_self))⟩
    have hrow : getRow (setHead w r a h) r = getRow s r := hkept.getRow r
    have hjob' : rowJob (setHead w r a h) r = some (p, j) := (rowJob_congr hown.parts (by rw [hrow])).trans hjob
    obtain ⟨halone, hrows, houtside, hfresh⟩ := placeSlots_law l (setHead w r a h) hslots' hjob'
    rw [List.foldl_cons, hform]
    have hfirst : Fresh s r h := ⟨hwait, fun x p' j' hx hj q hq => by
      obtain ⟨-, rfl⟩ : p = p' ∧ j = j' := by simpa [hjob] using hj
      exact htask x hx q hq⟩
    refine ⟨hown.trans halone, hrows.trans hkept.rows, fun i hi => ?_, fun sl hsl => ?_⟩
    · rw [houtside i fun sl hsl => hi sl (List.mem_cons_of_mem _ hsl), ← hkept.heads]
      exact tget_tput_ne _ _ _ (hi a List.mem_cons_self)
    · by_cases hin : sl ∈ l
      · have hslot := hfresh sl hin
        rwa [Fresh, rowJob_congr hown.parts (by rw [hrow])] at hslot
      · obtain rfl : sl = a := (List.mem_cons.1 hsl).resolve_right hin
        have hsame : getHead (l.foldl (placeSlot j r t) (setHead w r sl h)) r sl = h :=
          (houtside _ fun sl' hsl' e => hin (by rwa [show sl = sl' by omega])).trans (getHead_setHead w r sl h)
        rwa [hsame]

theorem placeTeam_turned (s : State) (r t : Nat) : RowTurned r s (placeTeam s r t) := by
  cases hjob : rowJob s r with
  | none =>
    rw [placeTeam_none hjob]
    exact (TasksKept.refl s).rowTurned r
  | some pj =>
    obtain ⟨p, j⟩ := pj
    rw [placeTeam_some hjob]
    have hcores := firstCores_tasks j r t s
    obtain ⟨halone, hrows, -, hfresh⟩ := placeSlots_law (t := t) (upTo 8) (firstCores j r t s) (fun sl h => List.mem_range.1 h)
      ((rowJob_congr hcores.parts (by rw [hcores.getRow])).trans hjob)
    have hslots : RowTurned r (firstCores j r t s) (forSlots (placeSlot j r t) (firstCores j r t s)) :=
      ⟨halone, by rw [getRow, forSlots, hrows]; rfl, .inr fun sl hsl => hfresh sl (List.mem_range.2 hsl)⟩
    exact ((hcores.rowTurned r).trans hslots).trans (rowTurned_modRow _ r _ rfl)

theorem admitTeam_turned (s : State) (r t : Nat) : RowTurned r s (admitTeam s r t) := by
  unfold admitTeam
  split
  · exact rowTurned_modRow s r _ rfl
  · exact placeTeam_turned s r t

/-- A row turns to another team only where the last one's tasks have all ended (R286). -/
theorem teamCheck_turned (s : State) (r : Nat) : RowTurned r s (teamCheck s r) ∧
    (teamCheck s r = s ∨ rowEmpty s r = true ∧ (getRow s r).resident ≠ none) := by
  unfold teamCheck
  extract_lets x
  split
  next hcheck =>
    obtain ⟨-, hempty⟩ := Bool.and_eq_true_iff.1 hcheck
    split
    · exact ⟨(TasksKept.refl s).rowTurned r, .inl rfl⟩
    next n hn =>
      have hleft : RowTurned r s (modRow (leaveTags s r) r fun x => { x with ended := x.ended ++ [n], resident := none, phase := .loaded }) :=
        ((leaveTags_tasks s r).rowTurned r).trans (rowTurned_modRow _ r _ rfl)
      have hfull : rowEmpty s r = true ∧ (getRow s r).resident ≠ none := ⟨hempty, fun h => nomatch h.symm.trans hn⟩
      extract_lets s'
      split
      · exact ⟨hleft.trans (admitTeam_turned _ r _), .inr hfull⟩
      · exact ⟨hleft, .inr hfull⟩
  next => exact ⟨(TasksKept.refl s).rowTurned r, .inl rfl⟩

theorem TasksKept.setHead {s t : State} (h : TasksKept s t) (r sl : Nat) (k : Head) :
    TasksKept (Machine.setHead s r sl k) (Machine.setHead t r sl k) :=
  ⟨by rw [Machine.setHead, h.heads]; rfl, h.rows, h.parts, h.now⟩

theorem TasksKept.modHead {s t : State} (h : TasksKept s t) (r sl : Nat) (f : Head → Head) :
    TasksKept (Machine.modHead s r sl f) (Machine.modHead t r sl f) := by
  rw [Machine.modHead, Machine.modHead, h.getHead]
  exact h.setHead r sl _

theorem TasksKept.modJob {s t : State} (h : TasksKept s t) (p : Nat) (f : Job → Job) :
    TasksKept (Machine.modJob s p f) (Machine.modJob t p f) :=
  ⟨h.heads, h.rows, by simp only [Machine.modJob, modPart, h.getPart, h.parts], h.now⟩

/-! The end of a task (R133, R296). -/

/-- The head of a strand whose task has ended. -/
def taskLeft (h : Head) : Head :=
  { h with task := none, mailbox := [], flights := [], commit := none, pend := none, wait := .no, why := 0 }

/-- The state that records the end of a task: its status word with its job, its slot free. -/
def taskOver (s : State) (r sl p task : Nat) (status : Word) : State :=
  setHead (modJob s p fun j => { j with ended := tput j.ended task status }) r sl (taskLeft (getHead s r sl))

theorem endTask_form {s : State} {r sl k p : Nat} {j : Job} (status : Word) (htask : (getHead s r sl).task = some k)
    (hjob : rowJob s r = some (p, j)) : ∃ u, endTask s r sl status = teamCheck u r ∧ TasksKept (taskOver s r sl p k status) u := by
  unfold endTask
  simp only [htask, hjob]
  refine ⟨_, rfl, ?_⟩
  refine TasksKept.modHead (.trans (.modJob ?_ _ _) (applyHeld_tasks _ _ _)) r sl _
  refine .trans ?_ (dropWalks_tasks _ _)
  refine .trans (.trans (.trans ?_ (leaveGroups_tasks _ p k)) (.forCols ?_ _)) ⟨rfl, rfl, rfl, rfl⟩
  · exact ⟨rfl, rfl, rfl, rfl⟩
  · exact fun s c => (modCore_tasks _ _ _).trans (setLane_tasks _ _ _ _ _)

/-! Tables. -/

theorem mem_tput_same {α : Type} (t : Tbl α) (k : Nat) (x : α) : (k, x) ∈ tput t k x := by
  induction t with
  | nil => exact List.mem_singleton_self _
  | cons q t ih =>
    obtain ⟨i, y⟩ := q
    rw [tput]
    split
    · exact List.mem_cons_self
    · split
      · exact List.mem_cons_self
      · exact List.mem_cons_of_mem _ ih

theorem mem_tput_ne {α : Type} {t : Tbl α} {k : Nat} {x : α} {q : Nat × α} (hne : q.1 ≠ k) : q ∈ tput t k x ↔ q ∈ t := by
  have hnew : q ≠ (k, x) := fun h => hne (congrArg Prod.fst h)
  induction t with
  | nil => simp [tput, hnew]
  | cons a t ih =>
    obtain ⟨i, y⟩ := a
    rw [tput]
    split
    · simp [hnew]
    · split
      next h => simp [hnew, show q ≠ (i, y) from fun e => hne ((congrArg Prod.fst e).trans h)]
      next => simp [ih]

/-- Is a key listed in a table? -/
def listed {α : Type} (t : Tbl α) (k : Nat) : Prop := ∃ q ∈ t, q.1 = k

theorem listed_tput {α : Type} (t : Tbl α) (k i : Nat) (x : α) : listed (tput t k x) i ↔ i = k ∨ listed t i := by
  by_cases hi : i = k
  · simp only [hi, true_or, iff_true]
    exact ⟨_, mem_tput_same t k x, rfl⟩
  · simp only [hi, false_or]
    constructor <;> rintro ⟨q, hq, rfl⟩
    · exact ⟨q, (mem_tput_ne hi).1 hq, rfl⟩
    · exact ⟨q, (mem_tput_ne hi).2 hq, rfl⟩

theorem any_eq_listed {α : Type} {t : Tbl α} {k : Nat} : (t.any fun q => q.1 == k) = true ↔ listed t k := by
  simp [listed]

theorem rowJob_eq_some {s : State} {r p : Nat} {j : Job} :
    rowJob s r = some (p, j) ↔ (getRow s r).part = some p ∧ (getPart s p).job = some j := by
  unfold rowJob
  split
  next h => simp [h]
  next q h =>
    simp only [h, Option.map_eq_some_iff, Prod.mk.injEq, Option.some.injEq]
    constructor
    · rintro ⟨a, ha, rfl, rfl⟩
      exact ⟨rfl, ha⟩
    · rintro ⟨rfl, ha⟩
      exact ⟨j, ha, rfl, rfl⟩

/-! The end of one task, as the others see it. -/

/-- The tasks of the device but those listed are where they were, and no head has begun to wait. -/
structure OthersStay (gone : List Nat) (s t : State) : Prop where
  now : t.now = s.now
  part : ∀ r, (getRow t r).part = (getRow s r).part
  absent : ∀ r, (getRow s r).resident = none → (getRow t r).resident = none
  others : ∀ i x, (tget s.heads i Head.reset).task = some x → x ∉ gone → tget t.heads i Head.reset = tget s.heads i Head.reset
  heads : ∀ i, tget t.heads i Head.reset = tget s.heads i Head.reset ∨ (tget t.heads i Head.reset).wait = .no
  team : ∀ r sl x, sl < 8 → (getHead s r sl).task = some x → x ∉ gone → (getRow t r).resident = (getRow s r).resident
  resident : ∀ r, (getRow t r).resident = (getRow s r).resident ∨
    ∀ sl < 8, (getHead t r sl).task = none ∨ (getHead t r sl).wait = .no

theorem TasksKept.othersStay {s t : State} (h : TasksKept s t) (gone : List Nat) : OthersStay gone s t where
  now := h.now
  part r := by rw [h.getRow]
  absent r hr := by rw [h.getRow, hr]
  others i x _ _ := by rw [h.heads]
  heads i := .inl (by rw [h.heads])
  team r _ _ _ _ _ := by rw [h.getRow]
  resident r := .inl (by rw [h.getRow])

theorem OthersStay.trans {gone : List Nat} {s t u : State} (h : OthersStay gone s t) (g : OthersStay gone t u) : OthersStay gone s u where
  now := g.now.trans h.now
  part r := (g.part r).trans (h.part r)
  absent r hr := g.absent r (h.absent r hr)
  others i x hx hk := by
    have hsame := h.others i x hx hk
    exact (g.others i x (by rw [hsame, hx]) hk).trans hsame
  heads i := by
    rcases g.heads i with hg | hg
    · rw [hg]
      exact h.heads i
    · exact .inr hg
  team r sl x hsl hx hk := by
    have hsame : getHead t r sl = getHead s r sl := h.others _ x hx hk
    exact (g.team r sl x hsl (by rw [hsame, hx]) hk).trans (h.team r sl x hsl hx hk)
  resident r := by
    rcases g.resident r with hg | hg
    · rcases h.resident r with hh | hh
      · exact .inl (hg.trans hh)
      · refine .inr fun sl hsl => ?_
        rcases g.heads (8 * r + sl) with hsame | hwait
        · have hhead : getHead u r sl = getHead t r sl := hsame
          rw [hhead]
          exact hh sl hsl
        · exact .inr hwait
    · exact .inr hg

theorem OthersStay.mono {gone more : List Nat} {s t : State} (h : OthersStay gone s t) (hsub : ∀ x ∈ gone, x ∈ more) :
    OthersStay more s t :=
  { h with
    others := fun i x hx hgone => h.others i x hx (mt (hsub x) hgone)
    team := fun r sl x hsl hx hgone => h.team r sl x hsl hx (mt (hsub x) hgone) }

theorem rowEmpty_iff {s : State} {r : Nat} : rowEmpty s r = true ↔ ∀ sl < 8, (getHead s r sl).task = none := by
  simp [rowEmpty, upTo]

/-- A row that goes on to another team moves no task, as it held none. -/
theorem teamCheck_othersStay (gone : List Nat) (s : State) (r : Nat) : OthersStay gone s (teamCheck s r) := by
  obtain ⟨hturned, hcase⟩ := teamCheck_turned s r
  rcases hcase with hsame | ⟨hempty, hfull⟩
  · rw [hsame]
    exact (TasksKept.refl s).othersStay gone
  rw [rowEmpty_iff] at hempty
  have hown (i : Nat) : (∃ sl < 8, i = 8 * r + sl) ∨ ∀ sl < 8, i ≠ 8 * r + sl := by
    by_cases h : ∃ sl < 8, i = 8 * r + sl
    · exact .inl h
    · exact .inr fun sl hsl e => h ⟨sl, hsl, e⟩
  have hslot (sl : Nat) (hsl : sl < 8) :
      getHead (teamCheck s r) r sl = getHead s r sl ∨ (getHead (teamCheck s r) r sl).wait = .no := by
    rcases hturned.slots with hkeep | hfresh
    · exact .inl (hkeep sl hsl)
    · exact .inr (hfresh sl hsl).1
  refine ⟨hturned.now, fun r' => ?_, fun r' hr => ?_, fun i x hx _ => ?_, fun i => ?_, fun r' sl x hsl hx _ => ?_, fun r' => ?_⟩
  · by_cases hr : r' = r
    · rw [hr, hturned.part]
    · rw [hturned.rows r' hr]
  · have hne : r' ≠ r := fun e => hfull (e ▸ hr)
    rw [hturned.rows r' hne, hr]
  · rcases hown i with ⟨sl, hsl, rfl⟩ | hout
    · exact nomatch (hempty sl hsl).symm.trans hx
    · exact hturned.heads i hout
  · rcases hown i with ⟨sl, hsl, rfl⟩ | hout
    · exact hslot sl hsl
    · exact .inl (hturned.heads i hout)
  · have hne : r' ≠ r := by
      rintro rfl
      exact nomatch (hempty sl hsl).symm.trans hx
    rw [hturned.rows r' hne]
  · by_cases hr : r' = r
    · subst hr
      refine .inr fun sl hsl => ?_
      rcases hslot sl hsl with hsame | hwait
      · exact .inl (by rw [hsame, hempty sl hsl])
      · exact .inr hwait
    · exact .inl (by rw [hturned.rows r' hr])

theorem taskOver_othersStay {s : State} {r sl p k : Nat} {status : Word} (htask : (getHead s r sl).task = some k) :
    OthersStay [k] s (taskOver s r sl p k status) where
  now := rfl
  part _ := rfl
  absent _ h := h
  others i x hx hk := by
    refine tget_tput_ne _ _ _ fun e => hk (List.mem_singleton.2 ?_)
    rw [e] at hx
    exact Option.some.inj (hx.symm.trans htask)
  heads i := by
    by_cases hi : i = 8 * r + sl
    · exact .inr (by rw [hi]; exact congrArg Head.wait (getHead_setHead _ r sl _))
    · exact .inl (tget_tput_ne _ _ _ hi)
  team _ _ _ _ _ _ := rfl
  resident _ := .inl rfl

/-- A task has ended: its status word stands with its job, its slot no longer holds it, and no other task has moved. -/
structure TaskEnded (s t : State) (p k : Nat) (status : Word) : Prop extends OthersStay [k] s t where
  ended : ∀ j, (getPart s p).job = some j → getPart t p = { getPart s p with job := some { j with ended := tput j.ended k status } }

theorem getPart_modJob (s : State) (p : Nat) (f : Job → Job) :
    getPart (modJob s p f) p = { getPart s p with job := (getPart s p).job.map f } := getPart_modPart s p _

theorem taskOver_ended {s u : State} {r sl p k : Nat} {status : Word} {j : Job} (htask : (getHead s r sl).task = some k)
    (hjob : rowJob s r = some (p, j)) (hkept : TasksKept (taskOver s r sl p k status) u) :
    TaskEnded s (teamCheck u r) p k status ∧ (getHead (teamCheck u r) r sl).task ≠ some k := by
  obtain ⟨hturned, -⟩ := teamCheck_turned u r
  obtain ⟨hpart, hj⟩ := rowJob_eq_some.1 hjob
  have hended (j' : Job) (hj' : (getPart s p).job = some j') :
      getPart u p = { getPart s p with job := some { j' with ended := tput j'.ended k status } } := by
    have hover : getPart (taskOver s r sl p k status) p =
        { getPart s p with job := (getPart s p).job.map fun j => { j with ended := tput j.ended k status } } :=
      getPart_modJob s p fun j => { j with ended := tput j.ended k status }
    rw [hkept.getPart, hover, hj']
    rfl
  have hleft : getHead u r sl = taskLeft (getHead s r sl) := (hkept.getHead r sl).trans (getHead_setHead _ r sl _)
  refine ⟨⟨((taskOver_othersStay htask).trans (hkept.othersStay _)).trans (teamCheck_othersStay _ u r), fun j' hj' => ?_⟩, fun hstill => ?_⟩
  · rw [getPart, hturned.parts]
    exact hended j' hj'
  · have hgone (hsame : getHead (teamCheck u r) r sl = getHead u r sl) : False := by
      rw [hsame, hleft] at hstill
      exact nomatch hstill
    by_cases hsl : sl < 8
    · rcases hturned.slots with hkeep | hfresh
      · exact hgone (hkeep sl hsl)
      · have hrow : rowJob u r = some (p, { j with ended := tput j.ended k status }) := by
          refine rowJob_eq_some.2 ⟨?_, by rw [hended j hj]⟩
          rw [hkept.getRow]
          exact hpart
        obtain ⟨-, hnew⟩ := hfresh sl hsl
        exact hnew k _ _ hstill hrow _ (mem_tput_same _ _ _) rfl
    · exact hgone (hturned.heads _ fun sl' hsl' => by omega)

theorem endTask_ended {s : State} {r sl k p : Nat} {j : Job} (status : Word) (htask : (getHead s r sl).task = some k)
    (hjob : rowJob s r = some (p, j)) :
    TaskEnded s (endTask s r sl status) p k status ∧ (getHead (endTask s r sl status) r sl).task ≠ some k := by
  obtain ⟨u, hu, hkept⟩ := endTask_form status htask hjob
  rw [hu]
  exact taskOver_ended htask hjob hkept

/-- A strand is stopped: its task ends with an error bit (R356). -/
theorem stopStrand_ended {s : State} {r sl k p : Nat} {j : Job} (errBit : Nat) (htask : (getHead s r sl).task = some k)
    (hjob : rowJob s r = some (p, j)) :
    TaskEnded s (stopStrand s r sl errBit) p k (statusWord 0 errBit) ∧ (getHead (stopStrand s r sl errBit) r sl).task ≠ some k := by
  have hcols : TasksKept s (forCols (fun s c => modCore (dropPress s r c sl) (coreIx r c) (dropCopies sl)) s) :=
    .forCols (fun s c => (dropPress_tasks s r c sl).trans (modCore_tasks _ _ _)) s
  have hstopped := hcols.trans (dropWalks_tasks (copyWalk r sl) _)
  obtain ⟨hended, hgone⟩ := endTask_ended (statusWord 0 errBit) (by rw [hstopped.getHead, htask])
    ((rowJob_congr hstopped.parts (by rw [hstopped.getRow])).trans hjob)
  refine ⟨⟨(hstopped.othersStay _).trans hended.toOthersStay, fun j' hj' => ?_⟩, hgone⟩
  have hpart := hended.ended j' (by rw [hstopped.getPart, hj'])
  rwa [hstopped.getPart] at hpart

/-- Settles O17: EXIT that need not wait ends its task. -/
theorem taskExit : Obligations.TaskExit := by
  unfold Obligations.TaskExit
  intro s a k p j ⟨hready, hflights⟩ hwaits hdue htask hjob
  obtain ⟨-, hj⟩ := rowJob_eq_some.1 hjob
  obtain ⟨hended, hgone⟩ := endTask_ended (statusWord (bits (rdH (me s) a) 0 16) 0) htask hjob
  have hpart := hended.ended j hj
  rw [exec_exit hready, afterDrain_drained hflights, hwaits, hdue]
  refine ⟨_, rfl, hgone, _, congrArg Part.job hpart, ?_⟩
  refine (tget_tput_same _ _ _ _).trans ?_
  simp [statusWord, bits]

/-! GKILL (R142): the other members end where they stand. -/

/-- What only concerns the cores, the memory and the ends of tasks moves none of them. -/
theorem othersStay_of_rows {gone : List Nat} {s t : State} (hheads : t.heads = s.heads) (hnow : t.now = s.now)
    (hrows : ∀ r, (getRow t r).part = (getRow s r).part ∧ (getRow t r).resident = (getRow s r).resident) : OthersStay gone s t where
  now := hnow
  part r := (hrows r).1
  absent r h := (hrows r).2.trans h
  others _ _ _ _ := by rw [hheads]
  heads _ := .inl (by rw [hheads])
  team r _ _ _ _ _ := (hrows r).2
  resident r := .inl (hrows r).2

theorem awayCheck_rows (s : State) (p : Nat) (j : Job) (task : Nat) : (awayCheck s p j task).heads = s.heads ∧
    (awayCheck s p j task).parts = s.parts ∧ (awayCheck s p j task).now = s.now ∧
    ∀ r, (getRow (awayCheck s p j task) r).part = (getRow s r).part ∧ (getRow (awayCheck s p j task) r).resident = (getRow s r).resident := by
  unfold awayCheck
  extract_lets k team gone
  split
  next row _ _ _ =>
  split
  · refine ⟨rfl, rfl, rfl, fun r => ?_⟩
    by_cases hr : r = row
    · rw [hr, getRow_modRow]
      exact ⟨rfl, rfl⟩
    · rw [getRow_modRow_ne s _ hr]
      exact ⟨rfl, rfl⟩
  · exact ⟨rfl, rfl, rfl, fun r => ⟨rfl, rfl⟩⟩

/-- A task whose team is not resident ends where it stands (R142). -/
def endedAway (s : State) (p k : Nat) (j : Job) (status : Word) : State :=
  awayCheck (applyHeld (modJob (leaveGroups s p k) p fun j => { j with ended := tput j.ended k status }) p [k]) p j k

theorem endedAway_ended (s : State) (p k : Nat) (j : Job) (status : Word) : TaskEnded s (endedAway s p k j status) p k status := by
  have hleft := leaveGroups_tasks s p k
  have hjob := hleft.modJob p fun j => { j with ended := tput j.ended k status }
  have hheld := hjob.trans (applyHeld_tasks _ p [k])
  obtain ⟨hheads, hparts, hnow, hrows⟩ := awayCheck_rows (applyHeld (modJob (leaveGroups s p k) p fun j => { j with ended := tput j.ended k status }) p [k]) p j k
  refine ⟨othersStay_of_rows (hheads.trans hheld.heads) (hnow.trans hheld.now) fun r => ?_, fun j' hj' => ?_⟩
  · have hrow := hheld.getRow r
    obtain ⟨hpart, hresident⟩ := hrows r
    rw [hrow] at hpart hresident
    exact ⟨hpart, hresident⟩
  · rw [getPart, endedAway, hparts, ← getPart, hheld.getPart, getPart_modJob, hj']
    rfl

/-- Only rows of a partition's own job hold teams. -/
def OnlyRowsOf (s : State) (p : Nat) : Prop := ∀ r, (getRow s r).part = some p ∨ (getRow s r).resident = none

theorem OthersStay.onlyRowsOf {gone : List Nat} {s t : State} {p : Nat} (h : OthersStay gone s t) (hrows : OnlyRowsOf s p) :
    OnlyRowsOf t p := fun r => (hrows r).imp (fun hp => (h.part r).trans hp) (h.absent r)

theorem endOther_eq {s : State} {p k : Nat} {j : Job} (errBit : Nat) (hjob : (getPart s p).job = some j) :
    endOther s p k errBit = if (j.ended.any fun q => q.1 == k) then s
      else if (taskPlace s p j k).2.2 && (getHead s (taskPlace s p j k).1 (taskPlace s p j k).2.1).task == some k then
        stopStrand s (taskPlace s p j k).1 (taskPlace s p j k).2.1 errBit
      else endedAway s p k j (statusWord 0 errBit) := by
  simp only [endOther, hjob]
  rfl

theorem endOther_listed {s : State} {p k : Nat} {j : Job} (errBit : Nat) (hjob : (getPart s p).job = some j) (hk : listed j.ended k) :
    endOther s p k errBit = s := by
  rw [endOther_eq errBit hjob, if_pos (any_eq_listed.2 hk)]

theorem endOther_ended {s : State} {p k : Nat} {j : Job} (errBit : Nat) (hjob : (getPart s p).job = some j) (hk : ¬ listed j.ended k)
    (hrows : OnlyRowsOf s p) : TaskEnded s (endOther s p k errBit) p k (statusWord 0 errBit) := by
  rw [endOther_eq errBit hjob, if_neg (mt any_eq_listed.1 hk)]
  split
  next hhere =>
    obtain ⟨hteam, htask⟩ := Bool.and_eq_true_iff.1 hhere
    have hpart : (getRow s (taskPlace s p j k).1).part = some p := (hrows _).resolve_right fun hnone => by
      have : (getRow s (taskPlace s p j k).1).resident = some (k / strandCount j.launch.pword) := beq_iff_eq.1 hteam
      exact nomatch hnone.symm.trans this
    exact (stopStrand_ended errBit (beq_iff_eq.1 htask) (rowJob_eq_some.2 ⟨hpart, hjob⟩)).1
  next => exact endedAway_ended s p k j _

/-- Some tasks of a job have ended from outside: each that had not has the status word, and no other task has moved. -/
structure TasksEnded (s t : State) (p : Nat) (tasks : List Nat) (status : Word) : Prop extends OthersStay tasks s t where
  ended : ∀ j, (getPart s p).job = some j → ∃ e, getPart t p = { getPart s p with job := some { j with ended := e } } ∧
    (∀ k, listed j.ended k → listed e k ∧ tget e k 0 = tget j.ended k 0) ∧
    ∀ k ∈ tasks, ¬ listed j.ended k → tget e k 0 = status

theorem endOthers_ended {p : Nat} (errBit : Nat) : ∀ (tasks : List Nat) (s : State), (∃ j, (getPart s p).job = some j) → OnlyRowsOf s p →
    TasksEnded s (tasks.foldl (fun s k => endOther s p k errBit) s) p tasks (statusWord 0 errBit)
  | [], s, _, _ => ⟨(TasksKept.refl s).othersStay _, fun j hj => ⟨j.ended, by rw [← hj]; rfl, fun k hk => ⟨hk, rfl⟩,
      fun k hk => absurd hk List.not_mem_nil⟩⟩
  | k :: tasks, s, ⟨j, hj⟩, hrows => by
    have hsub : ∀ x ∈ tasks, x ∈ k :: tasks := fun x hx => List.mem_cons_of_mem _ hx
    rw [List.foldl_cons]
    by_cases hk : listed j.ended k
    · rw [endOther_listed errBit hj hk]
      obtain ⟨hstay, hended⟩ := endOthers_ended errBit tasks s ⟨j, hj⟩ hrows
      refine ⟨hstay.mono hsub, fun j' hj' => ?_⟩
      obtain rfl : j = j' := Option.some.inj (hj.symm.trans hj')
      obtain ⟨e, hpart, hold, hnew⟩ := hended j hj
      refine ⟨e, hpart, hold, fun i hi hnot => hnew i ((List.mem_cons.1 hi).resolve_left fun e => hnot (e ▸ hk)) hnot⟩
    · obtain ⟨hstay, hended⟩ := endOther_ended errBit hj hk hrows
      have hpart := hended j hj
      obtain ⟨hstay', hended'⟩ := endOthers_ended errBit tasks (endOther s p k errBit) ⟨_, congrArg Part.job hpart⟩ (hstay.onlyRowsOf hrows)
      refine ⟨(hstay.mono (by simp)).trans (hstay'.mono hsub), fun j' hj' => ?_⟩
      obtain rfl : j = j' := Option.some.inj (hj.symm.trans hj')
      obtain ⟨e, hpart', hold, hnew⟩ := hended' _ (congrArg Part.job hpart)
      rw [hpart] at hpart'
      have hlater (i : Nat) := listed_tput j.ended k i (statusWord 0 errBit)
      refine ⟨e, hpart', fun i hi => ?_, fun i hi hnot => ?_⟩
      · obtain ⟨hlisted, hsame⟩ := hold i ((hlater i).2 (.inr hi))
        exact ⟨hlisted, hsame.trans (tget_tput_ne _ _ _ fun e => hk (e ▸ hi))⟩
      · by_cases hik : i = k
        · subst hik
          obtain ⟨-, hsame⟩ := hold i ((hlater i).2 (.inl rfl))
          exact hsame.trans (tget_tput_same _ _ _ _)
        · exact hnew i ((List.mem_cons.1 hi).resolve_left hik) fun h => ((hlater i).1 h).elim hik hnot

/-! EXIT under way while GKILL ends the others (R142, R370). -/

/-- The row of a task's team (R279). -/
def teamRow (x : Part) (j : Job) (k : Nat) : Nat := x.first + k / strandCount j.launch.pword % partRows x

theorem exiting_iff {s : State} {p k : Nat} {j : Job} (hjob : (getPart s p).job = some j) : exiting s p k = true ↔
    (getRow s (teamRow (getPart s p) j k)).resident = some (k / strandCount j.launch.pword) ∧
    (getHead s (teamRow (getPart s p) j k) (k % strandCount j.launch.pword)).task = some k ∧
    (getHead s (teamRow (getPart s p) j k) (k % strandCount j.launch.pword)).wait = .exit := by
  simp [exiting, hjob, taskPlace, teamRow, and_assoc]

theorem slot_lt (w : Word) (k : Nat) : k % strandCount w < 8 := by
  have hcount : strandCount w ≤ 8 := by
    unfold strandCount bits
    omega
  exact lt_of_lt_of_le (Nat.mod_lt _ (Nat.succ_pos _)) hcount

/-- What GKILL ends does not enter EXIT. -/
theorem TasksEnded.exiting_before {s t : State} {p k : Nat} {tasks : List Nat} {status : Word} {j : Job} (h : TasksEnded s t p tasks status)
    (hjob : (getPart s p).job = some j) (hk : exiting t p k = true) : exiting s p k = true := by
  obtain ⟨hstay, hended⟩ := h
  obtain ⟨e, hpart, -⟩ := hended j hjob
  rw [exiting_iff (congrArg Part.job hpart), hpart] at hk
  obtain ⟨hteam, htask, hwait⟩ := hk
  have hsame : getHead t (teamRow (getPart s p) j k) (k % strandCount j.launch.pword) =
      getHead s (teamRow (getPart s p) j k) (k % strandCount j.launch.pword) :=
    (hstay.heads _).resolve_right fun hno => nomatch hno.symm.trans hwait
  have hrow : (getRow t (teamRow (getPart s p) j k)).resident = (getRow s (teamRow (getPart s p) j k)).resident :=
    (hstay.resident _).resolve_right fun hslots => by
      rcases hslots _ (slot_lt j.launch.pword k) with hnone | hno
      · exact nomatch hnone.symm.trans htask
      · exact nomatch hno.symm.trans hwait
  exact (exiting_iff hjob).2 ⟨hrow.symm.trans hteam, hsame ▸ htask, hsame ▸ hwait⟩

/-- A task that GKILL does not end stays in EXIT. -/
theorem TasksEnded.exiting_after {s t : State} {p k : Nat} {tasks : List Nat} {status : Word} {j : Job} (h : TasksEnded s t p tasks status)
    (hjob : (getPart s p).job = some j) (hout : k ∉ tasks) (hk : exiting s p k = true) : exiting t p k = true := by
  obtain ⟨hstay, hended⟩ := h
  obtain ⟨e, hpart, -⟩ := hended j hjob
  rw [exiting_iff (congrArg Part.job hpart), hpart]
  obtain ⟨hteam, htask, hwait⟩ := (exiting_iff hjob).1 hk
  have hsame : getHead t (teamRow (getPart s p) j k) (k % strandCount j.launch.pword) =
      getHead s (teamRow (getPart s p) j k) (k % strandCount j.launch.pword) := hstay.others _ k htask hout
  have hrow := hstay.team _ _ k (slot_lt j.launch.pword k) htask hout
  exact ⟨hrow.trans hteam, hsame ▸ htask, hsame ▸ hwait⟩

/-! Group instructions (R140 to R142). -/

theorem mem_otherMembers {s : State} {p g task k : Nat} : k ∈ otherMembers s p g task ↔ k ≠ task ∧ isMember s p g k = true := by
  unfold otherMembers isMember
  cases (getPart s p).job with
  | none => simp
  | some j => simp; tauto

theorem exec_gleave {s : State} {a : BitVec 4} (hready : HeadReady s [a]) : exec (.gleave a) s =
    .next (headDone (if isMember s ((getRow s s.curRow).part.getD 0) (rdH (me s) a).toNat ((me s).task.getD 0) then
        sendMsg s (.lower ((getRow s s.curRow).part.getD 0) (rdH (me s) a).toNat ((me s).task.getD 0)) else s) s.curRow s.curSlot (me s)) :=
  exec_ready (i := .gleave a) (as := [a]) hready rfl rfl

/-- What GKILL ends: the other members but those past step 2 of their EXIT (R142, R370). -/
def gkillTargets (s : State) (p g task : Nat) : List Nat := (otherMembers s p g task).filter fun t => !exiting s p t

theorem mem_gkillTargets {s : State} {p g task k : Nat} :
    k ∈ gkillTargets s p g task ↔ (k ≠ task ∧ isMember s p g k = true) ∧ exiting s p k = false := by
  rw [gkillTargets, List.mem_filter, mem_otherMembers, Bool.not_eq_true']

/-- The state in which GKILL has ended them. -/
def gkilled (s : State) (p g task : Nat) : State := (gkillTargets s p g task).foldl (fun s t => endOther s p t 42) s

theorem exec_gkill {s : State} {a : BitVec 4} {p g task : Nat} (hready : HeadReady s [a]) (hlevel : (me s).handler = true)
    (hpart : (getRow s s.curRow).part = some p) (htask : (me s).task = some task) (hg : (rdH (me s) a).toNat = g) : exec (.gkill a) s =
    .next (if (me s).why != 14 && !isMember s p g task then headTrap s s.curRow s.curSlot .groupMember (rdH (me s) a)
      else if (me s).why != 14 && (otherMembers s p g task).isEmpty then headDone s s.curRow s.curSlot (me s)
      else if (otherMembers s p g task).any fun t => exiting (gkilled s p g task) p t then
        headWait (gkilled s p g task) s.curRow s.curSlot 14
      else headDone (sendMsg (gkilled s p g task) (.lower p g task)) s.curRow s.curSlot (me s)) := by
  subst hg
  rw [exec_ready (i := .gkill a) (as := [a]) hready rfl rfl]
  simp only [hlevel, htask, partOf, hpart]
  rfl

/-- The trap of a strand at handler level stops it (R356). -/
theorem headTrap_handler {s : State} (c : Cause) (v : Word) (hlevel : (me s).handler = true) (hflights : (me s).flights = []) :
    headTrap s s.curRow s.curSlot c v = stopStrand s s.curRow s.curSlot 41 := by
  unfold me at hlevel hflights
  simp [headTrap, takeTrap, hlevel, hflights]

/-- GKILL's own strand, and what its job records of the others, once they have ended. -/
theorem gkilled_spec {s : State} {p g task : Nat} {j : Job} (hjob : (getPart s p).job = some j) (hrows : OnlyRowsOf s p)
    (htask : (me s).task = some task) :
    getHead (gkilled s p g task) s.curRow s.curSlot = me s ∧ (gkilled s p g task).now = s.now ∧
    (∀ k, k ∉ gkillTargets s p g task → exiting s p k = true → exiting (gkilled s p g task) p k = true) ∧
    (∀ k, exiting (gkilled s p g task) p k = true → exiting s p k = true) ∧
    ∃ j', (getPart (gkilled s p g task) p).job = some j' ∧ ∀ k, (k ≠ task ∧ isMember s p g k = true) → exiting s p k = false →
      (∀ q ∈ j.ended, q.1 ≠ k) → tget j'.ended k 0 = BitVec.ofNat 64 (2 ^ 42 + 65536) := by
  have hall : TasksEnded s (gkilled s p g task) p (gkillTargets s p g task) (statusWord 0 42) :=
    endOthers_ended 42 (gkillTargets s p g task) s ⟨j, hjob⟩ hrows
  have hown : task ∉ gkillTargets s p g task := fun h => (mem_gkillTargets.1 h).1.1 rfl
  obtain ⟨e, hpart, -, hnew⟩ := hall.ended j hjob
  refine ⟨hall.others _ task htask hown, hall.now, fun k hout hk => hall.exiting_after hjob hout hk, fun k hk => hall.exiting_before hjob hk,
    _, congrArg Part.job hpart, fun k hk hexit hnot => ?_⟩
  exact hnew k (mem_gkillTargets.2 ⟨hk, hexit⟩) fun ⟨q, hq, he⟩ => hnot q hq he

/-- Settles O23: GBAR, GVOTE and GLEAVE by their messages; GKILL by the tasks that it ends, none of which is its own or in EXIT. -/
theorem groups : Obligations.Groups := by
  unfold Obligations.Groups
  refine ⟨⟨?_, ?_⟩, ?_⟩
  · intro s op d a b hready due p task g g' arrives
    have hone : HeadReady s [a] := hready.mono (by simp)
    refine ⟨fun hflights hdue hrel hmember => ?gbar, fun hflights hdue hrel hmember => ?gvote, fun hmember => ?leaves, fun hmember => ?stranger⟩
    case gbar =>
      refine (exec_gbar hone).trans ?_
      rw [groupArrive_member hmember, afterDrainDue_goes hflights hdue, hrel]
      rfl
    case gvote =>
      refine (exec_gvote hready).trans ?_
      rw [groupArrive_member hmember, afterDrainDue_goes hflights hdue, hrel]
      cases op <;> rfl
    case leaves =>
      rw [exec_gleave hone, if_pos hmember]
      exact congrArg Host.Outcome.next (headDone_eq (sends s _) (me s))
    case stranger =>
      rw [exec_gleave hone, if_neg (Bool.not_eq_true _ ▸ hmember), headDone_eq]
  · intro s op d a b ⟨hready, hflights⟩ p task
    refine ⟨fun hcan hmember => ?gbar, fun hcan hmember => ?gvote⟩
    case gbar =>
      rw [exec_gbar (hready.mono (by simp)), groupArrive_stranger hmember]
      exact headTraps_headTrap _ _ hflights hcan
    case gvote =>
      rw [exec_gvote hready, groupArrive_stranger hmember]
      exact headTraps_headTrap _ _ hflights hcan
  · intro s a p task j hready hlevel hjob htask hrows h g other killed
    obtain ⟨hpart, hj⟩ := rowJob_eq_some.1 hjob
    obtain ⟨hown, hnow, hafter, hbefore, hkilled⟩ := gkilled_spec (g := g) hj hrows htask
    rw [exec_gkill (g := g) hready hlevel hpart htask rfl]
    have hothers (k : Nat) : k ∈ otherMembers s p g task ↔ other k := mem_otherMembers
    refine ⟨fun hmember => ?_, fun hmember hwhy hflights => ?_⟩
    · have hin : ((me s).why != 14 && !isMember s p g task) = false := by rw [hmember, Bool.not_true, Bool.and_false]
      have hnonempty (hsome : ∃ k, other k) : ((me s).why != 14 && (otherMembers s p g task).isEmpty) = false := by
        obtain ⟨k, hk⟩ := hsome
        rw [List.isEmpty_eq_false_iff.2 (List.ne_nil_of_mem ((hothers k).2 hk)), Bool.and_false]
      refine ⟨fun hnone hwhy => ?alone, fun hsome hnot => ?ends, fun hexit => ?waits⟩
      case alone =>
        have hempty : otherMembers s p g task = [] := List.eq_nil_iff_forall_not_mem.2 fun k hk => hnone k ((hothers k).1 hk)
        have hreturns : ((me s).why != 14 && (otherMembers s p g task).isEmpty) = true := by rw [bne_iff_ne.2 hwhy, hempty]; rfl
        simp only [hin, hreturns, Bool.false_eq_true, if_false, if_true]
        rw [headDone_eq]
      case ends =>
        have hquiet : ((otherMembers s p g task).any fun t => exiting (gkilled s p g task) p t) = false :=
          List.any_eq_false.2 fun k hk hyes => Bool.false_ne_true ((hnot k ((hothers k).1 hk)).symm.trans (hbefore k hyes))
        simp only [hin, hnonempty hsome, hquiet, Bool.false_eq_true, if_false]
        refine ⟨_, rfl, ?_, ⟨_, mem_tput_same _ _ _⟩, hkilled⟩
        rw [headDone, headNext_goOn]
        exact getHead_setHead _ _ _ _
      case waits =>
        obtain ⟨k, hk, hyes⟩ := hexit
        have hout : k ∉ gkillTargets s p g task := fun hin => Bool.false_ne_true ((mem_gkillTargets.1 hin).2.symm.trans hyes)
        have hbusy : ((otherMembers s p g task).any fun t => exiting (gkilled s p g task) p t) = true :=
          List.any_eq_true.2 ⟨k, (hothers k).2 hk, hafter k hout hyes⟩
        simp only [hin, hnonempty ⟨k, hk⟩, hbusy, Bool.false_eq_true, if_false, if_true]
        refine ⟨_, rfl, ?_, hkilled⟩
        rw [headWait, modHead, getHead_setHead, hown, hnow]
        split
        next hwhy => simp [h, ← hwhy]
        next => rfl
    · have hstranger : ((me s).why != 14 && !isMember s p g task) = true := by rw [bne_iff_ne.2 hwhy, hmember]; rfl
      simp only [hstranger, if_true]
      obtain ⟨hended, hgone⟩ := stopStrand_ended 41 htask hjob
      rw [headTrap_handler _ _ hlevel hflights]
      exact ⟨_, rfl, hgone, _, congrArg Part.job (hended.ended j hj), tget_tput_same _ _ _ _⟩

end Sys2Proof.Machine
end

section
/-! PROOFS. The messages of groups, mailboxes and dispensers (O56). -/

namespace Sys2Proof.Machine

/-! The fabric. -/

/-- The fabric without a message. -/
def fabricWithout (s : State) (msg : Nat) : State :=
  { s with
    msgs := s.msgs.filter fun x => decide (x.1 ≠ msg), msgAt := s.msgAt.filter fun x => decide (x.1 ≠ msg),
    msgPkt := s.msgPkt.filter fun x => decide (x.1 ≠ msg), reached := s.reached.filter fun x => decide (x.1 ≠ msg) }

theorem tdel_eq {α : Type} (t : Tbl α) (k : Nat) : tdel t k = t.filter fun x => decide (x.1 ≠ k) :=
  List.filter_congr fun x _ => by rw [Bool.eq_iff_iff]; simp

theorem dropMsg_eq (s : State) (msg : Nat) : dropMsg s msg = fabricWithout s msg := by
  simp only [dropMsg, tdel_eq, fabricWithout]

/-- The message under an identifier that has arrived. -/
def Arrives (s : State) (msg : Nat) (x : Msg) : Prop := (s.msgs.find? fun x => x.1 == msg) = some (msg, x) ∧ msgArrives s msg x = true

/-- A strand that waited goes on with a new region, whatever it waited for. -/
theorem finishHead_headAccept (h : Head) : finishHead (headAccept h) = acceptedHead h := by
  have hgo : acceptedHead h = openRegion (headNext h) := by rw [acceptedHead, headNext_goOn]; rfl
  rw [hgo]
  rfl

/-! Groups (R141, R291). -/

theorem getGroup_eq {s : State} {p : Nat} {j : Job} (hjob : (getPart s p).job = some j) (g : Nat) :
    getGroup s p g = tget j.groups g ⟨[], 0, []⟩ := by
  rw [getGroup, hjob]

theorem getGroup_setGroup {s : State} {p : Nat} {j : Job} (hjob : (getPart s p).job = some j) (g : Nat) (x : Group) :
    getGroup (setGroup s p g x) p g = x := by
  have hset : (getPart (setGroup s p g x) p).job = some { j with groups := tput j.groups g x } := by
    rw [setGroup, getPart_modJob, hjob]
    rfl
  rw [getGroup_eq hset]
  exact tget_tput_same _ _ _ _

/-- The messages of a list, one after the other: each stands in the fabric. -/
theorem sendMsgs_mem {α : Type} (f : α → Msg) : ∀ (l : List α) (s : State), (∀ x ∈ l, ∃ i, s.fresh ≤ i ∧ (i, f x) ∈ (l.foldl (fun s a => sendMsg s (f a)) s).msgs) ∧
    ∀ q ∈ s.msgs, q.1 < s.fresh → q ∈ (l.foldl (fun s a => sendMsg s (f a)) s).msgs
  | [], s => ⟨fun _ h => absurd h List.not_mem_nil, fun q hq _ => hq⟩
  | a :: l, s => by
    obtain ⟨hnew, hold⟩ := sendMsgs_mem f l (sendMsg s (f a))
    have hfresh : (sendMsg s (f a)).fresh = s.fresh + 1 := rfl
    refine ⟨fun x hx => ?_, fun q hq hlt => hold q ((mem_tput_ne hlt.ne).2 hq) (hfresh ▸ Nat.lt_succ_of_lt hlt)⟩
    rcases List.mem_cons.1 hx with rfl | hx
    · exact ⟨s.fresh, le_refl _, hold _ (mem_tput_same _ _ _) (Nat.lt_succ_self _)⟩
    · obtain ⟨i, hi, hmem⟩ := hnew x hx
      exact ⟨i, by omega, hmem⟩

/-- Sending only adds to the fabric. -/
theorem sendMsgs_tasks {α : Type} (f : α → Msg) (l : List α) (s : State) : TasksKept s (l.foldl (fun s a => sendMsg s (f a)) s) :=
  .foldl (fun s _ => sendMsg_tasks s _) l s

theorem sendMsgs_mem_same {α : Type} (f : α → Msg) (l : List α) (s : State) : (l.foldl (fun s a => sendMsg s (f a)) s).mem = s.mem :=
  foldl_keeps (P := fun t => t.mem = s.mem) (f := fun s a => sendMsg s (f a)) (fun t _ (h : t.mem = s.mem) => h) l s rfl

/-- A generation that is not complete stays as it is. -/
theorem groupCheck_open {s : State} {p g : Nat} (h : (getGroup s p g).arrived = [] ∨
    (getGroup s p g).arrived.length ≠ (getGroup s p g).members.length) : groupCheck s p g = s := by
  unfold groupCheck
  refine if_pos ?_
  rcases h with h | h
  · simp [h]
  · simp [h]

/-- A generation has been completed by arrivals of one kind: the next one is open, and every task that arrived learns the result. -/
def Finished (t : State) (p g : Nat) (members : List Nat) (gen kind : Nat) (arr : List (Nat × Nat × Word)) : Prop :=
  getGroup t p g = ⟨members, gen + 1, []⟩ ∧
  ∀ a ∈ arr, ∃ i, (i, .done p g a.1 (voteResult kind (arr.map (·.2.2))) false (kind != 0)) ∈ t.msgs

theorem groupCheck_finishes {s : State} {p g gen kind : Nat} {members : List Nat} {arr : List (Nat × Nat × Word)}
    (hjob : ∃ j, (getPart s p).job = some j) (hgroup : getGroup s p g = ⟨members, gen, arr⟩) (hsome : arr ≠ [])
    (hall : arr.length = members.length) (hkind : ∀ a ∈ arr, a.2.1 = kind) :
    (kind ≠ 0 → (groupCheck s p g).mem = s.mem) ∧ Finished (groupCheck s p g) p g members gen kind arr := by
  obtain ⟨j, hj⟩ := hjob
  have hhead : (arr.headD (0, 0, 0)).2.1 = kind := by
    cases arr with
    | nil => exact absurd rfl hsome
    | cons a l => exact hkind a List.mem_cons_self
  have hone : (arr.any fun a => a.2.1 != kind) = false := List.any_eq_false.2 fun a ha => by simp [hkind a ha]
  have hgo : ((getGroup s p g).arrived.isEmpty || (getGroup s p g).arrived.length != (getGroup s p g).members.length) = false := by
    simp [hgroup, hsome, hall]
  obtain ⟨u, hu⟩ : ∃ u, u = (if arr.any fun a => a.2.1 == 0 then
      applyHeld (setGroup s p g ⟨members, gen + 1, []⟩) p (arr.map fun a => a.1) else setGroup s p g ⟨members, gen + 1, []⟩) := ⟨_, rfl⟩
  have hcheck : groupCheck s p g =
      arr.foldl (fun s a => sendMsg s (.done p g a.1 (voteResult kind (arr.map (·.2.2))) false (kind != 0))) u := by
    rw [hgroup] at hgo
    unfold groupCheck
    simp only [hgroup, hgo, hhead, hone, hu]
    rfl
  have hkept : TasksKept (setGroup s p g ⟨members, gen + 1, []⟩) u := by
    rw [hu]
    split
    · exact applyHeld_tasks _ _ _
    · exact .refl _
  have hsent := sendMsgs_tasks (fun a : Nat × Nat × Word => Msg.done p g a.1 (voteResult kind (arr.map (·.2.2))) false (kind != 0)) arr u
  obtain ⟨hnew, -⟩ := sendMsgs_mem (fun a : Nat × Nat × Word => Msg.done p g a.1 (voteResult kind (arr.map (·.2.2))) false (kind != 0)) arr u
  rw [hcheck]
  refine ⟨fun hvote => ?_, ?_, fun a ha => ?_⟩
  · have hnone : (arr.any fun a => a.2.1 == 0) = false := List.any_eq_false.2 fun a ha => by simp [hkind a ha, hvote]
    rw [sendMsgs_mem_same, hu, hnone]
    rfl
  · have hparts : getPart (arr.foldl (fun s a => sendMsg s (.done p g a.1 (voteResult kind (arr.map (·.2.2))) false (kind != 0))) u) p =
        getPart (setGroup s p g ⟨members, gen + 1, []⟩) p := (hsent.getPart p).trans (hkept.getPart p)
    rw [getGroup, hparts, ← getGroup]
    exact getGroup_setGroup hj g _
  · obtain ⟨i, -, hmem⟩ := hnew a ha
    exact ⟨i, hmem⟩

/-- A group after a change of it, in the fabric without a message. -/
def groupSet (s : State) (msg p g : Nat) (x : Group) : State := setGroup (fabricWithout s msg) p g x

theorem groupSet_only (s : State) (msg p g : Nat) (x : Group) :
    groupSet s msg p g x = { fabricWithout s msg with parts := (groupSet s msg p g x).parts } := rfl

theorem getGroup_groupSet {s : State} {p : Nat} {j : Job} (hjob : (getPart s p).job = some j) (msg g : Nat) (x : Group) :
    getGroup (groupSet s msg p g x) p g = x := getGroup_setGroup (s := fabricWithout s msg) hjob g x

theorem job_groupSet {s : State} {p : Nat} {j : Job} (hjob : (getPart s p).job = some j) (msg g : Nat) (x : Group) :
    ∃ j', (getPart (groupSet s msg p g x) p).job = some j' := by
  rw [groupSet, setGroup, getPart_modJob]
  exact ⟨_, congrArg (Option.map _) hjob⟩

theorem exec_groupArrival {s : State} {msg p g task row slot kind : Nat} {value : Word} {j : Job} (hjob : (getPart s p).job = some j)
    (ha : Arrives s msg (.arrive p g task row slot kind value)) (hfirst : groupBehind s msg p g true = false) :
    exec (.groupArrival msg) s = .next (if isIn task (tget j.groups g ⟨[], 0, []⟩).members then
      groupCheck (groupSet s msg p g { tget j.groups g ⟨[], 0, []⟩ with
        arrived := (tget j.groups g ⟨[], 0, []⟩).arrived ++ [(task, kind, value)] }) p g
      else fabricWithout s msg) := by
  obtain ⟨hfind, harrives⟩ := ha
  have hgroup : getGroup (fabricWithout s msg) p g = tget j.groups g ⟨[], 0, []⟩ := getGroup_eq (s := fabricWithout s msg) hjob g
  show execGroupArrival msg s = _
  simp only [execGroupArrival, hfind, harrives, hfirst, dropMsg_eq, hgroup]
  rfl

theorem exec_memberLower {s : State} {msg p g task : Nat} {j : Job} (hjob : (getPart s p).job = some j)
    (ha : Arrives s msg (.lower p g task)) (hfirst : groupBehind s msg p g false = false) :
    exec (.memberLower msg) s = .next (groupCheck (groupSet s msg p g { tget j.groups g ⟨[], 0, []⟩ with
      members := (tget j.groups g ⟨[], 0, []⟩).members.filter fun x => decide (x ≠ task),
      arrived := (tget j.groups g ⟨[], 0, []⟩).arrived.filter fun a => decide (a.1 ≠ task) }) p g) := by
  obtain ⟨hfind, harrives⟩ := ha
  have hgroup : getGroup (fabricWithout s msg) p g = tget j.groups g ⟨[], 0, []⟩ := getGroup_eq (s := fabricWithout s msg) hjob g
  have hmembers (l : List Nat) : l.filter (· != task) = l.filter fun x => decide (x ≠ task) :=
    List.filter_congr fun x _ => by rw [Bool.eq_iff_iff]; simp
  have harrived (l : List (Nat × Nat × Word)) : (l.filter fun a => a.1 != task) = l.filter fun a => decide (a.1 ≠ task) :=
    List.filter_congr fun x _ => by rw [Bool.eq_iff_iff]; simp
  show execMemberLower msg s = _
  simp only [execMemberLower, hfind, harrives, hfirst, dropMsg_eq, hgroup, hmembers, harrived]
  rfl

/-! A completion reaches an arriving task (R141). -/

theorem exec_groupCompletion {s : State} {msg p g task r sl d : Nat} {value : Word} {mixed vote : Bool} {j : Job}
    (hjob : (getPart s p).job = some j) (ha : Arrives s msg (.done p g task value mixed vote))
    (hplace : taskPlace s p j task = (r, sl, true)) (hphase : (getRow s r).phase = .placed) (htask : (getHead s r sl).task = some task)
    (hwait : (getHead s r sl).wait = .group g d) (hlive : ∀ e ∈ j.ended, e.1 ≠ task) :
    exec (.groupCompletion msg) s = .next (if mixed then
        if haltStops (fabricWithout s msg) r sl then
          setHead (fabricWithout s msg) r sl { getHead s r sl with
            wait := .no, why := 0, events := (getHead s r sl).events ++ [(.groupMixed, BitVec.ofNat 64 g, (getHead s r sl).handler)] }
        else headTrapDue (setHead (fabricWithout s msg) r sl { getHead s r sl with wait := .no, why := 0 }) r sl .groupMixed (BitVec.ofNat 64 g)
      else setHead (fabricWithout s msg) r sl (acceptedHead (if vote then wrH (getHead s r sl) (BitVec.ofNat 4 d) value else getHead s r sl))) := by
  obtain ⟨hfind, harrives⟩ := ha
  have hended : (j.ended.any fun e => e.1 == task) = false := List.any_eq_false.2 fun e he => by simp [hlive e he]
  have hready : (!true || (getRow s r).phase != .placed || (getHead s r sl).task != some task) = false := by simp [hphase, htask]
  show execGroupCompletion msg s = _
  simp only [execGroupCompletion, hfind, hjob, hplace, hended, harrives, hready, dropMsg_eq, hwait, finishHead_headAccept, bne_self_eq_false]
  rfl

/-! Tokens (R143, R293 to R295). -/

/-- The sender's head once its MSEND is over with a code (R143). -/
def sentHead (h : Head) (code : Nat) : Head :=
  acceptedHead { h with mstatus := BitVec.ofNat 64 code, poison := h.poison.filter fun x => x != 0x806 }

theorem loopHealed_filter (b : Bool) (f : Nat → Bool) (l : List Nat) : loopHealed b (l.filter f) = (loopHealed b l).filter f := by
  unfold loopHealed
  split
  · rw [List.filter_comm]
  · rfl

/-- The region that opens copies no poison of MSTATUS. -/
theorem snapPoison_filter (l : List Nat) : snapPoison (l.filter fun x => x != 0x806) = (snapPoison l).filter fun x => x != 0x806 := by
  have hcopies : ((l.filter fun n => n == 0x810 || n == 0x811 || n == 0x812).map (· + 3)).filter (fun x => x != 0x806) =
      (l.filter fun n => n == 0x810 || n == 0x811 || n == 0x812).map (· + 3) := by
    refine List.filter_eq_self.2 fun x hx => ?_
    obtain ⟨n, hn, rfl⟩ := List.mem_map.1 hx
    obtain ⟨-, hloop⟩ := List.mem_filter.1 hn
    simp at hloop ⊢
    omega
  have hkept : (l.filter fun x => x != 0x806).filter (fun n => n == 0x810 || n == 0x811 || n == 0x812) =
      l.filter fun n => n == 0x810 || n == 0x811 || n == 0x812 := by
    rw [List.filter_filter]
    refine List.filter_congr fun n _ => ?_
    rw [Bool.eq_iff_iff]
    simp
    omega
  rw [snapPoison, snapPoison, hkept, List.filter_append, hcopies, List.filter_comm]

theorem sendDone_eq (s : State) (r sl msg code : Nat) :
    sendDone s r sl msg code = setHead (fabricWithout s msg) r sl (sentHead (getHead s r sl) code) := by
  have hhead (h : Head) : finishHead (healHead { headAccept h with mstatus := BitVec.ofNat 64 code } 0x806) = sentHead h code := by
    have haccept : finishHead (healHead { headAccept h with mstatus := BitVec.ofNat 64 code } 0x806) =
        { acceptedHead h with mstatus := BitVec.ofNat 64 code, poison := (acceptedHead h).poison.filter fun x => x != 0x806 } := by
      rw [← finishHead_headAccept]
      rfl
    have hpoison : (sentHead h code).poison = (acceptedHead h).poison.filter fun x => x != 0x806 := by
      refine (congrArg snapPoison (loopHealed_filter _ _ _)).trans ?_
      exact snapPoison_filter _
    rw [haccept, ← hpoison]
    rfl
  rw [sendDone, dropMsg_eq, modHead, hhead]
  rfl

theorem exec_mailboxToken {s : State} {msg p r sl task dst : Nat} {value : Word} {j : Job} (hjob : (getPart s p).job = some j)
    (ha : Arrives s msg (.token p r sl task (BitVec.ofNat 64 dst) value)) (htask : (getHead s r sl).task = some task)
    (hwait : (getHead s r sl).wait = .send msg) (hdst : dst < 2 ^ 64) :
    exec (.mailboxToken msg) s = .next (if j.launch.size ≤ dst then sendDone s r sl msg 4
      else if j.ended.any fun e => e.1 == dst then sendDone s r sl msg 3
      else if dst = task && 8 ≤ (getHead s r sl).mailbox.length then sendDone s r sl msg 5
      else placeToken s p j r sl msg dst value) := by
  obtain ⟨hfind, harrives⟩ := ha
  have hnat : (BitVec.ofNat 64 dst).toNat = dst := by rw [BitVec.toNat_ofNat, Nat.mod_eq_of_lt hdst]
  show execMailboxToken msg s = _
  simp only [execMailboxToken, hfind, hjob, htask, hwait, harrives, hnat]
  simp only [bne_self_eq_false, Bool.or_self, Bool.not_true, Bool.false_eq_true, if_false]

/-- A token for a task that has not ended, and is not the sender with its mailbox full, is placed. -/
theorem exec_mailboxToken_places {s : State} {msg p r sl task dst : Nat} {value : Word} {j : Job} (hjob : (getPart s p).job = some j)
    (ha : Arrives s msg (.token p r sl task (BitVec.ofNat 64 dst) value)) (htask : (getHead s r sl).task = some task)
    (hwait : (getHead s r sl).wait = .send msg) (hdst : dst < 2 ^ 64) (hsize : dst < j.launch.size) (hlive : ∀ e ∈ j.ended, e.1 ≠ dst)
    (hother : dst ≠ task) : exec (.mailboxToken msg) s = .next (placeToken s p j r sl msg dst value) := by
  have hended : (j.ended.any fun e => e.1 == dst) = false := List.any_eq_false.2 fun e he => by simp [hlive e he]
  rw [exec_mailboxToken hjob ha htask hwait hdst, if_neg (Nat.not_le.2 hsize), hended, decide_eq_false hother]
  rfl

theorem placeToken_resident {s : State} {p r sl msg dst r' sl' : Nat} {value : Word} {j : Job} (hplace : taskPlace s p j dst = (r', sl', true)) :
    placeToken s p j r sl msg dst value = if 8 ≤ (getHead s r' sl').mailbox.length then { s with reached := tput s.reached msg s.fresh }
      else sendDone (setHead s r' sl' { getHead s r' sl' with mailbox := (getHead s r' sl').mailbox ++ [value] }) r sl msg
        (if (getRow s r').phase == .save then 1 else 0) := by
  simp only [placeToken, hplace]
  rfl

theorem placeToken_image {s : State} {p r sl msg dst r' sl' : Nat} {value : Word} {j : Job} {x : Image}
    (hplace : taskPlace s p j dst = (r', sl', false))
    (himage : (getRow s r').images.find? (fun x => x.team == dst / strandCount j.launch.pword) = some x)
    (hroom : (tget x.heads sl' Head.reset).mailbox.length < 8) :
    placeToken s p j r sl msg dst value = sendDone (imageMail s r' (dst / strandCount j.launch.pword) sl' value) r sl msg 1 := by
  simp only [placeToken, hplace, himage, Bool.false_eq_true, if_false]
  exact if_neg (Nat.not_le.2 hroom)

theorem placeToken_pending {s : State} {p r sl msg dst r' sl' : Nat} {value : Word} {j : Job}
    (hplace : taskPlace s p j dst = (r', sl', false))
    (himage : (getRow s r').images.find? (fun x => x.team == dst / strandCount j.launch.pword) = none)
    (hrecord : (mboxPlace s j dst).isSome) (hsound : mboxBad s j dst = false) (hroom : (mboxTokens s j dst).length < 8) :
    placeToken s p j r sl msg dst value = sendDone (mboxPut s j dst (mboxTokens s j dst ++ [value])) r sl msg 2 := by
  have hgo : ((mboxPlace s j dst).isNone || mboxBad s j dst || decide (8 ≤ (mboxTokens s j dst).length)) = false := by
    rw [hsound, decide_eq_false (Nat.not_le.2 hroom), Option.isNone_eq_false_iff.2 hrecord]
    rfl
  simp only [placeToken, hplace, himage, Bool.false_eq_true, if_false, hgo]

/-! Numbers in memory (R3). -/

theorem memRdN_congr {m m' : List Host.Cell} : ∀ {n a : Nat}, (∀ i < n, memRd m (a + i) = memRd m' (a + i)) → memRdN m a n = memRdN m' a n
  | 0, _, _ => rfl
  | n + 1, a, h => by
    have hrest : memRdN m (a + 1) n = memRdN m' (a + 1) n := memRdN_congr fun i hi => by
      rw [show a + 1 + i = a + (i + 1) by omega]
      exact h (i + 1) (by omega)
    rw [memRdN, memRdN, hrest, show memRd m a = memRd m' a from h 0 (by omega)]

theorem memRdN_lt (m : List Host.Cell) : ∀ n a : Nat, memRdN m a n < 2 ^ (8 * n)
  | 0, _ => Nat.one_pos
  | n + 1, a => by
    have hrest := memRdN_lt m n (a + 1)
    have hbyte := (memRd m a).isLt
    rw [memRdN, show 8 * (n + 1) = 8 * n + 8 by omega, Nat.pow_add]
    omega

theorem memRdN_memWrN_same : ∀ (n : Nat) (m : List Host.Cell) (a x : Nat), memRdN (memWrN m a n x) a n = x % 2 ^ (8 * n)
  | 0, _, _, x => (Nat.mod_one x).symm
  | n + 1, m, a, x => by
    have hlow : memRd (memWrN m a (n + 1) x) a = BitVec.ofNat 8 x := by
      rw [memRd_memWrN_in _ _ _ _ _ (le_refl a) (by omega)]
      simp
    have hrest := memRdN_memWrN_same n (memWr m a (BitVec.ofNat 8 x)) (a + 1) (x / 256)
    rw [memRdN, hlow, memWrN, hrest, show 8 * (n + 1) = 8 + 8 * n by omega, Nat.pow_add, Nat.mod_mul, BitVec.toNat_ofNat]

theorem memRdN_memWrN_out {m : List Host.Cell} {a b n k x : Nat} (h : b + k ≤ a ∨ a + n ≤ b) : memRdN (memWrN m a n x) b k = memRdN m b k :=
  memRdN_congr fun i hi => memRd_memWrN_out _ _ _ _ _ (by omega)

theorem physRdN_none {s : State} (hk : s.memKeys = []) : ∀ n a : Nat, physRdN s none a n = memRdN s.mem a n
  | 0, _ => rfl
  | n + 1, a => by rw [physRdN, memRdN, physRd_none hk, physRdN_none hk n]

/-- Words of eight bytes one behind the other, written in order. -/
def memWrWords (m : List Host.Cell) (b : Nat) (f : Nat → Nat) (n : Nat) : List Host.Cell :=
  (upTo n).foldl (fun m i => memWrN m (b + 8 * i) 8 (f i)) m

theorem memWrWords_succ (m : List Host.Cell) (b : Nat) (f : Nat → Nat) (n : Nat) :
    memWrWords m b f (n + 1) = memWrN (memWrWords m b f n) (b + 8 * n) 8 (f n) := by
  rw [memWrWords, upTo, List.range_succ, List.foldl_append]
  rfl

theorem memWrWords_spec (m : List Host.Cell) (b : Nat) (f : Nat → Nat) : ∀ n : Nat,
    (∀ i < n, memRdN (memWrWords m b f n) (b + 8 * i) 8 = f i % 2 ^ 64) ∧
    ∀ x, x < b ∨ b + 8 * n ≤ x → memRd (memWrWords m b f n) x = memRd m x
  | 0 => ⟨fun _ h => absurd h (Nat.not_lt_zero _), fun _ _ => rfl⟩
  | n + 1 => by
    obtain ⟨hwords, hout⟩ := memWrWords_spec m b f n
    rw [memWrWords_succ]
    refine ⟨fun i hi => ?_, fun x hx => ?_⟩
    · by_cases hlast : i = n
      · rw [hlast]
        exact memRdN_memWrN_same 8 _ _ _
      · rw [memRdN_memWrN_out (by omega)]
        exact hwords i (by omega)
    · rw [memRd_memWrN_out _ _ _ _ _ (by omega)]
      exact hout x (by omega)

/-! Pending mailbox records (R294). -/

/-- Nothing in memory is under a key or poisoned. -/
def PlainMemory (s : State) : Prop := s.memKeys = [] ∧ s.memPoison = []

theorem mboxTokens_plain {s : State} {j : Job} {n pa : Nat} {a : Attr} (hplace : mboxPlace s j n = some (pa, a)) (henc : a.enc = false)
    (hplain : PlainMemory s) (hroom : memRdN s.mem pa 8 < 8) :
    mboxTokens s j n = (upTo (memRdN s.mem pa 8)).map fun i => BitVec.ofNat 64 (memRdN s.mem (pa + 8 + 8 * i) 8) := by
  obtain ⟨hkeys, -⟩ := hplain
  have hkey : attrKey s a = none := by rw [attrKey, henc]; rfl
  simp only [mboxTokens, hplace, hkey, physRdN_none hkeys]
  rw [Nat.min_eq_left (le_of_lt hroom)]

theorem mboxBad_plain {s : State} {j : Job} {n : Nat} (hplain : PlainMemory s) : mboxBad s j n = false := by
  obtain ⟨-, hpoison⟩ := hplain
  unfold mboxBad
  split
  · rfl
  · simp [physBad, hpoison, isIn]

theorem physWrN_words {s : State} (hkeys : s.memKeys = []) (b : Nat) (f : Nat → Nat) : ∀ n : Nat,
    (upTo n).foldl (fun s i => physWrN s none (b + 8 * i) 8 (f i)) s = { s with mem := memWrWords s.mem b f n }
  | 0 => rfl
  | n + 1 => by
    rw [memWrWords_succ, upTo, List.range_succ, List.foldl_append, ← upTo, physWrN_words hkeys b f n]
    exact physWrN_none (s := { s with mem := memWrWords s.mem b f n }) hkeys _ _ _

theorem physHeal_none {s : State} (h : s.memPoison = []) (gs : List Nat) : physHeal s gs = s := by
  have hnone : (s.memPoison.filter fun g => !isIn g gs) = s.memPoison := by rw [h]; rfl
  rw [physHeal, hnone]

theorem mboxPut_plain {s : State} {j : Job} {n pa : Nat} {a : Attr} (hplace : mboxPlace s j n = some (pa, a)) (henc : a.enc = false)
    (hplain : PlainMemory s) (tokens : List Word) :
    mboxPut s j n tokens =
      { s with mem := memWrWords (memWrN s.mem pa 8 tokens.length) (pa + 8) (fun i => (tokens.getD i 0).toNat) 15 } := by
  obtain ⟨hkeys, hpoison⟩ := hplain
  have hkey : attrKey s a = none := by rw [attrKey, henc]; rfl
  have hwords := physWrN_words (s := { s with mem := memWrN s.mem pa 8 tokens.length }) hkeys (pa + 8) (fun i => (tokens.getD i 0).toNat) 15
  simp only [mboxPut, hplace, hkey, physWrN_none hkeys]
  rw [physHeal_none (s := { s with mem := memWrN s.mem pa 8 tokens.length }) hpoison]
  exact hwords

/-- What a pending record holds once a token has been put behind its tokens. -/
theorem mboxPut_spec {s : State} {j : Job} {n pa : Nat} {a : Attr} {value : Word} (hplace : mboxPlace s j n = some (pa, a)) (henc : a.enc = false)
    (hplain : PlainMemory s) (hroom : memRdN s.mem pa 8 < 8) : ∃ m, mboxPut s j n (mboxTokens s j n ++ [value]) = { s with mem := m } ∧
    memRdN m pa 8 = memRdN s.mem pa 8 + 1 ∧ memRdN m (pa + 8 + 8 * memRdN s.mem pa 8) 8 = value.toNat ∧
    (∀ i < memRdN s.mem pa 8, memRdN m (pa + 8 + 8 * i) 8 = memRdN s.mem (pa + 8 + 8 * i) 8) ∧
    ∀ x, x < pa ∨ pa + 128 ≤ x → memRd m x = memRd s.mem x := by
  obtain ⟨k, hk⟩ : ∃ k, k = memRdN s.mem pa 8 := ⟨_, rfl⟩
  rw [← hk] at hroom ⊢
  have htokens := mboxTokens_plain hplace henc hplain (hk ▸ hroom)
  rw [← hk] at htokens
  have hlen : (mboxTokens s j n).length = k := by rw [htokens, List.length_map, upTo, List.length_range]
  have hold (i : Nat) (hi : i < k) : ((mboxTokens s j n ++ [value]).getD i 0).toNat = memRdN s.mem (pa + 8 + 8 * i) 8 := by
    have hword : (mboxTokens s j n ++ [value]).getD i 0 = BitVec.ofNat 64 (memRdN s.mem (pa + 8 + 8 * i) 8) := by
      simp [htokens, List.getElem?_append_left, upTo, hi]
    rw [hword, BitVec.toNat_ofNat, Nat.mod_eq_of_lt (memRdN_lt _ 8 _)]
  have hnew : ((mboxTokens s j n ++ [value]).getD k 0).toNat = value.toNat := by
    simp [List.getD, hlen]
  obtain ⟨hwords, hout⟩ := memWrWords_spec (memWrN s.mem pa 8 (k + 1)) (pa + 8) (fun i => ((mboxTokens s j n ++ [value]).getD i 0).toNat) 15
  have hput := mboxPut_plain hplace henc hplain (mboxTokens s j n ++ [value])
  rw [List.length_append, hlen] at hput
  refine ⟨_, hput, ?_, ?_, fun i hi => ?_, fun x hx => ?_⟩
  · have hcount : memRdN (memWrWords (memWrN s.mem pa 8 (k + 1)) (pa + 8) (fun i => ((mboxTokens s j n ++ [value]).getD i 0).toNat) 15) pa 8 =
        memRdN (memWrN s.mem pa 8 (k + 1)) pa 8 := memRdN_congr fun i hi => hout _ (by omega)
    refine hcount.trans ((memRdN_memWrN_same 8 _ _ _).trans ?_)
    omega
  · refine (hwords k (by omega)).trans ?_
    rw [hnew, Nat.mod_eq_of_lt value.isLt]
  · refine (hwords i (by omega)).trans ?_
    rw [hold i hi, Nat.mod_eq_of_lt (memRdN_lt _ 8 _)]
  · refine (hout x (by omega)).trans (memRd_memWrN_out _ _ _ _ _ (by omega))

/-! Tiles (R136, R292). -/

theorem exec_dispenserRequest {s : State} {msg p r sl die num d : Nat} {x : Dispenser} (ha : Arrives s msg (.tile p r sl die num d))
    (hfirst : tileBehind s msg p r sl die num = false) (hwait : (getHead s r sl).wait = .tile msg)
    (hx : (s.dispensers.find? fun y => y.part == p && y.die == die && y.num == num) = some x) :
    exec (.dispenserRequest msg) s = .next (setHead { fabricWithout s msg with
        dispensers := s.dispensers.map fun z => if z.part == p && z.die == die && z.num == num then (nextTile x).2.2 else z } r sl
      (acceptedHead (wrH (wrH (getHead s r sl) (BitVec.ofNat 4 d) (nextTile x).1) (BitVec.ofNat 4 (d + 1)) (nextTile x).2.1))) := by
  obtain ⟨hfind, harrives⟩ := ha
  have hhead : getHead (fabricWithout s msg) r sl = getHead s r sl := rfl
  have hthere : ((fabricWithout s msg).dispensers.find? fun y => y.part == p && y.die == die && y.num == num) = some x := hx
  show execDispenserRequest msg s = _
  simp only [execDispenserRequest, hfind, harrives, hfirst, dropMsg_eq, hthere, hhead, hwait, bne_self_eq_false, finishHead_headAccept]
  rfl

/-- The dispenser that serves a request is among the dispensers, as it is afterwards. -/
theorem served_mem {α : Type} {l : List α} {f : α → Bool} {x y : α} (hx : l.find? f = some x) : y ∈ l.map fun z => if f z then y else z :=
  List.mem_map.2 ⟨x, List.mem_of_find?_eq_some hx, if_pos (List.find?_some hx)⟩

/-! The statement about messages, message by message. -/

theorem jobMessages_arrival {s : State} {msg p g task row slot kind : Nat} {value : Word} {j : Job} (hjob : (getPart s p).job = some j)
    (ha : Arrives s msg (.arrive p g task row slot kind value)) (hfirst : groupBehind s msg p g true = false) :
    let gr := tget j.groups g ⟨[], 0, []⟩
    let arr := gr.arrived ++ [(task, kind, value)]
    (task ∉ gr.members → exec (.groupArrival msg) s = .next (fabricWithout s msg)) ∧
    (task ∈ gr.members → arr.length ≠ gr.members.length → Completes (exec (.groupArrival msg) s) fun t =>
      t = { fabricWithout s msg with parts := t.parts } ∧ getGroup t p g = { gr with arrived := arr }) ∧
    (task ∈ gr.members → arr.length = gr.members.length → (∀ a ∈ gr.arrived, a.2.1 = kind) →
      Completes (exec (.groupArrival msg) s) fun t => (kind ≠ 0 → t.mem = s.mem) ∧ Finished t p g gr.members gr.gen kind arr) := by
  intro gr arr
  have hset : getGroup (groupSet s msg p g { gr with arrived := arr }) p g = { gr with arrived := arr } := getGroup_groupSet hjob msg g _
  rw [exec_groupArrival hjob ha hfirst]
  refine ⟨fun hout => ?_, fun hin hlen => ?_, fun hin hlen hkind => ?_⟩
  · rw [if_neg (mt isIn_iff_mem.1 hout)]
  · rw [if_pos (isIn_iff_mem.2 hin), groupCheck_open (.inr (by rw [hset]; exact hlen))]
    exact ⟨_, rfl, groupSet_only s msg p g _, hset⟩
  · rw [if_pos (isIn_iff_mem.2 hin)]
    refine ⟨_, rfl, groupCheck_finishes (job_groupSet hjob msg g _) hset (by simp [arr]) hlen fun a hmem => ?_⟩
    rcases List.mem_append.1 hmem with hmem | hmem
    · exact hkind a hmem
    · rw [List.mem_singleton.1 hmem]

theorem jobMessages_lower {s : State} {msg p g task kind : Nat} {j : Job} (hjob : (getPart s p).job = some j)
    (ha : Arrives s msg (.lower p g task)) (hfirst : groupBehind s msg p g false = false) :
    let gr := tget j.groups g ⟨[], 0, []⟩
    let rest := gr.members.filter fun x => decide (x ≠ task)
    let arr := gr.arrived.filter fun a => decide (a.1 ≠ task)
    (arr = [] ∨ arr.length ≠ rest.length → Completes (exec (.memberLower msg) s) fun t =>
      t = { fabricWithout s msg with parts := t.parts } ∧ getGroup t p g = { gr with members := rest, arrived := arr }) ∧
    (arr ≠ [] → arr.length = rest.length → (∀ a ∈ arr, a.2.1 = kind) → Completes (exec (.memberLower msg) s) fun t =>
      (kind ≠ 0 → t.mem = s.mem) ∧ Finished t p g rest gr.gen kind arr) := by
  intro gr rest arr
  have hset : getGroup (groupSet s msg p g { gr with members := rest, arrived := arr }) p g = { gr with members := rest, arrived := arr } :=
    getGroup_groupSet hjob msg g _
  rw [exec_memberLower hjob ha hfirst]
  refine ⟨fun hopen => ?_, fun hsome hlen hkind => ?_⟩
  · rw [groupCheck_open (by rw [hset]; exact hopen)]
    exact ⟨_, rfl, groupSet_only s msg p g _, hset⟩
  · exact ⟨_, rfl, groupCheck_finishes (job_groupSet hjob msg g _) hset hsome hlen hkind⟩

/-- A strand whose vote or barrier was of mixed kinds takes its trap, where nothing else is due before it (R118, R141). -/
theorem headTrapDue_mixed {s : State} {r sl : Nat} {h : Head} (c : Cause) (v : Word) (hhead : getHead s r sl = { h with wait := .no, why := 0 })
    (hlevel : h.handler = false) (htvec : h.tvec ≠ 0) (hsound : isIn 0x801 h.poison = false) (hflights : h.flights = [])
    (hevents : h.events = []) (hlanes : ∀ c < 16, (getLane s r c sl).events = []) :
    getHead (headTrapDue s r sl c v) r sl = entered h (rowFlags s r sl) c 31 v (if h.pend.isSome then h.pc - 4 else h.pc) := by
  have hnone : raiseDue s r sl = none := raiseDue_none (by rw [hhead]; exact hevents) hlanes
  have hempty : (getHead s r sl).flights.isEmpty = true := by rw [hhead, hflights]; rfl
  have htrap : headTrapDue s r sl c v = takeTrap s r sl c 31 v (instrAddr (getHead s r sl)) := by
    simp [headTrapDue, headTrap, hempty, hnone]
  obtain ⟨hown, -⟩ := takeTrap_own c 31 v (instrAddr (getHead s r sl)) (by rw [hhead]; exact hlevel) (by rw [hhead]; exact htvec)
    (by rw [hhead]; exact hsound)
  rw [htrap, hown, hhead]
  rfl

theorem jobMessages_completion {s : State} {msg p g task r sl d : Nat} {value : Word} {mixed vote : Bool} {j : Job}
    (hjob : (getPart s p).job = some j) (ha : Arrives s msg (.done p g task value mixed vote))
    (hplace : taskPlace s p j task = (r, sl, true)) (hphase : (getRow s r).phase = .placed) (htask : (getHead s r sl).task = some task)
    (hwait : (getHead s r sl).wait = .group g d) (hlive : ∀ e ∈ j.ended, e.1 ≠ task) :
    let h := getHead s r sl
    (mixed = false → Completes (exec (.groupCompletion msg) s) fun t => t = { fabricWithout s msg with heads := t.heads } ∧
      getHead t r sl = acceptedHead (if vote then wrH h (BitVec.ofNat 4 d) value else h)) ∧
    (mixed = true → h.handler = false → h.tvec ≠ 0 → isIn 0x801 h.poison = false → haltStops s r sl = false → h.flights = [] →
      h.events = [] → (∀ c < 16, (getLane s r c sl).events = []) → Completes (exec (.groupCompletion msg) s) fun t =>
      getHead t r sl = entered h (rowFlags s r sl) .groupMixed 31 (BitVec.ofNat 64 g) (if h.pend.isSome then h.pc - 4 else h.pc)) := by
  intro h
  rw [exec_groupCompletion hjob ha hplace hphase htask hwait hlive]
  refine ⟨fun hone => ?_, fun hmixed hlevel htvec hsound hrun hflights hevents hlanes => ?_⟩
  · rw [hone]
    exact ⟨_, rfl, rfl, getHead_setHead _ _ _ _⟩
  · have hrun' : haltStops (fabricWithout s msg) r sl = false := hrun
    rw [hmixed, hrun']
    exact ⟨_, rfl, headTrapDue_mixed (s := setHead (fabricWithout s msg) r sl _) _ _ (getHead_setHead _ _ _ _) hlevel htvec hsound hflights
      hevents hlanes⟩

/-- Nothing but the sender's head has changed beside the fabric, and its MSEND is over. -/
theorem sendDone_sender {s u : State} {r sl msg code : Nat} (hhead : getHead u r sl = getHead s r sl) :
    getHead (sendDone u r sl msg code) r sl = sentHead (getHead s r sl) code := by
  rw [sendDone_eq, getHead_setHead, hhead]

theorem sendDone_only (s : State) (r sl msg code : Nat) :
    sendDone s r sl msg code = { fabricWithout s msg with heads := (sendDone s r sl msg code).heads } := by
  rw [sendDone_eq]
  rfl

/-- A token that is not placed ends its MSEND at once. -/
theorem completes_sendDone {o : Host.Outcome State Fault Refusal} {s : State} {r sl msg code : Nat} (h : o = .next (sendDone s r sl msg code)) :
    Completes o fun t => t = { fabricWithout s msg with heads := t.heads } ∧ getHead t r sl = sentHead (getHead s r sl) code :=
  ⟨_, h, sendDone_only s r sl msg code, sendDone_sender rfl⟩

/-- A token that enters a mailbox of another strand. -/
theorem completes_mailed {o : Host.Outcome State Fault Refusal} {s : State} {r sl r' sl' msg code : Nat} {k : Head}
    (hne : 8 * r' + sl' ≠ 8 * r + sl) (h : o = .next (sendDone (setHead s r' sl' k) r sl msg code)) :
    Completes o fun t => t = { fabricWithout s msg with heads := t.heads } ∧ getHead t r sl = sentHead (getHead s r sl) code ∧
      getHead t r' sl' = k := by
  refine ⟨_, h, sendDone_only (setHead s r' sl' k) r sl msg code, sendDone_sender (getHead_setHead_ne s k hne.symm), ?_⟩
  rw [sendDone_eq, getHead_setHead_ne _ _ hne]
  exact getHead_setHead s r' sl' k

/-- A token that enters the mailbox in a saved image. -/
theorem completes_imaged {o : Host.Outcome State Fault Refusal} {s : State} {r sl r' sl' msg code team : Nat} {value : Word} {x : Image}
    (hx : x ∈ (getRow s r').images) (hteam : x.team = team) (h : o = .next (sendDone (imageMail s r' team sl' value) r sl msg code)) :
    let k := tget x.heads sl' Head.reset
    Completes o fun t => t = { fabricWithout s msg with heads := t.heads, rows := t.rows } ∧
      getHead t r sl = sentHead (getHead s r sl) code ∧
      { x with heads := tput x.heads sl' { k with mailbox := k.mailbox ++ [value] } } ∈ (getRow t r').images := by
  intro k
  refine ⟨_, h, ?_, sendDone_sender rfl, ?_⟩
  · rw [sendDone_eq]
    rfl
  · have hrow : getRow (sendDone (imageMail s r' team sl' value) r sl msg code) r' = getRow (imageMail s r' team sl' value) r' := by
      rw [sendDone_eq]
      rfl
    rw [hrow, imageMail, getRow_modRow]
    exact List.mem_map.2 ⟨x, hx, if_pos hteam⟩

/-- Settles O56: each message by its own law. -/
theorem jobMessages : Obligations.JobMessages := by
  unfold Obligations.JobMessages
  intro s p g r sl task kind d dst num msg value j hslr hrow hjob m gr left fabric arrives finished group h
  refine ⟨fun row slot ha hfirst => jobMessages_arrival hjob ha hfirst, fun ha hfirst => jobMessages_lower hjob ha hfirst,
    fun mixed vote ha hplace hphase htask hwait _ hlive => jobMessages_completion hjob ha hplace hphase htask hwait hlive, ?token, ?tile⟩
  case token =>
    intro ha htask hwait hdst sender only
    have hexec := exec_mailboxToken hjob ha htask hwait hdst
    have hplaces := exec_mailboxToken_places hjob ha htask hwait hdst
    have hlive (hnot : ∀ e ∈ j.ended, e.1 ≠ dst) : (j.ended.any fun e => e.1 == dst) = false :=
      List.any_eq_false.2 fun e he => by simp [hnot e he]
    refine ⟨fun hsize => ?noTask, fun hsize hended => ?ended, fun hsize hother hnot r' sl' hplace hsl' hne hroom => ?enters,
      fun hsize hnot r' sl' hplace hother hfull => ?held, fun hself hsize hnot hfull => ?self,
      fun hother hsize hnot r' sl' hplace hr' => ⟨fun x himage hroom => ?image, fun pa a himage hrecord henc hkeys hpoison hroom => ?pending⟩⟩
    case noTask => exact completes_sendDone (hexec.trans (by rw [if_pos hsize]))
    case ended =>
      obtain ⟨e, he, hedst⟩ := hended
      exact completes_sendDone (hexec.trans (by rw [if_neg (Nat.not_le.2 hsize), any_eq_listed.2 ⟨e, he, hedst⟩]; rfl))
    case enters =>
      have hindex : 8 * r' + sl' ≠ 8 * r + sl := fun e => hne (by ext <;> simp <;> omega)
      have hsend := hplaces hsize hnot hother
      rw [placeToken_resident hplace, if_neg (Nat.not_le.2 hroom)] at hsend
      simp only [beq_iff_eq] at hsend
      exact completes_mailed hindex hsend
    case held => rw [hplaces hsize hnot hother, placeToken_resident hplace, if_pos hfull]
    case self =>
      refine completes_sendDone (hexec.trans ?_)
      rw [if_neg (Nat.not_le.2 hsize), hlive hnot, decide_eq_true hself, decide_eq_true hfull]
      rfl
    case image =>
      have hsend := hplaces hsize hnot hother
      rw [placeToken_image hplace himage hroom] at hsend
      have hteam : (x.team == dst / strandCount j.launch.pword) = true := List.find?_some (p := fun x : Image => x.team == dst / strandCount j.launch.pword) himage
      exact completes_imaged (List.mem_of_find?_eq_some himage) (beq_iff_eq.1 hteam) hsend
    case pending =>
      have hplain : PlainMemory s := ⟨hkeys, hpoison⟩
      obtain ⟨m', hput, hcount, hnew, hold, hout⟩ := mboxPut_spec (value := value) hrecord henc hplain hroom
      have hlen : (mboxTokens s j dst).length < 8 := by
        rw [mboxTokens_plain hrecord henc hplain hroom, List.length_map, upTo, List.length_range]
        exact hroom
      have hsend := hplaces hsize hnot hother
      rw [placeToken_pending hplace himage (by rw [hrecord]; rfl) (mboxBad_plain hplain) hlen, hput, sendDone_eq] at hsend
      exact ⟨_, hsend, getHead_setHead _ _ _ _, rfl, rfl, hcount, hnew, hold, hout⟩
  case tile =>
    intro die x ha hd hwait hfirst hx htw hth nx ny i k gets
    have hexec := exec_dispenserRequest ha hfirst hwait hx
    refine ⟨fun hmore => ?grants, fun hdone => ?answers⟩
    case grants =>
      have htile : nextTile x = (BitVec.ofNat 64 ((x.y0 + x.th * k) * 2 ^ 32 + (x.x0 + x.tw * i)),
          BitVec.ofNat 64 (min x.th (x.h - x.th * k) * 2 ^ 32 + min x.tw (x.w - x.tw * i)), { x with next := x.next + 1 }) := if_pos hmore
      rw [htile] at hexec
      exact ⟨_, hexec, ⟨rfl, rfl, getHead_setHead _ _ _ _⟩, served_mem hx⟩
    case answers =>
      have htile : nextTile x = (BitVec.allOnes 64, 0, x) := if_neg (Nat.not_lt.2 hdone)
      rw [htile] at hexec
      exact ⟨_, hexec, ⟨rfl, rfl, getHead_setHead _ _ _ _⟩, served_mem hx⟩

end Sys2Proof.Machine
end

section
/-! PROOFS. The end of a slice, and the stop of a team (R286, R369, R370; O55). -/

namespace Sys2Proof.Machine

/-! Slot by slot: a change of one strand's head, and the same at every slot of a row. -/

/-- One head of a row has changed, and nothing else of tasks. -/
structure SlotChanged (r sl : Nat) (g : Head → Head) (s t : State) : Prop where
  now : t.now = s.now
  parts : t.parts = s.parts
  rows : t.rows = s.rows
  own : getHead t r sl = g (getHead s r sl)
  heads : ∀ i, i ≠ 8 * r + sl → tget t.heads i Head.reset = tget s.heads i Head.reset

theorem TasksKept.slotChanged {s t : State} (h : TasksKept s t) (r sl : Nat) : SlotChanged r sl id s t :=
  ⟨h.now, h.parts, h.rows, h.getHead r sl, fun i _ => by rw [h.heads]⟩

theorem SlotChanged.trans {r sl : Nat} {g f : Head → Head} {s t u : State} (h : SlotChanged r sl g s t) (k : SlotChanged r sl f t u) :
    SlotChanged r sl (fun x => f (g x)) s u :=
  ⟨k.now.trans h.now, k.parts.trans h.parts, k.rows.trans h.rows, by rw [k.own, h.own], fun i hi => (k.heads i hi).trans (h.heads i hi)⟩

theorem slotChanged_modHead (s : State) (r sl : Nat) (f : Head → Head) : SlotChanged r sl f s (modHead s r sl f) :=
  ⟨rfl, rfl, rfl, getHead_setHead _ _ _ _, fun _ hi => tget_tput_ne _ _ _ hi⟩

/-- Every listed slot of a row has changed so, and nothing else of tasks. -/
structure SlotsChanged (r : Nat) (l : List Nat) (g : Nat → Head → Head) (s t : State) : Prop where
  now : t.now = s.now
  parts : t.parts = s.parts
  rows : t.rows = s.rows
  own : ∀ sl ∈ l, getHead t r sl = g sl (getHead s r sl)
  heads : ∀ i, (∀ sl ∈ l, i ≠ 8 * r + sl) → tget t.heads i Head.reset = tget s.heads i Head.reset

theorem slotsChanged_foldl {r : Nat} {f : State → Nat → State} {g : Nat → Head → Head}
    (hf : ∀ s sl, SlotChanged r sl (g sl) s (f s sl)) : ∀ (l : List Nat) (s : State), l.Nodup → SlotsChanged r l g s (l.foldl f s)
  | [], s, _ => ⟨rfl, rfl, rfl, fun _ h => absurd h List.not_mem_nil, fun _ _ => rfl⟩
  | a :: l, s, hnodup => by
    obtain ⟨hout, hnodup'⟩ := List.nodup_cons.1 hnodup
    have hfirst := hf s a
    have hrest := slotsChanged_foldl hf l (f s a) hnodup'
    refine ⟨hrest.now.trans hfirst.now, hrest.parts.trans hfirst.parts, hrest.rows.trans hfirst.rows, fun sl hsl => ?_, fun i hi => ?_⟩
    · rcases List.mem_cons.1 hsl with rfl | hsl
      · have hkept : getHead (l.foldl f (f s sl)) r sl = getHead (f s sl) r sl :=
          hrest.heads _ fun sl' hsl' e => hout (by rwa [show sl = sl' by omega])
        exact hkept.trans hfirst.own
      · have hkept : getHead (f s a) r sl = getHead s r sl := hfirst.heads _ fun e => hout (by rwa [show a = sl by omega])
        rw [List.foldl_cons, hrest.own sl hsl, hkept]
    · exact (hrest.heads i fun sl hsl => hi sl (List.mem_cons_of_mem _ hsl)).trans (hfirst.heads i (hi a List.mem_cons_self))

theorem slotsChanged_forSlots {r : Nat} {f : State → Nat → State} {g : Nat → Head → Head}
    (hf : ∀ s sl, SlotChanged r sl (g sl) s (f s sl)) (s : State) : SlotsChanged r (upTo 8) g s (forSlots f s) :=
  slotsChanged_foldl hf _ s List.nodup_range

theorem SlotsChanged.head {r : Nat} {g : Nat → Head → Head} {s t : State} (h : SlotsChanged r (upTo 8) g s t) {sl : Nat} (hsl : sl < 8) :
    getHead t r sl = g sl (getHead s r sl) := h.own sl (List.mem_range.2 hsl)

theorem SlotsChanged.rowAlone {r : Nat} {g : Nat → Head → Head} {s t : State} (h : SlotsChanged r (upTo 8) g s t) : RowAlone r s t :=
  ⟨h.now, h.parts, fun r' _ => by rw [getRow, h.rows]; rfl, fun i hi => h.heads i fun sl hsl => hi sl (List.mem_range.1 hsl)⟩

/-! Stopping a team for a save (R369, R370). -/

/-- The head of a strand that is rewound for a save: what its lane instructions of ended regions still have to do stays queued. -/
def savedHead (h : Head) : Head :=
  { atRegion h with flights := h.flights.filter fun f => f.region != h.region, events := h.events ++ rewindPoison h }

/-- The head of a strand whose team has been stopped. -/
def stoppedHead (h : Head) : Head :=
  if h.task.isNone then h
  else
    match h.wait with
    | .group _ _ | .publish _ | .exit => h
    | .send _ | .tile _ => savedHead h
    | _ => if h.commit.any performing then h else savedHead h

theorem dropLanding_tasks (r sl : Nat) (s : State) (c : Nat) : TasksKept s (dropLanding r sl s c) := ⟨rfl, rfl, rfl, rfl⟩

theorem rewind_slot (s : State) (r sl : Nat) : SlotChanged r sl atRegion s (rewind s r sl) := by
  obtain ⟨rq, ks, ls, ws, hform⟩ := rewind_form s r sl
  rw [hform]
  exact ⟨rfl, rfl, rfl, getHead_setHead _ _ _ _, fun _ hi => tget_tput_ne _ _ _ hi⟩

theorem rewindForSave_slot (s : State) (r sl : Nat) : SlotChanged r sl savedHead s (rewindForSave s r sl) := by
  have hrewind := rewind_slot s r sl
  have hboth := hrewind.trans (slotChanged_modHead (rewind s r sl) r sl fun x =>
    { x with flights := (getHead s r sl).flights.filter fun f => f.region != (getHead s r sl).region,
             events := x.events ++ rewindPoison (getHead s r sl) })
  exact ⟨hboth.now, hboth.parts, hboth.rows, hboth.own, hboth.heads⟩

theorem dropMsg_tasks (s : State) (msg : Nat) : TasksKept s (dropMsg s msg) := ⟨rfl, rfl, rfl, rfl⟩

theorem stopForSave_slot (r : Nat) (s : State) (sl : Nat) : SlotChanged r sl stoppedHead s (stopForSave r s sl) := by
  have hkeeps (h : stoppedHead (getHead s r sl) = getHead s r sl) {t : State} (ht : TasksKept s t) : SlotChanged r sl stoppedHead s t :=
    ⟨ht.now, ht.parts, ht.rows, by rw [ht.getHead, h], fun i _ => by rw [ht.heads]⟩
  have hrewinds (h : stoppedHead (getHead s r sl) = savedHead (getHead s r sl)) {w : State} (hw : TasksKept s w) :
      SlotChanged r sl stoppedHead s (rewindForSave w r sl) := by
    have hslot := (hw.slotChanged r sl).trans (rewindForSave_slot w r sl)
    exact ⟨hslot.now, hslot.parts, hslot.rows, hslot.own.trans h.symm, hslot.heads⟩
  have hlanding : TasksKept s (forCols (dropLanding r sl) s) := .forCols (dropLanding_tasks r sl) s
  unfold stopForSave
  extract_lets h keep
  split
  next hnone => exact hkeeps (if_pos hnone) (.refl s)
  next hsome =>
    have hstop : stoppedHead h = match h.wait with
        | .group _ _ | .publish _ | .exit => h
        | .send _ | .tile _ => savedHead h
        | _ => if h.commit.any performing then h else savedHead h := if_neg hsome
    split
    next hw => exact hkeeps (by rw [hstop, hw]) hlanding
    next hw => exact hkeeps (by rw [hstop, hw]) hlanding
    next hw => exact hkeeps (by rw [hstop, hw]) hlanding
    next hw => exact hrewinds (by rw [hstop, hw]) (dropMsg_tasks s _)
    next hw => exact hrewinds (by rw [hstop, hw]) (dropMsg_tasks s _)
    next hg hp he hs ht =>
      have hother : stoppedHead h = if h.commit.any performing then h else savedHead h := by
        rw [hstop]
        split <;> simp_all
      split
      next hperf => exact hkeeps (by rw [hother, if_pos hperf]) hlanding
      next hperf => exact hrewinds (by rw [hother, if_neg hperf]) (.refl s)

/-- A row's team has been stopped for a save. -/
structure Stopped (r : Nat) (next : Option Nat) (s t : State) : Prop extends RowAlone r s t where
  row : getRow t r = { getRow s r with phase := .save, next := next }
  slots : ∀ sl < 8, getHead t r sl = stoppedHead (getHead s r sl)

theorem rowAlone_modRow (s : State) (r : Nat) (f : Row → Row) : RowAlone r s (modRow s r f) :=
  ⟨rfl, rfl, fun _ hr => getRow_modRow_ne s f hr, fun _ _ => rfl⟩

theorem startSave_stopped (s : State) (r : Nat) (next : Option Nat) : Stopped r next s (startSave s r next) := by
  have hslots := slotsChanged_forSlots (stopForSave_slot r) s
  rw [startSave]
  generalize forSlots (stopForSave r) s = u at hslots
  have hrow : getRow u r = getRow s r := by rw [getRow, hslots.rows]; rfl
  exact ⟨hslots.rowAlone.trans (rowAlone_modRow u r _), (getRow_modRow u r _).trans (by rw [hrow]), fun sl hsl => hslots.head hsl⟩

/-- A strand that waits for nothing, and commits nothing, is rewound. -/
theorem stoppedHead_free {h : Head} (htask : h.task ≠ none) (hwait : h.wait = .no) (hcommit : h.commit = none) : stoppedHead h = savedHead h := by
  have hsome : ¬ h.task.isNone = true := by simpa using htask
  unfold stoppedHead
  rw [if_neg hsome, hwait, hcommit]
  rfl

/-- A strand that is registered in a group stays as it is. -/
theorem stoppedHead_group {h : Head} {g d : Nat} (hwait : h.wait = .group g d) : stoppedHead h = h := by
  unfold stoppedHead
  split
  · rfl
  · rw [hwait]

theorem stoppedHead_empty {h : Head} (htask : h.task = none) : stoppedHead h = h := if_pos (by rw [htask]; rfl)

/-! Slices (R286). -/

theorem stopReady_iff {s : State} {r : Nat} : stopReady s r = true ↔ (getRow s r).halted = false ∧
    ∀ sl < 8, (getHead s r sl).task = none ∨ ((getHead s r sl).handler = false ∧ (getHead s r sl).wait ≠ .exit) := by
  simp [stopReady, upTo]

theorem powered_iff {s : State} {r : Nat} : powered s r = true ↔ (getRow s r).cur ≠ .off := by simp [powered]

/-- A team's slice can end: one of several teams of a running job, on a row that may be stopped. -/
theorem sliceOpen_iff {s : State} {r p : Nat} (hpart : (getRow s r).part = some p) : sliceOpen s r = true ↔
    (getRow s r).phase = .placed ∧ 1 < (rowTeams s r).length ∧ stopReady s r = true ∧ powered s r = true ∧
      (getPart s p).jstate = .running := by
  unfold sliceOpen
  rw [hpart]
  simp [and_assoc]

/-- What the end of a slice comes to: the slice begins again, or the team is stopped for the next. -/
theorem endSlice_same {s : State} {r team : Nat} (hnext : nextTeam s r (some team) = some team) :
    endSlice s r team = modRow s r fun x => { x with sliceAt := s.now } := by
  rw [endSlice, hnext]
  exact if_pos rfl

theorem endSlice_other {s : State} {r team u : Nat} (hnext : nextTeam s r (some team) = some u) (hne : u ≠ team) :
    endSlice s r team = startSave s r (some u) := by
  rw [endSlice, hnext]
  exact if_neg hne

theorem exec_sliceEnd {s : State} {row team p : Nat} {j : Job} (hteam : (getRow s row).resident = some team)
    (hjob : rowJob s row = some (p, j)) : exec (.sliceEnd row) s =
    .next (if sliceOpen s row && (getRow s row).sliceAt + sliceNs j.launch ≤ s.now then endSlice s row team else s) := by
  show execSliceEnd row s = _
  rw [execSliceEnd, hteam, hjob]

theorem exec_sliceIdleEnd {s : State} {row team : Nat} (hteam : (getRow s row).resident = some team) : exec (.sliceIdleEnd row) s =
    .next (if sliceOpen s row && (upTo 8).all fun sl => (getHead s row sl).task.isNone || idleLong s row sl then endSlice s row team else s) := by
  show execSliceIdleEnd row s = _
  rw [execSliceIdleEnd, hteam]

/-- The strands of a row have all waited long: each slot is empty or idle. -/
theorem allIdle {s : State} {row : Nat} (h : ∀ i < 8, (getHead s row i).task = none ∨ idleLong s row i = true) :
    ((upTo 8).all fun sl => (getHead s row sl).task.isNone || idleLong s row sl) = true := by
  refine List.all_eq_true.2 fun sl hsl => ?_
  rcases h sl (List.mem_range.1 hsl) with hnone | hidle
  · rw [hnone]; rfl
  · rw [hidle, Bool.or_true]

theorem idleLong_mail {s : State} {r sl : Nat} (hwhy : (getHead s r sl).why = 10) (hlong : (getHead s r sl).since + 100000 ≤ s.now) :
    idleLong s r sl = true := by
  simp [idleLong, hwhy, hlong]

/-- A strand whose arrival at a GBAR stands at the group's home. -/
theorem idleLong_group {s : State} {r sl p g d : Nat} {j : Job} {a : Nat × Nat × Word} (hjob : rowJob s r = some (p, j))
    (hlong : (getHead s r sl).since + 100000 ≤ s.now) (hwait : (getHead s r sl).wait = .group g d)
    (ha : a ∈ (tget j.groups g ⟨[], 0, []⟩).arrived) (htask : (getHead s r sl).task = some a.1) (hkind : a.2.1 = 0) :
    idleLong s r sl = true := by
  obtain ⟨hpart, hj⟩ := rowJob_eq_some.1 hjob
  have hin : ((tget j.groups g ⟨[], 0, []⟩).arrived.any fun b => b.1 == a.1 && b.2.1 == 0) = true :=
    List.any_eq_true.2 ⟨a, ha, by simp [hkind]⟩
  simp only [idleLong, hwait, htask, partOf, hpart, Option.getD_some, hj, hin, Bool.or_true, Bool.true_and, decide_eq_true hlong]

/-! The statement about slices. -/

/-- A row's team may be stopped, and every one of its strands is rewound. -/
def MayStop (s : State) (row : Nat) : Prop := (getRow s row).halted = false ∧ ∀ i < 8, (getHead s row i).task = none ∨
  ((getHead s row i).handler = false ∧ (getHead s row i).wait = .no ∧ (getHead s row i).commit = none)

theorem MayStop.stopReady {s : State} {row : Nat} (h : MayStop s row) : stopReady s row = true := by
  obtain ⟨hrun, hslots⟩ := h
  refine stopReady_iff.2 ⟨hrun, fun sl hsl => (hslots sl hsl).imp_right ?_⟩
  rintro ⟨hlevel, hwait, -⟩
  exact ⟨hlevel, by rw [hwait]; exact HeadWait.noConfusion⟩

/-- The heads of a stopped team. -/
theorem MayStop.rewound {s t : State} {row : Nat} {next : Option Nat} (h : MayStop s row) (hstopped : Stopped row next s t) {i : Nat} (hi : i < 8)
    (htask : (getHead s row i).task ≠ none) : getHead t row i = savedHead (getHead s row i) := by
  obtain ⟨-, hslots⟩ := h
  obtain ⟨-, hwait, hcommit⟩ := (hslots i hi).resolve_left htask
  rw [hstopped.slots i hi, stoppedHead_free htask hwait hcommit]

/-- The end of a slice: the team stays for another one, or it is stopped and rewound for the next team. -/
theorem completes_endSlice {o : Host.Outcome State Fault Refusal} {s : State} {row team u : Nat} (hstop : MayStop s row)
    (ho : o = .next (endSlice s row team)) :
    (nextTeam s row (some team) = some team → Completes o fun t => t = { s with rows := t.rows } ∧
      getRow t row = { getRow s row with sliceAt := s.now }) ∧
    (nextTeam s row (some team) = some u → u ≠ team → Completes o fun t =>
      getRow t row = { getRow s row with phase := .save, next := some u } ∧
      ∀ i < 8, (getHead s row i).task ≠ none → (getHead t row i).task = (getHead s row i).task ∧
        (getHead t row i).pc = (getHead s row i).regpc.setWidth 48 ∧ (getHead t row i).h = (getHead s row i).h ∧
        (getHead t row i).loopc = (getHead s row i).rloopc ∧
        (getHead t row i).flights = (getHead s row i).flights.filter (fun f => decide (f.region ≠ (getHead s row i).region)) ∧
        (getHead t row i).mailbox = (getHead s row i).mailbox) := by
  refine ⟨fun hnext => ?_, fun hnext hne => ?_⟩
  · rw [endSlice_same hnext] at ho
    exact ⟨_, ho, rfl, getRow_modRow _ _ _⟩
  · rw [endSlice_other hnext hne] at ho
    have hstopped := startSave_stopped s row (some u)
    refine ⟨_, ho, hstopped.row, fun i hi htask => ?_⟩
    rw [hstop.rewound hstopped hi htask]
    refine ⟨rfl, rfl, rfl, rfl, ?_, rfl⟩
    exact List.filter_congr fun f _ => by rw [Bool.eq_iff_iff]; simp

end Sys2Proof.Machine
end

section
/-! PROOFS. The save and the restore of a team (R257, R369; O55). -/

namespace Sys2Proof.Machine

/-! Rows of an image in memory (R257). -/

/-- Memory with the 2,048 bytes from an address replaced by listed cells, at their offsets. -/
def rowWritten (m : List Host.Cell) (pa : Nat) (cells : List Host.Cell) : List Host.Cell :=
  cells.foldl (fun m c => memWr m (pa + c.1) c.2) (memClear m pa (pa + 2048))

/-- Cells of one row of an image. -/
def RowCells (cells : List Host.Cell) : Prop := ∀ c ∈ cells, c.1 < 2048

theorem memRd_filter_out {f : Host.Cell → Bool} {a : Nat} (hf : ∀ c : Host.Cell, c.1 = a → f c = true) : ∀ m : List Host.Cell,
    memRd (m.filter f) a = memRd m a
  | [] => rfl
  | (b, x) :: m => by
    have ih := memRd_filter_out hf m
    by_cases hb : b = a
    · rw [List.filter_cons_of_pos (hf (b, x) hb), memRd, memRd, if_pos hb, if_pos hb]
    · cases hfb : f (b, x) with
      | true => rw [List.filter_cons_of_pos hfb, memRd, memRd, if_neg hb, if_neg hb, ih]
      | false => rw [List.filter_cons_of_neg (by rw [hfb]; exact Bool.false_ne_true), memRd, if_neg hb, ih]

theorem memRd_none {a : Nat} : ∀ {m : List Host.Cell}, (∀ c ∈ m, c.1 ≠ a) → memRd m a = 0
  | [], _ => rfl
  | (b, x) :: m, h => by
    rw [memRd, if_neg (h (b, x) List.mem_cons_self)]
    exact memRd_none fun c hc => h c (List.mem_cons_of_mem _ hc)

theorem memRd_memClear_out {m : List Host.Cell} {lo hi a : Nat} (h : a < lo ∨ hi ≤ a) : memRd (memClear m lo hi) a = memRd m a :=
  memRd_filter_out (fun c hc => by simp [hc, h]) m

theorem memRd_memClear_in {m : List Host.Cell} {lo hi a : Nat} (hlo : lo ≤ a) (hhi : a < hi) : memRd (memClear m lo hi) a = 0 :=
  memRd_none fun c hc => by
    obtain ⟨-, hout⟩ := List.mem_filter.1 hc
    simp at hout
    omega

theorem memRd_cells_out {pa a : Nat} : ∀ (cells : List Host.Cell) (m : List Host.Cell), (∀ c ∈ cells, a ≠ pa + c.1) →
    memRd (cells.foldl (fun m c => memWr m (pa + c.1) c.2) m) a = memRd m a
  | [], _, _ => rfl
  | c :: cells, _, h =>
    (memRd_cells_out cells _ fun d hd => h d (List.mem_cons_of_mem _ hd)).trans (memRd_memWr_ne _ _ (h c List.mem_cons_self))

theorem rowWritten_out {m : List Host.Cell} {pa a : Nat} {cells : List Host.Cell} (hcells : RowCells cells) (h : a < pa ∨ pa + 2048 ≤ a) :
    memRd (rowWritten m pa cells) a = memRd m a :=
  (memRd_cells_out cells _ fun c hc => by have := hcells c hc; omega).trans (memRd_memClear_out h)

theorem rowCells_bounded (m : List Host.Cell) (k : Nat) : RowCells (rowCells m k) := fun c hc => by
  obtain ⟨d, -, rfl⟩ := List.mem_map.1 hc
  exact Nat.mod_lt _ (by decide)

theorem firmwareCells_bounded (n : Nat) : RowCells (firmwareCells n) := fun c hc => by
  obtain ⟨o, ho, hsome⟩ := List.mem_filterMap.1 hc
  have hlt : o < 2048 := List.mem_range.1 ho
  dsimp only at hsome
  split at hsome
  · exact nomatch hsome
  · rw [← Option.some.inj hsome]
    exact hlt

/-- The cells of row k of a pool, written where nothing stands, read as the pool's row. -/
theorem memRd_rowCells {pa k o : Nat} (ho : o < 2048) : ∀ (pool m : List Host.Cell), memWf pool = true → memRd m (pa + o) = 0 →
    memRd ((rowCells pool k).foldl (fun m c => memWr m (pa + c.1) c.2) m) (pa + o) = memRd pool (2048 * k + o)
  | [], _, _, hm => hm
  | (b, x) :: pool, m, hwf, hm => by
    have htail := memWf_tail hwf
    have habove := memWf_above hwf
    by_cases hk : b / 2048 = k
    · have hcons : rowCells ((b, x) :: pool) k = (b % 2048, x) :: rowCells pool k := by simp [rowCells, hk]
      rw [hcons, List.foldl_cons, memRd]
      by_cases hb : b = 2048 * k + o
      · have hoff : b % 2048 = o := by omega
        rw [if_pos hb]
        refine (memRd_cells_out _ _ fun c hc => ?_).trans (by rw [hoff]; exact memRd_memWr_same _ _ _)
        obtain ⟨d, hd, rfl⟩ := List.mem_map.1 hc
        obtain ⟨hd, hrow⟩ := List.mem_filter.1 hd
        have hgt : b < d.1 := habove d hd
        have hrow : d.1 / 2048 = k := beq_iff_eq.1 hrow
        dsimp only
        omega
      · rw [if_neg hb]
        exact memRd_rowCells ho pool _ htail (by rw [memRd_memWr_ne _ _ (by omega)]; exact hm)
    · have hcons : rowCells ((b, x) :: pool) k = rowCells pool k := by simp [rowCells, hk]
      rw [hcons, memRd, if_neg (by omega)]
      exact memRd_rowCells ho pool m htail hm

theorem rowWritten_in {m pool : List Host.Cell} {pa k o : Nat} (ho : o < 2048) (hwf : memWf pool = true) :
    memRd (rowWritten m pa (rowCells pool k)) (pa + o) = memRd pool (2048 * k + o) :=
  memRd_rowCells ho pool _ hwf (memRd_memClear_in (by omega) (by omega))

/-! Rows that lie apart, one after the other. -/

/-- Rows written at their places, in the order of a list. -/
def rowsWritten (m : List Host.Cell) (place : Nat → Nat) (cells : Nat → List Host.Cell) (l : List Nat) : List Host.Cell :=
  l.foldl (fun m k => rowWritten m (place k) (cells k)) m

/-- Does an address lie outside a row? -/
def OutsideRow (pa a : Nat) : Prop := a < pa ∨ pa + 2048 ≤ a

theorem rowsWritten_out {place : Nat → Nat} {cells : Nat → List Host.Cell} {a : Nat} (hcells : ∀ k, RowCells (cells k)) : ∀ (l : List Nat)
    (m : List Host.Cell), (∀ k ∈ l, OutsideRow (place k) a) → memRd (rowsWritten m place cells l) a = memRd m a
  | [], _, _ => rfl
  | k :: l, _, h => (rowsWritten_out hcells l _ fun i hi => h i (List.mem_cons_of_mem _ hi)).trans
      (rowWritten_out (hcells k) (h k List.mem_cons_self))

theorem rowsWritten_in {place : Nat → Nat} {pool : List Host.Cell} {k o : Nat} (ho : o < 2048) (hwf : memWf pool = true) : ∀ (l : List Nat)
    (m : List Host.Cell), k ∈ l → (∀ i ∈ l, i ≠ k → OutsideRow (place i) (place k + o)) →
    memRd (rowsWritten m place (rowCells pool) l) (place k + o) = memRd pool (2048 * k + o)
  | i :: l, m, hk, hapart => by
    have hapart' : ∀ i ∈ l, i ≠ k → OutsideRow (place i) (place k + o) := fun i hi => hapart i (List.mem_cons_of_mem _ hi)
    by_cases hin : k ∈ l
    · exact rowsWritten_in ho hwf l _ hin hapart'
    · obtain rfl : k = i := (List.mem_cons.1 hk).resolve_right hin
      refine (rowsWritten_out (rowCells_bounded pool) l _ fun i hi => hapart' i hi fun e => hin (e ▸ hi)).trans ?_
      exact rowWritten_in ho hwf

/-! The image of a core (R244, R257). -/

/-- Only memory has changed: its bytes, their keys and their poison, and the free bytes given out. -/
def MemoryOnly (s t : State) : Prop := t = { s with mem := t.mem, memKeys := t.memKeys, memPoison := t.memPoison, free := t.free }

theorem MemoryOnly.trans {s t u : State} (h : MemoryOnly s t) (k : MemoryOnly t u) : MemoryOnly s u := by
  unfold MemoryOnly at *
  rw [k, h]

theorem putRow_spec (s : State) (place : Nat × Option (BitVec 256)) (cells : List Host.Cell) (bad : List Nat) :
    MemoryOnly s (putRow s place cells bad) ∧ (putRow s place cells bad).mem = rowWritten s.mem place.1 cells := ⟨rfl, rfl⟩

theorem putRows_spec {place : Nat → Nat × Option (BitVec 256)} {cells : Nat → List Host.Cell} {bad : Nat → List Nat} :
    ∀ (l : List Nat) (s : State),
    MemoryOnly s (l.foldl (fun s k => putRow s (place k) (cells k) (bad k)) s) ∧
    (l.foldl (fun s k => putRow s (place k) (cells k) (bad k)) s).mem = rowsWritten s.mem (fun k => (place k).1) cells l
  | [], s => ⟨rfl, rfl⟩
  | k :: l, s => by
    obtain ⟨honly, hmem⟩ := putRow_spec s (place k) (cells k) (bad k)
    obtain ⟨hrest, hrestMem⟩ := putRows_spec (place := place) (cells := cells) (bad := bad) l (putRow s (place k) (cells k) (bad k))
    refine ⟨honly.trans hrest, hrestMem.trans ?_⟩
    rw [hmem]
    rfl

/-- The rows of a core's pool at their places. -/
def poolRows (s : State) (r c : Nat) (place : Nat → Nat × Option (BitVec 256)) : State :=
  (upTo 1024).foldl (fun s' k => putRow s' (place k) (rowCells (fullPool s r c) k)
    (((getCore s (coreIx r c)).poolPoison.filter fun g => g / 32 == k).map (· % 32))) s

/-- The firmware's rows at their places. -/
def firmwareRows (s : State) (n : Nat) (place : Nat → Nat × Option (BitVec 256)) : State :=
  (upTo 64).foldl (fun s' k => putRow s' (place (1024 + k)) (firmwareCells (n + 2048 * k)) []) s

theorem putImage_eq (s : State) (r c : Nat) (place : Nat → Nat × Option (BitVec 256)) : putImage s r c place =
    { firmwareRows (poolRows s r c place) (poolRows s r c place).free place with free := (poolRows s r c place).free + 131072 } := rfl

/-- An image in memory: the rows of the pool, and then some rows of the firmware. -/
theorem putImage_spec (s : State) (r c : Nat) (place : Nat → Nat × Option (BitVec 256)) :
    MemoryOnly s (putImage s r c place) ∧ ∃ n, (putImage s r c place).mem =
      rowsWritten (rowsWritten s.mem (fun k => (place k).1) (rowCells (fullPool s r c)) (upTo 1024)) (fun k => (place (1024 + k)).1)
        (fun k => firmwareCells (n + 2048 * k)) (upTo 64) := by
  obtain ⟨hpool, hpoolMem⟩ := putRows_spec (place := place) (cells := rowCells (fullPool s r c))
    (bad := fun k => ((getCore s (coreIx r c)).poolPoison.filter fun g => g / 32 == k).map (· % 32)) (upTo 1024) s
  have hrows : poolRows s r c place = (upTo 1024).foldl (fun s' k => putRow s' (place k) (rowCells (fullPool s r c) k)
    (((getCore s (coreIx r c)).poolPoison.filter fun g => g / 32 == k).map (· % 32))) s := rfl
  rw [← hrows] at hpool hpoolMem
  rw [putImage_eq]
  generalize poolRows s r c place = u at hpool hpoolMem
  obtain ⟨hfirm, hfirmMem⟩ := putRows_spec (place := fun k => place (1024 + k)) (cells := fun k => firmwareCells (u.free + 2048 * k))
    (bad := fun _ => []) (upTo 64) u
  have hrows : firmwareRows u u.free place =
    (upTo 64).foldl (fun s' k => putRow s' (place (1024 + k)) (firmwareCells (u.free + 2048 * k)) []) u := rfl
  rw [← hrows] at hfirm hfirmMem
  generalize firmwareRows u u.free place = v at hfirm hfirmMem
  refine ⟨(hpool.trans hfirm).trans (t := v) rfl, u.free, ?_⟩
  rw [← hpoolMem]
  exact hfirmMem

/-! The images of a row's sixteen cores, in a Loft frame (R247, R257). -/

/-- Number of a row of a Loft frame in its vault's rows of all the vaults. -/
def loftIndex (s : State) (vault f k : Nat) : Nat := 262144 * vault + 4096 * (k % 64) + (4096 - 17 * s.loftF + 17 * f + k / 64)

theorem loftRow_eq (s : State) (vault f k : Nat) : loftRow s vault f k = 2048 * loftIndex s vault f k := by
  unfold loftRow loftIndex
  omega

theorem loftIndex_inj {s : State} {v v' f k k' : Nat} (hf : f < s.loftF) (hloft : s.loftF ≤ 32) (hk : k < 1088) (hk' : k' < 1088)
    (h : loftIndex s v' f k' = loftIndex s v f k) : v' = v ∧ k' = k := by
  have hframe := Nat.mul_le_mul_left 17 (Nat.succ_le_of_lt hf)
  have hframes := Nat.mul_le_mul_left 17 hloft
  unfold loftIndex at h
  omega

/-- The rows of a Loft frame lie apart, within a vault and between two. -/
theorem loftRow_apart {s : State} {v v' f k k' o : Nat} (hf : f < s.loftF) (hloft : s.loftF ≤ 32) (hk : k < 1088) (hk' : k' < 1088)
    (hne : ¬ (v' = v ∧ k' = k)) (ho : o < 2048) : OutsideRow (loftRow s v' f k') (loftRow s v f k + o) := by
  have hindex : loftIndex s v' f k' ≠ loftIndex s v f k := fun h => hne (loftIndex_inj hf hloft hk hk' h)
  rw [loftRow_eq, loftRow_eq, OutsideRow]
  omega

theorem placeRow_loft {s : State} {r c n k : Nat} (hn : n < s.loftF) : placeRow s r c n k = (loftRow s (coreIx r c) n k, rowKey s r) :=
  if_pos hn

/-- Memory alone decides neither what a pool holds nor where its rows lie. -/
theorem MemoryOnly.image {s t : State} (h : MemoryOnly s t) {n : Nat} (hn : n < s.loftF) (r c : Nat) :
    fullPool t r c = fullPool s r c ∧ ∀ k, (placeRow t r c n k).1 = loftRow s (coreIx r c) n k := by
  obtain ⟨hloft, hpool⟩ : t.loftF = s.loftF ∧ fullPool t r c = fullPool s r c := by rw [h]; exact ⟨rfl, rfl⟩
  refine ⟨hpool, fun k => ?_⟩
  rw [placeRow_loft (hloft ▸ hn)]
  simp only [loftRow, hloft]

/-- The images of some columns of a row, written one after the other. -/
def imagesPut (s : State) (r n : Nat) (l : List Nat) : State := l.foldl (fun s c => putImage s r c (placeRow s r c n)) s

theorem imagesPut_cons (s : State) (r n c : Nat) (l : List Nat) :
    imagesPut s r n (c :: l) = imagesPut (putImage s r c (placeRow s r c n)) r n l := by
  rw [imagesPut, List.foldl_cons, imagesPut]

theorem putImage_loft {s u : State} {r c n : Nat} (hu : MemoryOnly s u) (hn : n < s.loftF) : ∃ m,
    (putImage u r c (placeRow u r c n)).mem =
      rowsWritten (rowsWritten u.mem (fun k => loftRow s (coreIx r c) n k) (rowCells (fullPool s r c)) (upTo 1024))
        (fun k => loftRow s (coreIx r c) n (1024 + k)) (fun k => firmwareCells (m + 2048 * k)) (upTo 64) := by
  obtain ⟨-, m, hmem⟩ := putImage_spec u r c (placeRow u r c n)
  obtain ⟨hpool, hplace⟩ := hu.image hn r c
  simp only [hpool, hplace] at hmem
  exact ⟨m, hmem⟩

/-- Outside a core's frame its image writes nothing. -/
theorem putImage_out {s u : State} {r c n a : Nat} (hu : MemoryOnly s u) (hn : n < s.loftF)
    (ha : ∀ k < 1088, OutsideRow (loftRow s (coreIx r c) n k) a) : memRd (putImage u r c (placeRow u r c n)).mem a = memRd u.mem a := by
  obtain ⟨m, hmem⟩ := putImage_loft (r := r) (c := c) hu hn
  rw [hmem, rowsWritten_out (fun k => firmwareCells_bounded _) _ _ fun k hk => ha _ (by have := List.mem_range.1 hk; omega)]
  exact rowsWritten_out (rowCells_bounded _) _ _ fun k hk => ha k (by have := List.mem_range.1 hk; omega)

/-- In its frame stands the pool. -/
theorem putImage_in {s u : State} {r c n k o : Nat} (hu : MemoryOnly s u) (hn : n < s.loftF) (hloft : s.loftF ≤ 32) (hk : k < 1024)
    (ho : o < 2048) (hwf : memWf (fullPool s r c) = true) :
    memRd (putImage u r c (placeRow u r c n)).mem (loftRow s (coreIx r c) n k + o) = memRd (fullPool s r c) (2048 * k + o) := by
  obtain ⟨m, hmem⟩ := putImage_loft (r := r) (c := c) hu hn
  have hapart (i : Nat) (hi : i < 1088) (hne : i ≠ k) : OutsideRow (loftRow s (coreIx r c) n i) (loftRow s (coreIx r c) n k + o) :=
    loftRow_apart hn hloft (by omega) hi (fun h => hne h.2) ho
  rw [hmem, rowsWritten_out (fun k => firmwareCells_bounded _) _ _ fun i hi => by
    have := List.mem_range.1 hi
    exact hapart _ (by omega) (by omega)]
  exact rowsWritten_in (place := fun k => loftRow s (coreIx r c) n k) ho hwf _ _ (List.mem_range.2 hk) fun i hi hne =>
    hapart i (by have := List.mem_range.1 hi; omega) hne

theorem imagesPut_spec {s : State} {r n : Nat} (hn : n < s.loftF) (hloft : s.loftF ≤ 32) : ∀ (l : List Nat) (u : State), MemoryOnly s u →
    MemoryOnly s (imagesPut u r n l) ∧
    (∀ a, (∀ c ∈ l, ∀ k < 1088, OutsideRow (loftRow s (coreIx r c) n k) a) → memRd (imagesPut u r n l).mem a = memRd u.mem a) ∧
    ∀ c ∈ l, memWf (fullPool s r c) = true → ∀ k < 1024, ∀ o < 2048,
      memRd (imagesPut u r n l).mem (loftRow s (coreIx r c) n k + o) = memRd (fullPool s r c) (2048 * k + o)
  | [], u, hu => ⟨hu, fun _ _ => rfl, fun _ h => absurd h List.not_mem_nil⟩
  | c :: l, u, hu => by
    obtain ⟨hput, -⟩ := putImage_spec u r c (placeRow u r c n)
    obtain ⟨honly, hout, hin⟩ := imagesPut_spec hn hloft l (putImage u r c (placeRow u r c n)) (hu.trans hput)
    rw [imagesPut_cons]
    refine ⟨honly, fun a ha => ?_, fun c' hc' hwf k hk o ho => ?_⟩
    · exact (hout a fun c' hc' => ha c' (List.mem_cons_of_mem _ hc')).trans (putImage_out hu hn (ha c List.mem_cons_self))
    · by_cases hlater : c' ∈ l
      · exact hin c' hlater hwf k hk o ho
      · obtain rfl : c' = c := (List.mem_cons.1 hc').resolve_right hlater
        refine (hout _ fun d hd i hi => ?_).trans (putImage_in hu hn hloft hk ho hwf)
        refine loftRow_apart hn hloft (by omega) hi (fun h => hlater ?_) ho
        have hcore : coreIx r d = coreIx r c' := h.1
        rwa [show c' = d by unfold coreIx at hcore; omega]

/-- A pool's cells stay in canonical form with its vector registers. -/
theorem fullPool_wf {s : State} {r c : Nat} (hwf : memWf (getCore s (coreIx r c)).pool = true) : memWf (fullPool s r c) = true := by
  refine foldl_keeps (P := fun m => memWf m = true) (fun m sl hm => ?_) _ _ hwf
  refine foldl_keeps (P := fun m => memWf m = true) (fun m n hm => ?_) _ _ hm
  split
  · exact hm
  · exact memWf_memWrN _ _ _ hm

/-- Where a pool's byte stands in its frame. -/
theorem imagesPut_byte {s : State} {r n a : Nat} (hn : n < s.loftF) (hloft : s.loftF ≤ 32) {c : Nat} (hc : c < 16)
    (hwf : memWf (getCore s (coreIx r c)).pool = true) (ha : a < 2 ^ 21) :
    memRd (imagesPut s r n (upTo 16)).mem (loftRow s (coreIx r c) n (a / 2048) + a % 2048) = memRd (fullPool s r c) a := by
  obtain ⟨-, -, hin⟩ := imagesPut_spec (r := r) hn hloft (upTo 16) s rfl
  refine (hin c (List.mem_range.2 hc) (fullPool_wf hwf) _ (by omega) _ (Nat.mod_lt _ (by decide))).trans ?_
  rw [Nat.div_add_mod]

/-! The tree of a row's tags (R307, R309). -/

theorem pruneTree_form (p : Nat) (tag : BitVec 16) : ∀ (l : List (Nat × Nat)) (s : State), ∃ tr, pruneTree s p tag l = { s with tree := tr }
  | [], s => ⟨s.tree, rfl⟩
  | (router, port) :: l, s => by
    rw [pruneTree]
    split
    · obtain ⟨tr, htr⟩ := pruneTree_form p tag l { s with tree := s.tree.filter (· != (p, tag, router, port)) }
      exact ⟨tr, htr⟩
    · exact ⟨_, rfl⟩

theorem unsubscribe_form (s : State) (p core : Nat) (tag : BitVec 16) : ∃ tr sb, unsubscribe s p core tag = { s with tree := tr, subs := sb } := by
  unfold unsubscribe
  split
  · obtain ⟨tr, htr⟩ := pruneTree_form p tag (branchOf s p tag core) s
    exact ⟨tr, _, by rw [htr]⟩
  · exact ⟨s.tree, s.subs, rfl⟩

theorem leaveTags_form (s : State) (r : Nat) : ∃ jo tr sb, leaveTags s r = { s with joins := jo, tree := tr, subs := sb } := by
  refine foldl_keeps (P := fun t => ∃ jo tr sb, t = { s with joins := jo, tree := tr, subs := sb }) (fun t a h => ?_) _
    { s with joins := s.joins.filter fun j => j.core / 16 != r } ⟨_, s.tree, s.subs, rfl⟩
  obtain ⟨jo, tr, sb, rfl⟩ := h
  obtain ⟨tr', sb', hform⟩ := unsubscribe_form { s with joins := jo, tree := tr, subs := sb } a.1 a.2.2 a.2.1
  exact ⟨jo, tr', sb', hform⟩

theorem joinTree_form (p : Nat) (tag : BitVec 16) : ∀ (l : List (Nat × Nat)) (s : State), ∃ tr, joinTree s p tag l = { s with tree := tr }
  | [], s => ⟨s.tree, rfl⟩
  | (router, port) :: l, s => by
    have hbit : ∃ tr, (if isIn port (portsOf s p tag router) then s else { s with tree := s.tree ++ [(p, tag, router, port)] }) =
        { s with tree := tr } := by
      split
      · exact ⟨s.tree, rfl⟩
      · exact ⟨_, rfl⟩
    obtain ⟨tr, hbit⟩ := hbit
    rw [joinTree]
    simp only [hbit]
    split
    · obtain ⟨tr', htr⟩ := joinTree_form p tag l { s with tree := tr }
      exact ⟨tr', htr⟩
    · exact ⟨tr, rfl⟩

theorem subscribe_form (s : State) (p core : Nat) (tag : BitVec 16) : ∃ tr sb, subscribe s p core tag = { s with tree := tr, subs := sb } := by
  obtain ⟨tr, htr⟩ := joinTree_form p tag (branchOf s p tag core) s
  rw [subscribe, htr]
  exact ⟨tr, _, rfl⟩

/-! The save of a team (R257, R369). -/

/-- The cores and lanes of a row that its team has left. -/
def vacated (s : State) (r : Nat) : State :=
  forCols (fun s c => forSlots (fun s sl => setLane s r c sl Lane.reset) (modCore s (coreIx r c) vacateCore)) s

theorem vacated_form (s : State) (r : Nat) : ∃ ks ls, vacated s r = { s with cores := ks, lanes := ls } := by
  refine forCols_keeps (P := fun t => ∃ ks ls, t = { s with cores := ks, lanes := ls }) (fun t c h => ?_) s ⟨_, _, rfl⟩
  refine forSlots_keeps (P := fun t => ∃ ks ls, t = { s with cores := ks, lanes := ls }) (fun t sl h => ?_) _ ?_
  · obtain ⟨ks, ls, rfl⟩ := h
    exact ⟨_, _, rfl⟩
  · obtain ⟨ks, ls, rfl⟩ := h
    exact ⟨_, _, rfl⟩

/-- The slots of a row emptied. -/
def emptied (s : State) (r : Nat) : State := forSlots (fun s sl => setHead s r sl Head.reset) s

theorem emptied_form (s : State) (r : Nat) : ∃ hd, emptied s r = { s with heads := hd } := by
  refine forSlots_keeps (P := fun t => ∃ hd, t = { s with heads := hd }) (fun t c h => ?_) s ⟨_, rfl⟩
  obtain ⟨hd, rfl⟩ := h
  exact ⟨_, rfl⟩

theorem emptied_head (s : State) (r : Nat) {sl : Nat} (hsl : sl < 8) : getHead (emptied s r) r sl = Head.reset :=
  (slotsChanged_forSlots (r := r) (g := fun _ _ => Head.reset) (fun s sl => slotChanged_modHead s r sl fun _ => Head.reset) s).head hsl

/-- The row that its team has left: its requests, its tags, its cores and its slots. -/
def teamGone (s : State) (r : Nat) : State :=
  emptied (vacated (leaveTags { s with reqs := s.reqs.filter fun q => !(q.row == r && parked s q) } r) r) r

theorem teamGone_spec (s : State) (r : Nat) : (teamGone s r).mem = s.mem ∧ (teamGone s r).parts = s.parts ∧ (teamGone s r).rows = s.rows ∧
    ∀ sl < 8, getHead (teamGone s r) r sl = Head.reset := by
  unfold teamGone
  obtain ⟨jo, tr, sb, htags⟩ := leaveTags_form { s with reqs := s.reqs.filter fun q => !(q.row == r && parked s q) } r
  rw [htags]
  generalize hu : ({ s with reqs := s.reqs.filter fun q => !(q.row == r && parked s q), joins := jo, tree := tr, subs := sb } : State) = u
  obtain ⟨ks, ls, hvacated⟩ := vacated_form u r
  obtain ⟨hd, hempty⟩ := emptied_form (vacated u r) r
  obtain ⟨hmem, hparts, hrows⟩ : u.mem = s.mem ∧ u.parts = s.parts ∧ u.rows = s.rows := by rw [← hu]; exact ⟨rfl, rfl, rfl⟩
  refine ⟨?_, ?_, ?_, fun sl hsl => emptied_head _ _ hsl⟩
  all_goals rw [hempty, hvacated]
  exacts [hmem, hparts, hrows]

theorem saveTeam_eq (s : State) (r t n : Nat) : saveTeam s r t n =
    modRow (teamGone (imagesPut (dropWalks (rowWalk r) s) r n (upTo 16)) r) r fun x =>
      { x with images := x.images ++ [imageOf s r t n], resident := none, phase := .loaded } := rfl

/-- A saved team: its pools stand in memory, its slots are empty, and the row lists its image. -/
theorem saveTeam_spec {s : State} {r t n : Nat} (hn : n < s.loftF) (hloft : s.loftF ≤ 32) :
    (saveTeam s r t n).mem = (imagesPut (dropWalks (rowWalk r) s) r n (upTo 16)).mem ∧ (saveTeam s r t n).parts = s.parts ∧
    (∀ sl < 8, getHead (saveTeam s r t n) r sl = Head.reset) ∧
    getRow (saveTeam s r t n) r = { getRow s r with images := (getRow s r).images ++ [imageOf s r t n], resident := none, phase := .loaded } := by
  rw [saveTeam_eq]
  obtain ⟨honly, -, -⟩ := imagesPut_spec (s := dropWalks (rowWalk r) s) (r := r) hn hloft (upTo 16) (dropWalks (rowWalk r) s) rfl
  generalize imagesPut (dropWalks (rowWalk r) s) r n (upTo 16) = u at honly
  obtain ⟨huparts, hurows⟩ : u.parts = s.parts ∧ u.rows = s.rows := by rw [honly]; exact ⟨rfl, rfl⟩
  obtain ⟨hmem, hparts, hrows, hslots⟩ := teamGone_spec u r
  generalize teamGone u r = v at hmem hparts hrows hslots
  have hrow : getRow v r = getRow s r := by rw [getRow, hrows, hurows]; rfl
  exact ⟨hmem, hparts.trans huparts, hslots, (getRow_modRow v r _).trans (by rw [hrow])⟩

/-! What an image lists (R257). -/

/-- A key that is listed with one record alone reads as that record. -/
theorem tget_of_mem {α : Type} {k : Nat} {x d : α} : ∀ {t : Tbl α}, (k, x) ∈ t → (∀ y, (k, y) ∈ t → y = x) → tget t k d = x
  | (i, z) :: t, hmem, hone => by
    rw [tget]
    by_cases hi : i = k
    · rw [if_pos hi]
      exact hone z (hi ▸ List.mem_cons_self)
    · rw [if_neg hi]
      refine tget_of_mem ((List.mem_cons.1 hmem).resolve_left fun e => hi (congrArg Prod.fst e).symm) fun y hy => hone y ?_
      exact List.mem_cons_of_mem _ hy

theorem imageOf_head (s : State) (r t n : Nat) {i : Nat} (hi : i < 8) : tget (imageOf s r t n).heads i Head.reset =
    { getHead s r i with cycles := (getHead s r i).cycles + ((getRow s r).cycle - (getHead s r i).placedAt) } := by
  refine tget_of_mem (List.mem_map.2 ⟨i, List.mem_range.2 hi, rfl⟩) fun y hy => ?_
  obtain ⟨i', -, heq⟩ := List.mem_map.1 hy
  obtain ⟨rfl, rfl⟩ := Prod.mk.inj heq
  rfl

theorem imageOf_core (s : State) (r t n : Nat) {c : Nat} (hc : c < 16) :
    tget (imageOf s r t n).cores c Core.reset = coreImage (getCore s (coreIx r c)) := by
  refine tget_of_mem (List.mem_map.2 ⟨c, List.mem_range.2 hc, rfl⟩) fun y hy => ?_
  obtain ⟨c', -, heq⟩ := List.mem_map.1 hy
  obtain ⟨rfl, rfl⟩ := Prod.mk.inj heq
  rfl

theorem imageOf_lane (s : State) (r t n : Nat) {c i : Nat} (hc : c < 16) (hi : i < 8) :
    tget (imageOf s r t n).lanes (8 * c + i) Lane.reset = { getLane s r c i with v := Vector.replicate 32 0 } := by
  refine tget_of_mem (List.mem_flatMap.2 ⟨c, List.mem_range.2 hc, List.mem_map.2 ⟨i, List.mem_range.2 hi, rfl⟩⟩) fun y hy => ?_
  obtain ⟨c', -, hy⟩ := List.mem_flatMap.1 hy
  obtain ⟨i', hi', heq⟩ := List.mem_map.1 hy
  obtain ⟨hkey, rfl⟩ := Prod.mk.inj heq
  have hi' : i' < 8 := List.mem_range.1 hi'
  obtain ⟨rfl, rfl⟩ : c' = c ∧ i' = i := by omega
  rfl

/-! What follows a save or a restore (R341). -/

/-- Is a row of a partition in a phase? -/
def stillIn (s : State) (x : Part) (f : RowPhase) : Bool := ((upTo (partRows x)).map fun i => (getRow s (x.first + i)).phase).any (· == f)

theorem stillIn_iff {s : State} {x : Part} {f : RowPhase} : stillIn s x f = true ↔ ∃ i < partRows x, (getRow s (x.first + i)).phase = f := by
  simp [stillIn, upTo]

theorem checkMoving_none {s : State} {p : Nat} (hjob : (getPart s p).job = none) : checkMoving s p = s := by
  simp only [checkMoving, hjob]

theorem checkMoving_eq {s : State} {p : Nat} {j : Job} (hjob : (getPart s p).job = some j) : checkMoving s p =
    let x := getPart s p
    if x.jstate != .moving then s
    else if x.saving && x.killDue && (rowsOf x).any (rowDelays s) then killJob s p 43
    else if x.saving then
      if j.phase == .go && j.toGo.isEmpty && !(stillIn s x .placed || stillIn s x .save || stillIn s x .restore) then
        if x.killDue then killJob s p 43 else modPart s p fun x => { x with jstate := .saved, saving := false }
      else s
    else if stillIn s x .restore then s
    else if x.killDue then killJob s p 43
    else modPart s p fun x => { x with jstate := .running } := by
  simp only [checkMoving, hjob]
  rfl

/-- Where no KILL waits, the end of a save or restore changes the partition's state alone. -/
theorem checkMoving_form {s : State} {p : Nat} (hkill : (getPart s p).killDue = false) : ∃ ps, checkMoving s p = { s with parts := ps } := by
  cases hjob : (getPart s p).job with
  | none => exact ⟨s.parts, checkMoving_none hjob⟩
  | some j =>
    rw [checkMoving_eq hjob]
    simp only [hkill, Bool.and_false, Bool.false_and, Bool.false_eq_true, if_false]
    repeat' split
    all_goals exact ⟨_, rfl⟩

/-- The rows of a partition. -/
theorem mem_rowsOf {x : Part} {r : Nat} : r ∈ rowsOf x ↔ ∃ i < partRows x, x.first + i = r := by
  simp [rowsOf, upTo]

theorem completionsDone_of_idle {s : State} {r : Nat} (hreqs : ∀ q ∈ s.reqs, q.row ≠ r)
    (hcores : ∀ c < 16, let k := getCore s (coreIx r c); k.hputs = [] ∧ k.transfers = [] ∧ k.running = none) : completionsDone s r = true := by
  unfold completionsDone
  refine Bool.and_eq_true_iff.2 ⟨List.all_eq_true.2 fun q hq => ?_, List.all_eq_true.2 fun c hc => ?_⟩
  · simp [hreqs q hq]
  · obtain ⟨hputs, htransfers, hrunning⟩ := hcores c (List.mem_range.1 hc)
    simp [hputs, htransfers, hrunning]

/-- The partition of a row is being saved under JCTL.PRE. -/
theorem rowSaving_true {s : State} {r p : Nat} (hpart : (getRow s r).part = some p) (hmoving : (getPart s p).jstate = .moving)
    (hsaving : (getPart s p).saving = true) : rowSaving s r = true := by
  simp [rowSaving, hpart, hmoving, hsaving]

/-- The save of a row under JCTL.PRE: the team is to come back to it. -/
theorem performSave_jctl {s : State} {r p team n : Nat} (hpart : (getRow s r).part = some p) (hmoving : (getPart s p).jstate = .moving)
    (hsaving : (getPart s p).saving = true) (hteam : (getRow s r).resident = some team) (hfree : freePlace s r = some n) (hn : n < s.loftF)
    (hloft : s.loftF ≤ 32) :
    performSave s r = modRow (saveTeam s r team n) r fun x => { x with next := some ((getRow s r).next.getD team) } := by
  have hplace : savePlace s r = some n := by rw [savePlace, hfree]
  have hhere : ¬ (decide (s.loftF ≤ n) && !spillOk s r n) = true := by simp [Nat.not_le.2 hn]
  have hahead : readAhead s r = s := if_pos (by rw [hfree]; rfl)
  obtain ⟨-, hparts, -, hrow⟩ := saveTeam_spec (r := r) (t := team) hn hloft
  have hstill : rowSaving (saveTeam s r team n) r = true := by
    have hget : getPart (saveTeam s r team n) p = getPart s p := by rw [getPart, hparts]; rfl
    refine rowSaving_true (p := p) ?_ (by rw [hget, hmoving]) (by rw [hget, hsaving])
    rw [hrow]
    exact hpart
  have hnext : ((getRow s r).next.orElse fun _ => some team) = some ((getRow s r).next.getD team) := by
    cases (getRow s r).next <;> rfl
  simp only [performSave, hteam, hplace, if_neg hhere, hahead, hstill, if_true, hnext]

/-! TEAM_SAVE under JCTL.PRE (R369). -/

/-- A row that has completed everything of its team. -/
def RowIdle (s : State) (r : Nat) : Prop := (∀ q ∈ s.reqs, q.row ≠ r) ∧
  ∀ c < 16, let k := getCore s (coreIx r c); k.hputs = [] ∧ k.transfers = [] ∧ k.running = none

theorem RowIdle.done {s : State} {r : Nat} (h : RowIdle s r) : completionsDone s r = true := completionsDone_of_idle h.1 h.2

/-- The rows of a partition have all stopped, and their completions have ended. -/
def RowsStopped (s : State) (x : Part) : Prop := ∀ i < partRows x, (getRow s (x.first + i)).phase ≠ .placed ∧
  (getRow s (x.first + i)).phase ≠ .restore ∧ ((getRow s (x.first + i)).phase = .save → RowIdle s (x.first + i))

theorem saveReady_true {s : State} {r p : Nat} {j : Job} (hjob : rowJob s r = some (p, j)) (hgo : j.phase = .go) (htogo : j.toGo = [])
    (hrows : RowsStopped s (getPart s p)) : saveReady s r = true := by
  unfold saveReady
  rw [hjob]
  refine Bool.or_eq_true_iff.2 (.inr (Bool.and_eq_true_iff.2 ⟨by simp [hgo, htogo], List.all_eq_true.2 fun r' hr' => ?_⟩))
  obtain ⟨i, hi, rfl⟩ := mem_rowsOf.1 hr'
  obtain ⟨hplaced, hrestore, hsave⟩ := hrows i hi
  split
  next h => exact absurd h hplaced
  next h => exact absurd h hrestore
  next h => exact (hsave h).done
  next => rfl

theorem rowEmpty_false {s : State} {r : Nat} (h : ∃ i < 8, (getHead s r i).task ≠ none) : rowEmpty s r = false := by
  obtain ⟨i, hi, htask⟩ := h
  exact Bool.eq_false_iff.2 fun hempty => htask (rowEmpty_iff.1 hempty i hi)

theorem exec_teamSave {s : State} {row p : Nat} (hphase : (getRow s row).phase = .save) (hpart : (getRow s row).part = some p)
    (hfull : rowEmpty s row = false) (hdone : completionsDone s row = true) (hpower : (getRow s row).cur ≠ .off)
    (hready : saveReady s row = true) : exec (.teamSave row) s = .next (checkMoving (performSave s row) p) := by
  show execTeamSave row s = _
  simp [execTeamSave, hphase, hpart, hfull, hdone, powered_iff.2 hpower, hready]

/-- A row's team has been saved to place n: its slots are empty, its pools stand in their frames, and the row lists its image. -/
structure TeamSaved (s t : State) (row team n : Nat) : Prop where
  slots : ∀ i < 8, getHead t row i = Head.reset
  parts : t.parts = s.parts
  frames : ∀ c < 16, memWf (getCore s (coreIx row c)).pool = true → ∀ a < 2 ^ 21,
    memRd t.mem (loftRow s (coreIx row c) n (a / 2048) + a % 2048) = memRd (fullPool s row c) a
  outside : ∀ a, (∀ c < 16, ∀ k < 1088, OutsideRow (loftRow s (coreIx row c) n k) a) → memRd t.mem a = memRd s.mem a
  row : getRow t row = { getRow s row with
    images := (getRow s row).images ++ [imageOf s row team n], resident := none, phase := .loaded,
    next := some ((getRow s row).next.getD team) }

theorem performSave_saved {s : State} {row p team n : Nat} (hpart : (getRow s row).part = some p) (hmoving : (getPart s p).jstate = .moving)
    (hsaving : (getPart s p).saving = true) (hteam : (getRow s row).resident = some team) (hfree : freePlace s row = some n) (hn : n < s.loftF)
    (hloft : s.loftF ≤ 32) : TeamSaved s (performSave s row) row team n := by
  rw [performSave_jctl hpart hmoving hsaving hteam hfree hn hloft]
  obtain ⟨hmem, hparts, hslots, hrow⟩ := saveTeam_spec (r := row) (t := team) hn hloft
  generalize saveTeam s row team n = u at hmem hparts hslots hrow
  refine ⟨hslots, hparts, fun c hc hwf a ha => ?_, fun a ha => ?_, ?_⟩
  · exact (congrArg (memRd · _) hmem).trans (imagesPut_byte (s := dropWalks (rowWalk row) s) hn hloft hc hwf ha)
  · obtain ⟨-, hout, -⟩ := imagesPut_spec (s := dropWalks (rowWalk row) s) (r := row) hn hloft (upTo 16) (dropWalks (rowWalk row) s) rfl
    exact (congrArg (memRd · _) hmem).trans (hout a fun c hc k hk => ha c (List.mem_range.1 hc) k hk)
  · rw [getRow_modRow, hrow]

/-- The end of a save, where no KILL waits, changes the partition alone. -/
theorem TeamSaved.settled {s t u : State} {row team n : Nat} (h : TeamSaved s t row team n) (hu : ∃ ps, u = { t with parts := ps }) :
    (∀ i < 8, getHead u row i = Head.reset) ∧ u.mem = t.mem ∧ getRow u row = getRow t row := by
  obtain ⟨ps, rfl⟩ := hu
  exact ⟨h.slots, rfl, rfl⟩

theorem completes_teamSave {s : State} {row p team n : Nat} {j : Job} (hphase : (getRow s row).phase = .save)
    (hteam : (getRow s row).resident = some team) (hpart : (getRow s row).part = some p) (hpower : (getRow s row).cur ≠ .off)
    (hmoving : (getPart s p).jstate = .moving) (hsaving : (getPart s p).saving = true) (hkill : (getPart s p).killDue = false)
    (hfull : ∃ i < 8, (getHead s row i).task ≠ none) (hidle : RowIdle s row) (hfree : freePlace s row = some n) (hn : n < s.loftF)
    (hloft : s.loftF ≤ 32) (hjob : (getPart s p).job = some j) (hgo : j.phase = .go) (htogo : j.toGo = [])
    (hwf : ∀ c < 16, memWf (getCore s (coreIx row c)).pool = true) (hrows : RowsStopped s (getPart s p)) :
    Completes (exec (.teamSave row) s) fun t => (∀ i < 8, (getHead t row i).task = none) ∧
      (∀ c < 16, ∀ a < 2 ^ 21, memRd t.mem (loftRow s (coreIx row c) n (a / 2048) + a % 2048) = memRd (fullPool s row c) a) ∧
      (∀ a, (∀ c < 16, ∀ k < 1088, OutsideRow (loftRow s (coreIx row c) n k) a) → memRd t.mem a = memRd s.mem a) ∧
      (getRow t row).resident = none ∧ (getRow t row).phase = .loaded ∧ (getRow t row).next = some ((getRow s row).next.getD team) ∧
      ∃ m, (getRow t row).images = (getRow s row).images ++ [m] ∧ m.team = team ∧ m.place = n ∧
        (∀ i < 8, tget m.heads i Head.reset =
          { getHead s row i with cycles := (getHead s row i).cycles + ((getRow s row).cycle - (getHead s row i).placedAt) }) ∧
        (∀ c < 16, tget m.cores c Core.reset = coreImage (getCore s (coreIx row c)) ∧
          ∀ i < 8, tget m.lanes (8 * c + i) Lane.reset = { getLane s row c i with v := Vector.replicate 32 0 }) := by
  have hready := saveReady_true (rowJob_eq_some.2 ⟨hpart, hjob⟩) hgo htogo hrows
  have hsaved := performSave_saved hpart hmoving hsaving hteam hfree hn hloft
  have hexec := exec_teamSave hphase hpart (rowEmpty_false hfull) hidle.done hpower hready
  generalize performSave s row = t at hsaved hexec
  have hkill' : (getPart t p).killDue = false := by rw [getPart, hsaved.parts]; exact hkill
  obtain ⟨hslots, hmem, hrow⟩ := hsaved.settled (checkMoving_form hkill')
  refine ⟨_, hexec, fun i hi => by rw [hslots i hi]; rfl, ?_, ?_, ?_⟩
  · rw [hmem]
    exact fun c hc => hsaved.frames c hc (hwf c hc)
  · rw [hmem]
    exact hsaved.outside
  · rw [hrow, hsaved.row]
    exact ⟨rfl, rfl, rfl, imageOf s row team n, rfl, rfl, rfl, fun i hi => imageOf_head s row team n hi,
      fun c hc => ⟨imageOf_core s row team n hc, fun i hi => imageOf_lane s row team n hc hi⟩⟩

/-! TEAM_RESTORE (R257, R369). -/

/-- Only heads, cores, lanes and the tree of tags have changed. -/
def TeamOnly (s t : State) : Prop := t = { s with heads := t.heads, cores := t.cores, lanes := t.lanes, tree := t.tree, subs := t.subs }

theorem TeamOnly.trans {s t u : State} (h : TeamOnly s t) (k : TeamOnly t u) : TeamOnly s u := by
  unfold TeamOnly at *
  rw [k, h]

theorem TeamOnly.row {s t : State} (h : TeamOnly s t) (r : Nat) : getRow t r = getRow s r := by
  rw [h]
  rfl

theorem imageAt_place {s : State} {r : Nat} {m : Image} (c : Nat) (hahead : m.ahead = []) : imageAt s r m c =
    (imagePool s (placeRow s r c m.place), imagePoison s (placeRow s r c m.place), imageBroken s (placeRow s r c m.place)) := by
  rw [imageAt, hahead]
  rfl

/-- An image in a Loft frame reads the same from memory. -/
theorem TeamOnly.image {s t : State} (h : TeamOnly s t) (r : Nat) {m : Image} (c : Nat) (hn : m.place < s.loftF) (hahead : m.ahead = []) :
    (imageAt t r m c).1 = (imageAt s r m c).1 := by
  obtain ⟨hloft, hrow⟩ : t.loftF = s.loftF ∧ rowKey t r = rowKey s r := by rw [h]; exact ⟨rfl, rfl⟩
  have hplace : placeRow t r c m.place = placeRow s r c m.place := by
    funext k
    rw [placeRow_loft hn, placeRow_loft (hloft ▸ hn), hrow]
    simp only [loftRow, hloft]
  rw [imageAt_place c hahead, imageAt_place c hahead, hplace, h]
  rfl

theorem settleHputs_none {s : State} {k : Nat} (hputs : (getCore s k).hputs = []) : settleHputs s k = modCore s k fun k =>
    { k with hputs := [], transfers := [], opens := k.opens.filter fun
      | .slot _ => true
      | .put _ => false } := by
  rw [settleHputs, hputs]
  rfl

theorem subscribes_form (p : State → Nat) (core : Nat) (l : List (BitVec 16 × Nat)) (s : State) :
    ∃ tr sb, l.foldl (fun s t => subscribe s (p s) core t.1) s = { s with tree := tr, subs := sb } := by
  refine foldl_keeps (P := fun t => ∃ tr sb, t = { s with tree := tr, subs := sb }) (fun t a h => ?_) l s ⟨_, _, rfl⟩
  obtain ⟨tr, sb, rfl⟩ := h
  obtain ⟨tr', sb', hform⟩ := subscribe_form { s with tree := tr, subs := sb } _ core a.1
  exact ⟨tr', sb', hform⟩

/-- The lanes of some strands at a core, set one after the other. -/
theorem setLanes_spec (g : Nat → Lane) (r c : Nat) : ∀ (l : List Nat) (s : State),
    ∃ ls, l.foldl (fun s sl => setLane s r c sl (g sl)) s = { s with lanes := ls } ∧
      (∀ i, (∀ sl ∈ l, i ≠ coreIx r c * 8 + sl) → tget ls i Lane.reset = tget s.lanes i Lane.reset) ∧
      ∀ sl ∈ l, tget ls (coreIx r c * 8 + sl) Lane.reset = g sl
  | [], s => ⟨s.lanes, rfl, fun _ _ => rfl, fun _ h => absurd h List.not_mem_nil⟩
  | a :: l, s => by
    obtain ⟨ls, hform, hout, hin⟩ := setLanes_spec g r c l (setLane s r c a (g a))
    refine ⟨ls, hform, fun i hi => ?_, fun sl hsl => ?_⟩
    · exact (hout i fun sl hsl => hi sl (List.mem_cons_of_mem _ hsl)).trans (tget_tput_ne _ _ _ (hi a List.mem_cons_self))
    · by_cases hlater : sl ∈ l
      · exact hin sl hlater
      · obtain rfl : sl = a := (List.mem_cons.1 hsl).resolve_right hlater
        exact (hout _ fun sl' hsl' e => hlater (by rwa [show sl = sl' by omega])).trans (getLane_setLane s r c sl _)

/-- The slots of a saved team whose tasks have ended since. -/
def deadSlots (s : State) (r : Nat) (m : Image) : List Nat :=
  (upTo 8).filter fun sl => match (tget m.heads sl Head.reset).task, rowJob s r with
    | some t, some (_, j) => j.ended.any fun e => e.1 == t
    | _, _ => true

/-- The head of a strand that comes back. -/
def backHead (m : Image) (dead : List Nat) (cycle sl : Nat) : Head :=
  if isIn sl dead then Head.reset else { tget m.heads sl Head.reset with placedAt := cycle }

/-- The lane of a strand that comes back, at a core with this pool. -/
def backLane (m : Image) (dead : List Nat) (pw : Word) (pool : List Host.Cell) (c sl : Nat) : Lane :=
  if isIn sl dead then Lane.reset
  else { tget m.lanes (8 * c + sl) Lane.reset with v := Vector.ofFn fun n => imageVreg pw pool sl n.val }

/-- A core put back for a team. -/
def coreBack (r : Nat) (m : Image) (dead : List Nat) (s : State) (c : Nat) : State :=
  modCore (settleHputs s (coreIx r c)) (coreIx r c)
    (restoreCore dead (imageScratch (getRow s r).pword (imageAt s r m c).1) (imageAt s r m c).2.1 (tget m.cores c Core.reset))

theorem coreBack_form {s : State} {r c : Nat} (m : Image) (dead : List Nat) (hputs : (getCore s (coreIx r c)).hputs = []) :
    ∃ k, coreBack r m dead s c = { s with cores := tput s.cores (coreIx r c) k } ∧
      k.pool = imageScratch (getRow s r).pword (imageAt s r m c).1 ∧ k.bars = (tget m.cores c Core.reset).bars := by
  rw [coreBack, settleHputs_none hputs]
  generalize imageScratch (getRow s r).pword (imageAt s r m c).1 = pool
  generalize (imageAt s r m c).2.1 = bad
  simp only [modCore, getCore, tput_tput, tget_tput_same]
  exact ⟨_, rfl, rfl, rfl⟩

/-- A column of a row put back for its team: its core, its lanes, and what the core listens to. -/
def restoreCol (r : Nat) (m : Image) (dead : List Nat) (s : State) (c : Nat) : State :=
  (tget m.cores c Core.reset).match_.foldl (fun s t => subscribe s (partOf s r) (coreIx r c) t.1)
    (forSlots (fun u sl => setLane u r c sl (backLane m dead (getRow s r).pword (imageAt s r m c).1 c sl)) (coreBack r m dead s c))

/-- The slots of a row put back for its team. -/
def restoreHeads (r : Nat) (m : Image) (dead : List Nat) (s : State) : State :=
  forSlots (fun s sl => setHead s r sl (backHead m dead (getRow s r).cycle sl)) s

/-- A row's team is back: but for the requests and the row itself. -/
def teamBack (s : State) (r : Nat) (m : Image) : State :=
  forCols (restoreCol r m (deadSlots s r m)) (restoreHeads r m (deadSlots s r m) s)

theorem restoreTeam_eq (s : State) (r : Nat) (m : Image) : ∃ rq, restoreTeam s r m = modRow { teamBack s r m with reqs := rq } r fun x =>
    { x with phase := .placed, resident := some m.team, sliceAt := (teamBack s r m).now, next := none,
             images := x.images.filter fun i => i.team != m.team } := ⟨_, rfl⟩

/-- A column of a row has been put back: the pool and the barriers of its core, and the lanes of the strands that have not ended. -/
structure ColBack (r c : Nat) (m : Image) (dead : List Nat) (pw : Word) (cells : List Host.Cell) (t : State) : Prop where
  pool : (getCore t (coreIx r c)).pool = imageScratch pw cells
  bars : (getCore t (coreIx r c)).bars = (tget m.cores c Core.reset).bars
  lanes : ∀ sl < 8, getLane t r c sl = backLane m dead pw cells c sl

/-- Nothing has changed at the columns that are not listed. -/
structure ColsAlone (r : Nat) (l : List Nat) (s t : State) : Prop where
  team : TeamOnly s t
  heads : t.heads = s.heads
  cores : ∀ c, c ∉ l → getCore t (coreIx r c) = getCore s (coreIx r c)
  lanes : ∀ c, c ∉ l → ∀ sl < 8, getLane t r c sl = getLane s r c sl

theorem restoreCol_spec {s : State} {r c : Nat} (m : Image) (dead : List Nat) (hputs : (getCore s (coreIx r c)).hputs = []) :
    ColsAlone r [c] s (restoreCol r m dead s c) ∧
      ColBack r c m dead (getRow s r).pword (imageAt s r m c).1 (restoreCol r m dead s c) := by
  obtain ⟨k, hcore, hpool, hbars⟩ := coreBack_form m dead hputs
  rw [restoreCol, hcore]
  generalize getRow s r = y at *
  generalize (imageAt s r m c).1 = cells at *
  obtain ⟨ls, hlanes, hout, hin⟩ := setLanes_spec (backLane m dead y.pword cells c) r c (upTo 8)
    { s with cores := tput s.cores (coreIx r c) k }
  rw [forSlots, hlanes]
  obtain ⟨tr, sb, htags⟩ := subscribes_form (partOf · r) (coreIx r c) (tget m.cores c Core.reset).match_
    { s with cores := tput s.cores (coreIx r c) k, lanes := ls }
  rw [htags]
  have hown : tget (tput s.cores (coreIx r c) k) (coreIx r c) Core.reset = k := tget_tput_same _ _ _ _
  have hapart {c' : Nat} (hc' : c' ∉ [c]) : c' ≠ c := fun e => hc' (List.mem_singleton.2 e)
  refine ⟨⟨rfl, rfl, fun c' hc' => tget_tput_ne _ _ _ ?_, fun c' hc' sl hsl => hout _ fun sl' hsl' => ?_⟩,
    ⟨(congrArg Core.pool hown).trans hpool, (congrArg Core.bars hown).trans hbars, fun sl hsl => hin sl (List.mem_range.2 hsl)⟩⟩
  all_goals
    have hne := hapart hc'
    unfold coreIx
  · omega
  · have := List.mem_range.1 hsl'
    omega

theorem restoreCols_spec {r : Nat} {m : Image} (dead : List Nat) (hahead : m.ahead = []) : ∀ (l : List Nat) (s : State), l.Nodup →
    m.place < s.loftF → (∀ c ∈ l, (getCore s (coreIx r c)).hputs = []) →
    ColsAlone r l s (l.foldl (restoreCol r m dead) s) ∧
      ∀ c ∈ l, ColBack r c m dead (getRow s r).pword (imageAt s r m c).1 (l.foldl (restoreCol r m dead) s)
  | [], s, _, _, _ => ⟨⟨rfl, rfl, fun _ _ => rfl, fun _ _ _ _ => rfl⟩, fun _ h => absurd h List.not_mem_nil⟩
  | a :: l, s, hnodup, hn, hputs => by
    obtain ⟨hnew, hnodup'⟩ := List.nodup_cons.1 hnodup
    obtain ⟨hfirst, hback⟩ := restoreCol_spec m dead (hputs a List.mem_cons_self)
    rw [List.foldl_cons]
    generalize restoreCol r m dead s a = u at hfirst hback
    have hloft : u.loftF = s.loftF := by rw [hfirst.team]
    have hputs' : ∀ c ∈ l, (getCore u (coreIx r c)).hputs = [] := fun c hc => by
      rw [hfirst.cores c fun h => hnew (List.mem_singleton.1 h ▸ hc)]
      exact hputs c (List.mem_cons_of_mem _ hc)
    obtain ⟨hrest, hbacks⟩ := restoreCols_spec dead hahead l u hnodup' (hloft ▸ hn) hputs'
    have hnotFirst {c : Nat} (hc : c ∉ a :: l) : c ∉ [a] := fun h => hc (List.mem_cons.2 (.inl (List.mem_singleton.1 h)))
    refine ⟨⟨hfirst.team.trans hrest.team, hrest.heads.trans hfirst.heads, fun c hc => ?_, fun c hc sl hsl => ?_⟩, fun c hc => ?_⟩
    · rw [hrest.cores c (List.not_mem_of_not_mem_cons hc), hfirst.cores c (hnotFirst hc)]
    · rw [hrest.lanes c (List.not_mem_of_not_mem_cons hc) sl hsl, hfirst.lanes c (hnotFirst hc) sl hsl]
    · by_cases hlater : c ∈ l
      · have h := hbacks c hlater
        rwa [hfirst.team.row, hfirst.team.image r c hn hahead] at h
      · obtain rfl : c = a := (List.mem_cons.1 hc).resolve_right hlater
        exact ⟨by rw [hrest.cores c hlater, hback.pool], by rw [hrest.cores c hlater, hback.bars],
          fun sl hsl => by rw [hrest.lanes c hlater sl hsl, hback.lanes sl hsl]⟩

/-- A fold whose function looks at a part of the state that it leaves as it is. -/
theorem foldl_reads {α γ : Type} {v : State → γ} {g : γ → State → α → State} (hv : ∀ c s a, v (g c s a) = v s) :
    ∀ (l : List α) (s : State), l.foldl (fun s a => g (v s) s a) s = l.foldl (g (v s)) s
  | [], _ => rfl
  | a :: l, s => by rw [List.foldl_cons, foldl_reads hv l, hv, List.foldl_cons]

theorem restoreHeads_eq (r : Nat) (m : Image) (dead : List Nat) (s : State) :
    restoreHeads r m dead s = forSlots (fun u sl => setHead u r sl (backHead m dead (getRow s r).cycle sl)) s :=
  foldl_reads (v := fun s => (getRow s r).cycle) (g := fun cycle s sl => setHead s r sl (backHead m dead cycle sl)) (fun _ _ _ => rfl) _ s

theorem restoreHeads_spec (r : Nat) (m : Image) (dead : List Nat) (s : State) : TeamOnly s (restoreHeads r m dead s) ∧
    (restoreHeads r m dead s).cores = s.cores ∧
    ∀ sl < 8, getHead (restoreHeads r m dead s) r sl = backHead m dead (getRow s r).cycle sl := by
  rw [restoreHeads_eq]
  generalize (getRow s r).cycle = cycle
  have hform : ∃ hd, forSlots (fun u sl => setHead u r sl (backHead m dead cycle sl)) s = { s with heads := hd } := by
    refine forSlots_keeps (P := fun t => ∃ hd, t = { s with heads := hd }) (fun t sl h => ?_) s ⟨_, rfl⟩
    obtain ⟨hd, rfl⟩ := h
    exact ⟨_, rfl⟩
  have hslots := slotsChanged_forSlots (r := r) (g := fun sl _ => backHead m dead cycle sl)
    (fun s sl => slotChanged_modHead s r sl fun _ => backHead m dead cycle sl) s
  refine ⟨?_, ?_, fun sl hsl => hslots.head hsl⟩
  all_goals
    obtain ⟨hd, hform⟩ := hform
    rw [hform]
  rfl

/-- A saved team has come back to its row: what was saved stands there again, but for the tasks that have ended. -/
structure TeamBack (s t : State) (r : Nat) (m : Image) : Prop where
  mem : t.mem = s.mem
  parts : t.parts = s.parts
  row : getRow t r = { getRow s r with
    phase := .placed, resident := some m.team, sliceAt := s.now, next := none, images := (getRow s r).images.filter fun i => i.team != m.team }
  cols : ∀ c < 16, ColBack r c m (deadSlots s r m) (getRow s r).pword (imagePool s (placeRow s r c m.place)) t
  slots : ∀ sl < 8, getHead t r sl = backHead m (deadSlots s r m) (getRow s r).cycle sl

theorem restoreTeam_back {s : State} {r : Nat} {m : Image} (hn : m.place < s.loftF) (hahead : m.ahead = [])
    (hputs : ∀ c < 16, (getCore s (coreIx r c)).hputs = []) : TeamBack s (restoreTeam s r m) r m := by
  obtain ⟨rq, hform⟩ := restoreTeam_eq s r m
  rw [hform, teamBack]
  generalize hdead : deadSlots s r m = dead
  obtain ⟨hteam, hcores, hslots⟩ := restoreHeads_spec r m dead s
  generalize restoreHeads r m dead s = u at hteam hcores hslots
  have hloft : u.loftF = s.loftF := by rw [hteam]
  obtain ⟨halone, hback⟩ := restoreCols_spec (r := r) (m := m) dead hahead (upTo 16) u List.nodup_range (hloft ▸ hn) fun c hc => by
    have hcore : getCore u (coreIx r c) = getCore s (coreIx r c) := by rw [getCore, hcores]; rfl
    rw [hcore]
    exact hputs c (List.mem_range.1 hc)
  rw [forCols]
  generalize (upTo 16).foldl (restoreCol r m dead) u = t at halone hback
  have hall := hteam.trans halone.team
  have hrow : getRow ({ t with reqs := rq } : State) r = getRow s r := hall.row r
  have hnow : t.now = s.now := by rw [hall]
  refine ⟨?_, ?_, ?_, fun c hc => ?_, fun sl hsl => ?_⟩
  · show t.mem = s.mem
    rw [hall]
  · show t.parts = s.parts
    rw [hall]
  · rw [getRow_modRow, hrow, hnow]
  · have hcol := hback c (List.mem_range.2 hc)
    rw [hteam.row, hteam.image r c hn hahead, imageAt_place c hahead] at hcol
    rw [hdead]
    generalize imagePool s (placeRow s r c m.place) = cells at hcol ⊢
    exact ⟨hcol.pool, hcol.bars, hcol.lanes⟩
  · have hhead : getHead t r sl = getHead u r sl := by rw [getHead, halone.heads]; rfl
    rw [hdead]
    exact hhead.trans (hslots sl hsl)

theorem bringTeam_whole {s : State} {r : Nat} {m : Image} (hn : m.place < s.loftF) (hahead : m.ahead = []) (hpoison : s.memPoison = []) :
    bringTeam s r m = restoreTeam s r m := by
  have hwhole (c : Nat) : (imageAt s r m c).2.2 = false := by
    rw [imageAt_place c hahead]
    simp [imageBroken, hpoison]
  have hhere : ¬ s.loftF ≤ m.place := by omega
  simp [bringTeam, hhere, hwhole]

theorem exec_teamRestore {s : State} {row p u : Nat} {m : Image} (hphase : (getRow s row).phase = .restore)
    (hnext : (getRow s row).next = some u) (hpower : (getRow s row).cur ≠ .off) (hpart : (getRow s row).part = some p)
    (hfind : (getRow s row).images.find? (fun m => m.team == u) = some m) (hn : m.place < s.loftF) (hahead : m.ahead = [])
    (hpoison : s.memPoison = []) : exec (.teamRestore row) s = .next (checkMoving (restoreTeam s row m) p) := by
  show execTeamRestore row s = _
  simp [execTeamRestore, hphase, powered_iff.2 hpower, hnext, hfind, hpart, bringTeam_whole hn hahead hpoison]

/-- A strand whose task has not ended is not among the dead slots. -/
theorem deadSlots_live {s : State} {r p k sl : Nat} {m : Image} {j : Job} (hjob : rowJob s r = some (p, j))
    (htask : (tget m.heads sl Head.reset).task = some k) (hlive : ∀ e ∈ j.ended, e.1 ≠ k) : isIn sl (deadSlots s r m) = false := by
  refine Bool.eq_false_iff.2 fun hdead => ?_
  obtain ⟨i, hi, heq⟩ := List.any_eq_true.1 hdead
  obtain rfl : i = sl := beq_iff_eq.1 heq
  obtain ⟨-, hgone⟩ := List.mem_filter.1 hi
  simp only [htask, hjob] at hgone
  obtain ⟨e, he, hek⟩ := List.any_eq_true.1 hgone
  exact hlive e he (beq_iff_eq.1 hek)

theorem completes_teamRestore {s : State} {row p u : Nat} {m : Image} {j : Job} (hphase : (getRow s row).phase = .restore)
    (hnext : (getRow s row).next = some u) (hpower : (getRow s row).cur ≠ .off) (hpart : (getRow s row).part = some p)
    (hkill : (getPart s p).killDue = false) (hjob : (getPart s p).job = some j)
    (hfind : (getRow s row).images.find? (fun m => m.team == u) = some m) (hn : m.place < s.loftF) (hahead : m.ahead = [])
    (hpoison : s.memPoison = []) (hputs : ∀ c < 16, (getCore s (coreIx row c)).hputs = []) :
    Completes (exec (.teamRestore row) s) fun t => t.mem = s.mem ∧ (getRow t row).phase = .placed ∧ (getRow t row).resident = some u ∧
      (getRow t row).sliceAt = s.now ∧ (getRow t row).images = (getRow s row).images.filter (fun m => decide (m.team ≠ u)) ∧
      (∀ c < 16, (getCore t (coreIx row c)).pool = imageScratch (getRow s row).pword (imagePool s (placeRow s row c m.place)) ∧
        (getCore t (coreIx row c)).bars = (tget m.cores c Core.reset).bars) ∧
      ∀ i < 8, ∀ k, (tget m.heads i Head.reset).task = some k → (∀ e ∈ j.ended, e.1 ≠ k) →
        getHead t row i = { tget m.heads i Head.reset with placedAt := (getRow s row).cycle } ∧
        ∀ c < 16, getLane t row c i = { tget m.lanes (8 * c + i) Lane.reset with
          v := Vector.ofFn fun k => imageVreg (getRow s row).pword (imagePool s (placeRow s row c m.place)) i k.val } := by
  have hexec := exec_teamRestore hphase hnext hpower hpart hfind hn hahead hpoison
  obtain ⟨hmem, hparts, hrow, hcols, hslots⟩ := restoreTeam_back (r := row) hn hahead hputs
  generalize restoreTeam s row m = t at hexec hmem hparts hrow hcols hslots
  have hkill' : (getPart t p).killDue = false := by rw [getPart, hparts]; exact hkill
  obtain ⟨ps, hchecked⟩ := checkMoving_form hkill'
  have hteam : m.team = u := by simpa using List.find?_some hfind
  rw [hchecked] at hexec
  refine ⟨_, hexec, hmem, ?_⟩
  have hrow' : getRow { t with parts := ps } row = getRow t row := rfl
  rw [hrow', hrow]
  refine ⟨rfl, congrArg some hteam, rfl, ?_, fun c hc => ⟨(hcols c hc).pool, (hcols c hc).bars⟩, fun i hi k htask hlive => ?_⟩
  · rw [hteam]
    exact List.filter_congr fun m _ => by rw [Bool.eq_iff_iff]; simp
  · have hlive' := deadSlots_live (rowJob_eq_some.2 ⟨hpart, hjob⟩) htask hlive
    have hhead : backHead m (deadSlots s row m) (getRow s row).cycle i =
        { tget m.heads i Head.reset with placedAt := (getRow s row).cycle } := if_neg (by rw [hlive']; exact Bool.false_ne_true)
    refine ⟨(hslots i hi).trans hhead, fun c hc => ((hcols c hc).lanes i hi).trans ?_⟩
    exact if_neg (by rw [hlive']; exact Bool.false_ne_true)

end Sys2Proof.Machine
end

section
/-! PROOFS. JCTL, and slices, saves, restores and timed holds together (R341; O55). -/

namespace Sys2Proof.Machine

/-! JCTL.KILL (R341, R356): a job's tasks are ended with an error bit. -/

/-- A running job of a partition lists some tasks with one status word. -/
def ListedEnd (p : Nat) (tasks : Nat → Prop) (w : Word) (s : State) : Prop :=
  ∃ j, (getPart s p).job = some j ∧ (getPart s p).jstate = .running ∧ ∀ i, tasks i → (i, w) ∈ j.ended

theorem ListedEnd.congr {p : Nat} {tasks : Nat → Prop} {w : Word} {s t : State} (h : ListedEnd p tasks w s)
    (hparts : t.parts = s.parts) : ListedEnd p tasks w t := by
  have hget : getPart t p = getPart s p := by rw [getPart, hparts]; rfl
  rwa [ListedEnd, hget]

/-- The end of a task leaves the partitions as they are, or lists the task with its status word. -/
theorem endTask_parts (s : State) (r sl : Nat) (status : Word) : (endTask s r sl status).parts = s.parts ∨
    ∃ p k, (endTask s r sl status).parts = (modJob s p fun j => { j with ended := tput j.ended k status }).parts := by
  cases htask : (getHead s r sl).task with
  | none =>
    refine .inl ?_
    simp only [endTask, htask]
    rfl
  | some k =>
    cases hjob : rowJob s r with
    | none =>
      refine .inl ?_
      simp only [endTask, htask, hjob]
      rfl
    | some pj =>
      obtain ⟨p, j⟩ := pj
      obtain ⟨u, hform, hkept⟩ := endTask_form status htask hjob
      obtain ⟨hturned, -⟩ := teamCheck_turned u r
      exact .inr ⟨p, k, by rw [hform, hturned.parts, hkept.parts]; rfl⟩

theorem ListedEnd.endTask {p : Nat} {tasks : Nat → Prop} {w : Word} {s : State} (h : ListedEnd p tasks w s) (r sl : Nat) :
    ListedEnd p tasks w (endTask s r sl w) := by
  rcases endTask_parts s r sl w with hsame | ⟨q, k, hended⟩
  · exact h.congr hsame
  · refine ListedEnd.congr (s := modJob s q fun j => { j with ended := tput j.ended k w }) ?_ hended
    obtain ⟨j, hjob, hstate, hin⟩ := h
    by_cases hq : p = q
    · subst hq
      rw [ListedEnd, getPart_modJob, hjob]
      refine ⟨_, rfl, hstate, fun i hi => ?_⟩
      by_cases hk : i = k
      · exact hk ▸ mem_tput_same _ _ _
      · exact (mem_tput_ne (q := (i, w)) hk).2 (hin i hi)
    · rw [ListedEnd, modJob, getPart_modPart_ne _ _ hq]
      exact ⟨j, hjob, hstate, hin⟩

theorem ListedEnd.stopStrand {p e : Nat} {tasks : Nat → Prop} {s : State} (h : ListedEnd p tasks (statusWord 0 e) s) (r sl : Nat) :
    ListedEnd p tasks (statusWord 0 e) (stopStrand s r sl e) := by
  have hcols : TasksKept s (forCols (fun s c => modCore (dropPress s r c sl) (coreIx r c) (dropCopies sl)) s) :=
    .forCols (fun s c => (dropPress_tasks s r c sl).trans (modCore_tasks _ _ _)) s
  exact (h.congr (hcols.trans (dropWalks_tasks (copyWalk r sl) _)).parts).endTask r sl

/-- The tasks that are resident on a partition's rows. -/
def liveTasks (s : State) (p : Nat) : List Nat :=
  (rowsOf (getPart s p)).flatMap fun r =>
    if (getRow s r).part == some p then (upTo 8).filterMap fun sl => (getHead s r sl).task else []

/-- What a killed job lists: every task that is not resident, with its own status word or that of the kill. -/
def killedEnds (j : Job) (live : List Nat) (e : Nat) : Tbl Word :=
  (upTo j.launch.size).filterMap fun t =>
    match j.ended.find? fun q => q.1 == t with
    | some q => some q
    | none => if isIn t live then none else some (t, statusWord 0 e)

/-- A row of a killed job, before its resident tasks are stopped. -/
def killedRow (x : Part) (j : Job) (s : State) (r : Nat) : State :=
  let busy := (getRow s r).phase == .save || (getRow s r).phase == .placed
  modRow s r fun y =>
    { y with ended := (teamsAt j.launch (partRows x) (r - x.first)).filter fun t => !(busy && y.resident == some t),
             images := [], next := none, phase := if busy then .placed else if y.phase == .idle then .idle else .loaded }

/-- Stop the resident tasks of a partition's row. -/
def stopRow (p e : Nat) (s : State) (r : Nat) : State :=
  if (getRow s r).part == some p then
    teamCheck (forSlots (fun s sl => if (getHead s r sl).task.isSome then stopStrand s r sl e else s) s) r
  else s

/-- A killed job before its resident tasks are stopped. -/
def killStart (s : State) (p e : Nat) (j : Job) : State :=
  let rest := (upTo j.launch.size).filter fun t => !isIn t (liveTasks s p)
  let u := modJob (applyHeld s p rest) p fun j => { j with ended := killedEnds j (liveTasks s p) e }
  modPart ((rowsOf (getPart s p)).foldl (killedRow (getPart s p) j) u) p fun y => { y with jstate := .running, saving := false, killDue := false }

theorem killJob_eq {s : State} {p : Nat} {j : Job} (e : Nat) (hjob : (getPart s p).job = some j) :
    killJob s p e = (rowsOf (getPart s p)).foldl (stopRow p e) (killStart s p e j) := by
  simp only [killJob, hjob]
  rfl

theorem ListedEnd.stopRow {p e : Nat} {tasks : Nat → Prop} {s : State} (h : ListedEnd p tasks (statusWord 0 e) s) (q r : Nat) :
    ListedEnd p tasks (statusWord 0 e) (stopRow q e s r) := by
  unfold Machine.stopRow
  split
  · obtain ⟨hturned, -⟩ := teamCheck_turned (forSlots (fun s sl => if (getHead s r sl).task.isSome then Machine.stopStrand s r sl e else s) s) r
    refine ListedEnd.congr ?_ hturned.parts
    refine forSlots_keeps (P := ListedEnd p tasks (statusWord 0 e)) (fun t sl ht => ?_) s h
    split
    · exact ht.stopStrand r sl
    · exact ht
  · exact h

theorem mem_killedEnds {j : Job} {live : List Nat} {i : Nat} (e : Nat) (hi : i < j.launch.size) (hrun : ∀ q ∈ j.ended, q.1 ≠ i)
    (hlive : isIn i live = false) : (i, statusWord 0 e) ∈ killedEnds j live e := by
  refine List.mem_filterMap.2 ⟨i, List.mem_range.2 hi, ?_⟩
  have hnone : j.ended.find? (fun q => q.1 == i) = none := List.find?_eq_none.2 fun q hq => by simpa using hrun q hq
  rw [hnone, hlive]
  rfl

theorem isIn_liveTasks {s : State} {p i : Nat} (h : ∀ r, ∀ k < 8, (getRow s r).part = some p → (getHead s r k).task ≠ some i) :
    isIn i (liveTasks s p) = false := by
  refine Bool.eq_false_iff.2 fun hin => ?_
  obtain ⟨k, hk, heq⟩ := List.any_eq_true.1 hin
  obtain rfl : k = i := beq_iff_eq.1 heq
  obtain ⟨r, -, hr⟩ := List.mem_flatMap.1 hk
  split at hr
  next hpart =>
    obtain ⟨sl, hsl, htask⟩ := List.mem_filterMap.1 hr
    exact h r sl (List.mem_range.1 hsl) (beq_iff_eq.1 hpart) htask
  next => exact List.not_mem_nil hr

theorem killedRows_parts (x : Part) (j : Job) (l : List Nat) (s : State) : (l.foldl (killedRow x j) s).parts = s.parts := by
  refine foldl_keeps (P := fun t : State => t.parts = s.parts) (fun t r ht => ?_) l s rfl
  exact ht

theorem killStart_part {s : State} {p : Nat} {j : Job} (e : Nat) (hjob : (getPart s p).job = some j) : getPart (killStart s p e j) p =
    { getPart s p with job := some { j with ended := killedEnds j (liveTasks s p) e }, jstate := .running, saving := false, killDue := false } := by
  unfold killStart
  extract_lets rest u
  have hu : getPart u p = { getPart s p with job := some { j with ended := killedEnds j (liveTasks s p) e } } := by
    rw [getPart_modJob, (applyHeld_tasks s p rest).getPart, hjob]
    rfl
  have hrows := killedRows_parts (getPart s p) j (rowsOf (getPart s p)) u
  have hget : getPart ((rowsOf (getPart s p)).foldl (killedRow (getPart s p) j) u) p = getPart u p := by rw [getPart, hrows]; rfl
  rw [getPart_modPart, hget, hu]

/-- A task of a job that has neither ended nor is resident. -/
def Away (s : State) (p : Nat) (j : Job) (i : Nat) : Prop := i < j.launch.size ∧ (∀ q ∈ j.ended, q.1 ≠ i) ∧
  ∀ r, ∀ k < 8, (getRow s r).part = some p → (getHead s r k).task ≠ some i

/-- A killed job's tasks that are not resident are listed with the status word of the kill. -/
theorem killJob_ends {s : State} {p : Nat} {j : Job} (e : Nat) (hjob : (getPart s p).job = some j) :
    ListedEnd p (Away s p j) (statusWord 0 e) (killJob s p e) := by
  rw [killJob_eq e hjob]
  refine foldl_keeps (P := ListedEnd p (Away s p j) (statusWord 0 e)) (fun t r ht => ht.stopRow p r) _ _ ?_
  rw [ListedEnd, killStart_part e hjob]
  exact ⟨_, rfl, rfl, fun i ⟨hi, hrun, haway⟩ => mem_killedEnds e hi hrun (isIn_liveTasks haway)⟩

/-! JCTL (R341). -/

/-- A function that has a partition may act on its job. -/
structure Commands (s : State) (vf p : Nat) : Prop where
  index : vf < 32
  enabled : (getVf s vf).en = true
  part : (getVf s vf).part = p

/-- While a row is still on its way, the save or restore of its partition goes on. -/
theorem checkMoving_moving {s : State} {p : Nat}
    (hdelay : (getPart s p).saving = true → (getPart s p).killDue = true → ∀ r ∈ rowsOf (getPart s p), rowDelays s r = false)
    (hstill : stillIn s (getPart s p) (if (getPart s p).saving then .save else .restore) = true) : checkMoving s p = s := by
  cases hjob : (getPart s p).job with
  | none => exact checkMoving_none hjob
  | some j =>
    rw [checkMoving_eq hjob]
    extract_lets x
    split
    · rfl
    have hno : (x.saving && x.killDue && (rowsOf x).any (rowDelays s)) = false := by
      refine Bool.eq_false_iff.2 fun h => ?_
      obtain ⟨hboth, hany⟩ := Bool.and_eq_true_iff.1 h
      obtain ⟨hsaving, hkill⟩ := Bool.and_eq_true_iff.1 hboth
      obtain ⟨r, hr, hdelays⟩ := List.any_eq_true.1 hany
      exact absurd hdelays (by rw [hdelay hsaving hkill r hr]; exact Bool.false_ne_true)
    rw [hno, if_neg Bool.false_ne_true]
    split
    next hsaving =>
      have hsave : stillIn s x .save = true := by rwa [if_pos hsaving] at hstill
      simp [hsave]
    next hsaving =>
      have hrestore : stillIn s x .restore = true := by rwa [if_neg hsaving] at hstill
      rw [if_pos hrestore]

/-- A waiting KILL takes effect where a row puts the save off. -/
theorem checkMoving_killed {s : State} {p : Nat} {j : Job} (hjob : (getPart s p).job = some j) (hmoving : (getPart s p).jstate = .moving)
    (hsaving : (getPart s p).saving = true) (hkill : (getPart s p).killDue = true) (hdelay : (rowsOf (getPart s p)).any (rowDelays s) = true) :
    checkMoving s p = killJob s p 43 := by
  simp [checkMoving_eq hjob, hmoving, hsaving, hkill, hdelay]

/-- The restore of a partition has ended: its job runs. -/
theorem checkMoving_resumed {s : State} {p : Nat} {j : Job} (hjob : (getPart s p).job = some j) (hmoving : (getPart s p).jstate = .moving)
    (hsaving : (getPart s p).saving = false) (hkill : (getPart s p).killDue = false) (hstill : stillIn s (getPart s p) .restore = false) :
    checkMoving s p = modPart s p fun x => { x with jstate := .running } := by
  simp [checkMoving_eq hjob, hmoving, hsaving, hkill, hstill]

/-! JCTL.KILL. -/

theorem jctlKillAt_none {s : State} {vf p : Nat} (hcmd : Commands s vf p) (hjob : (getPart s p).job = none) : jctlKillAt s vf = s := by
  simp [jctlKillAt, hcmd.part, hjob]

theorem jctlKillAt_some {s : State} {vf p : Nat} {j : Job} (hcmd : Commands s vf p) (hjob : (getPart s p).job = some j) : jctlKillAt s vf =
    if (getPart s p).jstate = .moving then checkMoving (modPart s p fun x => { x with killDue := true }) p else killJob s p 43 := by
  simp [jctlKillAt, hcmd.index, hcmd.enabled, hcmd.part, hjob]

/-- Where no row puts the save or restore off, the KILL waits for its end. -/
theorem jctlKillAt_waits {s : State} {vf p : Nat} {j : Job} (hcmd : Commands s vf p) (hjob : (getPart s p).job = some j)
    (hmoving : (getPart s p).jstate = .moving) (hdelay : ∀ i < partRows (getPart s p), rowDelays s ((getPart s p).first + i) = false)
    (hstill : ∃ i < partRows (getPart s p), (getRow s ((getPart s p).first + i)).phase = if (getPart s p).saving then .save else .restore) :
    jctlKillAt s vf = modPart s p fun x => { x with killDue := true } := by
  rw [jctlKillAt_some hcmd hjob, if_pos hmoving]
  have hpart : getPart (modPart s p fun x => { x with killDue := true }) p = { getPart s p with killDue := true } := getPart_modPart s p _
  refine checkMoving_moving (fun _ _ r hr => ?_) ?_
  · rw [hpart] at hr
    obtain ⟨i, hi, rfl⟩ := mem_rowsOf.1 hr
    exact hdelay i hi
  · rw [hpart]
    exact stillIn_iff.2 hstill

/-- A KILL that does not wait. -/
theorem jctlKillAt_now {s : State} {vf p : Nat} {j : Job} (hcmd : Commands s vf p) (hjob : (getPart s p).job = some j)
    (hnow : (getPart s p).jstate ≠ .moving ∨
      ((getPart s p).saving = true ∧ ∃ i < partRows (getPart s p), rowDelays s ((getPart s p).first + i) = true)) :
    jctlKillAt s vf = killJob s p 43 ∨ jctlKillAt s vf = killJob (modPart s p fun x => { x with killDue := true }) p 43 := by
  rw [jctlKillAt_some hcmd hjob]
  by_cases hmoving : (getPart s p).jstate = .moving
  · obtain ⟨hsaving, i, hi, hdelays⟩ := hnow.resolve_left fun h => h hmoving
    have hpart : getPart (modPart s p fun x => { x with killDue := true }) p = { getPart s p with killDue := true } := getPart_modPart s p _
    have hany : (rowsOf (getPart s p)).any (rowDelays s) = true := List.any_eq_true.2 ⟨_, mem_rowsOf.2 ⟨i, hi, rfl⟩, hdelays⟩
    rw [if_pos hmoving]
    exact .inr (checkMoving_killed (by rw [hpart]; exact hjob) (by rw [hpart]; exact hmoving) (by rw [hpart]; exact hsaving)
      (by rw [hpart]) (by rw [hpart]; exact hany))
  · exact .inl (if_neg hmoving)

theorem jctlKillAt_ends {s : State} {vf p : Nat} {j : Job} (hcmd : Commands s vf p) (hjob : (getPart s p).job = some j)
    (hnow : (getPart s p).jstate ≠ .moving ∨
      ((getPart s p).saving = true ∧ ∃ i < partRows (getPart s p), rowDelays s ((getPart s p).first + i) = true)) :
    ListedEnd p (Away s p j) (statusWord 0 43) (jctlKillAt s vf) := by
  rcases jctlKillAt_now hcmd hjob hnow with h | h
  all_goals rw [h]
  · exact killJob_ends 43 hjob
  · exact killJob_ends (s := modPart s p fun x => { x with killDue := true }) 43 (by rw [getPart_modPart]; exact hjob)

/-! JCTL.PRE. -/

/-- Fewer images of a row take fewer of its save places. -/
theorem freePlace_fewer {s : State} {r : Nat} (keep : Image → Bool) (h : (freePlace s r).isSome) :
    (freePlace (modRow s r fun x => { x with images := x.images.filter keep }) r).isSome := by
  have hjob : rowJob (modRow s r fun x => { x with images := x.images.filter keep }) r = rowJob s r :=
    rowJob_congr rfl (by rw [getRow_modRow])
  obtain ⟨i, hi, hfree⟩ := List.find?_isSome.1 h
  rw [freePlace, hjob]
  refine List.find?_isSome.2 ⟨i, hi, ?_⟩
  have hused : isIn i (placesUsed s r) = false := by simpa using hfree
  suffices isIn i (placesUsed (modRow s r fun x => { x with images := x.images.filter keep }) r) = false by rw [this]; rfl
  refine Bool.eq_false_iff.2 fun hin => ?_
  obtain ⟨n, hn, heq⟩ := List.any_eq_true.1 hin
  rw [placesUsed, getRow_modRow] at hn
  obtain ⟨m, hm, rfl⟩ := List.mem_map.1 hn
  exact absurd (hused.symm.trans (List.any_eq_true.2 ⟨m.place, List.mem_map.2 ⟨m, (List.mem_filter.1 hm).1, rfl⟩, heq⟩)) Bool.false_ne_true

theorem noPlace_false {s : State} {r : Nat} (h : (freePlace s r).isSome) : noPlace s r = false := by
  unfold noPlace
  extract_lets x
  split
  · exact Option.isNone_eq_false_iff.2 h
  · exact Option.isNone_eq_false_iff.2 h
  · exact Option.isNone_eq_false_iff.2 (freePlace_fewer _ h)
  · rfl

/-- A fold over a list without repetitions reaches one thing at an element, which the others neither prevent nor undo. -/
theorem foldl_at {α β : Type} {f : β → α → β} {P Q : β → Prop} {a : α} (hP : ∀ u b, b ≠ a → P u → P (f u b)) (hPQ : ∀ u, P u → Q (f u a))
    (hQ : ∀ u b, b ≠ a → Q u → Q (f u b)) : ∀ (l : List α), l.Nodup → a ∈ l → ∀ u, P u → Q (l.foldl f u)
  | b :: l, hnodup, hmem, u, hu => by
    obtain ⟨hout, hnodup'⟩ := List.nodup_cons.1 hnodup
    by_cases hb : b = a
    · subst hb
      exact List.foldlRecOn l f (hPQ u hu) fun u hu c hc => hQ u c (fun e => hout (e ▸ hc)) hu
    · exact foldl_at hP hPQ hQ l hnodup' ((List.mem_cons.1 hmem).resolve_left (Ne.symm hb)) _ (hP u b hb hu)

/-- JCTL.PRE at a row: its team is stopped, where it may be. -/
def preRow (s : State) (r : Nat) : State :=
  match (getRow s r).phase with
  | .placed => if stopReady s r && powered s r then startSave s r none else s
  | _ => s

theorem preRow_alone (s : State) (r : Nat) : RowAlone r s (preRow s r) := by
  have hsame : RowAlone r s s := (TasksKept.refl s).rowAlone r
  unfold preRow
  split
  · split
    · exact (startSave_stopped s r none).toRowAlone
    · exact hsame
  · exact hsame

theorem preRow_stops {s : State} {r : Nat} (hphase : (getRow s r).phase = .placed) (hready : stopReady s r = true)
    (hpower : (getRow s r).cur ≠ .off) : (getRow (preRow s r) r).phase = .save := by
  simp only [preRow, hphase, hready, powered_iff.2 hpower, Bool.and_self, if_true]
  rw [(startSave_stopped s r none).row]

theorem RowAlone.row {r r' : Nat} {s t : State} (h : RowAlone r s t) (hne : r' ≠ r) : getRow t r' = getRow s r' := h.rows r' hne

theorem RowAlone.head {r r' : Nat} {s t : State} (h : RowAlone r s t) (hne : r' ≠ r) {i : Nat} (hi : i < 8) : getHead t r' i = getHead s r' i :=
  h.heads _ fun sl hsl => by omega

theorem stopReady_congr {s t : State} {r : Nat} (hrow : getRow t r = getRow s r) (hheads : ∀ i < 8, getHead t r i = getHead s r i)
    (h : stopReady s r = true) : stopReady t r = true := by
  obtain ⟨hrun, hslots⟩ := stopReady_iff.1 h
  exact stopReady_iff.2 ⟨by rw [hrow, hrun], fun sl hsl => by rw [hheads sl hsl]; exact hslots sl hsl⟩

theorem rowsOf_nodup (x : Part) : (rowsOf x).Nodup := List.nodup_range.map fun _ _ h => Nat.add_left_cancel h

/-- The rows of a partition are stopped for JCTL.PRE. -/
theorem preRows_stop {s : State} {row : Nat} (hphase : (getRow s row).phase = .placed) (hready : stopReady s row = true)
    (hpower : (getRow s row).cur ≠ .off) {l : List Nat} (hnodup : l.Nodup) (hrow : row ∈ l) :
    (l.foldl preRow s).parts = s.parts ∧ (getRow (l.foldl preRow s) row).phase = .save := by
  refine foldl_at (P := fun u => u.parts = s.parts ∧ getRow u row = getRow s row ∧ ∀ i < 8, getHead u row i = getHead s row i)
    (Q := fun u => u.parts = s.parts ∧ (getRow u row).phase = .save) (fun u r hne ⟨hparts, hkept, hheads⟩ => ?_)
    (fun u ⟨hparts, hkept, hheads⟩ => ?_) (fun u r hne ⟨hparts, hsave⟩ => ?_) l hnodup hrow s ⟨rfl, rfl, fun _ _ => rfl⟩
  · have halone := preRow_alone u r
    exact ⟨halone.parts.trans hparts, (halone.row hne.symm).trans hkept, fun i hi => (halone.head hne.symm hi).trans (hheads i hi)⟩
  · exact ⟨(preRow_alone u row).parts.trans hparts,
      preRow_stops (by rw [hkept, hphase]) (stopReady_congr hkept hheads hready) (by rw [hkept]; exact hpower)⟩
  · have halone := preRow_alone u r
    exact ⟨halone.parts.trans hparts, by rw [halone.row hne.symm, hsave]⟩

/-- A partition that JCTL.PRE saves. -/
def preparing (s : State) (p : Nat) : State := modPart s p fun x => { x with jstate := .moving, saving := true }

theorem jctlPreAt_eq {s : State} {vf p : Nat} {j : Job} (hcmd : Commands s vf p) (hjob : (getPart s p).job = some j)
    (hrun : (getPart s p).jstate = .running) : jctlPreAt s vf =
    if (rowsOf (getPart s p)).any (noPlace s) then modPart s p fun x => { x with pref := true }
    else checkMoving ((rowsOf (getPart s p)).foldl preRow (preparing s p)) p := by
  simp only [jctlPreAt, hcmd.index, hcmd.enabled, hcmd.part, hjob, hrun]
  rfl

theorem jctlPreAt_refused {s : State} {vf p row : Nat} {j : Job} (hcmd : Commands s vf p) (hjob : (getPart s p).job = some j)
    (hrun : (getPart s p).jstate = .running) (hrow : row ∈ rowsOf (getPart s p)) (hphase : (getRow s row).phase = .placed)
    (hfull : freePlace s row = none) : jctlPreAt s vf = modPart s p fun x => { x with pref := true } := by
  have hno : noPlace s row = true := by
    simp only [noPlace, hphase, hfull]
    rfl
  rw [jctlPreAt_eq hcmd hjob hrun, if_pos (List.any_eq_true.2 ⟨row, hrow, hno⟩)]

theorem jctlPreAt_stops {s : State} {vf p row : Nat} {j : Job} (hcmd : Commands s vf p) (hjob : (getPart s p).job = some j)
    (hrun : (getPart s p).jstate = .running) (hrow : row ∈ rowsOf (getPart s p)) (hphase : (getRow s row).phase = .placed)
    (hplaces : ∀ i < partRows (getPart s p), (freePlace s ((getPart s p).first + i)).isSome) (hkill : (getPart s p).killDue = false)
    (hready : stopReady s row = true) (hpower : (getRow s row).cur ≠ .off) :
    (getRow (jctlPreAt s vf) row).phase = .save ∧ getPart (jctlPreAt s vf) p = { getPart s p with jstate := .moving, saving := true } := by
  have hany : (rowsOf (getPart s p)).any (noPlace s) = false := by
    refine Bool.eq_false_iff.2 fun h => ?_
    obtain ⟨r, hr, hno⟩ := List.any_eq_true.1 h
    obtain ⟨i, hi, rfl⟩ := mem_rowsOf.1 hr
    exact absurd hno (by rw [noPlace_false (hplaces i hi)]; exact Bool.false_ne_true)
  rw [jctlPreAt_eq hcmd hjob hrun, hany, if_neg Bool.false_ne_true]
  obtain ⟨hparts, hsave⟩ := preRows_stop (s := preparing s p) hphase hready hpower (rowsOf_nodup _) hrow
  generalize (rowsOf (getPart s p)).foldl preRow (preparing s p) = t at hparts hsave
  have hpart : getPart t p = { getPart s p with jstate := .moving, saving := true } := by
    have hget : getPart t p = getPart (preparing s p) p := by rw [getPart, hparts]; rfl
    exact hget.trans (getPart_modPart s p _)
  obtain ⟨i, hi, hat⟩ := mem_rowsOf.1 hrow
  have hsame : checkMoving t p = t := by
    refine checkMoving_moving (fun _ h => ?_) ?_
    · rw [hpart] at h
      exact nomatch hkill.symm.trans h
    · rw [hpart]
      exact stillIn_iff.2 ⟨i, hi, by rw [hat, hsave]; rfl⟩
  rw [hsame]
  exact ⟨hsave, hpart⟩

/-! JCTL.RES. -/

/-- JCTL.RES at a row: a saved team is admitted. -/
def resRow (s : State) (r : Nat) : State :=
  match (getRow s r).phase, (getRow s r).next with
  | .loaded, some u => admitTeam s r u
  | _, _ => s

theorem resRow_alone (s : State) (r : Nat) : RowAlone r s (resRow s r) := by
  unfold resRow
  split
  · exact (admitTeam_turned s r _).toRowAlone
  · exact (TasksKept.refl s).rowAlone r

theorem resRow_none {s : State} {r : Nat} (h : (getRow s r).next = none) : resRow s r = s := by
  unfold resRow
  split
  next h' => exact nomatch h.symm.trans h'
  next => rfl

/-- A team that has started is restored. -/
theorem resRow_restores {s : State} {r u : Nat} (hphase : (getRow s r).phase = .loaded) (hnext : (getRow s r).next = some u)
    (hstarted : u ∈ (getRow s r).started) : getRow (resRow s r) r = { getRow s r with phase := .restore } := by
  have hin : isIn u (getRow s r).started = true := List.any_eq_true.2 ⟨u, hstarted, beq_self_eq_true u⟩
  simp only [resRow, hphase, hnext, admitTeam, hin, if_true, getRow_modRow]

theorem resRows_restore {s : State} {row u : Nat} (hphase : (getRow s row).phase = .loaded) (hnext : (getRow s row).next = some u)
    (hstarted : u ∈ (getRow s row).started) {l : List Nat} (hnodup : l.Nodup) (hrow : row ∈ l) :
    (l.foldl resRow s).parts = s.parts ∧ getRow (l.foldl resRow s) row = { getRow s row with phase := .restore } := by
  refine foldl_at (P := fun t => t.parts = s.parts ∧ getRow t row = getRow s row)
    (Q := fun t => t.parts = s.parts ∧ getRow t row = { getRow s row with phase := .restore }) (fun t r hne ⟨hparts, hkept⟩ => ?_)
    (fun t ⟨hparts, hkept⟩ => ?_) (fun t r hne ⟨hparts, hkept⟩ => ?_) l hnodup hrow s ⟨rfl, rfl⟩
  · have halone := resRow_alone t r
    exact ⟨halone.parts.trans hparts, (halone.row hne.symm).trans hkept⟩
  · refine ⟨(resRow_alone t row).parts.trans hparts, ?_⟩
    rw [resRow_restores (by rw [hkept, hphase]) (by rw [hkept, hnext]) (by rw [hkept]; exact hstarted), hkept]
  · have halone := resRow_alone t r
    exact ⟨halone.parts.trans hparts, (halone.row hne.symm).trans hkept⟩

/-- A partition that JCTL.RES brings back. -/
def resuming (s : State) (p : Nat) : State := modPart s p fun x => { x with jstate := .moving, saving := false }

theorem jctlResAt_eq {s : State} {vf p : Nat} (hcmd : Commands s vf p) (hsaved : (getPart s p).jstate = .saved) :
    jctlResAt s vf = checkMoving ((rowsOf (getPart s p)).foldl resRow (resuming s p)) p := by
  simp only [jctlResAt, hcmd.index, hcmd.enabled, hcmd.part, hsaved]
  rfl

/-- Where no team is to come back, the job runs at once. -/
theorem jctlResAt_empty {s : State} {vf p : Nat} {j : Job} (hcmd : Commands s vf p) (hsaved : (getPart s p).jstate = .saved)
    (hjob : (getPart s p).job = some j) (hkill : (getPart s p).killDue = false)
    (hrows : ∀ i < partRows (getPart s p), (getRow s ((getPart s p).first + i)).next = none ∧
      (getRow s ((getPart s p).first + i)).phase ≠ .restore) :
    jctlResAt s vf = modPart (resuming s p) p fun x => { x with jstate := .running } := by
  have hfold : (rowsOf (getPart s p)).foldl resRow (resuming s p) = resuming s p := by
    refine List.foldlRecOn (motive := fun t => t = resuming s p) _ resRow rfl fun t ht r hr => ?_
    obtain ⟨i, hi, rfl⟩ := mem_rowsOf.1 hr
    rw [ht]
    exact resRow_none (s := resuming s p) (hrows i hi).1
  have hpart : getPart (resuming s p) p = { getPart s p with jstate := .moving, saving := false } := getPart_modPart s p _
  have hstill : stillIn (resuming s p) (getPart s p) .restore = false := by
    refine Bool.eq_false_iff.2 fun h => ?_
    obtain ⟨i, hi, hphase⟩ := stillIn_iff.1 h
    exact (hrows i hi).2 hphase
  rw [jctlResAt_eq hcmd hsaved, hfold]
  exact checkMoving_resumed (by rw [hpart]; exact hjob) (by rw [hpart]) (by rw [hpart]) (by rw [hpart]; exact hkill)
    (by rw [hpart]; exact hstill)

theorem jctlResAt_restores {s : State} {vf p row u : Nat} (hcmd : Commands s vf p) (hsaved : (getPart s p).jstate = .saved)
    (hrow : row ∈ rowsOf (getPart s p)) (hphase : (getRow s row).phase = .loaded) (hnext : (getRow s row).next = some u)
    (hstarted : u ∈ (getRow s row).started) :
    getRow (jctlResAt s vf) row = { getRow s row with phase := .restore } ∧ (getPart (jctlResAt s vf) p).jstate = .moving := by
  rw [jctlResAt_eq hcmd hsaved]
  obtain ⟨hparts, hrestore⟩ := resRows_restore (s := resuming s p) hphase hnext hstarted (rowsOf_nodup _) hrow
  generalize (rowsOf (getPart s p)).foldl resRow (resuming s p) = t at hparts hrestore
  have hpart : getPart t p = { getPart s p with jstate := .moving, saving := false } := by
    have hget : getPart t p = getPart (resuming s p) p := by rw [getPart, hparts]; rfl
    exact hget.trans (getPart_modPart s p _)
  obtain ⟨i, hi, hat⟩ := mem_rowsOf.1 hrow
  have hsame : checkMoving t p = t := by
    refine checkMoving_moving (fun h => ?_) ?_
    · rw [hpart] at h
      exact nomatch h
    · rw [hpart]
      exact stillIn_iff.2 ⟨i, hi, by rw [hat, hrestore]; rfl⟩
  rw [hsame]
  exact ⟨hrestore, by rw [hpart]⟩

/-! Timed holds (R132, R135). -/

theorem exec_pauseEnd {s : State} {row sl k : Nat} (hsl : sl < 8) (hwait : (getHead s row sl).wait = .pause k) : exec (.pauseEnd row sl) s =
    .next (if k ≤ (getRow s row).cycle then modHead s row sl endHold else s) := by
  show execPauseEnd row sl s = _
  simp [execPauseEnd, hwait, hsl]

theorem exec_yieldHoldEnd {s : State} {row sl k : Nat} {others : List Nat} (hsl : sl < 8) (hwait : (getHead s row sl).wait = .yield others k) :
    exec (.yieldHoldEnd row sl) s = .next (if k ≤ (getRow s row).cycle then modHead s row sl endHold else s) := by
  show execYieldHoldEnd row sl s = _
  simp [execYieldHoldEnd, hwait, hsl]

/-- A hold ends when its cycles have passed, and not before. -/
theorem hold_ends {o : Host.Outcome State Fault Refusal} {s : State} {row sl k : Nat}
    (ho : o = .next (if k ≤ (getRow s row).cycle then modHead s row sl endHold else s)) :
    (k ≤ (getRow s row).cycle → Completes o fun t => t = { s with heads := t.heads } ∧
      getHead t row sl = { getHead s row sl with wait := .no, why := 0 }) ∧
    ((getRow s row).cycle < k → o = .next s) := by
  refine ⟨fun hpassed => ?_, fun hwaits => ?_⟩
  · rw [if_pos hpassed] at ho
    exact ⟨_, ho, rfl, getHead_setHead _ _ _ _⟩
  · rw [ho, if_neg (Nat.not_le.2 hwaits)]

/-! The end of a slice. -/

/-- A row's team may give way: one of several of a running job. -/
def MayGive (s : State) (row p team : Nat) (j : Job) : Prop := (getRow s row).resident = some team ∧ rowJob s row = some (p, j) ∧
  (getRow s row).part = some p ∧ (getPart s p).jstate = .running ∧ (getRow s row).phase = .placed ∧ (getRow s row).cur ≠ .off ∧
  1 < (rowTeams s row).length

theorem MayGive.job {s : State} {row p team : Nat} {j : Job} (h : MayGive s row p team j) : rowJob s row = some (p, j) := by
  obtain ⟨-, hjob, -⟩ := h
  exact hjob

theorem MayGive.sliceOpen {s : State} {row p team : Nat} {j : Job} (h : MayGive s row p team j) (hready : stopReady s row = true) :
    sliceOpen s row = true := by
  obtain ⟨-, -, hpart, hrun, hphase, hpower, hteams⟩ := h
  exact (sliceOpen_iff hpart).2 ⟨hphase, hteams, hready, powered_iff.2 hpower, hrun⟩

theorem exec_sliceEnd_over {s : State} {row p team : Nat} {j : Job} (h : MayGive s row p team j) (hstop : MayStop s row)
    (hover : (getRow s row).sliceAt + sliceNs j.launch ≤ s.now) : exec (.sliceEnd row) s = .next (endSlice s row team) := by
  have hopen := h.sliceOpen hstop.stopReady
  obtain ⟨hteam, hjob, -⟩ := h
  rw [exec_sliceEnd hteam hjob, hopen]
  simp [hover]

theorem exec_sliceEnd_early {s : State} {row p team : Nat} {j : Job} (h : MayGive s row p team j)
    (hearly : s.now < (getRow s row).sliceAt + sliceNs j.launch) : exec (.sliceEnd row) s = .next s := by
  obtain ⟨hteam, hjob, -⟩ := h
  rw [exec_sliceEnd hteam hjob]
  simp [Nat.not_le.2 hearly]

theorem exec_sliceIdleEnd_idle {s : State} {row p team : Nat} {j : Job} (h : MayGive s row p team j) (hready : stopReady s row = true)
    (hidle : ∀ i < 8, (getHead s row i).task = none ∨ idleLong s row i = true) :
    exec (.sliceIdleEnd row) s = .next (endSlice s row team) := by
  have hopen := h.sliceOpen hready
  obtain ⟨hteam, -⟩ := h
  rw [exec_sliceIdleEnd hteam, hopen, allIdle hidle]
  rfl

/-- A row whose strands have all been registered in a GBAR for long. -/
def AllGrouped (s : State) (row : Nat) (j : Job) : Prop := ∀ i < 8, (getHead s row i).task = none ∨
  ((getHead s row i).handler = false ∧ (getHead s row i).since + 100000 ≤ s.now ∧
    ∃ g d, (getHead s row i).wait = .group g d ∧
      ∃ a ∈ (tget j.groups g ⟨[], 0, []⟩).arrived, (getHead s row i).task = some a.1 ∧ a.2.1 = 0)

theorem AllGrouped.stopReady {s : State} {row : Nat} {j : Job} (h : AllGrouped s row j) (hrun : (getRow s row).halted = false) :
    stopReady s row = true := by
  refine stopReady_iff.2 ⟨hrun, fun sl hsl => (h sl hsl).imp_right ?_⟩
  rintro ⟨hlevel, -, g, d, hwait, -⟩
  exact ⟨hlevel, by rw [hwait]; exact HeadWait.noConfusion⟩

theorem AllGrouped.idle {s : State} {row p : Nat} {j : Job} (h : AllGrouped s row j) (hjob : rowJob s row = some (p, j)) :
    ∀ i < 8, (getHead s row i).task = none ∨ idleLong s row i = true := by
  refine fun i hi => (h i hi).imp_right ?_
  rintro ⟨-, hlong, g, d, hwait, a, ha, htask, hkind⟩
  exact idleLong_group hjob hlong hwait ha htask hkind

/-- A stopped team of such strands stays as it was: none is rewound. -/
theorem AllGrouped.kept {s t : State} {row : Nat} {j : Job} {next : Option Nat} (h : AllGrouped s row j) (hstopped : Stopped row next s t) :
    ∀ i < 8, getHead t row i = getHead s row i := by
  intro i hi
  rw [hstopped.slots i hi]
  rcases h i hi with hnone | ⟨-, -, g, d, hwait, -⟩
  · exact stoppedHead_empty hnone
  · exact stoppedHead_group hwait

theorem completes_grouped {s : State} {row p team u : Nat} {j : Job} (hgive : MayGive s row p team j) (hrun : (getRow s row).halted = false)
    (hgrouped : AllGrouped s row j) (hnext : nextTeam s row (some team) = some u) (hne : u ≠ team) :
    Completes (exec (.sliceIdleEnd row) s) fun t => getRow t row = { getRow s row with phase := .save, next := some u } ∧
      ∀ i < 8, getHead t row i = getHead s row i := by
  have hexec := exec_sliceIdleEnd_idle hgive (hgrouped.stopReady hrun) (hgrouped.idle hgive.job)
  rw [endSlice_other hnext hne] at hexec
  have hstopped := startSave_stopped s row (some u)
  exact ⟨_, hexec, hstopped.row, hgrouped.kept hstopped⟩

/-! JCTL as the host gives it. -/

theorem exec_jctl_dark {s : State} (hdark : s.enumerated = false) (vf : Nat) :
    exec (.jctlKill vf) s = .next s ∧ exec (.jctlPre vf) s = .next s ∧ exec (.jctlRes vf) s = .next s :=
  ⟨hostAct_dark hdark _, hostAct_dark hdark _, hostAct_dark hdark _⟩

theorem exec_jctlKill {s : State} (hon : s.enumerated = true) (vf : Nat) : exec (.jctlKill vf) s = .next (jctlKillAt s vf) :=
  hostAct_enumerated hon _

theorem exec_jctlPre {s : State} (hon : s.enumerated = true) (vf : Nat) : exec (.jctlPre vf) s = .next (jctlPreAt s vf) :=
  hostAct_enumerated hon _

theorem exec_jctlRes {s : State} (hon : s.enumerated = true) (vf : Nat) : exec (.jctlRes vf) s = .next (jctlResAt s vf) :=
  hostAct_enumerated hon _

/-- Settles O55: a slice that ends stops its team (`completes_endSlice`), a stopped row is saved (`completes_teamSave`), a saved team comes
back (`completes_teamRestore`), and JCTL moves or kills a job. -/
theorem teamMoves : Obligations.TeamMoves := by
  unfold Obligations.TeamMoves
  intro s row p vf team u sl n j hrow hvf hsl y x v head stop here open_ slice moves
  have hslice : sliceNs j.launch = slice := rfl
  have hinPart (h : x.first ≤ row ∧ row < x.first + partRows x) : row ∈ rowsOf x :=
    mem_rowsOf.2 ⟨row - x.first, by omega, by omega⟩
  refine ⟨fun ⟨hgive, hstop⟩ hover => ?_, fun ⟨hgive, hstop⟩ hearly => ?_, fun ⟨hgive, hstop⟩ hidle => ?_, fun hgive hrun hgrouped hnext hne => ?_,
    ?_, ?_, fun hdark => ?_, fun hon hen hpart => ?_, fun k hwait => ?_, fun k others hwait => ?_⟩
  · exact completes_endSlice hstop (exec_sliceEnd_over hgive hstop hover)
  · exact exec_sliceEnd_early hgive hearly
  · exact completes_endSlice hstop (exec_sliceIdleEnd_idle hgive (MayStop.stopReady hstop) fun i hi =>
      (hidle i hi).imp_right fun ⟨hwhy, hlong⟩ => idleLong_mail hwhy hlong)
  · exact completes_grouped hgive hrun hgrouped hnext hne
  · intro hphase hteam hpart hpower hmoving hsaving hkill hfull hreqs hcores hfree hn hloft hjob hgo htogo hwf hrows
    exact completes_teamSave hphase hteam hpart hpower hmoving hsaving hkill hfull ⟨hreqs, hcores⟩ hfree hn hloft hjob hgo htogo hwf hrows
  · intro m hphase hnext hpower hpart hkill hjob hfind hn hahead hpoison hputs
    exact completes_teamRestore hphase hnext hpower hpart hkill hjob hfind hn hahead hpoison hputs
  · exact exec_jctl_dark hdark vf
  · have hcmd : Commands s vf p := ⟨hvf, hen, hpart⟩
    rw [exec_jctlKill hon, exec_jctlPre hon, exec_jctlRes hon]
    refine ⟨fun hnone => ?_, fun hjob hmoving hdelay hstill => ?_, fun hjob hnow => ?_, fun hjob hrun hfirst hlast hphase => ?_,
      fun hjob hsaved hkill => ?_⟩
    · rw [jctlKillAt_none hcmd hnone]
    · exact completes_modPart (congrArg Host.Outcome.next (jctlKillAt_waits hcmd hjob hmoving hdelay hstill))
    · obtain ⟨j', hjob', hrun, hends⟩ := jctlKillAt_ends hcmd hjob hnow
      exact ⟨_, rfl, j', hjob', hrun, fun i hi hlive haway => hends i ⟨hi, hlive, haway⟩⟩
    · refine ⟨fun hfull => ?_, fun hplaces hkill hstop hpower => ?_⟩
      · exact completes_modPart (congrArg Host.Outcome.next (jctlPreAt_refused hcmd hjob hrun (hinPart ⟨hfirst, hlast⟩) hphase hfull))
      · exact ⟨_, rfl, jctlPreAt_stops hcmd hjob hrun (hinPart ⟨hfirst, hlast⟩) hphase hplaces hkill (MayStop.stopReady hstop) hpower⟩
    · refine ⟨fun hrows => ?_, fun hfirst hlast hphase hnext hstarted => ?_⟩
      · refine ⟨_, congrArg Host.Outcome.next (jctlResAt_empty hcmd hsaved hjob hkill hrows), rfl, ?_⟩
        rw [getPart_modPart, resuming, getPart_modPart]
      · exact ⟨_, rfl, jctlResAt_restores hcmd hsaved (hinPart ⟨hfirst, hlast⟩) hphase hnext hstarted⟩
  · exact hold_ends (exec_pauseEnd hsl hwait)
  · exact hold_ends (exec_yieldHoldEnd hsl hwait)

end Sys2Proof.Machine
end

section
/-! PROOFS. Lane accesses whose walk is joined after core 0 has lost a leaf (O38, O43). -/

namespace Sys2Proof.Machine

/-- Refutes O38: a load that fills core 0's full TLB evicts a leaf there, so that a posted store of that core asks for the walk of its
page, and the load of the next core, on the same page, joins that walk and waits (`evictingState`). -/
theorem not_laneMemory : ¬ Obligations.LaneMemory := by
  unfold Obligations.LaneMemory
  intro h
  obtain ⟨hload, -⟩ := h evictingState 2 1 0 0 .d false (by decide) (by decide)
  have halign : ∀ c < 16, szBytes .d ∣
      (rdG (laneAt evictingState c) 1 + BitVec.ofInt 64 ((0 : BitVec 12).toInt * szBytes .d)).toNat :=
    fun c hc => (evictingState_loads c hc).1
  obtain ⟨t, hnext, ⟨-, hhead, -⟩, -⟩ := hload evictingState_runs halign fun c hc => by
    obtain ⟨-, -, hbusy, hok⟩ := evictingState_loads c hc
    exact ⟨hbusy, exists_ok_of_isOk hok⟩
  obtain rfl : issueLane evictingLoad evictingState = t := Host.Outcome.next.inj hnext
  exact evictingState_waits (congrArg Head.flights hhead)

/-- An AMO through g1. -/
def evictingAmo : Instr := .amo .add true .plain 2 1 3

theorem evictingState_runsAmo : LaneRuns evictingState evictingAmo [.g 1 false, .g 3 false] := by
  have hcols : ∀ c < 16, (laneAt evictingState c).events = [] ∧ (laneAt evictingState c).recs = [] ∧
      (laneAt evictingState c).retry = [] ∧ coreFree evictingState 0 0 c = true ∧ vecFree evictingState 0 c evictingAmo = true := by
    decide
  have hsrcs (n : BitVec 5) (hn : n = 1 ∨ n = 3) : ∀ c < 16, sourceReady evictingState c (.g n false) := by
    obtain rfl | rfl := hn
    all_goals
      unfold sourceReady
      decide
  refine ⟨⟨by decide, by decide, rfl, rfl, rfl, rfl, rfl, rfl, rfl, fun c hc => ?_⟩, fun c hc q hq => ?_⟩
  · obtain ⟨hev, hrec, hret, hfree, hvec⟩ := hcols c hc
    exact ⟨hev, hrec, trivial, .inl rfl, .inr hret, trivial, hfree, hvec⟩
  · obtain rfl | rfl : q = .g 1 false ∨ q = .g 3 false := by simpa using hq
    · exact hsrcs 1 (.inl rfl) c hc
    · exact hsrcs 3 (.inr rfl) c hc

/-- At every core the operation's address is aligned, its page may be read and written, and no walk of it is under way. -/
theorem evictingState_amos : ∀ c < 16, let va := rdG (laneAt evictingState c) 1
    8 ∣ va.toNat ∧ walkBusy evictingState 0 c 0 va 8 (BitVec.allOnes 32) = false ∧
    (laneXlate evictingState 0 c .both va).toOption.map (fun x => x.2.1.det) = some false := by decide

/-- Core 0's check evicts page 0, the store asks for its walk too, and core 1's check waits for that walk. -/
theorem evictingState_waitsAmo :
    ((getHead (issueCommit evictingAmo evictingState) 0 0).commit.map fun m => m.flight.col) = some 1 := by decide

theorem exists_ok_of_toOption {ε α β : Type} {x : Except ε α} {f : α → β} {b : β} (h : x.toOption.map f = some b) :
    ∃ a, x = .ok a ∧ f a = b := by
  cases x with
  | ok a => exact ⟨a, rfl, Option.some.inj h⟩
  | error e => cases h

/-- Refutes O43: an operation that fills core 0's full TLB in its check pass evicts a leaf there, so that a posted store of that core asks
for the walk of its page, and the check of the next core, on the same page, joins that walk and waits before any core sends. -/
theorem not_atomics : ¬ Obligations.Atomics := by
  unfold Obligations.Atomics
  intro h
  obtain ⟨hamo, -⟩ := h evictingState .add true false .plain 2 1 3 (by decide) (by decide)
  obtain ⟨hsends, -⟩ := hamo evictingState_runsAmo
  obtain ⟨t, hnext, -, ⟨m, hcommit, -, hcol, -⟩, -⟩ := hsends fun c hc => by
    obtain ⟨halign, hbusy, hok⟩ := evictingState_amos c hc
    obtain ⟨⟨pa, a, e⟩, hx, hdet⟩ := exists_ok_of_toOption hok
    exact ⟨halign, hbusy, pa, a, e, hx, .inr hdet⟩
  obtain rfl : issueCommit evictingAmo evictingState = t := Host.Outcome.next.inj hnext
  have hwaits := evictingState_waitsAmo
  rw [show getHead (issueCommit evictingAmo evictingState) 0 0 = getHead (issueCommit evictingAmo evictingState)
    evictingState.curRow evictingState.curSlot from rfl, hcommit] at hwaits
  exact absurd (hcol.symm.trans (Option.some.inj hwaits)) (by decide)

end Sys2Proof.Machine
end

section
/-! PROOFS. Scalar instructions that write a g register: integer operations with their constant and immediate forms, and floating-point
operations with their flags and the trap IV (O29, O30, O31). -/

namespace Sys2Proof.Machine

/-! The integer operations of R152 on integers. -/

theorem aluShl_eq (x y : Word) : aluShl x y = BitVec.ofNat 64 (x.toNat * 2 ^ (y.toNat % 64)) := shiftLeft_eq_ofNat x _

theorem aluShr_eq (x y : Word) : aluShr x y = BitVec.ofNat 64 (x.toNat / 2 ^ (y.toNat % 64)) := ushiftRight_eq_ofNat x _

theorem aluSar_eq (x y : Word) : aluSar x y = BitVec.ofInt 64 (x.toInt / 2 ^ (y.toNat % 64)) := sshiftRight_eq_ofInt x _

theorem aluMinn_eq (x y : Word) : aluMinn x y = BitVec.ofNat 64 (min x.toNat y.toNat) := by
  rw [aluMinn, min_def]
  split <;> rw [BitVec.ofNat_toNat, BitVec.setWidth_eq]

theorem aluMaxn_eq (x y : Word) : aluMaxn x y = BitVec.ofNat 64 (max x.toNat y.toNat) := by
  rw [aluMaxn, max_comm, max_def]
  split <;> rw [BitVec.ofNat_toNat, BitVec.setWidth_eq]

theorem aluAnd_eq (x y : Word) : aluAnd x y = x &&& y := rfl

theorem aluOr_eq (x y : Word) : aluOr x y = x ||| y := rfl

theorem aluXor_eq (x y : Word) : aluXor x y = x ^^^ y := rfl

theorem aluSlt_eq (x y : Word) : aluSlt x y = if x.toInt < y.toInt then 1 else 0 := rfl

theorem aluSltn_eq (x y : Word) : aluSltn x y = if x.toNat < y.toNat then 1 else 0 := rfl

theorem aluMulh_eq (x y : Word) : aluMulh x y = BitVec.ofInt 64 (x.toInt * y.toInt / 2 ^ 64) := rfl

theorem aluMulhn_eq (x y : Word) : aluMulhn x y = BitVec.ofNat 64 (x.toNat * y.toNat / 2 ^ 64) := rfl

theorem aluDiv_eq (x y : Word) : aluDiv x y = if y = 0 then BitVec.allOnes 64 else BitVec.ofInt 64 (x.toInt.tdiv y.toInt) := rfl

theorem aluDivn_eq (x y : Word) : aluDivn x y = if y = 0 then BitVec.allOnes 64 else BitVec.ofNat 64 (x.toNat / y.toNat) := rfl

theorem aluRemn_eq (x y : Word) : aluRemn x y = if y = 0 then x else BitVec.ofNat 64 (x.toNat % y.toNat) := rfl

theorem aluRem_eq (x y : Word) : aluRem x y = if y = 0 then x else BitVec.ofInt 64 (x.toInt.tmod y.toInt) := by
  rw [aluRem, word, Int.tmod_def]

/-- The numbers below n, counted among those below m. -/
theorem countP_range_lt {m n : Nat} (h : n ≤ m) : (List.range m).countP (fun k => decide (k < n)) = n := by
  induction m generalizing n with
  | zero => simp [Nat.le_zero.1 h]
  | succ m ih =>
    rw [List.range_succ, List.countP_append, List.countP_singleton]
    by_cases hn : n ≤ m
    · rw [ih hn, if_neg (by simpa using hn), Nat.add_zero]
    · obtain rfl : n = m + 1 := by omega
      have hall : (List.range m).countP (fun k => decide (k < m + 1)) = (List.range m).countP fun k => decide (k < m) := by
        refine List.countP_congr fun k hk => ?_
        have := List.mem_range.1 hk
        simp
        omega
      rw [hall, ih le_rfl, if_pos (by simp)]

/-- CLZ counts the bits, from the top, down to which the number is 0 (R152). -/
theorem aluClz_eq (x : Word) : aluClz x = BitVec.ofNat 64 ((List.range 64).countP fun k => decide (x.toNat < 2 ^ (63 - k))) := by
  by_cases hx : x = 0
  · subst hx
    rfl
  · have hpos : x.toNat ≠ 0 := fun h => hx (BitVec.eq_of_toNat_eq h)
    have hlog : x.toNat.log2 < 64 := (Nat.log2_lt hpos).2 x.isLt
    have hcount : (List.range 64).countP (fun k => decide (x.toNat < 2 ^ (63 - k))) =
        (List.range 64).countP fun k => decide (k < 63 - x.toNat.log2) := by
      refine List.countP_congr fun k hk => ?_
      have := List.mem_range.1 hk
      rw [decide_eq_true_eq, decide_eq_true_eq, ← Nat.log2_lt hpos]
      omega
    rw [aluClz, if_neg hx, hcount, countP_range_lt (by omega)]

/-- The place of the first element with a property, counted by the places before it. -/
theorem find?_range_getD (p : Nat → Bool) (n : Nat) :
    ((List.range n).find? p).getD n = (List.range n).countP fun k => decide (∀ j ≤ k, p j = false) := by
  induction n with
  | zero => rfl
  | succ n ih =>
    rw [List.range_succ, List.countP_append, List.countP_singleton, List.find?_append, ← ih]
    cases hfind : (List.range n).find? p with
    | some z =>
      have hz : z < n := List.mem_range.1 (List.mem_of_find?_eq_some hfind)
      have hp := List.find?_some hfind
      have hsome : ¬ ∀ j ≤ n, p j = false := fun h => by rw [h z hz.le] at hp; cases hp
      simp [hsome]
    | none =>
      have hnone : ∀ j < n, p j = false := fun j hj => by simpa using List.find?_eq_none.1 hfind j (List.mem_range.2 hj)
      by_cases hp : p n = true
      · have hsome : ¬ ∀ j ≤ n, p j = false := fun h => by rw [h n le_rfl] at hp; cases hp
        simp [hp, hsome]
      · have hall : ∀ j ≤ n, p j = false := fun j hj => (Nat.lt_or_eq_of_le hj).elim (hnone j) fun h => by simpa [h] using hp
        simpa [hp] using hall

theorem mod_two_pow_eq_zero_iff (x k : Nat) : x % 2 ^ (k + 1) = 0 ↔ ∀ j ≤ k, x.testBit j = false := by
  constructor
  · intro h j hj
    have hbit := Nat.testBit_mod_two_pow x (k + 1) j
    rwa [h, Nat.zero_testBit, decide_eq_true (by omega), Bool.true_and, eq_comm] at hbit
  · intro h
    refine Nat.zero_of_testBit_eq_false fun j => ?_
    rw [Nat.testBit_mod_two_pow]
    by_cases hj : j ≤ k
    · rw [h j hj, Bool.and_false]
    · rw [decide_eq_false (by omega), Bool.false_and]

/-- CTZ counts the bits, from the bottom, up to which the number is 0 (R152). -/
theorem aluCtz_eq (x : Word) : aluCtz x = BitVec.ofNat 64 ((List.range 64).countP fun k => decide (x.toNat % 2 ^ (k + 1) = 0)) := by
  rw [aluCtz, upTo, find?_range_getD]
  simp only [mod_two_pow_eq_zero_iff]
  rfl

theorem aluPopc_eq (x : Word) : aluPopc x = BitVec.ofNat 64 ((List.range 64).countP fun k => decide (x.toNat / 2 ^ k % 2 = 1)) := by
  rw [aluPopc, upTo]
  simp only [← Nat.testBit_eq_decide_div_mod_eq]
  rfl

/-! A scalar instruction in a free row (R22, R24, R150). -/

/-- A scalar instruction as the statements describe it: its word, its destination and operands, its sources, and the result with its flags
from the lane and the operands. -/
structure ScalarForm where
  i : Instr
  d : BitVec 5
  a : BitVec 5
  b : BitVec 5
  west : West
  srcs : List Src
  result : Lane → Word → Word → Nat × Fl

/-- A strand's instruction is of a form: the model executes it as a lane instruction, with those operands and that result. -/
structure ScalarForm.Describes (v : ScalarForm) (s : State) : Prop where
  exec : exec v.i s = .next (issueLane v.i s)
  core : ∀ c w st, coreExec v.i (ctxAt s v.i c w) st = withSrcs (ctxAt s v.i c w) st v.srcs fun l =>
    doneF (ctxAt s v.i c w) st l v.d (v.result l (valA (ctxAt s v.i c w) l v.a v.west) (valB (ctxAt s v.i c w) l v.b v.west))
  cycles : vecCycles v.i = 0
  westA : v.west = .a → westReg v.i = some (false, v.a)
  westB : v.west = .b → westReg v.i = some (false, v.b)

/-- The result at a column, from the word captured to the west. -/
def ScalarForm.resultAt (v : ScalarForm) (s : State) (c : Nat) (w : Vec) : Nat × Fl :=
  v.result (laneAt s c) (valA (ctxAt s v.i c w) (laneAt s c) v.a v.west) (valB (ctxAt s v.i c w) (laneAt s c) v.b v.west)

/-- Does a column take no IV trap with that word (R97)? -/
def ScalarForm.QuietAt (v : ScalarForm) (s : State) (c : Nat) (w : Vec) : Prop :=
  ivTraps (laneAt s c).estat (v.resultAt s c w).2 = false

/-- Would the operation set IV at a column where both operands are its own registers? -/
def ScalarForm.RaisesOwn (v : ScalarForm) (s : State) (c : Nat) : Prop :=
  (v.result (laneAt s c) (rdG (laneAt s c) v.a) (rdG (laneAt s c) v.b)).2.getLsbD 0 = true

/-- The lane after it at a column. -/
def ScalarForm.eff (v : ScalarForm) (s : State) (c : Nat) (w : Vec) : Lane := flagged (laneAt s c) v.d (v.resultAt s c w)

theorem flagged_events (l : Lane) (d : BitVec 5) (r : Nat × Fl) : (flagged l d r).events = l.events := by
  rw [flagged, orFlags_events, wrG_events]

theorem westReady_flagged {l : Lane} {i : Instr} (d : BitVec 5) (r : Nat × Fl) (h : westReady l i) : westReady (flagged l d r) i :=
  westReady_wrG d _ h

theorem orFlags_zero (l : Lane) : orFlags l 0 = l := by
  have hestat : estatOr l.estat 0 = l.estat := BitVec.or_zero
  rw [orFlags, hestat]

/-- A result without flags is written alone. -/
theorem flagged_noFlag (l : Lane) (d : BitVec 5) (v : Word) : flagged l d (v.toNat, 0) = wrG l d v := by
  rw [flagged, orFlags_zero, BitVec.ofNat_toNat, BitVec.setWidth_eq]

theorem ivTraps_noFlag (w : Word) : ivTraps w 0 = false := Bool.and_false _

/-- Writing a g register is writing a result without flags. -/
theorem doneG_ofNat (x : Ctx) (s : State) (l : Lane) (d : BitVec 5) (n : Nat) :
    doneG x s l d (BitVec.ofNat 64 n) = doneF x s l d (n, 0) := by
  rw [doneG, doneF, ivTraps_noFlag, if_neg (by decide), orFlags_zero]

theorem doneG_eq_doneF (x : Ctx) (s : State) (l : Lane) (d : BitVec 5) (v : Word) : doneG x s l d v = doneF x s l d (v.toNat, 0) := by
  rw [← doneG_ofNat, BitVec.ofNat_toNat, BitVec.setWidth_eq]

theorem ScalarForm.coreStep_quiet {v : ScalarForm} {s : State} (hd : v.Describes s) (hr : LaneRuns s v.i v.srcs) {c : Nat} (hc : c < 16)
    {st : State} {w : Vec} (hst : st = { s with heads := st.heads, lanes := st.lanes })
    (hl : getLane st s.curRow c s.curSlot = laneAt s c) (hiv : v.QuietAt s c w) :
    coreStep (ctxAt s v.i c w) st = .done (setLane st s.curRow c s.curSlot (v.eff s c w)) := by
  obtain ⟨hready, hsrcs⟩ := hr
  have hexec : coreExec v.i (ctxAt s v.i c w) st = .done (setLane st s.curRow c s.curSlot (v.eff s c w)) := by
    rw [hd.core, ctxAt, withSrcs_ready hl hst _ (hsrcs c hc)]
    exact if_neg (Bool.eq_false_iff.1 hiv)
  rw [coreStep, show pxMaskPoison (ctxAt s v.i c w) st = none from pxMask_ready hready hc st w hl,
    show (ctxAt s v.i c w).f.instr = v.i from rfl, hexec, hd.cycles]
  rfl

/-- Where no IV trap can be taken, no core takes one, whatever the words from the west are (R97). -/
theorem ScalarForm.noIv_quiet {v : ScalarForm} {s : State} (hiv : NoIv s (v.west != .no) (v.RaisesOwn s)) {c : Nat} (hc : c < 16) (w : Vec) :
    v.QuietAt s c w := by
  rw [QuietAt, ← Bool.not_eq_true, ivTraps_iff]
  rintro ⟨hive, hraises⟩
  obtain hoff | ⟨hlocal, hquiet⟩ := hiv c hc
  · rw [hive] at hoff
    cases hoff
  · have hno : v.west = .no := by simpa using hlocal
    simp only [resultAt, valA, valB, hno] at hraises
    exact hquiet hraises

theorem westG_first (s t : State) (i : Instr) (w : Vec) (n : BitVec 5) : westG (ctxAt s i 0 w) = westWord s t 0 n := by
  rw [westG, westWord, if_pos (show (ctxAt s i 0 w).c = 0 from rfl), if_pos rfl]
  rfl

/-- What the core to the west has left in the register is the word that a core captures (R24, R25). -/
theorem ScalarForm.westG_eq {v : ScalarForm} {s : State} {eff : Nat → Vec → Lane}
    (hdone : LaneDone s (issueLane v.i s) fun c => eff c (westOf v.i eff c))
    {m : BitVec 5} (hm : westReg v.i = some (false, m)) {c : Nat} (hc : c < 16) :
    westG (ctxAt s v.i c (westOf v.i eff c)) = westWord s (issueLane v.i s) c m := by
  obtain ⟨-, -, hlanes⟩ := hdone
  cases c with
  | zero => exact westG_first _ _ _ _ _
  | succ c =>
    unfold westG westWord
    rw [show (ctxAt s v.i (c + 1) (westOf v.i eff (c + 1))).c = c + 1 from rfl, if_neg (Nat.succ_ne_zero c), if_neg (Nat.succ_ne_zero c),
      Nat.add_sub_cancel, hlanes c (by omega)]
    show (carried v.i _ _).setWidth 64 = _
    rw [carried, hm]
    simp

section
variable {v : ScalarForm} {s : State} (hd : v.Describes s) (hr : LaneRuns s v.i v.srcs)
include hd hr

theorem ScalarForm.passes (hiv : ∀ c < 16, ∀ w, v.QuietAt s c w) :
    LaneDone s (issueLane v.i s) fun c => v.eff s c (westOf v.i (v.eff s) c) := by
  have hready := hr
  obtain ⟨hlane, -⟩ := hready
  have hcols := hlane
  obtain ⟨-, -, -, -, -, -, -, -, -, hcols⟩ := hcols
  refine wave s v.i (v.eff s) hlane (fun c hc st w hst hl => coreStep_quiet hd hr hc hst hl (hiv c hc w)) (fun c hc w => ?_) fun c hc w => ?_
  · obtain ⟨-, -, hwest, -⟩ := hcols c (by omega)
    exact westReady_flagged _ _ hwest
  · obtain ⟨hevents, -⟩ := hcols c hc
    exact (flagged_events _ _ _).trans hevents

theorem ScalarForm.completes (hiv : ∀ c < 16, ∀ w, v.QuietAt s c w) :
    Completes (Machine.exec v.i s) fun t => LaneDone s t fun c =>
      flagged (laneAt s c) v.d (v.result (laneAt s c) (opA s t c v.a v.west) (opB s t c v.b v.west)) := by
  have hdone := passes hd hr hiv
  have hlanes := hdone
  obtain ⟨honly, hhead, hlanes⟩ := hlanes
  refine ⟨_, hd.exec, honly, hhead, fun c hc => ?_⟩
  have ha : valA (ctxAt s v.i c (westOf v.i (v.eff s) c)) (laneAt s c) v.a v.west = opA s (issueLane v.i s) c v.a v.west := by
    unfold valA opA
    split
    next h => exact westG_eq hdone (hd.westA h) hc
    · rfl
  have hb : valB (ctxAt s v.i c (westOf v.i (v.eff s) c)) (laneAt s c) v.b v.west = opB s (issueLane v.i s) c v.b v.west := by
    unfold valB opB
    split
    next h => exact westG_eq hdone (hd.westB h) hc
    · rfl
  rw [hlanes c hc]
  dsimp only
  rw [eff, resultAt, ha, hb]

theorem ScalarForm.iv_trap : IvTraps s v.i 1 fun _ =>
    (v.result (laneAt s 0) (opA s s 0 v.a v.west) (opB s s 0 v.b v.west)).2.getLsbD 0 = true := by
  intro hcan hive j hj hraises _
  obtain rfl : j = 0 := by omega
  obtain ⟨hready, hsrcs⟩ := hr
  have hl : getLane (setHead s s.curRow s.curSlot (headLeft s v.i)) s.curRow 0 s.curSlot = laneAt s 0 := rfl
  refine trapsClean0_of_coreStep hready hcan hd.exec (coreStep_trap (pxMask_ready hready (by decide) _ _ hl) ?_)
  refine (hd.core 0 0 _).trans ?_
  have ha : valA (ctxAt s v.i 0 0) (laneAt s 0) v.a v.west = opA s s 0 v.a v.west := by
    rw [valA, opA, westG_first s s v.i 0 v.a]
  have hb : valB (ctxAt s v.i 0 0) (laneAt s 0) v.b v.west = opB s s 0 v.b v.west := by
    rw [valB, opB, westG_first s s v.i 0 v.b]
  have hrun : withSrcs (ctxAt s v.i 0 0) (setHead s s.curRow s.curSlot (headLeft s v.i)) v.srcs = fun k => k (laneAt s 0) :=
    funext fun _ => withSrcs_ready hl rfl _ (hsrcs 0 (by decide)) _
  rw [hrun]
  dsimp only
  rw [ha, hb, doneF, if_pos (ivTraps_iff.2 ⟨hive, hraises⟩)]
  rfl

end

/-- An instruction of a form completes where no core can take IV, and traps IV where core 0 does. -/
theorem ScalarForm.law {v : ScalarForm} {s : State} (hd : v.Describes s) :
    (LaneRuns s v.i v.srcs → NoIv s (v.west != .no) (v.RaisesOwn s) →
      Completes (Machine.exec v.i s) fun t => LaneDone s t fun c =>
        flagged (laneAt s c) v.d (v.result (laneAt s c) (opA s t c v.a v.west) (opB s t c v.b v.west))) ∧
    (LaneRuns s v.i v.srcs → IvTraps s v.i 1 fun _ =>
      (v.result (laneAt s 0) (opA s s 0 v.a v.west) (opB s s 0 v.b v.west)).2.getLsbD 0 = true) :=
  ⟨fun hr hiv => completes hd hr fun _ hc w => noIv_quiet hiv hc w, fun hr => iv_trap hd hr⟩

/-! Integer operations (R152). -/

/-- The form of a unary integer operation. -/
def integerForm (s : State) (i : Instr) (d a : BitVec 5) (u : Bool) (f : Word → Word) : ScalarForm :=
  ⟨i, d, a, a, west1 u, if u then [] else [.g a (pxOf (me s)).ea], fun _ x _ => ((f x).toNat, 0)⟩

theorem lane_unary {s : State} {i : Instr} {d a : BitVec 5} {u : Bool} {f g : Word → Word} (hfg : ∀ x, f x = g x)
    (hexec : exec i s = .next (issueLane i s)) (hcore : ∀ x st, coreExec i x st = intUn x st d a u f) (hcycles : vecCycles i = 0)
    (hwest : westReg i = if u then some (false, a) else none) (hr : LaneRuns s i (if u then [] else [.g a (pxOf (me s)).ea])) :
    Completes (exec i s) fun t => LaneDone s t fun c => wrG (laneAt s c) d (g (opA s t c a (if u then .a else .no))) := by
  have hd : (integerForm s i d a u f).Describes s :=
    { exec := hexec
      core := fun c w st => (hcore _ _).trans (congrArg (withSrcs (ctxAt s i c w) st _) (funext fun l => doneG_eq_doneF _ _ _ _ _))
      cycles := hcycles
      westA := fun h => hwest.trans (if_pos (eq_true_of_west1 h))
      westB := fun h => absurd h (west1_ne_b u) }
  obtain ⟨t, hnext, hdone⟩ := ScalarForm.completes hd hr fun _ _ _ => ivTraps_noFlag _
  refine ⟨t, hnext, ?_⟩
  simpa only [integerForm, flagged_noFlag, hfg, west1] using hdone

/-- Settles O29: each operation has the law of a binary or of a unary operation, and is its operation on integers. -/
theorem laneInteger : Obligations.LaneInteger := by
  unfold Obligations.LaneInteger
  intro s d a b w u does does1
  have bin (i : Instr) (f g : Word → Word → Word) (hfg : ∀ x y, f x y = g x y) (hexec : exec i s = .next (issueLane i s))
      (hcore : ∀ x st, coreExec i x st = intOp x st d a b w f) (hcycles : vecCycles i = 0)
      (hwest : westReg i = westReg (.add d a b w)) : does i g :=
    lane_bin s i d a b w f g hfg hcore hcycles hexec (fun h => by rw [hwest, h]; rfl) fun h => by rw [hwest, h]; rfl
  refine ⟨bin _ aluAdd _ aluAdd_eq rfl (fun _ _ => rfl) rfl rfl, bin _ aluSub _ aluSub_eq rfl (fun _ _ => rfl) rfl rfl,
    bin _ aluAnd _ aluAnd_eq rfl (fun _ _ => rfl) rfl rfl, bin _ aluOr _ aluOr_eq rfl (fun _ _ => rfl) rfl rfl,
    bin _ aluXor _ aluXor_eq rfl (fun _ _ => rfl) rfl rfl,
    bin _ aluShl _ aluShl_eq rfl (fun _ _ => rfl) rfl rfl,
    bin _ aluShr _ aluShr_eq rfl (fun _ _ => rfl) rfl rfl,
    bin _ aluSar _ aluSar_eq rfl (fun _ _ => rfl) rfl rfl,
    bin _ aluMul _ aluMul_eq rfl (fun _ _ => rfl) rfl rfl, bin _ aluSlt _ aluSlt_eq rfl (fun _ _ => rfl) rfl rfl,
    bin _ aluSltn _ aluSltn_eq rfl (fun _ _ => rfl) rfl rfl, bin _ aluMin _ aluMin_eq rfl (fun _ _ => rfl) rfl rfl,
    bin _ aluMax _ aluMax_eq rfl (fun _ _ => rfl) rfl rfl, bin _ aluMinn _ aluMinn_eq rfl (fun _ _ => rfl) rfl rfl,
    bin _ aluMaxn _ aluMaxn_eq rfl (fun _ _ => rfl) rfl rfl, bin _ aluMulh _ aluMulh_eq rfl (fun _ _ => rfl) rfl rfl,
    bin _ aluMulhn _ aluMulhn_eq rfl (fun _ _ => rfl) rfl rfl, bin _ aluDiv _ aluDiv_eq rfl (fun _ _ => rfl) rfl rfl,
    bin _ aluDivn _ aluDivn_eq rfl (fun _ _ => rfl) rfl rfl, bin _ aluRem _ aluRem_eq rfl (fun _ _ => rfl) rfl rfl,
    bin _ aluRemn _ aluRemn_eq rfl (fun _ _ => rfl) rfl rfl,
    lane_unary aluClz_eq rfl (fun _ _ => rfl) rfl rfl, lane_unary aluCtz_eq rfl (fun _ _ => rfl) rfl rfl,
    lane_unary aluPopc_eq rfl (fun _ _ => rfl) rfl rfl⟩

/-! Constants and immediates (R50, R151, R153). -/

section
variable {s : State} {i : Instr} {d a : BitVec 5} (hexec : exec i s = .next (issueLane i s)) (hwest : westReg i = none)
  (hcycles : vecCycles i = 0)
include hexec hwest hcycles

/-- An instruction that takes nothing from the west, and writes gd with what its own core gives. -/
theorem writesG_of_local {f : Nat → Word} (hr : LaneReady s i)
    (hcore : ∀ c < 16, ∀ st w, st = { s with heads := st.heads, lanes := st.lanes } → getLane st s.curRow c s.curSlot = laneAt s c →
      coreExec i (ctxAt s i c w) st = doneG (ctxAt s i c w) st (laneAt s c) d (f c)) :
    Completes (exec i s) fun t => LaneDone s t fun c => wrG (laneAt s c) d (f c) := by
  refine ⟨_, hexec, laneDone_of_local hr hwest hcycles (fun c hc => ?_) hcore⟩
  obtain ⟨-, -, -, -, -, -, -, -, -, hcols⟩ := hr
  obtain ⟨hevents, -⟩ := hcols c hc
  rw [wrG_events, hevents]

theorem lane_imm {f g : Word → Word} (hfg : ∀ x, f x = g x) (hcore : ∀ x st, coreExec i x st = intImm x st d a f)
    (hr : LaneRuns s i [.g a (pxOf (me s)).ea]) :
    Completes (exec i s) fun t => LaneDone s t fun c => wrG (laneAt s c) d (g (rdG (laneAt s c) a)) := by
  obtain ⟨hready, hsrcs⟩ := hr
  refine writesG_of_local hexec hwest hcycles hready fun c hc st w hst hl => ?_
  rw [hcore, intImm, ctxAt]
  exact (withSrcs_ready hl hst _ (hsrcs c hc) _).trans (by rw [hfg])

theorem lane_const {k : BitVec 8} {f g : Word → Word → Word} (hfg : ∀ x y, f x y = g x y)
    (hcore : ∀ x st, coreExec i x st = intConst x st d a k f) (hr : LaneRuns s i [.g a (pxOf (me s)).ea])
    (hpool : ∀ c < 16, poolBad (coreAt s c) (8 * k.toNat) 8 = none) :
    Completes (exec i s) fun t => LaneDone s t fun c =>
      wrG (laneAt s c) d (g (rdG (laneAt s c) a) (constWord (coreAt s c) k.toNat)) := by
  obtain ⟨hready, hsrcs⟩ := hr
  refine writesG_of_local hexec hwest hcycles hready fun c hc st w hst hl => ?_
  have hpoolAt : getCore st (ctxAt s i c w).core = coreAt s c := by rw [hst]; rfl
  rw [hcore, intConst, hpoolAt]
  dsimp only
  rw [hpool c hc, ← hfg]
  exact withSrcs_ready hl hst _ (hsrcs c hc) _

end

/-- Settles O30: each form has the law of a constant or of an immediate operation. -/
theorem laneConstants : Obligations.LaneConstants := by
  unfold Obligations.LaneConstants
  intro s d a k imm n src does does1 v
  have const (i : Instr) (f g : Word → Word → Word) (hfg : ∀ x y, f x y = g x y) (hexec : exec i s = .next (issueLane i s))
      (hwest : westReg i = none) (hcycles : vecCycles i = 0) (hcore : ∀ x st, coreExec i x st = intConst x st d a k f) : does i g :=
    lane_const hexec hwest hcycles hfg hcore
  have immediate (i : Instr) (f g : Word → Word) (hfg : ∀ x, f x = g x) (hexec : exec i s = .next (issueLane i s))
      (hwest : westReg i = none) (hcycles : vecCycles i = 0) (hcore : ∀ x st, coreExec i x st = intImm x st d a f) : does1 i g :=
    lane_imm hexec hwest hcycles hfg hcore
  have hv : immWord imm = v := by
    rw [immWord, BitVec.signExtend]
  have hadd (x : Word) : aluAdd x (immWord imm) = BitVec.ofInt 64 (x.toInt + imm.toInt) := by
    rw [aluAdd_eq, immWord, BitVec.toInt_signExtend_of_le (by decide)]
  clear_value does does1
  refine ⟨const _ aluAdd _ aluAdd_eq rfl rfl rfl (fun _ _ => rfl),
    const _ aluSub _ aluSub_eq rfl rfl rfl (fun _ _ => rfl),
    const _ aluAnd _ aluAnd_eq rfl rfl rfl (fun _ _ => rfl),
    const _ aluOr _ aluOr_eq rfl rfl rfl (fun _ _ => rfl),
    const _ aluXor _ aluXor_eq rfl rfl rfl (fun _ _ => rfl),
    const _ aluShl _ aluShl_eq rfl rfl rfl (fun _ _ => rfl),
    const _ aluShr _ aluShr_eq rfl rfl rfl (fun _ _ => rfl),
    const _ aluSar _ aluSar_eq rfl rfl rfl (fun _ _ => rfl),
    const _ aluMul _ aluMul_eq rfl rfl rfl (fun _ _ => rfl),
    const _ aluSlt _ aluSlt_eq rfl rfl rfl (fun _ _ => rfl),
    const _ aluSltn _ aluSltn_eq rfl rfl rfl (fun _ _ => rfl),
    const _ aluMin _ aluMin_eq rfl rfl rfl (fun _ _ => rfl),
    const _ aluMax _ aluMax_eq rfl rfl rfl (fun _ _ => rfl),
    const _ aluMinn _ aluMinn_eq rfl rfl rfl (fun _ _ => rfl),
    const _ aluMaxn _ aluMaxn_eq rfl rfl rfl (fun _ _ => rfl),
    const _ aluMulh _ aluMulh_eq rfl rfl rfl (fun _ _ => rfl),
    const _ aluMulhn _ aluMulhn_eq rfl rfl rfl (fun _ _ => rfl),
    const _ aluDiv _ aluDiv_eq rfl rfl rfl (fun _ _ => rfl),
    const _ aluDivn _ aluDivn_eq rfl rfl rfl (fun _ _ => rfl),
    const _ aluRem _ aluRem_eq rfl rfl rfl (fun _ _ => rfl),
    const _ aluRemn _ aluRemn_eq rfl rfl rfl (fun _ _ => rfl),
    immediate _ (fun x => aluAdd x (immWord imm)) _ hadd rfl rfl rfl (fun _ _ => rfl),
    immediate _ (fun x => aluAnd x (immWord imm)) _ (fun x => hv ▸ aluAnd_eq x _) rfl rfl rfl (fun _ _ => rfl),
    immediate _ (fun x => aluOr x (immWord imm)) _ (fun x => hv ▸ aluOr_eq x _) rfl rfl rfl (fun _ _ => rfl),
    immediate _ (fun x => aluXor x (immWord imm)) _ (fun x => hv ▸ aluXor_eq x _) rfl rfl rfl (fun _ _ => rfl),
    immediate _ (fun x => aluShl x (n.setWidth 64)) _ ?shli rfl rfl rfl (fun _ _ => rfl),
    immediate _ (fun x => aluShr x (n.setWidth 64)) _ ?shri rfl rfl rfl (fun _ _ => rfl),
    immediate _ (fun x => aluSar x (n.setWidth 64)) _ ?sari rfl rfl rfl (fun _ _ => rfl),
    immediate _ (fun x => aluLui x imm) _ (fun x => aluLui_eq x imm) rfl rfl rfl (fun _ _ => rfl), fun hr => ?li⟩
  case shli => exact fun x => by rw [aluShl, shiftCount_setWidth, shiftLeft_eq_ofNat]
  case shri => exact fun x => by rw [aluShr, shiftCount_setWidth, ushiftRight_eq_ofNat]
  case sari => exact fun x => by rw [aluSar, shiftCount_setWidth, sshiftRight_eq_ofInt]
  case li =>
    refine writesG_of_local rfl rfl rfl hr fun c hc st w hst hl => ?_
    rw [← hv]
    exact congrArg (fun l => doneG (ctxAt s (.li d imm) c w) st l d (immWord imm)) hl

/-! Floating-point operations (R96 to R98, R154). -/

/-- The form of a floating-point operation of two operands, and perhaps of further sources. -/
def floatForm (s : State) (i : Instr) (d a b : BitVec 5) (w : West) (more : List Src) (r : Lane → Word → Word → Nat × Fl) : ScalarForm :=
  ⟨i, d, a, b, w, srcs2 a b w (pxOf (me s)) ++ more, r⟩

/-- The form of a floating-point operation of one operand. -/
def floatForm1 (s : State) (i : Instr) (d a : BitVec 5) (u : Bool) (r : Word → Nat × Fl) : ScalarForm :=
  ⟨i, d, a, a, west1 u, srcs1 a u (pxOf (me s)), fun _ x _ => r x⟩

theorem floatForm_describes {s : State} {i : Instr} {d a b : BitVec 5} {w : West} {more : List Src} {r : Lane → Word → Word → Nat × Fl}
    (hexec : exec i s = .next (issueLane i s)) (hcycles : vecCycles i = 0) (hwest : westReg i = westReg (.fadd d a b w))
    (hcore : ∀ c x st, coreExec i (ctxAt s i c x) st = withSrcs (ctxAt s i c x) st (srcs2 a b w (pxOf (me s)) ++ more) fun l =>
      doneF (ctxAt s i c x) st l d (r l (valA (ctxAt s i c x) l a w) (valB (ctxAt s i c x) l b w))) :
    (floatForm s i d a b w more r).Describes s where
  exec := hexec
  core := hcore
  cycles := hcycles
  westA h := hwest.trans (by rw [show w = .a from h]; rfl)
  westB h := hwest.trans (by rw [show w = .b from h]; rfl)

theorem val1_eq_valA (x : Ctx) (l : Lane) (a : BitVec 5) (u : Bool) : val1 x l a u = valA x l a (west1 u) := by
  cases u <;> rfl

theorem floatForm1_describes {s : State} {i : Instr} {d a : BitVec 5} {u : Bool} {r : Word → Nat × Fl}
    (hexec : exec i s = .next (issueLane i s)) (hcycles : vecCycles i = 0) (hwest : westReg i = if u then some (false, a) else none)
    (hcore : ∀ c x st, coreExec i (ctxAt s i c x) st = withSrcs (ctxAt s i c x) st (srcs1 a u (pxOf (me s))) fun l =>
      doneF (ctxAt s i c x) st l d (r (val1 (ctxAt s i c x) l a u))) :
    (floatForm1 s i d a u r).Describes s where
  exec := hexec
  core c x st := (hcore c x st).trans (by simp only [val1_eq_valA]; rfl)
  cycles := hcycles
  westA h := hwest.trans (if_pos (eq_true_of_west1 h))
  westB h := absurd h (west1_ne_b u)

theorem float1_law {s : State} {i : Instr} {d a : BitVec 5} {u : Bool} {r : Word → Nat × Fl} (hd : (floatForm1 s i d a u r).Describes s) :
    (LaneRuns s i (srcs1 a u (pxOf (me s))) → NoIv s u (fun c => (r (rdG (laneAt s c) a)).2.getLsbD 0 = true) →
      Completes (exec i s) fun t => LaneDone s t fun c => flagged (laneAt s c) d (r (opA s t c a (west1 u)))) ∧
    (LaneRuns s i (srcs1 a u (pxOf (me s))) → IvTraps s i 1 fun _ => (r (opA s s 0 a (west1 u))).2.getLsbD 0 = true) := by
  have hlaw := ScalarForm.law hd
  rwa [show (floatForm1 s i d a u r).west = west1 u from rfl, west1_ne_no] at hlaw

theorem signBit_clear (code : BitVec 4) (x : Word) : signBit code x (fun _ => false) = x.toNat % 2 ^ (codeWidth code.toNat - 1) := by
  rw [signBit, if_neg (by decide), Nat.add_zero]

theorem signBit_flip (code : BitVec 4) (x : Word) : let half := 2 ^ (codeWidth code.toNat - 1)
    signBit code x (fun b => !b) = x.toNat % half + half - half * (x.toNat / half % 2) := by
  intro half
  have hbit : x.getLsbD (codeWidth code.toNat - 1) = decide (x.toNat / half % 2 = 1) := Nat.testBit_eq_decide_div_mod_eq
  rw [signBit, hbit]
  obtain h | h := Nat.mod_two_eq_zero_or_one (x.toNat / half)
  · rw [h, if_pos (by decide), Nat.mul_zero, Nat.sub_zero]
  · rw [h, if_neg (by decide), Nat.mul_one, Nat.add_sub_cancel, Nat.add_zero]

/-- Settles O31: each operation is of a form, and a form's law holds of it. -/
theorem laneFloat : Obligations.LaneFloat := by
  unfold Obligations.LaneFloat
  intro s d a b w u p rm rdn u' does does1 arith compare half
  have binary (i : Instr) (f : Val → Val → Val × Fl) (hexec : exec i s = .next (issueLane i s)) (hcycles : vecCycles i = 0)
      (hwest : westReg i = westReg (.fadd d a b w)) (hcore : ∀ x st, x.rm = rm → coreExec i x st = fltOp x st d a b w f) :
      does i [] (arith f) :=
    ScalarForm.law (v := floatForm s i d a b w [] fun _ => arith f 0) (floatForm_describes hexec hcycles hwest fun c x st => by
      rw [hcore _ st rfl, List.append_nil]
      rfl)
  have comparison (i : Instr) (k : CmpCond) (hexec : exec i s = .next (issueLane i s)) (hcycles : vecCycles i = 0)
      (hwest : westReg i = westReg (.fadd d a b w)) (hcore : ∀ x st, coreExec i x st = fltCmp x st d a b w k) :
      does i [] (compare k) :=
    ScalarForm.law (v := floatForm s i d a b w [] fun _ => compare k 0) (floatForm_describes hexec hcycles hwest fun c x st => by
      rw [hcore, List.append_nil]
      rfl)
  have unary (i : Instr) (r : Word → Nat × Fl) (hd : (floatForm1 s i d a u r).Describes s) : does1 i r := float1_law hd
  have fma : does (.fma d a b w) [.g p.c false] fun c x y => roundOut p.fd rm
      (vfmaExact rdn (lowVal p.fa x) (lowVal p.fb y) (lowVal p.fd (rdG (laneAt s c) p.c))) :=
    ScalarForm.law (v := floatForm s (.fma d a b w) d a b w [.g p.c false] fun l x y => roundOut p.fd rm
      (vfmaExact rdn (lowVal p.fa x) (lowVal p.fb y) (lowVal p.fd (rdG l p.c)))) (floatForm_describes rfl rfl rfl fun _ _ _ => rfl)
  have sign (i : Instr) (f : Bool → Bool) (g : Nat → Nat) (hfg : ∀ x, signBit p.fa x f = g x.toNat)
      (hexec : exec i s = .next (issueLane i s)) (hcycles : vecCycles i = 0) (hwest : westReg i = if u then some (false, a) else none)
      (hcore : ∀ x st, coreExec i x st =
        withSrcs x st (srcs1 a u x.f.px) fun l => doneG x st l d (BitVec.ofNat 64 (signBit x.f.px.fa (val1 x l a u) f))) :
      does1 i fun x => (g x.toNat, 0) :=
    unary i (fun x => (g x.toNat, 0)) (floatForm1_describes hexec hcycles hwest fun c x st => by
      rw [hcore]
      refine congrArg (withSrcs _ st _) (funext fun l => ?_)
      rw [doneG_ofNat, ← hfg]
      rfl)
  have hrdn (x : Ctx) (hrm : x.rm = rm) : isRdn x.rm = rdn := congrArg (· == Rm.rdn) hrm
  clear_value does does1 arith compare
  exact ⟨binary _ _ rfl rfl rfl fun x st hrm => congrArg (fun r => fltOp x st d a b w (vadd r)) (hrdn x hrm),
    binary _ _ rfl rfl rfl fun x st hrm => congrArg (fun r => fltOp x st d a b w fun u v => vadd r u v.negate) (hrdn x hrm),
    binary _ _ rfl rfl rfl fun _ _ _ => rfl, binary _ _ rfl rfl rfl fun _ _ _ => rfl, fma,
    binary _ _ rfl rfl rfl fun _ _ _ => rfl, binary _ _ rfl rfl rfl fun _ _ _ => rfl,
    comparison _ _ rfl rfl rfl fun _ _ => rfl, comparison _ _ rfl rfl rfl fun _ _ => rfl, comparison _ _ rfl rfl rfl fun _ _ => rfl,
    sign _ (fun _ => false) (fun n => n % half) (signBit_clear p.fa) rfl rfl rfl fun _ _ => rfl,
    sign _ (fun b => !b) (fun n => n % half + half - half * (n / half % 2)) (signBit_flip p.fa) rfl rfl rfl fun _ _ => rfl,
    unary _ _ (floatForm1_describes rfl rfl rfl fun _ _ _ => rfl), unary _ _ (floatForm1_describes rfl rfl rfl fun _ _ _ => rfl)⟩

end Sys2Proof.Machine
end

section
/-! PROOFS. An instruction without west operand goes through a free row column by column, or stops at one; moves and masks (O32). -/

namespace Sys2Proof.Machine

/-! The columns one after another (R22, R26). -/

/-- A state in which an instruction that left the head in state s has come to column c: nothing that lets a strand use a core has changed,
and the cores from c on, with the strands' state there, are as they were. -/
structure Reaches (s st : State) (c : Nat) : Prop where
  row : getRow st s.curRow = getRow s s.curRow
  job : pwordOf st s.curRow = pwordOf s s.curRow
  others : ∀ t, t ≠ s.curSlot → getHead st s.curRow t = getHead s s.curRow t
  level : (getHead st s.curRow s.curSlot).handler = (me s).handler
  unstalled : (getHead st s.curRow s.curSlot).stall = []
  quiet : ∀ k < 16, (getLane st s.curRow k s.curSlot).events = []
  lanes : ∀ k < 16, c ≤ k → ∀ t < 8, getLane st s.curRow k t = getLane s s.curRow k t
  cores : ∀ k < 16, c ≤ k → getCore st (coreIx s.curRow k) = coreAt s k

/-- Sources that are there let the instruction go on (R150). -/
theorem Reaches.withSrcs {s st : State} {c : Nat} (ha : Reaches s st c) (hc : c < 16) (hslot : s.curSlot < 8) {srcs : List Src}
    (hsrcs : ∀ q ∈ srcs, sourceReady s c q) (i : Instr) (w : Vec) (k : Lane → CoreOut) :
    withSrcs (ctxAt s i c w) st srcs k = k (laneAt s c) := by
  have hl : (ctxAt s i c w).lane st = laneAt s c := ha.lanes c hc le_rfl _ hslot
  have hfull : srcs.find? (srcEmpty (laneAt s c)) = none :=
    List.find?_eq_none.2 fun q hq => by simp [(hsrcs q hq).1]
  have hsound : srcs.findSome? (srcPoison (ctxAt s i c w) st (laneAt s c)) = none := by
    refine List.findSome?_eq_none_iff.2 fun q hq => ?_
    obtain ⟨-, hq⟩ := hsrcs q hq
    cases q with
    | g n te => exact if_neg (Bool.eq_false_iff.1 hq)
    | m n => exact if_neg (Bool.eq_false_iff.1 hq)
    | v n te =>
      have hcore : getCore st (ctxAt s i c w).core = coreAt s c := ha.cores c hc le_rfl
      have hjob : pwordOf st (ctxAt s i c w).r = pwordOf s s.curRow := ha.job
      rw [srcPoison, hcore, hjob]
      exact congrArg (Option.map (BitVec.ofNat 64)) hq
  rw [Machine.withSrcs, hl, hfull]
  dsimp only
  rw [hsound]

section
variable {s : State} {i : Instr} (hr : LaneReady s i)
include hr

theorem LaneReady.slot : s.curSlot < 8 := by
  obtain ⟨-, hslot, -⟩ := hr
  exact hslot

theorem LaneReady.events {c : Nat} (hc : c < 16) : (laneAt s c).events = [] := by
  obtain ⟨-, -, -, -, -, -, -, -, -, hcols⟩ := hr
  obtain ⟨hevents, -⟩ := hcols c hc
  exact hevents

/-- What a core makes of an instruction that takes its vector unit for at most its own cycle. -/
theorem coreStep_short (hcycles : vecCycles i ≤ 1) {st : State} {c : Nat} (ha : Reaches s st c) (hc : c < 16) (w : Vec) :
    coreStep (ctxAt s i c w) st = coreExec i (ctxAt s i c w) st := by
  have hmask : pxMaskPoison (ctxAt s i c w) st = none := pxMask_ready hr hc st w (ha.lanes c hc le_rfl _ hr.slot)
  rw [coreStep, hmask, show (ctxAt s i c w).f.instr = i from rfl]
  dsimp only
  cases coreExec i (ctxAt s i c w) st with
  | done t => exact congrArg CoreOut.done (if_neg (by omega))
  | ended | wait | trap => rfl

/-- A flight that has come to a column executes there. -/
theorem flightTurn_reaches {st : State} {c : Nat} (ha : Reaches s st c) (hc : c < 16) :
    flightTurn s.curRow s.curSlot [] (flightAt s i c 0) st =
      match coreStep (ctxAt s i c 0) st with
      | .done t => afterCore (ctxAt s i c 0) t
      | .ended t => .trapped t
      | .wait t begun why => .stay t { flightAt s i c 0 with begun := begun, waits := some why, age := none }
      | .trap t cause v => .trapped (takeFirst t s.curRow s.curSlot (flightAt s i c 0).issue cause c v (instrAddr (me s))) := by
  have hready := hr
  obtain ⟨-, hslot, -, -, -, -, hruns, -, -, hcols⟩ := hready
  obtain ⟨-, hrecs, -, -, hretry, -, -, hvec⟩ := hcols c hc
  have hl : getLane st s.curRow c s.curSlot = laneAt s c := ha.lanes c hc le_rfl _ hslot
  have hruns' : strandRuns st s.curRow s.curSlot = true := by
    rw [strandRuns, ha.row]
    exact hruns
  have hmay : mayUse st s.curRow s.curSlot c [] = true := by
    have hretry' : ((me s).handler || (laneAt s c).retry.isEmpty) = true := by
      rcases hretry with h | h <;> simp [h]
    rw [mayUse, hruns', ha.level, hl, hretry', ha.unstalled]
    simp [isIn]
  have hvec' : vecFree st s.curRow c i = true := by
    have hlanes : ((upTo 8).all fun t => (getLane st s.curRow c t).vecUntil ≤ (getRow s s.curRow).cycle) =
        (upTo 8).all fun t => (getLane s s.curRow c t).vecUntil ≤ (getRow s s.curRow).cycle :=
      all_congr fun t ht => by rw [ha.lanes c hc le_rfl t (by simpa [upTo] using ht)]
    rw [vecFree, ha.row, hlanes]
    exact hvec
  have hdue : flightDue st s.curRow s.curSlot (flightAt s i c 0) = none :=
    duePending_none _ _ _ _ _ _ hc ha.quiet (by rw [show (flightAt s i c 0).col = c from rfl, hl, hrecs])
  rw [flightTurn, show (flightAt s i c 0).capture = false from rfl, show (flightAt s i c 0).col = c from rfl,
    show (flightAt s i c 0).instr = i from rfl, hmay, hvec', hdue, show (⟨s.curRow, s.curSlot, c, flightAt s i c 0⟩ : Ctx) = ctxAt s i c 0 from rfl]
  dsimp only
  cases coreStep (ctxAt s i c 0) st <;> rfl

/-- The wavefront at a column that it has come to. -/
theorem runFlight_reaches {st : State} {c : Nat} (ha : Reaches s st c) (hc : c < 16) (n : Nat) :
    runFlight s.curRow s.curSlot [] (n + 1) (flightAt s i c 0) st =
      match flightTurn s.curRow s.curSlot [] (flightAt s i c 0) st with
      | .next t f => runFlight s.curRow s.curSlot [] n f t
      | o => o := by
  have hready := hr
  obtain ⟨-, -, -, -, -, -, -, -, -, hcols⟩ := hready
  obtain ⟨-, -, -, -, -, -, hfree, -⟩ := hcols c hc
  have hfree' : coreFree st s.curRow s.curSlot c = true := by
    rw [← hfree, coreFree, coreFree]
    refine all_congr fun t _ => ?_
    by_cases ht : t = s.curSlot
    · simp [ht]
    · rw [ha.others t ht]
  rw [runFlight, show (flightAt s i c 0).col = c from rfl, hfree']
  rfl

end

/-- An instruction without west operand goes on to the next column, or is over. -/
theorem afterCore_local {s st : State} {i : Instr} (hwest : westReg i = none) (c : Nat) :
    afterCore (ctxAt s i c 0) st = if c = 15 then .over st else .next st (flightAt s i (c + 1) 0) := by
  have hcapture : captureWest (ctxAt s i c 0) st = .none := by
    rw [captureWest, show (ctxAt s i c 0).f.instr = i from rfl, hwest]
    dsimp only
    exact ite_self _
  rw [afterCore, hcapture]
  rfl

/-- What the cores before column c make of the instruction, in a free row: p holds of the state in which column c is reached. -/
structure Sweep (s : State) (i : Instr) (p : Nat → State → Prop) (cols : Nat) : Prop where
  ready : LaneReady s i
  local_ : westReg i = none
  short : vecCycles i ≤ 1
  starts : p 0 (setHead s s.curRow s.curSlot (headLeft s i))
  reaches : ∀ c < 16, ∀ st, p c st → Reaches s st c
  does : ∀ c < cols, ∀ st, p c st → Reaches s st c → ∃ t, coreExec i (ctxAt s i c 0) st = .done t ∧ p (c + 1) t

/-- The wavefront of such an instruction comes to each column that it has to, with the columns left. -/
theorem Sweep.arrives {s : State} {i : Instr} {p : Nat → State → Prop} {cols : Nat} (hs : Sweep s i p cols) (hcols : cols ≤ 15) :
    ∃ st, p cols st ∧ runFlight s.curRow s.curSlot [] 16 (flightAt s i 0 0) (setHead s s.curRow s.curSlot (headLeft s i)) =
      runFlight s.curRow s.curSlot [] (16 - cols) (flightAt s i cols 0) st := by
  suffices h : ∀ c ≤ cols, ∃ st, p c st ∧
      runFlight s.curRow s.curSlot [] 16 (flightAt s i 0 0) (setHead s s.curRow s.curSlot (headLeft s i)) =
        runFlight s.curRow s.curSlot [] (16 - c) (flightAt s i c 0) st from h cols le_rfl
  intro c hc
  induction c with
  | zero => exact ⟨_, hs.starts, rfl⟩
  | succ c ih =>
    obtain ⟨st, hp, hrun⟩ := ih (by omega)
    have ha := hs.reaches c (by omega) st hp
    obtain ⟨t, hexec, hnext⟩ := hs.does c (by omega) st hp ha
    refine ⟨t, hnext, hrun.trans ?_⟩
    rw [show 16 - c = 16 - (c + 1) + 1 by omega, runFlight_reaches hs.ready ha (by omega), flightTurn_reaches hs.ready ha (by omega),
      coreStep_short hs.ready hs.short ha (by omega), hexec]
    dsimp only
    rw [afterCore_local hs.local_, if_neg (by omega)]

/-- An instruction that every core does goes through the row, and its flight is over. -/
theorem Sweep.over {s : State} {i : Instr} {p : Nat → State → Prop} (hs : Sweep s i p 16) :
    ∃ st, p 16 st ∧ issueLane i s =
      setHead st s.curRow s.curSlot { getHead st s.curRow s.curSlot with flights := (getHead st s.curRow s.curSlot).flights.eraseIdx 0 } := by
  have hto : Sweep s i p 15 := { hs with does := fun c hc => hs.does c (by omega) }
  obtain ⟨st, hp, hrun⟩ := hto.arrives le_rfl
  have ha := hs.reaches 15 (by decide) st hp
  obtain ⟨t, hexec, hlast⟩ := hs.does 15 (by decide) st hp ha
  refine ⟨t, hlast, ?_⟩
  rw [issueLane_ready hs.ready, hrun, show 16 - 15 = 0 + 1 from rfl, runFlight_reaches hs.ready ha (by decide),
    flightTurn_reaches hs.ready ha (by decide), coreStep_short hs.ready hs.short ha (by decide), hexec]
  dsimp only
  rw [afterCore_local hs.local_, if_pos rfl]
  rfl

/-- An instruction that waits at a column stays there. -/
theorem Sweep.waits {s : State} {i : Instr} {p : Nat → State → Prop} {c : Nat} (hs : Sweep s i p c) (hc : c < 16)
    (hwait : ∀ st, p c st → Reaches s st c → ∃ begun why, coreExec i (ctxAt s i c 0) st = .wait st begun why) :
    ∃ st begun why, p c st ∧ issueLane i s = putTurn s.curRow s.curSlot 0
      (.stay st { flightAt s i c 0 with begun := begun, waits := some why, age := none }) := by
  obtain ⟨st, hp, hrun⟩ := hs.arrives (by omega)
  have ha := hs.reaches c hc st hp
  obtain ⟨begun, why, hexec⟩ := hwait st hp ha
  refine ⟨st, begun, why, hp, ?_⟩
  rw [issueLane_ready hs.ready, hrun, show 16 - c = 15 - c + 1 by omega, runFlight_reaches hs.ready ha hc,
    flightTurn_reaches hs.ready ha hc, coreStep_short hs.ready hs.short ha hc, hexec]

/-! What a sweep may change. -/

/-- A machine with the lanes and cores, requests, identifiers, packet numbers and stamps of another. -/
def swept (s t : State) : State :=
  { s with lanes := t.lanes, cores := t.cores, reqs := t.reqs, fresh := t.fresh, pkts := t.pkts, memStamp := t.memStamp }

/-- A machine that differs only in the strand's head, in the strand's lanes and the cores of the row before column c, and in its requests,
identifiers, packet numbers and stamps. -/
structure Swept (s st : State) (hd : Head) (c : Nat) : Prop where
  frame : st = swept (setHead s s.curRow s.curSlot hd) st
  otherLanes : ∀ r k sl, k < 16 → sl < 8 → (r, sl) ≠ (s.curRow, s.curSlot) → getLane st r k sl = getLane s r k sl
  otherCores : ∀ k, (∀ j < 16, k ≠ coreIx s.curRow j) → getCore st k = getCore s k
  lanes : ∀ k < 16, c ≤ k → getLane st s.curRow k s.curSlot = laneAt s k
  cores : ∀ k < 16, c ≤ k → getCore st (coreIx s.curRow k) = coreAt s k
  quiet : ∀ k < c, (getLane st s.curRow k s.curSlot).events = []

section
variable {s st : State} {hd : Head} {c : Nat} (h : Swept s st hd c)
include h

theorem Swept.head : getHead st s.curRow s.curSlot = hd := by
  rw [h.frame]
  exact getHead_setHead s s.curRow s.curSlot hd

theorem Swept.otherHeads {r sl : Nat} (hne : 8 * r + sl ≠ 8 * s.curRow + s.curSlot) : getHead st r sl = getHead s r sl := by
  rw [h.frame]
  exact getHead_setHead_ne s hd hne

theorem Swept.reaches {i : Instr} (hr : LaneReady s i) (hlevel : hd.handler = (me s).handler) (hstall : hd.stall = []) :
    Reaches s st c where
  row := by rw [h.frame]; rfl
  job := by rw [h.frame]; rfl
  others t ht := h.otherHeads (by omega)
  level := by rw [h.head, hlevel]
  unstalled := by rw [h.head, hstall]
  quiet k hk := by
    by_cases hkc : k < c
    · exact h.quiet k hkc
    · rw [h.lanes k hk (by omega)]
      exact hr.events hk
  lanes k hk hck t ht := by
    by_cases hslot : t = s.curSlot
    · rw [hslot]
      exact h.lanes k hk hck
    · exact h.otherLanes _ k t hk ht (by simp [hslot])
  cores := h.cores

end

theorem Swept.start (s : State) (hd : Head) : Swept s (setHead s s.curRow s.curSlot hd) hd 0 where
  frame := rfl
  otherLanes _ _ _ _ _ _ := rfl
  otherCores _ _ := rfl
  lanes _ _ _ := rfl
  cores _ _ _ := rfl
  quiet k hk := absurd hk (Nat.not_lt_zero k)

theorem Swept.withHead {s st : State} {hd : Head} {c : Nat} (h : Swept s st hd c) (hd' : Head) :
    Swept s (setHead st s.curRow s.curSlot hd') hd' c where
  frame := by
    have hframe := congrArg (fun x : State => setHead x s.curRow s.curSlot hd') h.frame
    have htwice := congrArg (swept · st) (setHead_setHead s s.curRow s.curSlot hd hd')
    exact hframe.trans htwice
  otherLanes := h.otherLanes
  otherCores := h.otherCores
  lanes := h.lanes
  cores := h.cores
  quiet := h.quiet

/-- A column's own step: only the strand's lane and the core there, and what a sweep may change besides, are other than before. -/
structure ColumnStep (s st t : State) (c : Nat) : Prop where
  frame : t = swept st t
  lanes : ∀ r k sl, k < 16 → sl < 8 → ¬ (r = s.curRow ∧ k = c ∧ sl = s.curSlot) → getLane t r k sl = getLane st r k sl
  cores : ∀ k, k ≠ coreIx s.curRow c → getCore t k = getCore st k
  quiet : (getLane t s.curRow c s.curSlot).events = []

theorem Swept.next {s st t : State} {hd : Head} {c : Nat} (h : Swept s st hd c) (hc : c < 16) (hslot : s.curSlot < 8)
    (ht : ColumnStep s st t c) : Swept s t hd (c + 1) where
  frame := by
    have hframe := congrArg (swept · t) h.frame
    exact ht.frame.trans hframe
  otherLanes r k sl hk hsl hne :=
    (ht.lanes r k sl hk hsl fun hsame => hne (Prod.ext hsame.1 hsame.2.2)).trans (h.otherLanes r k sl hk hsl hne)
  otherCores k hk := (ht.cores k (hk c hc)).trans (h.otherCores k hk)
  lanes k hk hck := (ht.lanes _ k _ hk hslot (by omega)).trans (h.lanes k hk (by omega))
  cores k hk hck := (ht.cores _ (by unfold coreIx; omega)).trans (h.cores k hk (by omega))
  quiet k hk := by
    by_cases hkc : k = c
    · rw [hkc]
      exact ht.quiet
    · rw [ht.lanes _ k _ (by omega) hslot (by omega)]
      exact h.quiet k (by omega)

/-- A core that does nothing but to write the strand's lane. -/
theorem columnStep_setLane {s st : State} {c : Nat} {l : Lane} (hc : c < 16) (hslot : s.curSlot < 8) (hl : l.events = []) :
    ColumnStep s st (setLane st s.curRow c s.curSlot l) c where
  frame := rfl
  lanes r k sl hk hsl hne := getLane_setLane_ne _ _ (lane_ne hc hk hslot hsl hne)
  cores _ _ := rfl
  quiet := by rw [getLane_setLane, hl]

/-- A core that changes nothing. -/
theorem columnStep_refl {s st : State} {c : Nat} (hl : (getLane st s.curRow c s.curSlot).events = []) : ColumnStep s st st c where
  frame := rfl
  lanes _ _ _ _ _ _ := rfl
  cores _ _ := rfl
  quiet := hl

/-- The head of a strand whose instruction is in the row. -/
theorem headLeft_flights {s : State} {i : Instr} : (headLeft s i).flights = [flightAt s i 0 0] := by
  unfold headLeft seqNext
  dsimp only
  split
  · split <;> rfl
  · rfl

theorem headLeft_level {s : State} {i : Instr} (hr : LaneReady s i) : (headLeft s i).handler = (me s).handler := by
  obtain ⟨-, -, -, hwait, -⟩ := hr
  exact (congrArg Head.handler (headLeft_goOn (i := i) hwait) :)

theorem headLeft_stall {s : State} {i : Instr} (hr : LaneReady s i) : (headLeft s i).stall = [] := by
  obtain ⟨-, -, -, hwait, -, hstall, -⟩ := hr
  exact (congrArg Head.stall (headLeft_goOn (i := i) hwait) :).trans hstall

theorem headLeft_over {s : State} {i : Instr} (hr : LaneReady s i) :
    { headLeft s i with flights := (headLeft s i).flights.eraseIdx 0 } = goOn (me s) := by
  obtain ⟨-, -, -, hwait, hflights, -⟩ := hr
  have hnone : (goOn (me s)).flights = [] := hflights
  rw [headLeft_flights]
  exact (headLeft_goOn (i := i) hwait).trans (by rw [← hnone])

/-- A state of the sweep of an instruction whose head only has it in the row. -/
theorem Swept.reaches_left {s st : State} {i : Instr} {c : Nat} (h : Swept s st (headLeft s i) c) (hr : LaneReady s i) : Reaches s st c :=
  h.reaches hr (headLeft_level hr) (headLeft_stall hr)

/-- The machine once an instruction has left its strand's head. -/
def leftState (s : State) (i : Instr) : State := setHead s s.curRow s.curSlot (headLeft s i)

/-- A sweep of which each column's result q holds once the column is done, and is kept by the columns after it, and through which inv
holds: the head goes on behind it. -/
theorem sweeps {s : State} {i : Instr} (hr : LaneReady s i) (hwest : westReg i = none) (hcycles : vecCycles i ≤ 1)
    {inv : State → Prop} {q : Nat → State → Prop} (hstart : inv (leftState s i))
    (hstep : ∀ c < 16, ∀ st, Swept s st (headLeft s i) c → Reaches s st c → inv st →
      ∃ t, coreExec i (ctxAt s i c 0) st = .done t ∧ ColumnStep s st t c ∧ inv t ∧ q c t ∧ ∀ k < c, q k st → q k t) :
    ∃ st, Swept s st (headLeft s i) 16 ∧ inv st ∧ (∀ k < 16, q k st) ∧ issueLane i s = setHead st s.curRow s.curSlot (goOn (me s)) := by
  have hs : Sweep s i (fun c st => Swept s st (headLeft s i) c ∧ inv st ∧ ∀ k < c, q k st) 16 :=
    { ready := hr
      local_ := hwest
      short := hcycles
      starts := ⟨Swept.start s _, hstart, fun k hk => absurd hk (Nat.not_lt_zero k)⟩
      reaches := fun c _ st hp => hp.1.reaches_left hr
      does := fun c hc st hp ha => by
        obtain ⟨hswept, hinv, hq⟩ := hp
        obtain ⟨t, hexec, hcolumn, hinv', hdone, hkeeps⟩ := hstep c hc st hswept ha hinv
        refine ⟨t, hexec, hswept.next hc hr.slot hcolumn, hinv', fun k hk => ?_⟩
        by_cases hkc : k = c
        · rw [hkc]
          exact hdone
        · exact hkeeps k (by omega) (hq k (by omega)) }
  obtain ⟨st, ⟨hswept, hinv, hq⟩, hissue⟩ := hs.over
  refine ⟨st, hswept, hinv, hq, ?_⟩
  rw [hissue, hswept.head, headLeft_over hr]

/-! An instruction that only writes the strand's lanes. -/

/-- A machine that differs in its heads and lanes only. -/
def OnlyLanes (s t : State) : Prop := t = { s with heads := t.heads, lanes := t.lanes }

theorem OnlyLanes.setLane {s st : State} (h : OnlyLanes s st) (r c sl : Nat) (l : Lane) : OnlyLanes s (setLane st r c sl l) := by
  have hset := congrArg (fun x : State => Machine.setLane x r c sl l) h
  exact hset.trans (by rw [Machine.setLane]; rfl)

/-- What a pass through the whole row leaves, once the head is put right. -/
theorem Swept.onlyStrand {s st : State} {hd : Head} (h : Swept s st hd 16) (hslot : s.curSlot < 8) (honly : OnlyLanes s st) (hd' : Head) :
    OnlyStrand s (setHead st s.curRow s.curSlot hd') := by
  refine ⟨?_, fun r sl hsl hne => ?_, h.otherLanes⟩
  · exact (congrArg (fun x : State => setHead x s.curRow s.curSlot hd') honly).trans (by rw [setHead]; rfl)
  · have hother : 8 * r + sl ≠ 8 * s.curRow + s.curSlot := fun hsame => hne (Prod.ext (by simp; omega) (by simp; omega))
    rw [getHead_setHead_ne _ _ hother, h.otherHeads hother]

/-- An instruction that every core does by writing the strand's lane alone, as a relation says. -/
theorem laneRel_of_columns {s : State} {i : Instr} {rel : Nat → Lane → Lane → Prop} (hr : LaneReady s i) (hwest : westReg i = none)
    (hcycles : vecCycles i ≤ 1)
    (hcore : ∀ c < 16, ∀ st, Reaches s st c → OnlyLanes s st → ∃ t, coreExec i (ctxAt s i c 0) st = .done t ∧ OnlyLanes s t ∧
      ColumnStep s st t c ∧ rel c (laneAt s c) (getLane t s.curRow c s.curSlot)) :
    LaneRel s (issueLane i s) rel := by
  obtain ⟨st, hswept, honly, hrel, hissue⟩ := sweeps hr hwest hcycles (inv := OnlyLanes s)
    (q := fun k st => rel k (laneAt s k) (getLane st s.curRow k s.curSlot)) rfl fun c hc st _ ha honly => by
      obtain ⟨t, hexec, honly', hcolumn, hdone⟩ := hcore c hc st ha honly
      refine ⟨t, hexec, hcolumn, honly', hdone, fun k hk hkept => ?_⟩
      rw [hcolumn.lanes _ k _ (by omega) hr.slot (by omega)]
      exact hkept
  rw [hissue]
  exact ⟨hswept.onlyStrand hr.slot honly _, getHead_setHead _ _ _ _, hrel⟩

/-- An instruction that every core does by writing the strand's lane, or by leaving it, is done at every core. -/
theorem laneDone_of_columns {s : State} {i : Instr} {eff : Nat → Lane} (hr : LaneReady s i) (hwest : westReg i = none)
    (hcycles : vecCycles i ≤ 1) (hquiet : ∀ c < 16, (eff c).events = [])
    (hcore : ∀ c < 16, ∀ st, Reaches s st c → coreExec i (ctxAt s i c 0) st = .done (setLane st s.curRow c s.curSlot (eff c)) ∨
      coreExec i (ctxAt s i c 0) st = .done st ∧ eff c = laneAt s c) :
    LaneDone s (issueLane i s) eff :=
  laneRel_of_columns (rel := fun c _ l => l = eff c) hr hwest hcycles fun c hc st ha honly => by
    obtain hset | ⟨hkeep, heff⟩ := hcore c hc st ha
    · exact ⟨_, hset, honly.setLane _ _ _ _, columnStep_setLane hc hr.slot (hquiet c hc), getLane_setLane _ _ _ _ _⟩
    · refine ⟨_, hkeep, honly, columnStep_refl (ha.quiet c hc), ?_⟩
      rw [heff]
      exact ha.lanes c hc le_rfl _ hr.slot

/-! Moves and masks (R30, R156, R195). -/

/-- An instruction that writes a register of the strand at every core from the sources there. -/
theorem moves {s : State} {i : Instr} {srcs : List Src} {f : Lane → Lane} (hexec : exec i s = .next (issueLane i s))
    (hwest : westReg i = none) (hcycles : vecCycles i ≤ 1) (hevents : ∀ l, (f l).events = l.events)
    (hcore : ∀ c st, coreExec i (ctxAt s i c 0) st =
      withSrcs (ctxAt s i c 0) st srcs fun l => .done ((ctxAt s i c 0).set st (f l)))
    (hruns : LaneRuns s i srcs) : Completes (exec i s) fun t => LaneDone s t fun c => f (laneAt s c) := by
  obtain ⟨hr, hsrcs⟩ := hruns
  refine ⟨_, hexec, laneDone_of_columns hr hwest hcycles (fun c hc => ?_) fun c hc st ha => .inl ?_⟩
  · rw [hevents, hr.events hc]
  · rw [hcore, ha.withSrcs hc hr.slot (hsrcs c hc)]
    rfl

/-- Half of a mask, as MOVMG reads it (R156). -/
theorem maskHalf_eq (x : Mask) (half : Bool) :
    (x >>> (if half then 64 else 0)).setWidth 64 = BitVec.ofNat 64 (x.toNat / (if half then 2 ^ 64 else 1)) := by
  cases half <;> exact BitVec.eq_of_toNat_eq (by simp [Nat.shiftRight_eq_div_pow])

theorem append_eq_ofNat (x y : Word) : x ++ y = BitVec.ofNat 128 (x.toNat * 2 ^ 64 + y.toNat) := by
  refine BitVec.eq_of_toNat_eq ?_
  have hx := x.isLt
  have hy := y.isLt
  rw [BitVec.toNat_append, ← Nat.shiftLeft_add_eq_or_of_lt hy, Nat.shiftLeft_eq, BitVec.toNat_ofNat, Nat.mod_eq_of_lt (by omega)]

/-- A mask with one half replaced, as MOVGM writes it (R156). -/
theorem maskWithHalf_eq (x : Mask) (v : Word) (half : Bool) :
    BitVec.ofNat 128 (if half then x.toNat % 2 ^ 64 + v.toNat * 2 ^ 64 else v.toNat + x.toNat / 2 ^ 64 * 2 ^ 64) =
      if half then v ++ x.setWidth 64 else (x >>> 64).setWidth 64 ++ v := by
  have hx : x.toNat < 2 ^ 128 := x.isLt
  have hlow : (x.setWidth 64).toNat = x.toNat % 2 ^ 64 := BitVec.toNat_setWidth _ _
  have hhigh : ((x >>> 64).setWidth 64).toNat = x.toNat / 2 ^ 64 := by
    rw [BitVec.toNat_setWidth, BitVec.toNat_ushiftRight, Nat.shiftRight_eq_div_pow, Nat.mod_eq_of_lt (by omega)]
  rw [append_eq_ofNat, append_eq_ofNat, hlow, hhigh]
  cases half
  · exact congrArg (BitVec.ofNat 128) (Nat.add_comm _ _)
  · exact congrArg (BitVec.ofNat 128) (Nat.add_comm _ _)

/-- The head of a strand whose TAIL has gone through the row (R30). -/
def headTailed (s : State) (a : BitVec 5) : Head :=
  { headLeft s (.tail a) with tailQ := (me s).tailQ ++ [rdG (laneAt s 15) a] }

theorem headLeft_tailQ {s : State} {i : Instr} (hr : LaneReady s i) : (headLeft s i).tailQ = (me s).tailQ := by
  obtain ⟨-, -, -, hwait, -⟩ := hr
  exact (congrArg Head.tailQ (headLeft_goOn (i := i) hwait) :)

theorem headTailed_over {s : State} {a : BitVec 5} (hr : LaneReady s (.tail a)) :
    { headTailed s a with flights := (headTailed s a).flights.eraseIdx 0 } =
      { goOn (me s) with tailQ := (me s).tailQ ++ [rdG (laneAt s 15) a] } :=
  congrArg (fun h : Head => { h with tailQ := (me s).tailQ ++ [rdG (laneAt s 15) a] }) (headLeft_over hr)

/-- The head while TAIL is in the row, and once core 15 has done it. -/
def tailHead (s : State) (a : BitVec 5) (c : Nat) : Head := if c = 16 then headTailed s a else headLeft s (.tail a)

theorem tailHead_level {s : State} {a : BitVec 5} (hr : LaneReady s (.tail a)) (c : Nat) : (tailHead s a c).handler = (me s).handler := by
  unfold tailHead
  split <;> exact headLeft_level hr

theorem tailHead_stall {s : State} {a : BitVec 5} (hr : LaneReady s (.tail a)) (c : Nat) : (tailHead s a c).stall = [] := by
  unfold tailHead
  split <;> exact headLeft_stall hr

/-- What TAIL makes of a core: core 15 appends to the queue where it has room. -/
theorem coreExec_tail {s st : State} {a : BitVec 5} {c : Nat} (hc : c < 16) (ha : Reaches s st c) (hslot : s.curSlot < 8)
    (hsrcs : ∀ q ∈ [Src.g a (pxOf (me s)).ea], sourceReady s c q) (hroom : (getHead st s.curRow s.curSlot).tailQ.length < 4) :
    coreExec (.tail a) (ctxAt s (.tail a) c 0) st = .done (if c = 15 then
      modHead st s.curRow s.curSlot fun h => { h with tailQ := h.tailQ ++ [rdG (laneAt s c) a] } else st) := by
  rw [show coreExec (.tail a) (ctxAt s (.tail a) c 0) st = coreTail (ctxAt s (.tail a) c 0) st a from rfl, coreTail]
  refine (ha.withSrcs hc hslot hsrcs _ _ _).trans ?_
  rw [show (ctxAt s (.tail a) c 0).c = c from rfl]
  by_cases hlast : c = 15
  · rw [if_pos hlast, if_pos hlast]
    exact if_neg (Nat.not_le.2 hroom)
  · rw [if_neg hlast, if_neg hlast]

/-- TAIL leaves every lane, and appends core 15's register to the tail queue (R30). -/
theorem tail_completes {s : State} {a : BitVec 5} (hruns : LaneRuns s (.tail a) [.g a (pxOf (me s)).ea]) (hroom : (me s).tailQ.length < 4) :
    Completes (exec (.tail a) s) fun t => OnlyStrand s t ∧
      getHead t s.curRow s.curSlot = { goOn (me s) with tailQ := (me s).tailQ ++ [rdG (laneAt s 15) a] } ∧
      ∀ c < 16, getLane t s.curRow c s.curSlot = laneAt s c := by
  obtain ⟨hr, hsrcs⟩ := hruns
  have hs : Sweep s (.tail a) (fun c st => Swept s st (tailHead s a c) c ∧ OnlyLanes s st ∧ st.lanes = s.lanes) 16 :=
    { ready := hr
      local_ := rfl
      short := Nat.zero_le 1
      starts := ⟨Swept.start s _, rfl, rfl⟩
      reaches := fun c _ st hp => hp.1.reaches hr (tailHead_level hr c) (tailHead_stall hr c)
      does := fun c hc st hp ha => by
        obtain ⟨hswept, honly, hlanes⟩ := hp
        have hleft : getHead st s.curRow s.curSlot = headLeft s (.tail a) := hswept.head.trans (if_neg (by omega))
        have hnext : Swept s st (tailHead s a c) (c + 1) := hswept.next hc hr.slot (columnStep_refl (ha.quiet c hc))
        rw [coreExec_tail hc ha hr.slot (hsrcs c hc) (by rw [hleft, headLeft_tailQ hr]; exact hroom)]
        refine ⟨_, rfl, ?_⟩
        by_cases hlast : c = 15
        · rw [if_pos hlast, modHead, hleft, headLeft_tailQ hr, hlast]
          subst hlast
          exact ⟨hnext.withHead _, (congrArg (fun x : State => setHead x s.curRow s.curSlot (headTailed s a)) honly).trans
            (by rw [setHead]; rfl), hlanes⟩
        · rw [if_neg hlast]
          have hsame : tailHead s a (c + 1) = tailHead s a c := (if_neg (by omega)).trans (if_neg (by omega)).symm
          rw [hsame]
          exact ⟨hnext, honly, hlanes⟩ }
  obtain ⟨st, ⟨hswept, honly, hlanes⟩, hissue⟩ := hs.over
  rw [hswept.head, show tailHead s a 16 = headTailed s a from rfl, headTailed_over hr] at hissue
  refine ⟨_, congrArg Host.Outcome.next hissue, hswept.onlyStrand hr.slot honly _, getHead_setHead _ _ _ _, fun c hc => ?_⟩
  show getLane st s.curRow c s.curSlot = laneAt s c
  rw [getLane, hlanes]
  rfl

/-- Settles O32: all but TAIL write a register of the lane at each core, or leave it. -/
theorem laneMoves : Obligations.LaneMoves := by
  unfold Obligations.LaneMoves
  intro s d a h m x y half ea does
  have mask (i : Instr) (f : Lane → Mask) (srcs : List Src) (hexec : exec i s = .next (issueLane i s)) (hwest : westReg i = none)
      (hcycles : vecCycles i ≤ 1)
      (hcore : ∀ c st, coreExec i (ctxAt s i c 0) st = withSrcs (ctxAt s i c 0) st srcs fun l => .done ((ctxAt s i c 0).set st (wrM l m (f l)))) :
      does i srcs fun _ l => wrM l m (f l) := moves hexec hwest hcycles (fun _ => wrM_events _ _ _) hcore
  refine ⟨fun hruns => writesG_of_local rfl rfl rfl hruns.1 fun c _ st w _ hl => ?hget, fun hruns => ?cmov,
    moves (f := fun l => wrG l d (BitVec.ofNat 64 ((rdM l m).toNat / (if half then 2 ^ 64 else 1)))) rfl rfl (Nat.zero_le 1) (fun _ => wrG_events _ _ _) fun c st => ?movmg,
    mask (.movgm m a half) (fun l => if half then rdG l a ++ (rdM l m).setWidth 64 else ((rdM l m) >>> 64).setWidth 64 ++ rdG l a) [.g a ea]
      rfl rfl (Nat.zero_le 1) fun c st => ?movgm,
    mask (.mand m x y) (fun l => rdM l x &&& rdM l y) [.m x, .m y] rfl rfl le_rfl fun _ _ => rfl,
    mask (.mor m x y) (fun l => rdM l x ||| rdM l y) [.m x, .m y] rfl rfl le_rfl fun _ _ => rfl,
    mask (.mxor m x y) (fun l => rdM l x ^^^ rdM l y) [.m x, .m y] rfl rfl le_rfl fun _ _ => rfl,
    fun hruns => mask (.mnot m x) (fun l => ~~~ rdM l x) [.m x, .m x] rfl rfl le_rfl (fun _ _ => rfl) (hruns.imp_right ?mnot),
    mask (.mset m a) (fun l => BitVec.ofNat 128 (2 ^ min (rdG l a).toNat 128 - 1)) [.g a false] rfl rfl le_rfl fun _ _ => rfl,
    tail_completes⟩
  case mnot => exact fun hsrcs c hc q hq => hsrcs c hc q (by simpa using hq)
  case hget => exact congrArg (fun l => doneG (ctxAt s (.hget d h) c w) st l d (rdH (me s) h)) hl
  case movmg =>
    simp only [← maskHalf_eq]
    rfl
  case movgm =>
    simp only [← maskWithHalf_eq]
    rfl
  case cmov =>
    obtain ⟨hr, hsrcs⟩ := hruns
    refine ⟨_, rfl, laneDone_of_columns hr rfl (Nat.zero_le 1) (fun c hc => ?_) fun c hc st ha => ?_⟩
    · dsimp only
      split
      · rw [wrG_events, hr.events hc]
      · exact hr.events hc
    · dsimp only
      have hexec := ha.withSrcs hc hr.slot (hsrcs c hc) (.cmov d a m) 0 fun l =>
        if (rdM l m).getLsbD 0 then doneG (ctxAt s (.cmov d a m) c 0) st l d (rdG l a) else .done st
      by_cases hbit : (rdM (laneAt s c) m).getLsbD 0 = true
      · rw [if_pos hbit] at hexec ⊢
        exact .inl hexec
      · rw [if_neg hbit] at hexec ⊢
        exact .inr ⟨hexec, rfl⟩

end Sys2Proof.Machine
end

section
/-! PROOFS. Lane instructions that stop at core 0: empty sources, misaligned accesses, pool accesses out of bounds (O37). -/

namespace Sys2Proof.Machine

theorem reaches_left {s : State} {i : Instr} (hr : LaneReady s i) (c : Nat) : Reaches s (leftState s i) c :=
  have hstart := (Swept.start s (headLeft s i)).reaches_left hr
  { hstart with
    lanes := fun k hk _ => hstart.lanes k hk (Nat.zero_le k)
    cores := fun k hk _ => hstart.cores k hk (Nat.zero_le k) }

theorem trapsClean0_of_coreExec {s : State} {i : Instr} {cause : Cause} {v : Word} (hr : LaneReady s i) (hcan : CanTrap s)
    (hexec : exec i s = .next (issueLane i s)) (hcore : coreExec i (ctxAt s i 0 0) (leftState s i) = .trap (leftState s i) cause v) :
    TrapsClean0 s i cause v :=
  trapsClean0_of_coreStep hr hcan hexec (coreStep_trap (pxMask_ready hr (by decide) _ _ rfl) hcore)

/-- An instruction that traps at core 0 once its sources are there. -/
theorem trapsClean0_of_srcs {s : State} {i : Instr} {srcs : List Src} {cause : Cause} {v : Word} (hcan : CanTrap s)
    (hexec : exec i s = .next (issueLane i s))
    (htrap : (∀ k, withSrcs (ctxAt s i 0 0) (leftState s i) srcs k = k (laneAt s 0)) →
      coreExec i (ctxAt s i 0 0) (leftState s i) = .trap (leftState s i) cause v)
    (hruns : LaneRuns s i srcs) : TrapsClean0 s i cause v := by
  obtain ⟨hr, hsrcs⟩ := hruns
  exact trapsClean0_of_coreExec hr hcan hexec (htrap fun k =>
    (reaches_left hr 0).withSrcs (by decide) hr.slot (hsrcs 0 (by decide)) i 0 k)

section
variable {s : State} {i : Instr} {q : Src}
  (hcore : ∃ qs k, coreExec i (ctxAt s i 0 0) (leftState s i) = withSrcs (ctxAt s i 0 0) (leftState s i) (q :: qs) k)
  (hempty : srcEmpty (laneAt s 0) q = true)
include hcore hempty

/-- An empty first source whose trap-empty bit is set traps (R36, R150). -/
theorem coreExec_empty_traps {v : Word} (htval : srcTval q = some v) :
    coreExec i (ctxAt s i 0 0) (leftState s i) = .trap (leftState s i) .empty v := by
  obtain ⟨qs, k, hcore⟩ := hcore
  rw [hcore, withSrcs, show (ctxAt s i 0 0).lane (leftState s i) = laneAt s 0 from rfl, List.find?_cons_of_pos hempty]
  dsimp only
  rw [htval]

/-- An empty first source without that bit makes the instruction wait. -/
theorem coreExec_empty_waits (htval : srcTval q = none) :
    coreExec i (ctxAt s i 0 0) (leftState s i) = .wait (leftState s i) [] 1 := by
  obtain ⟨qs, k, hcore⟩ := hcore
  rw [hcore, withSrcs, show (ctxAt s i 0 0).lane (leftState s i) = laneAt s 0 from rfl, List.find?_cons_of_pos hempty]
  dsimp only
  rw [htval]

end

/-- An instruction that the columns before c leave the state as it is for, and that waits there. -/
theorem stays_of_wait {s : State} {i : Instr} {c : Nat} (hs : Sweep s i (fun _ st => st = leftState s i) c) (hc : c < 16)
    (hwait : ∃ begun why, coreExec i (ctxAt s i c 0) (leftState s i) = .wait (leftState s i) begun why) :
    ∃ f, issueLane i s = setHead s s.curRow s.curSlot { headLeft s i with flights := [f] } ∧ f.col = c ∧ f.instr = i := by
  obtain ⟨st, begun, why, hst, hissue⟩ := hs.waits hc fun st hst _ => by rw [hst]; exact hwait
  refine ⟨{ flightAt s i c 0 with begun := begun, waits := some why, age := none }, ?_, rfl, rfl⟩
  rw [hissue, hst, putTurn, modHead, leftState, getHead_setHead, setHead_setHead, headLeft_flights]
  rfl

/-- An instruction that leaves the state alone at the columns before c. -/
theorem sweep_still {s : State} {i : Instr} {c : Nat} (hr : LaneReady s i) (hwest : westReg i = none) (hcycles : vecCycles i ≤ 1)
    (hstill : ∀ k < c, coreExec i (ctxAt s i k 0) (leftState s i) = .done (leftState s i)) :
    Sweep s i (fun _ st => st = leftState s i) c where
  ready := hr
  local_ := hwest
  short := hcycles
  starts := rfl
  reaches k _ st hst := by
    rw [hst]
    exact reaches_left hr k
  does k hk st hst _ := by
    rw [hst]
    exact ⟨_, hstill k hk, rfl⟩

/-! Addresses (R157, R163). -/

theorem laneAddr_eq {n : Nat} (base : Word) (off : BitVec n) (scale : Nat) :
    laneAddr base off.toNat n scale = base + BitVec.ofInt 64 (off.toInt * scale) := by
  rw [laneAddr, sext_toNat, word]

theorem misaligned {x : Word} {n : Nat} (h : ¬ n ∣ x.toNat) : x.toNat % n ≠ 0 := fun hmod => h (Nat.dvd_of_mod_eq_zero hmod)

/-- A byte of an access, active, in a range (R163). -/
theorem poolTouches_of_byte {off size : Nat} {mask : BitVec 32} {lo hi o : Nat} (ho : o < size)
    (hactive : size < 128 ∨ mask.getLsbD (o / 4) = true) (hlo : lo ≤ off + o) (hhi : off + o < hi) :
    poolTouches off size mask lo hi = true := by
  refine List.any_eq_true.2 ⟨o, List.mem_range.2 ho, ?_⟩
  obtain h | h := hactive <;> simp [h, hlo, hhi]

section
variable {x : Ctx} {s : State} {off : Word} {align size : Nat} {mask : BitVec 32} {k : Nat → CoreOut}

theorem poolChecked_misaligned (store : Bool) (h : ¬ align ∣ off.toNat) :
    poolChecked x s off align size mask store k = .trap s .memAlign off :=
  if_pos (misaligned h)

theorem poolChecked_beyond (store : Bool) (h : align ∣ off.toNat)
    (hout : poolTouches off.toNat size mask (scratchSize (pwordOf s x.r)) (2 ^ 65) = true) :
    poolChecked x s off align size mask store k = .trap s .poolBound off :=
  (if_neg (not_not.2 (Nat.mod_eq_zero_of_dvd h))).trans (if_pos hout)

/-- A store into the constant words traps as one beyond the scratch area does (R163). -/
theorem poolChecked_constants (h : align ∣ off.toNat) (hout : poolTouches off.toNat size mask 0 0x800 = true) :
    poolChecked x s off align size mask true k = .trap s .poolBound off := by
  by_cases hbeyond : poolTouches off.toNat size mask (scratchSize (pwordOf s x.r)) (2 ^ 65) = true
  · exact poolChecked_beyond true h hbeyond
  · exact (if_neg (not_not.2 (Nat.mod_eq_zero_of_dvd h))).trans ((if_neg hbeyond).trans (if_pos (by rw [hout]; rfl)))

end

/-- The first byte of an active element below the end of the constant words, or its last beyond the scratch area (R163). -/
theorem poolTouches_of_element {off lo hi : Nat} {mask : BitVec 32} {j o : Nat} (hj : j < 32) (hactive : mask.getLsbD j = true)
    (ho : o < 4) (hlo : lo ≤ off + (4 * j + o)) (hhi : off + (4 * j + o) < hi) : poolTouches off 128 mask lo hi = true :=
  poolTouches_of_byte (by omega) (.inr (by rwa [show (4 * j + o) / 4 = j by omega])) hlo hhi

theorem coreExec_add (s : State) (d a b : BitVec 5) :
    let i : Instr := .add d a b .no
    ∃ qs k, coreExec i (ctxAt s i 0 0) (leftState s i) = withSrcs (ctxAt s i 0 0) (leftState s i) (.g a (pxOf (me s)).ea :: qs) k := by
  intro i
  change ∃ qs k, coreAdd (ctxAt s i 0 0) _ d a b .no = _
  rw [coreAdd, intOp]
  exact ⟨_, _, rfl⟩

theorem coreExec_vadd (s : State) (d a b : BitVec 5) :
    let i : Instr := .vadd d a b .no
    ∃ qs k, coreExec i (ctxAt s i 0 0) (leftState s i) = withSrcs (ctxAt s i 0 0) (leftState s i) (.v a (pxOf (me s)).ea :: qs) k := by
  intro i
  change ∃ qs k, coreVadd (ctxAt s i 0 0) _ d a b .no = _
  rw [coreVadd, vecOp]
  exact ⟨_, _, rfl⟩

/-- The number of a v register in TVAL (R354). -/
theorem vNumber_eq (a : BitVec 5) : a.setWidth 64 ||| 32 = a.setWidth 64 + (32 : Word) := by
  revert a
  decide

/-- Settles O37: the first source, or the checks of the address, decide at core 0. -/
theorem laneTraps : Obligations.LaneTraps := by
  unfold Obligations.LaneTraps
  refine ⟨fun s d a b => ⟨fun hr hcan hempty => ⟨fun hea => ?_, fun hea => ?_⟩, fun hr hcan hempty hea => ?_⟩,
    fun s d a off voff sz ord hcan => ?_⟩
  · obtain ⟨t, hnext, hframe, hhead⟩ := trapsClean0_of_coreExec hr hcan rfl
      (coreExec_empty_traps (q := .g a (pxOf (me s)).ea) (coreExec_add s d a b) hempty (if_pos hea))
    exact ⟨t, hnext, hhead, hframe⟩
  · obtain ⟨f, hissue, hcol, hinstr⟩ := stays_of_wait (sweep_still hr rfl (Nat.zero_le 1) fun k hk => absurd hk (Nat.not_lt_zero k)) (by decide)
      ⟨[], 1, coreExec_empty_waits (q := .g a (pxOf (me s)).ea) (coreExec_add s d a b) hempty
        (if_neg (Bool.eq_false_iff.1 hea))⟩
    refine ⟨_, congrArg Host.Outcome.next hissue, rfl, rfl, ?_, f, ?_, hcol, hinstr⟩
    · rw [getHead_setHead]
      obtain ⟨-, -, -, hwait, -⟩ := hr
      exact (congrArg Head.pc (headLeft_goOn (i := .add d a b .no) hwait) :)
    · rw [getHead_setHead]
  · obtain ⟨t, hnext, hframe, hhead⟩ := trapsClean0_of_coreExec hr hcan rfl
      (coreExec_empty_traps (q := .v a (pxOf (me s)).ea) (coreExec_vadd s d a b) hempty (if_pos hea))
    refine ⟨t, hnext, ?_, ?_, hframe⟩
    · rw [hhead]
      rfl
    · rw [hhead]
      exact vNumber_eq a
  · intro p n at_ vat pat active traps
    have hat : laneAddr (rdG (laneAt s 0) a) off.toNat 12 n = at_ := laneAddr_eq _ _ _
    have hvat : laneAddr (rdG (laneAt s 0) a) voff.toNat 11 128 = vat := laneAddr_eq _ _ _
    have hpat : laneAddr (rdG (laneAt s 0) a) off.toNat 12 128 = pat := laneAddr_eq _ _ _
    have ldp (cause : Cause) (h : ∀ st k, pwordOf st s.curRow = pwordOf s s.curRow →
        poolChecked (ctxAt s (.ldp d a off sz) 0 0) st at_ n n (BitVec.allOnes 32) false k = .trap st cause at_) :
        LaneRuns s (.ldp d a off sz) [.g a p.ea] → traps (.ldp d a off sz) cause at_ :=
      trapsClean0_of_srcs hcan rfl fun hsrcs => by
        change coreLdp (ctxAt s (.ldp d a off sz) 0 0) _ d a off sz = _
        rw [coreLdp]
        refine (hsrcs _).trans ?_
        rw [hat]
        exact h _ _ rfl
    have stp (cause : Cause) (h : ∀ st k, pwordOf st s.curRow = pwordOf s s.curRow →
        poolChecked (ctxAt s (.stp d a off sz) 0 0) st at_ n n (BitVec.allOnes 32) true k = .trap st cause at_) :
        LaneRuns s (.stp d a off sz) [.g a p.ea, .g d p.eb] → traps (.stp d a off sz) cause at_ :=
      trapsClean0_of_srcs hcan rfl fun hsrcs => by
        change coreStp (ctxAt s (.stp d a off sz) 0 0) _ d a off sz = _
        rw [coreStp]
        refine (hsrcs _).trans ?_
        rw [hat]
        exact h _ _ rfl
    have ldpv (cause : Cause) (h : ∀ st k, pwordOf st s.curRow = pwordOf s s.curRow →
        poolChecked (ctxAt s (.ldpv d a off) 0 0) st pat 8 128 ((rdM (laneAt s 0) p.msk).setWidth 32) false k = .trap st cause pat) :
        LaneRuns s (.ldpv d a off) ([.g a p.ea] ++ mergeSrc d p) → traps (.ldpv d a off) cause pat :=
      trapsClean0_of_srcs hcan rfl fun hsrcs => by
        change coreLdpv (ctxAt s (.ldpv d a off) 0 0) _ d a off = _
        rw [coreLdpv]
        refine (hsrcs _).trans ?_
        dsimp only
        rw [hpat]
        exact h _ _ rfl
    have stpv (cause : Cause) (h : ∀ st k, pwordOf st s.curRow = pwordOf s s.curRow →
        poolChecked (ctxAt s (.stpv d a off) 0 0) st pat 8 128 ((rdM (laneAt s 0) p.msk).setWidth 32) true k = .trap st cause pat) :
        LaneRuns s (.stpv d a off) [.g a p.ea, .v d p.eb] → traps (.stpv d a off) cause pat :=
      trapsClean0_of_srcs hcan rfl fun hsrcs => by
        change coreStpv (ctxAt s (.stpv d a off) 0 0) _ d a off = _
        rw [coreStpv]
        refine (hsrcs _).trans ?_
        dsimp only
        rw [hpat]
        exact h _ _ rfl
    have hn : 1 ≤ n ∧ n ≤ 8 := by
      cases sz <;> exact ⟨by decide, by decide⟩
    have hbit (j : Nat) (hj : j < 32) (h : (rdM (laneAt s 0) p.msk).getLsbD j = true) :
        ((rdM (laneAt s 0) p.msk).setWidth 32).getLsbD j = true := by
      rw [BitVec.getLsbD_setWidth, h, decide_eq_true hj]
      rfl
    have hbeyond {st : State} {r : Nat} (hjob : pwordOf st r = pwordOf s s.curRow) (hout : scratchSize (pwordOf s s.curRow) < at_.toNat + n) :
        poolTouches at_.toNat n (BitVec.allOnes 32) (scratchSize (pwordOf st r)) (2 ^ 65) = true :=
      poolTouches_of_byte (o := n - 1) (by omega) (.inl (by omega)) (by rw [hjob]; omega) (by have := at_.isLt; omega)
    have hbeyondV {st : State} {r j : Nat} (hjob : pwordOf st r = pwordOf s s.curRow) (hactive : active j)
        (hout : scratchSize (pwordOf s s.curRow) < pat.toNat + 4 * j + 4) :
        poolTouches pat.toNat 128 ((rdM (laneAt s 0) p.msk).setWidth 32) (scratchSize (pwordOf st r)) (2 ^ 65) = true := by
      obtain ⟨hj, hset⟩ := hactive
      exact poolTouches_of_element (o := 3) hj (hbit j hj hset) (by decide) (by rw [hjob]; omega) (by have := pat.isLt; omega)
    refine ⟨fun hmis => ⟨?_, ?_, ldp _ fun _ _ _ => poolChecked_misaligned _ hmis, stp _ fun _ _ _ => poolChecked_misaligned _ hmis⟩,
      fun hmis => ⟨?_, ?_⟩, fun hmis => ⟨ldpv _ fun _ _ _ => poolChecked_misaligned _ hmis, stpv _ fun _ _ _ => poolChecked_misaligned _ hmis⟩,
      fun hal hout => ldp _ fun st _ hjob => poolChecked_beyond _ hal ?_, fun hal hout => stp _ fun st _ hjob => ?_,
      fun hal ⟨j, hactive, hout⟩ => ldpv _ fun st _ hjob => poolChecked_beyond _ hal ?_,
      fun hal ⟨j, hactive, hout⟩ => stpv _ fun st _ hjob => ?_⟩
    · refine trapsClean0_of_srcs hcan rfl fun hsrcs => ?_
      change coreLd (ctxAt s (.ld d a off sz ord) 0 0) _ d a off sz ord = _
      rw [coreLd, loadG]
      refine (hsrcs _).trans ?_
      rw [loadOp, hat]
      exact if_pos (misaligned hmis)
    · refine trapsClean0_of_srcs hcan rfl fun hsrcs => ?_
      change coreSt (ctxAt s (.st d a off sz ord) 0 0) _ d a off sz ord = _
      rw [coreSt]
      refine (hsrcs _).trans ?_
      rw [storeOp, hat]
      exact if_pos (misaligned hmis)
    · refine trapsClean0_of_srcs hcan rfl fun hsrcs => ?_
      change coreLdv (ctxAt s (.ldv d a voff ord) 0 0) _ d a voff ord = _
      rw [coreLdv]
      refine (hsrcs _).trans ?_
      dsimp only
      rw [hvat]
      exact if_pos (misaligned hmis)
    · refine trapsClean0_of_srcs hcan rfl fun hsrcs => ?_
      change coreStv (ctxAt s (.stv d a voff ord) 0 0) _ d a voff ord = _
      rw [coreStv]
      refine (hsrcs _).trans ?_
      dsimp only
      rw [hvat]
      exact if_pos (misaligned hmis)
    · exact hbeyond hjob hout
    · obtain hlow | hhigh := hout
      · exact poolChecked_constants hal (poolTouches_of_byte (o := 0) (by omega) (.inl (by omega)) (Nat.zero_le _) hlow)
      · exact poolChecked_beyond _ hal (hbeyond hjob hhigh)
    · exact hbeyondV hjob hactive hout
    · obtain hlow | hhigh := hout
      · exact poolChecked_constants hal (poolTouches_of_element (o := 0) hactive.1 (hbit j hactive.1 hactive.2) (by decide) (Nat.zero_le _) hlow)
      · exact poolChecked_beyond _ hal (hbeyondV hjob hactive hhigh)

end Sys2Proof.Machine
end

section
/-! PROOFS. Pool loads and stores (O39). -/

namespace Sys2Proof.Machine

/-! The checks of a pool access that passes them (R163, R318). -/

/-- No byte of an access lies in a range that ends before it or begins behind it (R163). -/
theorem poolTouches_apart {off size : Nat} {mask : BitVec 32} {lo hi : Nat} (h : hi ≤ off ∨ off + size ≤ lo) :
    poolTouches off size mask lo hi = false := by
  refine List.any_eq_false.2 fun o ho => ?_
  have ho := List.mem_range.1 ho
  simp only [Bool.and_eq_true, decide_eq_true_eq, not_and]
  intros
  omega

theorem poolChecked_passes {x : Ctx} {s : State} {off : Word} {align size : Nat} {mask : BitVec 32} {store : Bool} {k : Nat → CoreOut}
    (hal : align ∣ off.toNat) (hend : off.toNat + size ≤ scratchSize (pwordOf s x.r)) (hstart : store = true → 0x800 ≤ off.toNat)
    (hacq : acqPending s x.r x.c x.sl = false) : poolChecked x s off align size mask store k = k off.toNat := by
  have hconst : (store && poolTouches off.toNat size mask 0 0x800) = false := by
    cases store
    · rfl
    · rw [poolTouches_apart (.inl (hstart rfl))]
      rfl
  unfold poolChecked
  dsimp only
  rw [if_neg (not_not.2 (Nat.mod_eq_zero_of_dvd hal)), poolTouches_apart (.inr hend), hconst, hacq]
  rfl

theorem Reaches.acqPending {s st : State} {c : Nat} (ha : Reaches s st c) (hc : c < 16) (hslot : s.curSlot < 8) (hreqs : st.reqs = s.reqs) :
    acqPending st s.curRow c s.curSlot = acqPending s s.curRow c s.curSlot := by
  have hlane : getLane st s.curRow c s.curSlot = getLane s s.curRow c s.curSlot := ha.lanes c hc le_rfl _ hslot
  rw [Machine.acqPending, Machine.acqPending, hlane, hreqs]

theorem poolReadBad_none {k : Core} (h : k.poolPoison = []) (o n : Nat) (mask : BitVec 32) : poolReadBad k o n mask = none :=
  if_pos (by rw [h]; rfl)

/-! What a pool access leaves besides the pool: stamps (R323). -/

/-- A read of a pool leaves a strand with another stamp at most. -/
theorem notePoolRead_eq (s : State) (r c sl : Nat) (ws : List Nat) :
    notePoolRead s r c sl ws = s ∨ ∃ st, notePoolRead s r c sl ws = setLane s r c sl { getLane s r c sl with stamp := st } := by
  unfold notePoolRead
  dsimp only
  split
  · exact .inl rfl
  · exact .inr ⟨_, rfl⟩

/-- A lane written after a read of the pool. -/
theorem setLane_notePoolRead (s : State) (r c sl : Nat) (ws : List Nat) (f : Lane → Lane) :
    ∃ st, setLane (notePoolRead s r c sl ws) r c sl (f (getLane (notePoolRead s r c sl ws) r c sl)) =
      setLane s r c sl (f { getLane s r c sl with stamp := st }) := by
  obtain h | ⟨st, h⟩ := notePoolRead_eq s r c sl ws
  · exact ⟨(getLane s r c sl).stamp, by rw [h]⟩
  · exact ⟨st, by rw [h, getLane_setLane, setLane_setLane]⟩

/-- A stamp that is left changes the stamps of memory alone. -/
theorem leaveStamp_eq (s : State) (ws : List Nat) (v : Vector Nat 4) : ∃ m, leaveStamp s ws v = { s with memStamp := m } := by
  unfold leaveStamp
  split
  · split
    · exact ⟨s.memStamp, rfl⟩
    · exact ⟨_, rfl⟩
  · exact ⟨_, rfl⟩

/-- A core that writes its pool: the lanes stay, and the core's pool is what the write makes of it. -/
theorem columnStep_poolWrite {s st : State} {c : Nat} (f : Core → Core) (ws : List Nat)
    (hquiet : (getLane st s.curRow c s.curSlot).events = []) :
    let t := notePoolWrite (modCore st (coreIx s.curRow c) f) s.curRow c s.curSlot ws
    ColumnStep s st t c ∧ t.lanes = st.lanes ∧ getCore t (coreIx s.curRow c) = f (getCore st (coreIx s.curRow c)) := by
  intro t
  obtain ⟨m, hm⟩ : ∃ m, t = { modCore st (coreIx s.curRow c) f with memStamp := m } := leaveStamp_eq _ _ _
  rw [hm]
  refine ⟨⟨rfl, fun _ _ _ _ _ _ => rfl, fun k hk => ?_, hquiet⟩, rfl, ?_⟩
  · exact getCore_modCore_ne st f hk
  · exact getCore_modCore st _ f

/-! The bytes of a vector store (R163). -/

/-- The memory with the active ones of the first n elements of a vector written. -/
def poolElems (m : List Host.Cell) (o : Nat) (mask : BitVec 32) (v : Vec) (n : Nat) : List Host.Cell :=
  (List.range n).foldl (fun m j => if mask.getLsbD j then memWrN m (o + 4 * j) 4 (elem v 32 j) else m) m

theorem poolElems_succ (m : List Host.Cell) (o : Nat) (mask : BitVec 32) (v : Vec) (n : Nat) : poolElems m o mask v (n + 1) =
    if mask.getLsbD n then memWrN (poolElems m o mask v n) (o + 4 * n) 4 (elem v 32 n) else poolElems m o mask v n := by
  rw [poolElems, List.range_succ, List.foldl_append]
  rfl

theorem poolWrV_pool (k : Core) (o : Nat) (mask : BitVec 32) (v : Vec) : (poolWrV k o mask v).pool = poolElems k.pool o mask v 32 := by
  suffices h : ∀ (l : List Nat) (k : Core), (l.foldl (fun k j =>
      if mask.getLsbD j then { k with pool := memWrN k.pool (o + 4 * j) 4 (elem v 32 j) } else k) k).pool =
      l.foldl (fun m j => if mask.getLsbD j then memWrN m (o + 4 * j) 4 (elem v 32 j) else m) k.pool from h _ k
  intro l
  induction l with
  | nil => exact fun _ => rfl
  | cons j l ih =>
    intro k
    rw [List.foldl_cons, List.foldl_cons, ih]
    split <;> rfl

/-- The bytes that a vector store leaves: those of the active elements are written, the others stay. -/
theorem memRd_poolElems (m : List Host.Cell) (o : Nat) (mask : BitVec 32) (v : Vec) (n x : Nat) : memRd (poolElems m o mask v n) x =
    if o ≤ x ∧ x < o + 4 * n ∧ mask.getLsbD ((x - o) / 4) = true then BitVec.ofNat 8 (v.toNat / 2 ^ (8 * (x - o))) else memRd m x := by
  induction n with
  | zero => rw [if_neg (by omega)]; rfl
  | succ n ih =>
    rw [poolElems_succ]
    by_cases hin : o + 4 * n ≤ x ∧ x < o + 4 * n + 4
    · have hquot : (x - o) / 4 = n := by omega
      by_cases hactive : mask.getLsbD n = true
      · have helem : elem v 32 n = v.toNat / 2 ^ (32 * n) % 2 ^ (8 * 4) := rfl
        rw [if_pos hactive, helem, memRd_memWrN_truncated, if_pos hin, if_pos ⟨by omega, by omega, by rwa [hquot]⟩, Nat.div_div_eq_div_mul,
          ← Nat.pow_add, show 32 * n + 8 * (x - (o + 4 * n)) = 8 * (x - o) by omega]
      · rw [if_neg hactive, ih, if_neg (by omega), if_neg (by rw [hquot]; exact fun h => hactive h.2.2)]
    · have hrest : memRd (if mask.getLsbD n then memWrN (poolElems m o mask v n) (o + 4 * n) 4 (elem v 32 n) else poolElems m o mask v n) x =
          memRd (poolElems m o mask v n) x := by
        split
        · exact memRd_memWrN_out _ _ _ _ _ (by omega)
        · rfl
      rw [hrest, ih]
      refine if_congr ⟨fun h => ⟨h.1, by omega, h.2.2⟩, fun h => ⟨h.1, by omega, h.2.2⟩⟩ rfl rfl

/-! The instructions. -/

/-- A store that every core does to its pool: the lanes and memory stay, and each pool is what the core's write makes of it. -/
theorem poolStore_completes {s : State} {i : Instr} {f : Nat → Core → Core} {ws : Nat → List Nat} {new : Nat → Nat → Option Byte}
    (hr : LaneReady s i) (hexec : exec i s = .next (issueLane i s)) (hwest : westReg i = none) (hcycles : vecCycles i ≤ 1)
    (hcore : ∀ c < 16, ∀ st, Reaches s st c → st.reqs = s.reqs → coreExec i (ctxAt s i c 0) st =
      .done (notePoolWrite (modCore st (coreIx s.curRow c) (f c)) s.curRow c s.curSlot (ws c)))
    (hnew : ∀ c < 16, ∀ x, memRd (f c (coreAt s c)).pool x = (new c x).getD (memRd (coreAt s c).pool x)) :
    Completes (exec i s) fun t => t.mem = s.mem ∧ getHead t s.curRow s.curSlot = goOn (me s) ∧ t.lanes = s.lanes ∧
      ∀ c < 16, ∀ x, memRd (coreAt t c).pool x = (new c x).getD (memRd (coreAt s c).pool x) := by
  obtain ⟨st, hswept, ⟨hlanes, -⟩, hcores, hissue⟩ := sweeps hr hwest hcycles
    (inv := fun st => st.lanes = s.lanes ∧ st.reqs = s.reqs) (q := fun k st => getCore st (coreIx s.curRow k) = f k (coreAt s k))
    ⟨rfl, rfl⟩ fun c hc st _ ha ⟨hlanes, hreqs⟩ => by
      obtain ⟨hcolumn, hlanes', hcore'⟩ := columnStep_poolWrite (f c) (ws c) (ha.quiet c hc)
      refine ⟨_, hcore c hc st ha hreqs, hcolumn, ⟨hlanes'.trans hlanes, ?_⟩, ?_, fun k hk hkept => ?_⟩
      · obtain ⟨m, hm⟩ := leaveStamp_eq (modCore st (coreIx s.curRow c) (f c)) (ws c)
          (getLane (modCore st (coreIx s.curRow c) (f c)) s.curRow c s.curSlot).stamp
        rw [notePoolWrite, hm]
        exact hreqs
      · rw [hcore', ha.cores c hc le_rfl]
      · rw [hcolumn.cores _ (by unfold coreIx; omega)]
        exact hkept
  refine ⟨_, hexec.trans (congrArg Host.Outcome.next hissue), ?_, getHead_setHead _ _ _ _, hlanes, fun c hc x => ?_⟩
  · rw [hswept.frame]
    rfl
  · have hcore' : coreAt (setHead st s.curRow s.curSlot (goOn (me s))) c = f c (coreAt s c) := by
      have hrow : (setHead st s.curRow s.curSlot (goOn (me s))).curRow = s.curRow := by
        rw [hswept.frame]
        rfl
      rw [coreAt, hrow]
      exact hcores c hc
    rw [hcore', hnew c hc]

/-- A read of the pool at every core that writes the lane from what stands there, and may change the lane's stamp. -/
theorem poolLoad_rel {s : State} {i : Instr} {f : Nat → Lane → Lane} {ws : Nat → List Nat} (hr : LaneReady s i) (hwest : westReg i = none)
    (hcycles : vecCycles i ≤ 1) (hevents : ∀ c l, (f c l).events = l.events)
    (hcore : ∀ c < 16, ∀ st, Reaches s st c → st.reqs = s.reqs →
      let t := notePoolRead st s.curRow c s.curSlot (ws c)
      coreExec i (ctxAt s i c 0) st = .done (setLane t s.curRow c s.curSlot (f c (getLane t s.curRow c s.curSlot)))) :
    LaneRel s (issueLane i s) fun c l l' => ∃ st, l' = f c { l with stamp := st } :=
  laneRel_of_columns hr hwest hcycles fun c hc st ha honly => by
    have hl : getLane st s.curRow c s.curSlot = laneAt s c := ha.lanes c hc le_rfl _ hr.slot
    obtain ⟨stamp, hset⟩ := setLane_notePoolRead st s.curRow c s.curSlot (ws c) (f c)
    refine ⟨_, (hcore c hc st ha (by rw [honly])).trans (congrArg CoreOut.done hset), honly.setLane _ _ _ _, columnStep_setLane hc hr.slot ?_,
      stamp, ?_⟩
    · rw [hevents, hl]
      exact hr.events hc
    · rw [getLane_setLane, hl]

theorem wrG_withStamp (l : Lane) (d : BitVec 5) (v : Word) (st : Vector Nat 4) :
    wrG { l with stamp := st } d v = { wrG l d v with stamp := st } := by
  unfold wrG
  split <;> rfl

/-- What LDPV writes to vd from a core's pool (R163). -/
def poolVec (k : Core) (o : Nat) (mask : BitVec 32) (base : Vec) : Vec :=
  ofElems 32 ((upTo 32).map fun j => if mask.getLsbD j then poolRdN k (o + 4 * j) 4 else elem base 32 j)

theorem elem_poolVec (k : Core) (o : Nat) (mask : BitVec 32) (base : Vec) {j : Nat} (hj : j < 32) :
    elem (poolVec k o mask base) 32 j = if mask.getLsbD j then memRdN k.pool (o + 4 * j) 4 else elem base 32 j := by
  have hlen : ((upTo 32).map fun j => if mask.getLsbD j then poolRdN k (o + 4 * j) 4 else elem base 32 j).length = 32 := by
    rw [List.length_map, upTo, List.length_range]
  have hget : ((upTo 32).map fun j => if mask.getLsbD j then poolRdN k (o + 4 * j) 4 else elem base 32 j).getD j 0 =
      if mask.getLsbD j then memRdN k.pool (o + 4 * j) 4 else elem base 32 j := by
    rw [List.getD_eq_getElem _ _ (by omega), List.getElem_map]
    simp [upTo, poolRdN]
  rw [poolVec, elem_ofElems (by omega), hget, Nat.mod_eq_of_lt]
  split
  · exact memRdN_lt _ 4 _
  · exact elem_lt _ _ _

theorem elem_zero (n j : Nat) : elem 0 n j = 0 := by
  simp [elem, vbits]

theorem putV_sound {x : Ctx} {s : State} (hpool : (getCore s x.core).poolPoison = []) (d : BitVec 5) (v : Vec) :
    putV x s d v = x.set s (wrV (x.lane s) d v) :=
  if_pos (by rw [show getCore (x.set s (wrV (x.lane s) d v)) x.core = getCore s x.core from rfl, hpool]; rfl)

theorem getCore_notePoolRead (s : State) (r c sl : Nat) (ws : List Nat) (k : Nat) : getCore (notePoolRead s r c sl ws) k = getCore s k := by
  obtain h | ⟨st, h⟩ := notePoolRead_eq s r c sl ws
  · rw [h]
  · rw [h]
    rfl

/-- Settles O39: each access passes the checks, and is a read of the core's pool or a write to it. -/
theorem poolMemory : Obligations.PoolMemory := by
  unfold Obligations.PoolMemory
  intro s d a off sz hacq p n size at_ vat mask stores
  have hat (c : Nat) : laneAddr (rdG (laneAt s c) a) off.toNat 12 n = rdG (laneAt s c) a + BitVec.ofInt 64 (off.toInt * n) := laneAddr_eq _ _ _
  have hvat (c : Nat) : laneAddr (rdG (laneAt s c) a) off.toNat 12 128 = rdG (laneAt s c) a + BitVec.ofInt 64 (off.toInt * 128) :=
    laneAddr_eq _ _ _
  have hfits {i : Instr} {st : State} {c o m : Nat} (ha : Reaches s st c) (hend : o + m ≤ size) :
      o + m ≤ scratchSize (pwordOf st (ctxAt s i c 0).r) := by
    rw [show (ctxAt s i c 0).r = s.curRow from rfl, ha.job]
    exact hend
  have hfree {i : Instr} {st : State} {c : Nat} (hc : c < 16) (hr : LaneReady s i) (ha : Reaches s st c) (hreqs : st.reqs = s.reqs) :
      acqPending st (ctxAt s i c 0).r (ctxAt s i c 0).c (ctxAt s i c 0).sl = false :=
    (ha.acqPending hc hr.slot hreqs).trans (hacq c hc)
  have hcores {i : Instr} {st : State} {c : Nat} (hc : c < 16) (ha : Reaches s st c) : getCore st (ctxAt s i c 0).core = coreAt s c :=
    ha.cores c hc le_rfl
  refine ⟨fun ⟨hr, hsrcs⟩ hpool => ?ldp, fun hpool ⟨hr, hsrcs⟩ => ?stp, fun ⟨⟨hr, hsrcs⟩, hpoison⟩ hpool => ?ldpv, fun hpool ⟨hr, hsrcs⟩ => ?stpv⟩
  case ldp =>
    obtain ⟨honly, hhead, hrel⟩ := poolLoad_rel (i := .ldp d a off sz)
      (f := fun c l => wrG l d (BitVec.ofNat 64 (memRdN (coreAt s c).pool (at_ c) n))) (ws := fun c => poolWords (coreIx s.curRow c) (at_ c) n)
      hr rfl (Nat.zero_le 1) (fun _ _ => wrG_events _ _ _) fun c hc st ha hreqs => by
        obtain ⟨hpoison, hal, hend⟩ := hpool c hc
        change coreLdp (ctxAt s (.ldp d a off sz) c 0) _ d a off sz = _
        rw [coreLdp]
        refine (ha.withSrcs hc hr.slot (hsrcs c hc) _ _ _).trans ?_
        rw [hat, poolChecked_passes hal (hfits ha hend) (fun h => by cases h) (hfree hc hr ha hreqs)]
        dsimp only
        rw [hcores hc ha, poolReadBad_none hpoison]
        rfl
    refine ⟨_, rfl, honly, hhead, fun c hc => ?_⟩
    obtain ⟨stamp, hstamp⟩ := hrel c hc
    exact ⟨stamp, hstamp.trans (wrG_withStamp _ _ _ _)⟩
  case stp =>
    refine poolStore_completes (f := fun c k => poolWrN k (at_ c) n (rdG (laneAt s c) d).toNat) (ws := fun c => poolWords (coreIx s.curRow c) (at_ c) n)
      hr rfl rfl (Nat.zero_le 1) (fun c hc st ha hreqs => ?_) fun c hc x => ?_
    · obtain ⟨hal, hstart, hend⟩ := hpool c hc
      change coreStp (ctxAt s (.stp d a off sz) c 0) _ d a off sz = _
      rw [coreStp]
      refine (ha.withSrcs hc hr.slot (hsrcs c hc) _ _ _).trans ?_
      rw [hat, poolChecked_passes hal (hfits ha hend) (fun _ => hstart) (hfree hc hr ha hreqs)]
      rfl
    · rw [poolWrN]
      dsimp only
      by_cases hin : at_ c ≤ x ∧ x < at_ c + n
      · rw [if_pos hin, memRd_memWrN_in _ _ _ _ _ hin.1 hin.2]
        rfl
      · rw [if_neg hin, memRd_memWrN_out _ _ _ _ _ (by omega)]
        rfl
  case ldpv =>
    obtain ⟨honly, hhead, hrel⟩ := poolLoad_rel (i := .ldpv d a off)
      (f := fun c l => wrV l d (poolVec (coreAt s c) (vat c) (mask c) (if p.mz then 0 else rdV (laneAt s c) d)))
      (ws := fun c => poolVWords (coreIx s.curRow c) (vat c) (mask c)) hr rfl (Nat.zero_le 1) (fun _ _ => rfl) fun c hc st ha hreqs => by
        obtain ⟨hal, hend⟩ := hpool c hc
        change coreLdpv (ctxAt s (.ldpv d a off) c 0) _ d a off = _
        rw [coreLdpv]
        refine (ha.withSrcs hc hr.slot (hsrcs c hc) _ _ _).trans ?_
        dsimp only
        rw [hvat, poolChecked_passes hal (hfits ha hend) (fun h => by cases h) (hfree hc hr ha hreqs), hcores hc ha,
          poolReadBad_none (hpoison c hc)]
        dsimp only
        rw [putV_sound (by rw [getCore_notePoolRead, hcores hc ha, hpoison c hc])]
        rfl
    refine ⟨_, rfl, honly, hhead, fun c hc => ?_⟩
    obtain ⟨stamp, hstamp⟩ := hrel c hc
    refine ⟨_, stamp, hstamp, fun j hj => ?_⟩
    rw [elem_poolVec _ _ _ _ hj]
    split
    · rfl
    · split
      · exact elem_zero _ _
      · rfl
  case stpv =>
    refine poolStore_completes (f := fun c k => poolWrV k (vat c) (mask c) (rdV (laneAt s c) d))
      (ws := fun c => poolVWords (coreIx s.curRow c) (vat c) (mask c)) hr rfl rfl (Nat.zero_le 1) (fun c hc st ha hreqs => ?_) fun c hc x => ?_
    · obtain ⟨hal, hstart, hend⟩ := hpool c hc
      change coreStpv (ctxAt s (.stpv d a off) c 0) _ d a off = _
      rw [coreStpv]
      refine (ha.withSrcs hc hr.slot (hsrcs c hc) _ _ _).trans ?_
      dsimp only
      rw [hvat, poolChecked_passes hal (hfits ha hend) (fun _ => hstart) (hfree hc hr ha hreqs)]
      rfl
    · rw [poolWrV_pool, memRd_poolElems]
      split <;> rfl

end Sys2Proof.Machine
end

section
/-! PROOFS. Fences, drains and barriers (O40). -/

namespace Sys2Proof.Machine

/-- An instruction that leaves every core as it is goes through the row. -/
theorem completes_still {s : State} {i : Instr} (hr : LaneReady s i) (hexec : exec i s = .next (issueLane i s)) (hwest : westReg i = none)
    (hcycles : vecCycles i ≤ 1) (hstill : ∀ c < 16, coreExec i (ctxAt s i c 0) (leftState s i) = .done (leftState s i)) :
    exec i s = .next (setMe s (goOn (me s))) := by
  obtain ⟨st, hst, hissue⟩ := (sweep_still hr hwest hcycles hstill).over
  rw [hexec, hissue, hst, leftState, getHead_setHead, setHead_setHead, headLeft_over hr]
  rfl

/-- An instruction that leaves the cores before one as they are and waits there. -/
theorem waits_still {s : State} {i : Instr} {c : Nat} (hc : c < 16) (hr : LaneReady s i) (hexec : exec i s = .next (issueLane i s))
    (hwest : westReg i = none) (hcycles : vecCycles i ≤ 1)
    (hstill : ∀ k < c, coreExec i (ctxAt s i k 0) (leftState s i) = .done (leftState s i))
    (hwait : ∃ begun why, coreExec i (ctxAt s i c 0) (leftState s i) = .wait (leftState s i) begun why) :
    Completes (exec i s) fun t => t.reqs = s.reqs ∧ t.mem = s.mem ∧ t.lanes = s.lanes ∧
      ∃ f, (getHead t s.curRow s.curSlot).flights = [f] ∧ f.col = c ∧ f.instr = i := by
  obtain ⟨f, hissue, hcol, hinstr⟩ := stays_of_wait (sweep_still hr hwest hcycles hstill) hc hwait
  refine ⟨_, hexec.trans (congrArg Host.Outcome.next hissue), rfl, rfl, rfl, f, ?_, hcol, hinstr⟩
  rw [getHead_setHead]

/-! FENCE and DRAINST (R176, R177). -/

/-- A request of the strand at a column. -/
def standsHere (s : State) (q : Req) (c : Nat) : Prop := q.row = s.curRow ∧ q.strand = s.curSlot ∧ q.col = c

/-- A core where a transfer of the strand has its row still to read (R254). -/
def unreadAt (s : State) (c : Nat) : Prop := ∃ x ∈ (coreAt s c).transfers, x.strand = s.curSlot ∧ x.data = none

/-- What FENCE waits for at a core: a request that no release of task level is left aside for, one of device scope unless it is a write. -/
def FenceHeld (s : State) (q : Req) : Prop :=
  setAside s (me s).handler q = false ∧ plainKind q.kind = true ∧
    (isWriteKind q.kind = false ∨ scopeOf (pxOf (me s)).c = .sys ∨ q.segs = [] ∨ ∃ u ∈ q.segs, regionOf u.1 = .cellar)

theorem fenceWaits_of_request {s : State} {c : Nat} {q : Req} (hq : q ∈ s.reqs) (hhere : standsHere s q c) (hheld : FenceHeld s q) :
    fenceWaits (ctxAt s .fence c 0) (leftState s .fence) (scopeOf (pxOf (me s)).c) = true := by
  obtain ⟨hrow, hstrand, hcol⟩ := hhere
  obtain ⟨haside, hplain, hkind⟩ := hheld
  have haside' : setAside (leftState s .fence) (ctxAt s .fence c 0).f.handler q = false := haside
  rw [fenceWaits, Bool.or_eq_true]
  refine .inr (List.any_eq_true.2 ⟨q, hq, ?_⟩)
  rw [haside', hplain]
  obtain h | h | h | ⟨u, hu, h⟩ := hkind
  · simp [ctxAt, hrow, hstrand, hcol, h]
  · simp [ctxAt, hrow, hstrand, hcol, h]
  · simp [ctxAt, hrow, hstrand, hcol, h]
  · have hany : (q.segs.any fun u => regionOf u.1 == .cellar) = true := List.any_eq_true.2 ⟨u, hu, by rw [h]; rfl⟩
    simp [ctxAt, hrow, hstrand, hcol, hany]

theorem rowsUnread_nil {s : State} {c : Nat} (h : ¬ unreadAt s c) (id : Nat) : rowsUnread (leftState s .fence) s.curRow c s.curSlot id = [] := by
  refine List.map_eq_nil_iff.2 (List.filter_eq_nil_iff.2 fun t ht htrue => h ⟨t, ht, ?_⟩)
  simp only [Bool.and_eq_true, beq_iff_eq, decide_eq_true_eq, Option.isNone_iff_eq_none] at htrue
  exact ⟨htrue.1.1, htrue.2⟩

theorem fence_passes {s : State} {c : Nat} (hreqs : ∀ q ∈ s.reqs, standsHere s q c → setAside s (me s).handler q = true)
    (hunread : ¬ unreadAt s c) : coreExec .fence (ctxAt s .fence c 0) (leftState s .fence) = .done (leftState s .fence) := by
  refine if_neg ?_
  rw [Bool.not_eq_true, fenceWaits, Bool.or_eq_false_iff]
  refine ⟨?_, List.any_eq_false.2 fun q hq => ?_⟩
  · rw [show rowsUnread _ (ctxAt s .fence c 0).r (ctxAt s .fence c 0).c (ctxAt s .fence c 0).sl _ = [] from rowsUnread_nil hunread _]
    rfl
  · by_cases hhere : standsHere s q c
    · have haside : setAside (leftState s .fence) (ctxAt s .fence c 0).f.handler q = true := hreqs q hq hhere
      rw [haside, Bool.not_true, Bool.and_false, Bool.false_and]
      decide
    · intro htrue
      simp only [Bool.and_eq_true, beq_iff_eq] at htrue
      exact hhere ⟨htrue.1.1.1.1.1, htrue.1.1.1.2, htrue.1.1.1.1.2⟩

/-- A store or reduction that DRAINST waits for at a core. -/
def DrainHeld (s : State) (q : Req) : Prop := setAside s (me s).handler q = false ∧ (q.kind = .store ∨ q.kind = .red)

theorem drain_iff {s : State} {c : Nat} {q : Req} :
    (q.row == (ctxAt s .drainst c 0).r && q.col == (ctxAt s .drainst c 0).c && q.strand == (ctxAt s .drainst c 0).sl &&
      (q.kind == .store || q.kind == .red) && !setAside (leftState s .drainst) (ctxAt s .drainst c 0).f.handler q) = true ↔
    standsHere s q c ∧ DrainHeld s q := by
  have haside : setAside (leftState s .drainst) (ctxAt s .drainst c 0).f.handler q = setAside s (me s).handler q := rfl
  rw [haside]
  simp only [ctxAt, standsHere, DrainHeld, Bool.and_eq_true, Bool.or_eq_true, beq_iff_eq, Bool.not_eq_true']
  tauto

theorem drainst_passes {s : State} {c : Nat} (h : ∀ q ∈ s.reqs, standsHere s q c → ¬ DrainHeld s q) :
    coreExec .drainst (ctxAt s .drainst c 0) (leftState s .drainst) = .done (leftState s .drainst) :=
  if_neg fun htrue => by
    obtain ⟨q, hq, hheld⟩ := List.any_eq_true.1 htrue
    obtain ⟨hhere, hheld⟩ := drain_iff.1 hheld
    exact h q hq hhere hheld

theorem drainst_waits {s : State} {c : Nat} {q : Req} (hq : q ∈ s.reqs) (hhere : standsHere s q c) (hheld : DrainHeld s q) :
    coreExec .drainst (ctxAt s .drainst c 0) (leftState s .drainst) = .wait (leftState s .drainst) [] 19 :=
  if_pos (List.any_eq_true.2 ⟨q, hq, drain_iff.2 ⟨hhere, hheld⟩⟩)

/-! Barriers (R178 to R180). -/

theorem find?_tput_same {α : Type} (t : Tbl α) (k : Nat) (x : α) : (tput t k x).find? (fun p => p.1 == k) = some (k, x) := by
  induction t with
  | nil => simp [tput]
  | cons p t ih =>
    obtain ⟨j, y⟩ := p
    unfold tput
    split
    · simp
    · split
      · simp
      · next hne => rw [List.find?_cons_of_neg (by simpa using hne), ih]

/-- The barrier n of a core. -/
def barAt (s : State) (c : Nat) (n : BitVec 5) : Barrier := (coreAt s c).bars[n.toNat]

/-- What a barrier instruction leaves alone at a core: registers, the pool and the other barriers. -/
structure BarKept (s t : State) (n : BitVec 5) (c : Nat) : Prop where
  g : (getLane t s.curRow c s.curSlot).g = (laneAt s c).g
  v : (getLane t s.curRow c s.curSlot).v = (laneAt s c).v
  pool : (getCore t (coreIx s.curRow c)).pool = (coreAt s c).pool
  bars : ∀ k : Fin 32, k.val ≠ n.toNat → (getCore t (coreIx s.curRow c)).bars[k] = (coreAt s c).bars[k]

/-- A barrier instruction that every core does: what it leaves at a core is said of the strand's lane and the barrier there, and of all
lanes by a property that each core keeps. -/
theorem barriers_complete {s : State} {i : Instr} {n : BitVec 5} {result : Nat → Lane → Barrier → Prop} {all : Tbl Lane → Prop}
    (hr : LaneReady s i) (hexec : exec i s = .next (issueLane i s)) (hwest : westReg i = none) (hcycles : vecCycles i ≤ 1)
    (hstart : all s.lanes)
    (hcore : ∀ c < 16, ∀ st, Reaches s st c → st.reqs = s.reqs → all st.lanes → ∃ t, coreExec i (ctxAt s i c 0) st = .done t ∧
      ColumnStep s st t c ∧ t.reqs = st.reqs ∧ all t.lanes ∧ BarKept s t n c ∧
      result c (getLane t s.curRow c s.curSlot) (barOf (getCore t (coreIx s.curRow c)) n)) :
    Completes (exec i s) fun t => (t.mem = s.mem ∧ t.reqs = s.reqs ∧ getHead t s.curRow s.curSlot = goOn (me s) ∧
      ∀ c < 16, (getLane t s.curRow c s.curSlot).g = (laneAt s c).g ∧ (getLane t s.curRow c s.curSlot).v = (laneAt s c).v ∧
        (coreAt t c).pool = (coreAt s c).pool ∧ ∀ k : Fin 32, k.val ≠ n.toNat → (coreAt t c).bars[k] = (coreAt s c).bars[k]) ∧
      all t.lanes ∧ ∀ c < 16, result c (getLane t s.curRow c s.curSlot) (barAt t c n) := by
  obtain ⟨st, hswept, ⟨hreqs, hall⟩, hq, hissue⟩ := sweeps hr hwest hcycles
    (inv := fun st => st.reqs = s.reqs ∧ all st.lanes)
    (q := fun c st => BarKept s st n c ∧ result c (getLane st s.curRow c s.curSlot) (barOf (getCore st (coreIx s.curRow c)) n))
    ⟨rfl, hstart⟩ fun c hc st _ ha ⟨hreqs, hall⟩ => by
      obtain ⟨t, hdone, hcolumn, hreqs', hall', hkept, hresult⟩ := hcore c hc st ha hreqs hall
      refine ⟨t, hdone, hcolumn, ⟨hreqs'.trans hreqs, hall'⟩, ⟨hkept, hresult⟩, fun k hk ⟨hkept, hresult⟩ => ?_⟩
      have hl := hcolumn.lanes s.curRow k s.curSlot (by omega) hr.slot (by omega)
      have hk := hcolumn.cores (coreIx s.curRow k) (by unfold coreIx; omega)
      obtain ⟨hg, hv, hpool, hbars⟩ := hkept
      rw [← hl] at hg hv hresult
      rw [← hk] at hpool hresult
      simp only [← hk] at hbars
      exact ⟨⟨hg, hv, hpool, hbars⟩, hresult⟩
  have hrow : (setHead st s.curRow s.curSlot (goOn (me s))).curRow = s.curRow := by
    rw [hswept.frame]
    rfl
  have hcores (c : Nat) : coreAt (setHead st s.curRow s.curSlot (goOn (me s))) c = getCore st (coreIx s.curRow c) := by
    rw [coreAt, hrow]
    rfl
  refine ⟨_, hexec.trans (congrArg Host.Outcome.next hissue), ⟨?_, hreqs, getHead_setHead _ _ _ _, fun c hc => ?_⟩, hall, fun c hc => ?_⟩
  · rw [hswept.frame]
    rfl
  · obtain ⟨⟨hg, hv, hpool, hbars⟩, -⟩ := hq c hc
    rw [hcores]
    exact ⟨hg, hv, hpool, hbars⟩
  · rw [barAt, hcores]
    exact (hq c hc).2

/-- A core with one barrier set. -/
def setBar (n : BitVec 5) (b : Barrier) (k : Core) : Core := { k with bars := k.bars.set n.toNat b }

theorem barOf_setBar (n : BitVec 5) (b : Barrier) (k : Core) : barOf (setBar n b k) n = b := Vector.getElem_set_self _

theorem setBar_other {n : BitVec 5} {b : Barrier} {k : Core} {j : Fin 32} (hj : j.val ≠ n.toNat) : (setBar n b k).bars[j] = k.bars[j] :=
  Vector.getElem_set_ne n.isLt j.isLt hj.symm

section
variable {s st : State} {n : BitVec 5} {c : Nat} (hc : c < 16) (ha : Reaches s st c)
include hc ha

/-- A core that changes nothing but the strand's lane and one barrier, registers aside. -/
theorem barStep_set (hslot : s.curSlot < 8) {l : Lane} (hg : l.g = (laneAt s c).g) (hv : l.v = (laneAt s c).v) (hevents : l.events = [])
    (b : Barrier) :
    let t := modCore (setLane st s.curRow c s.curSlot l) (coreIx s.curRow c) (setBar n b)
    ColumnStep s st t c ∧ BarKept s t n c ∧ getLane t s.curRow c s.curSlot = l ∧ barOf (getCore t (coreIx s.curRow c)) n = b := by
  intro t
  have hlane : getLane t s.curRow c s.curSlot = l := getLane_setLane _ _ _ _ _
  have hcore : getCore t (coreIx s.curRow c) = setBar n b (coreAt s c) := by
    rw [getCore_modCore]
    exact congrArg (setBar n b) (ha.cores c hc le_rfl)
  refine ⟨⟨rfl, fun r k sl hk hsl hne => getLane_setLane_ne _ _ (lane_ne hc hk hslot hsl hne), fun k hk => getCore_modCore_ne _ _ hk, ?_⟩,
    ⟨?_, ?_, ?_, fun k hk => ?_⟩, hlane, ?_⟩
  · rw [hlane, hevents]
  · rw [hlane, hg]
  · rw [hlane, hv]
  · rw [hcore]
    rfl
  · rw [hcore, setBar_other hk]
  · rw [hcore, barOf_setBar]

/-- A core that changes the strand's lane alone, registers aside. -/
theorem barStep_lane (hslot : s.curSlot < 8) {l : Lane} (hg : l.g = (laneAt s c).g) (hv : l.v = (laneAt s c).v) (hevents : l.events = []) :
    let t := setLane st s.curRow c s.curSlot l
    ColumnStep s st t c ∧ BarKept s t n c ∧ getLane t s.curRow c s.curSlot = l ∧ barOf (getCore t (coreIx s.curRow c)) n = barAt s c n := by
  intro t
  have hlane : getLane t s.curRow c s.curSlot = l := getLane_setLane _ _ _ _ _
  have hcore : getCore t (coreIx s.curRow c) = coreAt s c := ha.cores c hc le_rfl
  refine ⟨columnStep_setLane hc hslot hevents, ⟨?_, ?_, ?_, fun k _ => ?_⟩, hlane, ?_⟩
  · rw [hlane, hg]
  · rw [hlane, hv]
  · rw [hcore]
  · rw [hcore]
  · rw [hcore]
    rfl

end

/-- The count, tally and generation after an arrival that counts (R178). -/
def Arrived (b b' : Barrier) : Prop := b'.count = b.count ∧ (b.tally + 1 < b.count → b'.tally = b.tally + 1 ∧ b'.gen = b.gen) ∧
  (b.count ≤ b.tally + 1 → b'.tally = 0 ∧ b'.gen = b.gen + 1)

theorem arrived_barComplete (b : Barrier) (p : List (Nat × Nat)) : Arrived b (barComplete { b with tally := b.tally + 1, pend := p }) := by
  unfold barComplete
  refine ⟨?_, fun h => ?_, fun h => ?_⟩
  · split <;> rfl
  · rw [if_neg (by simpa using h)]
    exact ⟨rfl, rfl⟩
  · rw [if_pos h]
    exact ⟨rfl, rfl⟩

/-- The strand's lane with an arrival recorded. -/
def withArrival (l : Lane) (n : BitVec 5) (a : Arrival) : Lane := { l with arrivals := tput l.arrivals n.toNat a }

/-- An arrival at a barrier that the strand has no record of is recorded, and counts (R178). -/
theorem barArrive_first {x : Ctx} {s : State} {n : BitVec 5} (hnone : ∀ q ∈ (x.lane s).arrivals, q.1 ≠ n.toNat) :
    ∃ p, barArrive x s n =
      modCore (x.set s (withArrival (x.lane s) n ⟨(barOf (getCore s x.core) n).gen, some x.f.region, false⟩)) x.core
        (setBar n (barComplete { barOf (getCore s x.core) n with tally := (barOf (getCore s x.core) n).tally + 1, pend := p })) := by
  have hfind : (x.lane s).arrivals.find? (fun q => q.1 == n.toNat) = none := List.find?_eq_none.2 fun q hq => by simpa using hnone q hq
  rw [barArrive, hfind]
  exact ⟨_, rfl⟩

/-- A second arrival in a generation records no more than that it is not undone (R178, R180). -/
theorem barArrive_again {x : Ctx} {s : State} {n : BitVec 5} {q : Nat × Arrival}
    (hfind : (x.lane s).arrivals.find? (fun q => q.1 == n.toNat) = some q) (hgen : q.2.gen = (barOf (getCore s x.core) n).gen) :
    barArrive x s n = x.set s (withArrival (x.lane s) n { q.2 with rewound := false }) := by
  rw [barArrive, hfind]
  exact if_pos hgen

section
variable {x : Ctx} {s : State} {n : BitVec 5} {q : Nat × Arrival} (hfind : (x.lane s).arrivals.find? (fun q => q.1 == n.toNat) = some q)
include hfind

theorem barWait_waits (hgen : (barOf (getCore s x.core) n).gen ≤ q.2.gen) (begun : List Nat) : barWait x s n begun = .wait s begun 3 := by
  rw [barWait, hfind]
  exact if_pos hgen

/-- A wait for a generation that is over ends, and orders the arrivals' accesses (R179, R325). -/
theorem barWait_passes (hgen : q.2.gen < (barOf (getCore s x.core) n).gen) (begun : List Nat) :
    ∃ after, barWait x s n begun = .done (x.set s { x.lane s with after := after }) := by
  rw [barWait, hfind]
  exact ⟨_, if_neg (Nat.not_le.2 hgen)⟩

end

/-- A core that changes one barrier alone. -/
theorem barStep_core {s st : State} {n : BitVec 5} {c : Nat} (hc : c < 16) (ha : Reaches s st c) (hslot : s.curSlot < 8)
    (b : Barrier) : let t := modCore st (coreIx s.curRow c) (setBar n b)
    ColumnStep s st t c ∧ BarKept s t n c ∧ barOf (getCore t (coreIx s.curRow c)) n = b := by
  intro t
  have hlane : getLane t s.curRow c s.curSlot = laneAt s c := ha.lanes c hc le_rfl _ hslot
  have hcore : getCore t (coreIx s.curRow c) = setBar n b (coreAt s c) := by
    rw [getCore_modCore]
    exact congrArg (setBar n b) (ha.cores c hc le_rfl)
  refine ⟨⟨rfl, fun _ _ _ _ _ _ => rfl, fun k hk => getCore_modCore_ne _ _ hk, ha.quiet c hc⟩, ⟨?_, ?_, ?_, fun k hk => ?_⟩, ?_⟩
  · rw [hlane]
  · rw [hlane]
  · rw [hcore]
    rfl
  · rw [hcore, setBar_other hk]
  · rw [hcore, barOf_setBar]

/-- The count, tally and generation after BARI (R178). -/
theorem counted_barComplete (b : Barrier) (k : Nat) : let b' := barComplete { b with count := k }
    b'.count = k ∧ (k ≤ b.tally → b'.tally = 0 ∧ b'.gen = b.gen + 1) ∧ (b.tally < k → b'.tally = b.tally ∧ b'.gen = b.gen) := by
  unfold barComplete
  refine ⟨?_, fun h => ?_, fun h => ?_⟩
  · split <;> rfl
  · rw [if_pos h]
    exact ⟨rfl, rfl⟩
  · rw [if_neg (by simpa using h)]
    exact ⟨rfl, rfl⟩

section
variable {s st : State} {n : BitVec 5} {c : Nat} (hc : c < 16) (ha : Reaches s st c)
include hc ha

theorem bari_done {a : BitVec 5} (hr : LaneReady s (.bari n a)) (hsrcs : ∀ q ∈ [Src.g a (pxOf (me s)).ea], sourceReady s c q)
    (hpos : 1 ≤ (rdG (laneAt s c) a).toNat) (hmax : (rdG (laneAt s c) a).toNat ≤ (constWord (coreAt s c) 230).toNat) :
    coreExec (.bari n a) (ctxAt s (.bari n a) c 0) st = .done (modCore st (coreIx s.curRow c)
      (setBar n (barComplete { barAt s c n with count := (rdG (laneAt s c) a).toNat }))) := by
  have hcore : getCore st (ctxAt s (.bari n a) c 0).core = coreAt s c := ha.cores c hc le_rfl
  have hnonzero : rdG (laneAt s c) a ≠ 0 := fun h => by
    rw [h] at hpos
    exact absurd hpos (by decide)
  have hbound : (rdG (laneAt s c) a = 0 || (constWord (coreAt s c) 230).toNat < (rdG (laneAt s c) a).toNat) = false := by
    rw [decide_eq_false hnonzero, decide_eq_false (Nat.not_lt.2 hmax)]
    rfl
  change coreBari (ctxAt s (.bari n a) c 0) st n a = _
  rw [coreBari]
  refine (ha.withSrcs hc hr.slot hsrcs _ _ _).trans ?_
  dsimp only
  rw [hcore, hbound, if_neg (by decide)]
  refine congrArg CoreOut.done ?_
  rw [modCore, modCore, show getCore st (coreIx s.curRow c) = coreAt s c from hcore,
    show getCore st (ctxAt s (.bari n a) c 0).core = coreAt s c from hcore]
  rfl

/-- The first arrival of BARA or BAR in a generation at a core. -/
theorem bara_first {i : Instr} (hr : LaneReady s i) (hnone : ∀ q ∈ (laneAt s c).arrivals, q.1 ≠ n.toNat) :
    ∃ l b, let t := modCore (setLane st s.curRow c s.curSlot l) (coreIx s.curRow c) (setBar n b)
      barArrive (ctxAt s i c 0) st n = t ∧ ColumnStep s st t c ∧ BarKept s t n c ∧ getLane t s.curRow c s.curSlot = l ∧
      barOf (getCore t (coreIx s.curRow c)) n = b ∧ l = withArrival (laneAt s c) n ⟨(barAt s c n).gen, some (me s).region, false⟩ ∧
      Arrived (barAt s c n) b := by
  have hl : (ctxAt s i c 0).lane st = laneAt s c := ha.lanes c hc le_rfl _ hr.slot
  have hk : getCore st (ctxAt s i c 0).core = coreAt s c := ha.cores c hc le_rfl
  obtain ⟨p, hp⟩ := barArrive_first (x := ctxAt s i c 0) (s := st) (n := n) (by rwa [hl])
  rw [hl, hk] at hp
  obtain ⟨hcolumn, hkept, hlane, hbar⟩ := barStep_set (n := n) hc ha hr.slot
    (l := withArrival (laneAt s c) n ⟨(barAt s c n).gen, some (me s).region, false⟩) rfl rfl (hr.events hc)
    (barComplete { barAt s c n with tally := (barAt s c n).tally + 1, pend := p })
  exact ⟨_, _, hp, hcolumn, hkept, hlane, hbar, rfl, arrived_barComplete _ _⟩

/-- BAR whose arrival ends the generation goes on at once (R178). -/
theorem bar_passes (hr : LaneReady s (.bar n)) (hnone : ∀ q ∈ (laneAt s c).arrivals, q.1 ≠ n.toNat)
    (hcount : (barAt s c n).count ≤ (barAt s c n).tally + 1) :
    ∃ l b, coreExec (.bar n) (ctxAt s (.bar n) c 0) st =
        .done (modCore (setLane st s.curRow c s.curSlot l) (coreIx s.curRow c) (setBar n b)) ∧
      l.g = (laneAt s c).g ∧ l.v = (laneAt s c).v ∧ l.events = [] ∧ Arrived (barAt s c n) b := by
  obtain ⟨l, b, harrive, -, -, hlane, hbar, hl, harrived⟩ := bara_first hc ha hr hnone
  obtain ⟨-, -, hends⟩ := id harrived
  obtain ⟨-, hgen⟩ := hends hcount
  have hfind : ((ctxAt s (.bar n) c 0).lane (barArrive (ctxAt s (.bar n) c 0) st n)).arrivals.find? (fun q => q.1 == n.toNat) =
      some (n.toNat, ⟨(barAt s c n).gen, some (me s).region, false⟩) := by
    rw [harrive, show (ctxAt s (.bar n) c 0).lane _ = l from hlane, hl]
    exact find?_tput_same _ _ _
  have hover : (barAt s c n).gen < (barOf (getCore (barArrive (ctxAt s (.bar n) c 0) st n) (ctxAt s (.bar n) c 0).core) n).gen := by
    rw [harrive, show barOf (getCore _ (ctxAt s (.bar n) c 0).core) n = b from hbar, hgen]
    omega
  obtain ⟨after, hpass⟩ := barWait_passes hfind hover [1]
  refine ⟨{ l with after := after }, b, (show coreExec (.bar n) (ctxAt s (.bar n) c 0) st = _ from hpass).trans ?_, ?_, ?_, ?_, harrived⟩
  · rw [harrive, show (ctxAt s (.bar n) c 0).lane _ = l from hlane]
    exact congrArg (fun x : State => CoreOut.done (modCore x (coreIx s.curRow c) (setBar n b))) (setLane_setLane _ _ _ _ _ _)
  · rw [hl]
    rfl
  · rw [hl]
    rfl
  · rw [hl]
    exact hr.events hc

end

/-- Settles O40: fences and drains leave every core as it is or wait at one, and the barrier instructions change the barrier alone. -/
theorem ordering : Obligations.Ordering := by
  unfold Obligations.Ordering
  intro s n a ea mine bar kept arrived here unread waits
  refine ⟨fun hr hreqs hunread => ?fence, fun c hc hr hreqs hunread hheld => ?fenceWaits, fun hr hreqs => ?drainst,
    fun c hc hr hreqs hheld => ?drainstWaits, fun ⟨hr, hsrcs⟩ hcount => ?bari, fun hr hnone => ?bara, fun hr hsame => ?baraAgain,
    fun hr hopen => ?barwWaits, fun hr hover => ?barw, fun hr hlast => ?bar⟩
  case fence =>
    exact completes_still hr rfl rfl (Nat.zero_le 1) fun c hc => fence_passes
      (fun q hq hhere => hreqs q hq ⟨hhere.1, hhere.2.1, hhere.2.2 ▸ hc⟩) (hunread c hc)
  case fenceWaits =>
    obtain ⟨q, hq, hhere, haside, hkind⟩ := hheld
    refine waits_still hc hr rfl rfl (Nat.zero_le 1) (fun k hk => fence_passes (fun q hq hhere => absurd hhere (hreqs q hq k hk)) (hunread k hk))
      ⟨[], 19, if_pos (fenceWaits_of_request hq hhere ⟨haside, ?_, ?_⟩)⟩
    · obtain h | h | ⟨h, -⟩ := hkind <;> rw [h] <;> rfl
    · obtain h | h | ⟨h, hscope⟩ := hkind
      · exact .inl (by rw [h]; rfl)
      · exact .inl (by rw [h]; rfl)
      · obtain hsegs | hsys | hcellar := hscope
        · exact .inr (.inr (.inl hsegs))
        · exact .inr (.inl hsys)
        · exact .inr (.inr (.inr hcellar))
  case drainst =>
    refine completes_still hr rfl rfl (Nat.zero_le 1) fun c hc => drainst_passes fun q hq hhere ⟨haside, hkind⟩ => ?_
    obtain h | ⟨hstore, hred⟩ := hreqs q hq ⟨hhere.1, hhere.2.1, hhere.2.2 ▸ hc⟩
    · rw [haside] at h
      cases h
    · exact hkind.elim hstore hred
  case drainstWaits =>
    obtain ⟨q, hq, hhere, hheld⟩ := hheld
    refine waits_still hc hr rfl rfl (Nat.zero_le 1) (fun k hk => drainst_passes fun q hq hhere ⟨_, hkind⟩ => ?_)
      ⟨[], 19, drainst_waits hq hhere hheld⟩
    obtain ⟨hstore, hred⟩ := hreqs q hq k hk hhere
    exact hkind.elim hstore hred
  case bari =>
    refine barriers_complete (all := (· = s.lanes)) (result := fun c _ b => let k := (rdG (laneAt s c) a).toNat
      b.count = k ∧ (k ≤ (barAt s c n).tally → b.tally = 0 ∧ b.gen = (barAt s c n).gen + 1) ∧
        ((barAt s c n).tally < k → b.tally = (barAt s c n).tally ∧ b.gen = (barAt s c n).gen))
      hr rfl rfl (Nat.zero_le 1) rfl fun c hc st ha _ hlanes => ?_
    obtain ⟨hpos, hmax⟩ := hcount c hc
    obtain ⟨hcolumn, hkept, hbar⟩ := barStep_core (n := n) hc ha hr.slot (barComplete { barAt s c n with count := (rdG (laneAt s c) a).toNat })
    refine ⟨_, bari_done hc ha hr (hsrcs c hc) hpos hmax, hcolumn, rfl, hlanes, hkept, ?_⟩
    rw [hbar]
    exact counted_barComplete _ _
  case bara =>
    obtain ⟨t, hnext, hkept, -, hresult⟩ := barriers_complete (n := n) (all := fun _ => True) (result := fun c l b => Arrived (barAt s c n) b ∧
      tget l.arrivals n.toNat ⟨0, none, false⟩ = ⟨(barAt s c n).gen, some (me s).region, false⟩)
      hr rfl rfl (Nat.zero_le 1) trivial fun c hc st ha _ _ => by
        obtain ⟨l, b, hdone, hcolumn, hkept, hlane, hbar, hl, harrived⟩ := bara_first hc ha hr (hnone c hc)
        refine ⟨_, congrArg CoreOut.done hdone, hcolumn, rfl, trivial, hkept, ?_⟩
        rw [hbar, hlane, hl]
        exact ⟨harrived, tget_tput_same _ _ _ _⟩
    exact ⟨t, hnext, hkept, hresult⟩
  case baraAgain =>
    obtain ⟨t, hnext, hkept, -, hresult⟩ := barriers_complete (n := n) (all := fun _ => True) (result := fun c _ b => b = barAt s c n)
      hr rfl rfl (Nat.zero_le 1) trivial fun c hc st ha _ _ => by
        obtain ⟨q, hfind, hgen⟩ := hsame c hc
        have hl : (ctxAt s (.bara n) c 0).lane st = laneAt s c := ha.lanes c hc le_rfl _ hr.slot
        have hk : getCore st (ctxAt s (.bara n) c 0).core = coreAt s c := ha.cores c hc le_rfl
        have hagain := barArrive_again (x := ctxAt s (.bara n) c 0) (s := st) (n := n) (q := q) (by rwa [hl]) (by rwa [hk])
        obtain ⟨hcolumn, hkept, -, hbar⟩ := barStep_lane (n := n) hc ha hr.slot
          (l := withArrival (laneAt s c) n { q.2 with rewound := false }) rfl rfl (hr.events hc)
        rw [hl] at hagain
        exact ⟨_, congrArg CoreOut.done hagain, hcolumn, rfl, trivial, hkept, hbar⟩
    exact ⟨t, hnext, hkept, hresult⟩
  case barwWaits =>
    obtain ⟨q, hfind, hgen⟩ := hopen
    exact waits_still (by decide) hr rfl rfl (Nat.zero_le 1) (fun k hk => absurd hk (Nat.not_lt_zero k))
      ⟨[], 3, barWait_waits (x := ctxAt s (.barw n) 0 0) (s := leftState s (.barw n)) hfind hgen []⟩
  case barw =>
    obtain ⟨t, hnext, hkept, -, hresult⟩ := barriers_complete (n := n) (all := fun _ => True) (result := fun c _ b => b = barAt s c n)
      hr rfl rfl (Nat.zero_le 1) trivial fun c hc st ha _ _ => by
        obtain ⟨q, hfind, hgen⟩ := hover c hc
        have hl : (ctxAt s (.barw n) c 0).lane st = laneAt s c := ha.lanes c hc le_rfl _ hr.slot
        have hk : getCore st (ctxAt s (.barw n) c 0).core = coreAt s c := ha.cores c hc le_rfl
        obtain ⟨after, hpass⟩ := barWait_passes (x := ctxAt s (.barw n) c 0) (s := st) (n := n) (q := q) (by rwa [hl]) (by rwa [hk]) []
        obtain ⟨hcolumn, hkept, -, hbar⟩ := barStep_lane (n := n) hc ha hr.slot
          (l := { laneAt s c with after := after }) rfl rfl (hr.events hc)
        rw [hl] at hpass
        exact ⟨_, hpass, hcolumn, rfl, trivial, hkept, hbar⟩
    exact ⟨t, hnext, hkept, hresult⟩
  case bar =>
    obtain ⟨t, hnext, hkept, -, hresult⟩ := barriers_complete (n := n) (all := fun _ => True) (result := fun c _ b => Arrived (barAt s c n) b)
      hr rfl rfl (Nat.zero_le 1) trivial fun c hc st ha _ _ => by
        obtain ⟨hcount, hnone⟩ := hlast c hc
        obtain ⟨l, b, hdone, hg, hv, hevents, harrived⟩ := bar_passes hc ha hr hnone hcount
        obtain ⟨hcolumn, hkept, -, hbar⟩ := barStep_set hc ha hr.slot hg hv hevents b
        exact ⟨_, hdone, hcolumn, rfl, trivial, hkept, by rw [hbar]; exact harrived⟩
    exact ⟨t, hnext, hkept, hresult⟩

end Sys2Proof.Machine
end

section
/-! PROOFS. Landing loads, LCNT and LDROP (O41). -/

namespace Sys2Proof.Machine

/-- What a sweep leaves, once the head is put right, for an instruction that takes identifiers, packet numbers and requests. -/
theorem Swept.coreRelNew {s st : State} {hd : Head} {rel : Nat → Lane → Lane → Core → Core → Prop} (h : Swept s st hd 16)
    (hslot : s.curSlot < 8) (hstamp : st.memStamp = s.memStamp) (hd' : Head)
    (hrel : ∀ c < 16, rel c (laneAt s c) (getLane st s.curRow c s.curSlot) (coreAt s c) (getCore st (coreIx s.curRow c))) :
    CoreRelNew s (setHead st s.curRow s.curSlot hd') hd' rel := by
  have hset := congrArg (fun x : State => setHead x s.curRow s.curSlot hd') h.frame
  have hrow : (setHead st s.curRow s.curSlot hd').curRow = s.curRow := by
    rw [hset]
    rfl
  refine ⟨⟨?_, fun r sl hsl hne => ?_, h.otherLanes, h.otherCores⟩, getHead_setHead _ _ _ _, fun c hc => ?_⟩
  · rw [hset, swept, hstamp]
    rfl
  · have hother : 8 * r + sl ≠ 8 * s.curRow + s.curSlot := fun hsame => hne (Prod.ext (by simp; omega) (by simp; omega))
    exact (getHead_setHead_ne _ _ hother).trans (h.otherHeads hother)
  · have hcore : coreAt (setHead st s.curRow s.curSlot hd') c = getCore st (coreIx s.curRow c) := by
      rw [coreAt, hrow]
      rfl
    rw [hcore]
    exact hrel c hc

/-! Slots of a set (R38). -/

theorem slotsOf_eq (l : Lane) (set : Nat) : slotsOf l set = l.land.filter (·.set = set) :=
  rfl

/-- The lowest free position of a set with room (R38). -/
theorem freePos_spec {l : Lane} {set : Nat} (hroom : (slotsOf l set).length < 16) :
    freePos l set < 16 ∧ (∀ r ∈ slotsOf l set, r.pos ≠ freePos l set) ∧ ∀ x < freePos l set, ∃ r ∈ slotsOf l set, r.pos = x := by
  have hfree : ∃ x < 16, ∀ r ∈ slotsOf l set, r.pos ≠ x := by
    by_contra hnone
    push Not at hnone
    have hsub : (List.range 16) ⊆ (slotsOf l set).map (·.pos) := fun x hx => by
      obtain ⟨r, hr, hpos⟩ := hnone x (List.mem_range.1 hx)
      exact List.mem_map.2 ⟨r, hr, hpos⟩
    have hlen := (List.nodup_range.subperm hsub).length_le
    rw [List.length_range, List.length_map] at hlen
    omega
  obtain ⟨y, hy, hyfree⟩ := hfree
  have htaken (x : Nat) : (!((slotsOf l set).any fun q => q.pos == x)) = true ↔ ∀ r ∈ slotsOf l set, r.pos ≠ x := by
    simp
  obtain ⟨x, hx⟩ : ∃ x, (upTo 16).find? (fun p => !((slotsOf l set).any fun q => q.pos == p)) = some x := by
    rw [← Option.isSome_iff_exists, List.find?_isSome]
    exact ⟨y, List.mem_range.2 hy, (htaken y).2 hyfree⟩
  have hpos : freePos l set = x := by rw [freePos, hx]; rfl
  rw [hpos]
  obtain ⟨hfreeX, hmem, hbefore⟩ := List.find?_range_eq_some.1 hx
  refine ⟨List.mem_range.1 hmem, (htaken x).1 hfreeX, fun z hz => ?_⟩
  simpa using hbefore z hz

theorem physUsed_eq (s : State) (r c : Nat) : physUsed s r c = ((List.range 8).map fun sl => (getLane s r c sl).land.length).sum := by
  rw [physUsed, upTo, List.sum_eq_foldl, List.foldl_map]

/-! The translation of an access (R263, R272). -/

section
variable {s t : State} {r c : Nat} (htables : SameTables s t) (hctx : ctxOf t r = ctxOf s r)
  (htlb : (getCore t (coreIx r c)).tlb = (getCore s (coreIx r c)).tlb)
include htables

theorem leafCheck_sameTables (e : TlbEntry) (k : Acc) (va : Nat) : leafCheck t e k va = leafCheck s e k va := by
  obtain ⟨-, -, -, -, -, -, hloft⟩ := htables
  have hin (pa : Nat) : inLoft t pa = inLoft s pa := by rw [inLoft, inLoft, hloft]
  simp only [leafCheck, hin]

include hctx htlb

/-- A translation at a core depends on the tables, the row's context and the core's TLB. -/
theorem spanXlate_congr (k : Acc) (va : Word) (size : Nat) (mask : BitVec 32) : spanXlate t r c k va size mask = spanXlate s r c k va size mask := by
  have hlane (va : Word) : laneXlateWith t [] r c k va = laneXlateWith s [] r c k va := by
    rw [laneXlateWith, laneXlateWith, hctx, htlb]
    exact xlateWith_sameTables htables _ _ _ _ _ _
  have hpiece (lo hi : Nat) : pieceXlate t [] r c k va mask lo hi = pieceXlate s [] r c k va mask lo hi := by
    simp only [pieceXlate, hlane, leafCheck_sameTables htables]
  simp only [spanXlate, spanXlateWith, hlane, hpiece]

end

theorem laneXlate_below {s : State} {fails : List (Nat × Cause)} {r c : Nat} {k : Acc} {va : Word} {x : Nat × Attr × TlbEntry}
    (h : laneXlateWith s fails r c k va = .ok x) : va.toNat < 2 ^ 48 := by
  by_contra hout
  have hrange : (va.toNat / 2 ^ 48 != 0) = true := by
    rw [bne_iff_ne]
    have := va.isLt
    omega
  have herror : laneXlateWith s fails r c k va = .error .xlateRange := if_pos hrange
  rw [herror] at h
  cases h

/-- A piece that translates has an active element below 2^48 where it has one at all. -/
theorem pieceXlate_below {s : State} {fails : List (Nat × Cause)} {r c : Nat} {k : Acc} {va : Word} {mask : BitVec 32} {lo hi j : Nat}
    {x : List (Nat × Nat) × Option Attr × List TlbEntry} (h : pieceXlate s fails r c k va mask lo hi = .ok x) (hne : lo ≠ hi)
    (hj : j < 32) (hactive : mask.getLsbD j = true) (hlo : lo ≤ 4 * j) (hhi : 4 * j < hi) :
    ∃ o, lo ≤ o ∧ o < hi ∧ (va + BitVec.ofNat 64 o).toNat < 2 ^ 48 := by
  have hmem : 4 * j ∈ activeOffs mask lo hi :=
    List.mem_map.2 ⟨j, List.mem_filter.2 ⟨List.mem_range.2 hj, by simp [hactive, hlo, hhi]⟩, rfl⟩
  have hrange (o : Nat) (ho : o ∈ activeOffs mask lo hi) : lo ≤ o ∧ o < hi := by
    obtain ⟨i, hi, rfl⟩ := List.mem_map.1 ho
    obtain ⟨-, hi⟩ := List.mem_filter.1 hi
    simp only [Bool.and_eq_true, decide_eq_true_eq] at hi
    exact ⟨hi.1.2, hi.2⟩
  rw [pieceXlate, if_neg hne] at h
  cases hoffs : activeOffs mask lo hi with
  | nil => rw [hoffs] at hmem; cases hmem
  | cons o os =>
    obtain ⟨hlo, hhi⟩ := hrange o (by rw [hoffs]; exact List.mem_cons_self)
    refine ⟨o, hlo, hhi, ?_⟩
    rw [hoffs] at h
    dsimp only at h
    cases hx : laneXlateWith s fails r c k (va + BitVec.ofNat 64 o) with
    | error e => rw [hx] at h; cases h
    | ok y => exact laneXlate_below hx

/-- An access that translates lies below 2^48, its end too where it is aligned to its size, or to 8 bytes for 128 of them (R272). -/
theorem spanXlate_below {s : State} {r c : Nat} {k : Acc} {va : Word} {size : Nat} {x : List (Nat × Nat) × Attr × Attr × List TlbEntry}
    (h : spanXlate s r c k va size (BitVec.allOnes 32) = .ok x) (hsize : size ∣ va.toNat ∧ size ∣ 8 ∨ size = 128 ∧ 8 ∣ va.toNat) :
    va.toNat < 2 ^ 48 ∧ va.toNat + size ≤ 2 ^ 48 := by
  rw [spanXlate, spanXlateWith] at h
  obtain ⟨hal, hsize⟩ | ⟨rfl, hal⟩ := hsize
  · have hsmall : size ≤ 8 := Nat.le_of_dvd (by decide) hsize
    rw [if_pos hsmall] at h
    cases hx : laneXlateWith s [] r c k va with
    | error e => rw [hx] at h; cases h
    | ok y =>
      have hbelow := laneXlate_below hx
      obtain ⟨q, hq⟩ := hal
      obtain ⟨p, hp⟩ := hsize
      refine ⟨hbelow, ?_⟩
      have hend : size * (q + 1) ≤ size * (p * 2 ^ 45) := by
        refine Nat.mul_le_mul_left _ (Nat.lt_of_mul_lt_mul_left (a := size) ?_)
        rw [← hq, ← Nat.mul_assoc, ← hp]
        omega
      rw [← Nat.mul_assoc, ← hp] at hend
      rw [hq]
      omega
  · rw [if_neg (by decide)] at h
    dsimp only at h
    have hsplit : pageSplit va.toNat 128 = if va.toNat / 65536 = (va.toNat + 128 - 1) / 65536 then 128 else 65536 - va.toNat % 65536 := rfl
    have hva := va.isLt
    have hones (j : Nat) (hj : j < 32) : (BitVec.allOnes 32).getLsbD j = true := by
      rw [BitVec.getLsbD_allOnes, decide_eq_true hj]
    cases hfirst : pieceXlate s [] r c k va (BitVec.allOnes 32) 0 (pageSplit va.toNat 128) with
    | error e => rw [hfirst] at h; cases h
    | ok y =>
      cases hsecond : pieceXlate s [] r c k va (BitVec.allOnes 32) (pageSplit va.toNat 128) 128 with
      | error e => rw [hfirst, hsecond] at h; cases h
      | ok z =>
        generalize pageSplit va.toNat 128 = n at *
        obtain ⟨o, -, ho, hbelow⟩ := pieceXlate_below hfirst (by split at hsplit <;> omega) (by decide : 0 < 32) (hones 0 (by decide))
          (by omega) (by split at hsplit <;> omega)
        rw [BitVec.toNat_add, BitVec.toNat_ofNat] at hbelow
        have hstart : va.toNat < 2 ^ 48 := by split at hsplit <;> omega
        refine ⟨hstart, ?_⟩
        by_contra hout
        obtain ⟨o', ho', hend', hbelow'⟩ := pieceXlate_below hsecond (by split at hsplit <;> omega) (j := n / 4) (by split at hsplit <;> omega)
          (hones _ (by split at hsplit <;> omega)) (by split at hsplit <;> omega) (by split at hsplit <;> omega)
        rw [BitVec.toNat_add, BitVec.toNat_ofNat] at hbelow'
        split at hsplit <;> omega

/-! A landing load's request leaves (R333). -/

/-- A landing load's request, which no write is numbered for, leaves: it is on its way, and the others stay. -/
theorem launchReq_landing {s : State} {q : Req} (hkind : q.kind = .landing) (hrel : q.rel = false) (hq : ∃ p ∈ s.reqs, p.id = q.id) :
    ∃ q', Departed q q' ∧ launchReq s q = { s with reqs := (launchReq s q).reqs, pkts := (launchReq s q).pkts } ∧
      q' ∈ (launchReq s q).reqs ∧ ∀ p ∈ s.reqs, p.id ≠ q.id → p ∈ (launchReq s q).reqs := by
  obtain ⟨p, hp, hid⟩ := hq
  have hwrite : isWriteKind q.kind = false := by
    rw [hkind]
    rfl
  have hgranule : (q.kind == .granule) = false := by
    rw [hkind]
    rfl
  obtain ⟨y, hy⟩ : ∃ y : Req, y = { q with bound := max q.bound (segsBound q.segs) } := ⟨_, rfl⟩
  have hsame : y.id = q.id ∧ y.rel = q.rel ∧ y.kind = q.kind := by
    rw [hy]
    exact ⟨rfl, rfl, rfl⟩
  obtain ⟨hyid, hyrel, hykind⟩ := hsame
  have hlaunch : launchReq s q = sendReq (putReq s y) y := by
    rw [launchReq, ← hy]
    exact if_neg (by rw [hyrel, hrel]; decide)
  have hcross (z : Req) (hz : z.kind = q.kind) : crossWrite z = false := by
    rw [crossWrite, crossDie, hz, hwrite, hgranule]
    rfl
  obtain ⟨pk, out, hpkt⟩ := numberPkt_eq (putReq s y) { y with stamp := issuerStamp (putReq s y) y }
  have hsend : sendReq (putReq s y) y =
      putReq { putReq s y with pkts := pk } { y with stamp := issuerStamp (putReq s y) y, out := out, st := .sent } := by
    have hunnumbered : crossWrite { y with stamp := issuerStamp (putReq s y) y } = false := hcross _ hykind
    rw [sendReq, stampReq, numberX, if_neg (Bool.eq_false_iff.1 hunnumbered)]
    dsimp only
    rw [hpkt]
    dsimp only
    have hplain : ¬ y.rel = true := by rw [hyrel, hrel]; decide
    have hread : ¬ isWriteKind y.kind = true := by rw [hykind, hwrite]; decide
    rw [if_neg hplain]
    exact congrArg (putReq · _) (if_neg hread)
  rw [hlaunch, hsend]
  refine ⟨{ y with stamp := issuerStamp (putReq s y) y, out := out, st := .sent }, ⟨_, _, q.xnum, _, q.since, by rw [hy]⟩, rfl,
    mem_putReq (p := y) (mem_putReq hp (hid.trans hyid.symm)) rfl, fun z hz hne => ?_⟩
  have hput : z ∈ (putReq s y).reqs := List.mem_map.2 ⟨z, hz, if_neg (by rwa [hyid])⟩
  exact List.mem_map.2 ⟨z, hput, if_neg (by show z.id ≠ y.id; rwa [hyid])⟩

/-! A slot is taken (R38, R166). -/

/-- The slot that a landing load takes at a core. -/
def newSlot (l : Lane) (set : Nat) (tag : Nat) (k : Core) : LandSlot :=
  ⟨set, freePos l set, .pending, BitVec.ofNat 16 tag, 0, 0, .landFault, 0, k.issueCtr, false, false⟩

/-- A core that has given a strand the next issue number. -/
def takenCore (sl : Nat) (k : Core) : Core := { k with issueCtr := k.issueCtr + 1, slotQ := k.slotQ.filter fun w => w.strand != sl }

/-- The machine in which a landing load has taken its slot. -/
def slotTaken (x : Ctx) (s : State) (set tag : Nat) : State :=
  x.set (modCore s x.core (takenCore x.sl))
    { x.lane s with land := (x.lane s).land ++ [newSlot (x.lane s) set tag (getCore s x.core)] }

/-- The request of a landing load for the slot at a position. -/
def landReq (x : Ctx) (s : State) (addr : Word) (size set pos : Nat) : Req :=
  { blankReq s .landing x.r x.c x.sl with
    va := addr, size := size, handler := x.f.handler, region := x.f.region, dest := .slot set pos, issue := x.f.issue }

/-- What a landing load does with its slot (R166): it is poisoned, or its load leaves. -/
def landGrant (x : Ctx) (s : State) (set tag size align : Nat) (addr : Word) : CoreOut :=
  let pos := freePos (x.lane s) set
  let u := slotTaken x s set tag
  let bad (cause : Cause) (va : Word) : CoreOut :=
    let t := poisonSlot u x.r x.c x.sl set pos x.f.handler cause va
    if landTrapped x u t then .ended t else .done t
  if addr.toNat % align ≠ 0 then bad .memAlign addr
  else if addr.toNat / 2 ^ 48 ≠ 0 then bad .xlateRange addr
  else if 2 ^ 48 < addr.toNat + size then
    match spanXlate u x.r x.c .read addr size (BitVec.allOnes 32) with
    | .error (c, va) => bad c va
    | .ok _ => bad .xlateRange (2 ^ 48)
  else
    let q := landReq x u addr size set pos
    .done (if tlbKnows (pushReq u q) x.r x.c addr size then resolveLanding (pushReq u q) q else pushReq u q)

/-- The address of a landing load (R166). -/
def landAddr (l : Lane) (a : BitVec 5) (off : BitVec 11) (scale : Nat) : Word := rdG l a + BitVec.ofInt 64 (off.toInt * scale)

/-- Where watching is off, no access is watched (R376). -/
theorem watchCheck_off {s : State} {r c : Nat} (h : (getCore s (coreIx r c)).wctl = 0) (sl : Nat) (ld st : Bool) (va : Word) (size : Nat)
    (mask : BitVec 32) : watchCheck s r c sl ld st va size mask = (s, none) := by
  unfold watchCheck
  dsimp only
  rw [h]
  exact if_neg (by simp)

theorem nextWaiter_none {s : State} {r c : Nat} (h : (getCore s (coreIx r c)).slotQ = []) : nextWaiter s r c = none := by
  rw [nextWaiter, h]
  rfl

theorem Reaches.physUsed {s st : State} {c : Nat} (ha : Reaches s st c) (hc : c < 16) : physUsed st s.curRow c = physUsed s s.curRow c := by
  rw [physUsed_eq, physUsed_eq]
  refine congrArg List.sum (List.map_congr_left fun sl hsl => ?_)
  rw [ha.lanes c hc le_rfl sl (List.mem_range.1 hsl)]

section
variable {s st : State} {i : Instr} {c : Nat} {t a : BitVec 5} {off : BitVec 11} {size align scale : Nat} {set : BitVec 2}
  (hr : LaneReady s i) (hc : c < 16) (ha : Reaches s st c)
  (hsrcs : ∀ q ∈ [Src.g a (pxOf (me s)).ea, Src.g t (pxOf (me s)).eb], sourceReady s c q)
  (hwatch : (coreAt s c).wctl = 0) (hqueue : (coreAt s c).slotQ = [])
  (hroom : (slotsOf (laneAt s c) set.toNat).length < 16)
  (hphys : ((List.range 8).map fun sl => (getLane s s.curRow c sl).land.length).sum < 256)
include hr hc ha hsrcs hwatch hqueue hroom hphys

/-- A landing load with room in its set takes a slot at once. -/
theorem landLoad_grants : landLoad (ctxAt s i c 0) st t a off size align scale set =
    landGrant (ctxAt s i c 0) st set.toNat ((rdG (laneAt s c) t).toNat % 65536) size align (landAddr (laneAt s c) a off scale) := by
  have hl : (ctxAt s i c 0).lane st = laneAt s c := ha.lanes c hc le_rfl _ hr.slot
  have hk : getCore st (coreIx (ctxAt s i c 0).r (ctxAt s i c 0).c) = coreAt s c := ha.cores c hc le_rfl
  have haddr : laneAddr (rdG (laneAt s c) a) off.toNat 11 scale = landAddr (laneAt s c) a off scale := laneAddr_eq _ _ _
  have hfits : (decide ((slotsOf ((ctxAt s i c 0).lane st) set.toNat).length < 16) &&
      decide (physUsed st (ctxAt s i c 0).r (ctxAt s i c 0).c < 256) && (nextWaiter st (ctxAt s i c 0).r (ctxAt s i c 0).c).isNone) = true := by
    rw [nextWaiter_none (by rw [hk, hqueue]), hl, show physUsed st (ctxAt s i c 0).r (ctxAt s i c 0).c = _ from ha.physUsed hc, physUsed_eq]
    simp [hroom, hphys]
  unfold landLoad
  rw [show (ctxAt s i c 0).f.begun = [] from rfl]
  refine (ha.withSrcs hc hr.slot hsrcs i 0 _).trans ?_
  dsimp only
  rw [watchCheck_off (by rw [hk, hwatch]), ← haddr]
  exact if_pos hfits

end

/-! Arrival at a set without claims (R166, R167). -/

theorem bindSet_unclaimed {l : Lane} (h : l.claims = []) (set : Nat) : ∀ n, bindSet set n l = (l, none)
  | 0 => rfl
  | n + 1 => by
    have hnone : bindable l set = none := by
      rw [bindable, h]
      rfl
    rw [bindSet, hnone]

/-- Fills that fill no v register write the lane alone: no granule of a pool is written whole (R262). -/
theorem setFilled_unfilled {s : State} {r c sl : Nat} {l : Lane} (h : l.vFill = (getLane s r c sl).vFill) :
    ∃ cores, setFilled s r c sl l = { setLane s r c sl l with cores := cores } ∧ ∀ k, tget cores k Core.reset = getCore s k := by
  have hnone (f : Nat → List Nat) : (((upTo 32).filter fun n => (getLane s r c sl).vFill.toList.getD n 0 != 0 &&
      (getLane s r c sl).vFill.toList.getD n 0 == 0).flatMap f) = [] := by
    rw [List.flatMap_eq_nil_iff]
    intro n hn
    obtain ⟨-, hn⟩ := List.mem_filter.1 hn
    simp at hn
  have hkeep (k : Core) : { k with poolPoison := k.poolPoison.filter fun g => !isIn g [] } = k := by
    have hall : (k.poolPoison.filter fun g => !isIn g []) = k.poolPoison := List.filter_eq_self.2 fun _ _ => rfl
    rw [hall]
  unfold setFilled
  dsimp only
  split
  · exact ⟨s.cores, rfl, fun _ => rfl⟩
  · rw [h, hnone]
    refine ⟨_, rfl, fun k => ?_⟩
    by_cases hk : k = coreIx r c
    · rw [hk, tget_tput_same]
      exact hkeep _
    · exact tget_tput_ne _ _ _ hk

/-- A slot of a set without claims arrives or is poisoned: it alone changes, with the next value of the core's arrival counter. -/
theorem slotArrives_unclaimed {s : State} {r c sl set pos : Nat} {f : LandSlot → LandSlot} (hclaims : (getLane s r c sl).claims = [])
    (hslot : ∃ q ∈ slotsOf (getLane s r c sl) set, q.pos = pos) (handler : Bool) :
    slotArrives s r c sl set pos handler f =
      setFilled (modCore s (coreIx r c) fun k => { k with arriveCtr := k.arriveCtr + 1 }) r c sl
        (modSlot (getLane s r c sl) set pos fun q => { f q with arr := (getCore s (coreIx r c)).arriveCtr }) := by
  obtain ⟨q, hq, hpos⟩ := hslot
  unfold slotArrives
  rw [if_pos (List.any_eq_true.2 ⟨q, hq, by rw [hpos]; exact beq_self_eq_true pos⟩)]
  dsimp only
  rw [bindSet_unclaimed (by exact hclaims)]
  rfl

/-- A change of the slot at a position that was free before it was taken. -/
theorem modSlot_append {l : Lane} {set : Nat} {q : LandSlot} {L : List LandSlot} (hset : q.set = set) (hl : l.land = L ++ [q])
    (hfree : ∀ r ∈ L, r.set = set → r.pos ≠ q.pos) (f : LandSlot → LandSlot) :
    modSlot l set q.pos f = { l with land := L ++ [f q] } := by
  have hmap : (l.land.map fun r => if r.set = set && r.pos = q.pos then f r else r) = L ++ [f q] := by
    rw [hl, List.map_append, List.map_singleton, if_pos (by simp [hset])]
    refine congrArg (· ++ [f q]) ((List.map_congr_left fun r hr => ?_).trans L.map_id)
    refine if_neg ?_
    by_cases hr' : r.set = set
    · simp [hfree r hr hr']
    · simp [hr']
  rw [modSlot, hmap]

/-- A slot that a landing load has just taken, poisoned. -/
def poisonedSlot (q : LandSlot) (cause : Cause) (va : Word) (arr : BitVec 16) : LandSlot :=
  { q with st := .poisoned, cause := cause, addr := va.setWidth 48, arr := arr }

/-- A slot just taken, of a strand without claims, is poisoned: it alone changes, and the core's arrival counter. -/
theorem poisonSlot_append {s : State} {r c sl : Nat} {L : List LandSlot} {q : LandSlot} (hclaims : (getLane s r c sl).claims = [])
    (hland : (getLane s r c sl).land = L ++ [q]) (hfree : ∀ p ∈ L, p.set = q.set → p.pos ≠ q.pos) (handler : Bool) (cause : Cause) (va : Word) :
    ∃ cores, poisonSlot s r c sl q.set q.pos handler cause va =
        { setLane s r c sl { getLane s r c sl with land := L ++ [poisonedSlot q cause va (getCore s (coreIx r c)).arriveCtr] } with cores := cores } ∧
      ∀ k, tget cores k Core.reset = getCore (modCore s (coreIx r c) fun k => { k with arriveCtr := k.arriveCtr + 1 }) k := by
  have hslot : ∃ p ∈ slotsOf (getLane s r c sl) q.set, p.pos = q.pos :=
    ⟨q, List.mem_filter.2 ⟨by rw [hland]; exact List.mem_append_right _ List.mem_cons_self, beq_self_eq_true q.set⟩, rfl⟩
  rw [poisonSlot, slotArrives_unclaimed hclaims hslot, modSlot_append rfl hland hfree]
  exact setFilled_unfilled rfl


/-- The new slot's position was free in its set. -/
theorem newSlot_free {s : State} {c set tag : Nat} (hroom : (slotsOf (laneAt s c) set).length < 16) :
    ∀ r ∈ (laneAt s c).land, r.set = set → r.pos ≠ (newSlot (laneAt s c) set tag (coreAt s c)).pos := by
  obtain ⟨-, hfree, -⟩ := freePos_spec hroom
  exact fun r hr hset => hfree r (List.mem_filter.2 ⟨hr, by rw [hset]; exact beq_self_eq_true set⟩)

section
variable {s st : State} {i : Instr} {c : Nat} {set tag size align : Nat} {addr : Word}
  (hr : LaneReady s i) (hc : c < 16) (ha : Reaches s st c) (hclaims : (laneAt s c).claims = []) (hqueue : (coreAt s c).slotQ = [])
include hc ha

include hr in
theorem slotTaken_lane : getLane (slotTaken (ctxAt s i c 0) st set tag) s.curRow c s.curSlot =
    { laneAt s c with land := (laneAt s c).land ++ [newSlot (laneAt s c) set tag (coreAt s c)] } := by
  have hl : (ctxAt s i c 0).lane st = laneAt s c := ha.lanes c hc le_rfl _ hr.slot
  have hk : getCore st (ctxAt s i c 0).core = coreAt s c := ha.cores c hc le_rfl
  rw [slotTaken, hl, hk]
  exact getLane_setLane _ _ _ _ _

include hqueue in
theorem slotTaken_core : getCore (slotTaken (ctxAt s i c 0) st set tag) (coreIx s.curRow c) =
    { coreAt s c with issueCtr := (coreAt s c).issueCtr + 1 } := by
  have hk : getCore st (coreIx s.curRow c) = coreAt s c := ha.cores c hc le_rfl
  have hempty : ((coreAt s c).slotQ.filter fun w => w.strand != s.curSlot) = (coreAt s c).slotQ := by
    rw [hqueue]
    rfl
  refine (getCore_modCore st (coreIx s.curRow c) (takenCore s.curSlot)).trans ?_
  rw [hk]
  exact congrArg (fun q => { coreAt s c with issueCtr := (coreAt s c).issueCtr + 1, slotQ := q }) hempty

include hr in
theorem slotTaken_step : ColumnStep s st (slotTaken (ctxAt s i c 0) st set tag) c where
  frame := rfl
  lanes r k sl hk hsl hne := getLane_setLane_ne _ _ (lane_ne hc hk hr.slot hsl hne)
  cores k hk := getCore_modCore_ne st (takenCore s.curSlot) hk
  quiet := by
    rw [slotTaken_lane hr hc ha]
    exact hr.events hc

include hr hclaims hqueue in
/-- The slot of a misaligned landing load is poisoned at once (R166). -/
theorem landGrant_misaligned (hroom : (slotsOf (laneAt s c) set).length < 16) (hmis : ¬ align ∣ addr.toNat) :
    ∃ t, landGrant (ctxAt s i c 0) st set tag size align addr = .done t ∧ ColumnStep s st t c ∧ t.reqs = st.reqs ∧ t.memStamp = st.memStamp ∧
      getLane t s.curRow c s.curSlot = { laneAt s c with
        land := (laneAt s c).land ++ [poisonedSlot (newSlot (laneAt s c) set tag (coreAt s c)) .memAlign addr (coreAt s c).arriveCtr] } ∧
      getCore t (coreIx s.curRow c) = { coreAt s c with issueCtr := (coreAt s c).issueCtr + 1, arriveCtr := (coreAt s c).arriveCtr + 1 } := by
  have hl : (ctxAt s i c 0).lane st = laneAt s c := ha.lanes c hc le_rfl _ hr.slot
  obtain ⟨u, hu⟩ : ∃ u, u = slotTaken (ctxAt s i c 0) st set tag := ⟨_, rfl⟩
  have hlane : getLane u s.curRow c s.curSlot = _ := hu ▸ slotTaken_lane hr hc ha
  have hcore : getCore u (coreIx s.curRow c) = _ := hu ▸ slotTaken_core hc ha hqueue
  have hstep : ColumnStep s st u c := hu ▸ slotTaken_step hr hc ha
  obtain ⟨cores, hpoison, hcores⟩ := poisonSlot_append (s := u) (r := s.curRow) (c := c) (sl := s.curSlot) (q := newSlot (laneAt s c) set tag (coreAt s c))
    (by rw [hlane]; exact hclaims) (by rw [hlane]) (newSlot_free hroom) (me s).handler .memAlign addr
  rw [hlane, hcore] at hpoison
  obtain ⟨t, ht⟩ : ∃ t, t = poisonSlot u s.curRow c s.curSlot set (freePos (laneAt s c) set) (me s).handler .memAlign addr := ⟨_, rfl⟩
  have ht' := ht.trans hpoison
  have hheads : t.heads = u.heads := by
    rw [ht']
    rfl
  have hon : landTrapped (ctxAt s i c 0) u t = false := by
    have hhead : getHead t (ctxAt s i c 0).r (ctxAt s i c 0).sl = getHead u (ctxAt s i c 0).r (ctxAt s i c 0).sl := by
      rw [getHead, getHead, hheads]
    rw [landTrapped, hhead]
    simp
  have hgrant : landGrant (ctxAt s i c 0) st set tag size align addr = if landTrapped (ctxAt s i c 0) u t then .ended t else .done t := by
    unfold landGrant
    dsimp only
    rw [if_pos (fun hdvd => hmis (Nat.dvd_of_mod_eq_zero hdvd)), ht, hu, hl]
    rfl
  refine ⟨t, by rw [hgrant, hon]; rfl, ?_, ?_, ?_, ?_, ?_⟩
  · refine ⟨?_, fun r k sl hk hsl hne => ?_, fun k hk => ?_, ?_⟩
    · rw [ht', hstep.frame]
      rfl
    · rw [← hstep.lanes r k sl hk hsl hne, ht']
      exact getLane_setLane_ne _ _ (lane_ne hc hk hr.slot hsl hne)
    · rw [← hstep.cores k hk, ht']
      exact (hcores k).trans (getCore_modCore_ne _ _ hk)
    · rw [ht']
      exact (congrArg Lane.events (getLane_setLane _ _ _ _ _)).trans (hr.events hc)
  · rw [ht', hu]
    rfl
  · rw [ht', hu]
    rfl
  · rw [ht']
    exact getLane_setLane _ _ _ _ _
  · rw [ht']
    refine (hcores _).trans ((getCore_modCore _ _ _).trans ?_)
    rw [hcore]

end

/-! A landing load's request is sent, or walks first (R157, R166). -/

theorem ColumnStep.trans {s a b t : State} {c : Nat} (hab : ColumnStep s a b c) (hbt : ColumnStep s b t c) : ColumnStep s a t c where
  frame := by
    have hframe := congrArg (swept · t) hab.frame
    exact hbt.frame.trans hframe
  lanes r k sl hk hsl hne := (hbt.lanes r k sl hk hsl hne).trans (hab.lanes r k sl hk hsl hne)
  cores k hk := (hbt.cores k hk).trans (hab.cores k hk)
  quiet := hbt.quiet

/-- A step that changes only what a core keeps for all its strands. -/
theorem columnStep_modCore {s st : State} {c : Nat} (hquiet : (getLane st s.curRow c s.curSlot).events = []) (f : Core → Core) :
    ColumnStep s st (modCore st (coreIx s.curRow c) f) c where
  frame := rfl
  lanes _ _ _ _ _ _ := rfl
  cores _ hk := getCore_modCore_ne st f hk
  quiet := hquiet

/-- A step that changes only requests, identifiers and packet numbers. -/
theorem columnStep_requests {s st : State} {c : Nat} (hquiet : (getLane st s.curRow c s.curSlot).events = []) (reqs : List Req)
    (fresh : Nat) (pkts) : ColumnStep s st { st with reqs := reqs, fresh := fresh, pkts := pkts } c where
  frame := rfl
  lanes _ _ _ _ _ _ := rfl
  cores _ _ := rfl
  quiet := hquiet

/-- A request that a landing load of the strand has out at a core (R166). -/
def LandSent (s : State) (c : Nat) (addr : Word) (size set pos : Nat) (r : Req) : Prop :=
  r.row = s.curRow ∧ r.col = c ∧ r.strand = s.curSlot ∧ r.kind = .landing ∧ r.va = addr ∧ r.size = size ∧ r.acq = false ∧
    r.dest = .slot set pos ∧ (r.st = .walking ∨ r.st = .sent)

/-- What an aligned landing load does at a core: it takes a slot, and its request is out with the next identifier. -/
structure LandStep (s st t : State) (c : Nat) (addr : Word) (size : Nat) (q : LandSlot) : Prop where
  column : ColumnStep s st t c
  stamp : t.memStamp = st.memStamp
  fresh : t.fresh = st.fresh + 1
  kept : ∀ p ∈ st.reqs, p.id < st.fresh → p ∈ t.reqs
  lane : getLane t s.curRow c s.curSlot = { laneAt s c with land := (laneAt s c).land ++ [q] }
  core : ∃ tlb, getCore t (coreIx s.curRow c) = { coreAt s c with issueCtr := (coreAt s c).issueCtr + 1, tlb := tlb }
  sent : ∃ r ∈ t.reqs, r.id = st.fresh ∧ LandSent s c addr size q.set q.pos r

theorem slotDet_append {l : Lane} {q : LandSlot} {L : List LandSlot} (hclaims : l.claims = []) (hland : l.land = L ++ [q])
    (hfree : ∀ r ∈ L, r.set = q.set → r.pos ≠ q.pos) : slotDet q.set q.pos l = { l with land := L ++ [{ q with det := true }] } := by
  have hmod := modSlot_append (l := l) (q := q) rfl hland hfree fun p => { p with det := true }
  rw [slotDet, hmod]
  exact if_neg (by simp [hclaims])

section
variable {s st : State} {i : Instr} {c : Nat} {addr : Word} {size : Nat} {q : LandSlot}

/-- A slot that comes from the DET bit of its page stays the slot of its load. -/
theorem LandStep.det {t : State} (h : LandStep s st t c addr size q) (hr : LaneReady s i) (hc : c < 16) (hclaims : (laneAt s c).claims = [])
    (hfree : ∀ r ∈ (laneAt s c).land, r.set = q.set → r.pos ≠ q.pos) :
    LandStep s st (modLane t s.curRow c s.curSlot (slotDet q.set q.pos)) c addr size { q with det := true } := by
  have hdet : slotDet q.set q.pos (getLane t s.curRow c s.curSlot) = { laneAt s c with land := (laneAt s c).land ++ [{ q with det := true }] } := by
    rw [h.lane]
    exact slotDet_append hclaims rfl hfree
  exact {
    column := h.column.trans (columnStep_setLane hc hr.slot (by rw [hdet]; exact hr.events hc))
    stamp := h.stamp
    fresh := h.fresh
    kept := h.kept
    lane := (getLane_setLane _ _ _ _ _).trans hdet
    core := h.core
    sent := h.sent }

/-- The TLB takes entries. -/
theorem LandStep.tlb {t : State} (h : LandStep s st t c addr size q) (es : List TlbEntry) : LandStep s st (tlbFill t s.curRow c es) c addr size q where
  column := h.column.trans (columnStep_modCore h.column.quiet _)
  stamp := h.stamp
  fresh := h.fresh
  kept := h.kept
  lane := h.lane
  core := by
    obtain ⟨tlb, hcore⟩ := h.core
    refine ⟨es.foldl (fun t e => tlbAdd 128 e t) tlb, (getCore_modCore _ _ _).trans ?_⟩
    rw [hcore]
  sent := h.sent

/-- The request of a landing load leaves. -/
theorem LandStep.launch {t : State} {r : Req} (h : LandStep s st t c addr size q) (hid : r.id = st.fresh) (hrel : r.rel = false)
    (hsent : LandSent s c addr size q.set q.pos r) : LandStep s st (launchReq t r) c addr size q := by
  obtain ⟨p, hp, hpid, -⟩ := h.sent
  have hsent' := hsent
  obtain ⟨-, -, -, hkind, -⟩ := hsent'
  obtain ⟨r', hdeparted, hframe, hmem, hkept⟩ := launchReq_landing hkind hrel ⟨p, hp, hpid.trans hid.symm⟩
  obtain ⟨bound, stamp, xnum, out, since, hr'⟩ := hdeparted
  have hcolumn : ColumnStep s t (launchReq t r) c := by
    rw [hframe]
    exact columnStep_requests h.column.quiet _ _ _
  exact {
    column := h.column.trans hcolumn
    stamp := by rw [hframe]; exact h.stamp
    fresh := by rw [hframe]; exact h.fresh
    kept := fun p hp hlt => hkept p (h.kept p hp hlt) (by omega)
    lane := by rw [hframe]; exact h.lane
    core := by rw [hframe]; exact h.core
    sent := ⟨r', hmem, by rw [hr']; exact hid, by
      obtain ⟨hrow, hcol, hstrand, -, hva, hsize, hacq, hdest, -⟩ := hsent
      rw [hr']
      exact ⟨hrow, hcol, hstrand, hkind, hva, hsize, hacq, hdest, .inr rfl⟩⟩ }

end

/-- The machine in which a landing load has taken its slot and put down its request. -/
def landPushed (x : Ctx) (s : State) (set tag size : Nat) (addr : Word) : State :=
  pushReq (slotTaken x s set tag) (landReq x (slotTaken x s set tag) addr size set (freePos (x.lane s) set))

section
variable {s st : State} {i : Instr} {c : Nat} {set tag size align : Nat} {addr : Word}
  (hr : LaneReady s i) (hc : c < 16) (ha : Reaches s st c) (hclaims : (laneAt s c).claims = []) (hqueue : (coreAt s c).slotQ = [])
include hr hc ha hqueue

theorem landStep_pushed : LandStep s st (landPushed (ctxAt s i c 0) st set tag size addr) c addr size (newSlot (laneAt s c) set tag (coreAt s c)) where
  column := by
    have hstep := slotTaken_step (tag := tag) (set := set) hr hc ha
    exact hstep.trans (columnStep_requests hstep.quiet _ _ _)
  stamp := rfl
  fresh := rfl
  kept p hp _ := List.mem_append_left _ hp
  lane := slotTaken_lane hr hc ha
  core := ⟨_, slotTaken_core (set := set) (tag := tag) hc ha hqueue⟩
  sent := by
    have hl : (ctxAt s i c 0).lane st = laneAt s c := ha.lanes c hc le_rfl _ hr.slot
    refine ⟨_, List.mem_append_right _ List.mem_cons_self, rfl, rfl, rfl, rfl, rfl, rfl, rfl, rfl, ?_, .inl rfl⟩
    rw [hl]
    rfl

include hclaims in
/-- An aligned landing load whose address translates takes its slot, pending, and its load is out (R166). -/
theorem landGrant_sends (hroom : (slotsOf (laneAt s c) set).length < 16) (hal : align ∣ addr.toNat)
    (hbelow : addr.toNat < 2 ^ 48 ∧ addr.toNat + size ≤ 2 ^ 48) (htables : SameTables s st) (hctx : ctxOf st s.curRow = ctxOf s s.curRow)
    (hxlate : ∃ x, spanXlate s s.curRow c .read addr size (BitVec.allOnes 32) = .ok x) :
    ∃ t det, landGrant (ctxAt s i c 0) st set tag size align addr = .done t ∧
      LandStep s st t c addr size { newSlot (laneAt s c) set tag (coreAt s c) with det := det } := by
  obtain ⟨u, hu⟩ : ∃ u, u = landPushed (ctxAt s i c 0) st set tag size addr := ⟨_, rfl⟩
  obtain ⟨q, hq⟩ : ∃ q, q = landReq (ctxAt s i c 0) (slotTaken (ctxAt s i c 0) st set tag) addr size set (freePos ((ctxAt s i c 0).lane st) set) :=
    ⟨_, rfl⟩
  have hpushed : LandStep s st u c addr size (newSlot (laneAt s c) set tag (coreAt s c)) := hu ▸ landStep_pushed hr hc ha hqueue
  have hgrant : landGrant (ctxAt s i c 0) st set tag size align addr =
      .done (if tlbKnows u s.curRow c addr size then resolveLanding u q else u) := by
    unfold landGrant
    dsimp only
    rw [if_neg (fun hmis => hmis (Nat.mod_eq_zero_of_dvd hal)), if_neg (by omega), if_neg (by omega), hu, hq]
    rfl
  have hq' : q.id = st.fresh ∧ q.rel = false ∧ q.mask = BitVec.allOnes 32 ∧ LandSent s c addr size set (freePos (laneAt s c) set) q := by
    have hl : (ctxAt s i c 0).lane st = laneAt s c := ha.lanes c hc le_rfl _ hr.slot
    rw [hq, hl]
    exact ⟨rfl, rfl, rfl, rfl, rfl, rfl, rfl, rfl, rfl, rfl, rfl, .inl rfl⟩
  obtain ⟨hid, hrel, hmask, hsent⟩ := hq'
  have hsent' := hsent
  obtain ⟨hrow, hcol, hstrand, hkind, hva, hsize, hacq, hdest, -⟩ := hsent'
  have hfree := newSlot_free (tag := tag) hroom
  rw [hgrant]
  by_cases hknows : tlbKnows u s.curRow c addr size = true
  · rw [if_pos hknows]
    have hspan : spanXlate u s.curRow c .read addr size (BitVec.allOnes 32) = spanXlate s s.curRow c .read addr size (BitVec.allOnes 32) := by
      have hcore := slotTaken_core (i := i) (set := set) (tag := tag) hc ha hqueue
      refine spanXlate_congr (by rw [hu]; exact htables) (by rw [hu]; exact hctx) ?_ _ _ _ _
      rw [hu]
      exact (congrArg Core.tlb hcore :)
    obtain ⟨⟨segs, a, b, es⟩, hx⟩ := hxlate
    have hresolve : resolveLanding u q = launchReq (if a.det || b.det then modLane (tlbFill u s.curRow c es) s.curRow c s.curSlot
        (slotDet set (freePos (laneAt s c) set)) else tlbFill u s.curRow c es) { q with segs := segs, attr := a, attr2 := b } := by
      rw [resolveLanding, hdest, hrow, hcol, hstrand, hva, hsize, hmask, hspan, hx]
    rw [hresolve]
    have hfilled := hpushed.tlb es
    by_cases hdet : (a.det || b.det) = true
    · rw [if_pos hdet]
      exact ⟨_, true, rfl, (hfilled.det hr hc hclaims hfree).launch hid hrel hsent⟩
    · rw [if_neg hdet]
      exact ⟨_, false, rfl, hfilled.launch hid hrel hsent⟩
  · rw [if_neg hknows]
    exact ⟨_, false, rfl, hpushed⟩

end

/-- An aligned landing load has been at a core, whose lane and core are now l' and k', and its load is out in the state st. -/
def LandedAt (s st : State) (c : Nat) (addr : Word) (size set tag : Nat) (l' : Lane) (k' : Core) : Prop :=
  ∃ q : LandSlot, (∃ det, q = { newSlot (laneAt s c) set tag (coreAt s c) with det := det }) ∧
    l' = { laneAt s c with land := (laneAt s c).land ++ [q] } ∧
    (∃ tlb, k' = { coreAt s c with issueCtr := (coreAt s c).issueCtr + 1, tlb := tlb }) ∧
    ∃ r ∈ st.reqs, r.id < st.fresh ∧ LandSent s c addr size q.set q.pos r

theorem LandedAt.kept {s st t : State} {c k : Nat} {a : Word} {n set tag : Nat} {l : Lane} {x : Core} (h : LandedAt s st k a n set tag l x)
    {addr : Word} {size : Nat} {q : LandSlot} (hstep : LandStep s st t c addr size q) : LandedAt s t k a n set tag l x := by
  obtain ⟨p, hp, hlane, hcore, r, hr, hlt, hsent⟩ := h
  exact ⟨p, hp, hlane, hcore, r, hstep.kept r hr hlt, by rw [hstep.fresh]; omega, hsent⟩

section
variable {s : State} {i : Instr} {t a : BitVec 5} {off : BitVec 11} {size align scale : Nat} {set : BitVec 2}
  (hcore : ∀ c st, coreExec i (ctxAt s i c 0) st = landLoad (ctxAt s i c 0) st t a off size align scale set)
  (hwest : westReg i = none) (hcycles : vecCycles i ≤ 1)
  (hruns : LaneRuns s i [.g a (pxOf (me s)).ea, .g t (pxOf (me s)).eb])
  (hfree : ∀ c < 16, (coreAt s c).wctl = 0 ∧ (coreAt s c).slotQ = [] ∧ (laneAt s c).claims = [])
  (hroom : ∀ c < 16, (slotsOf (laneAt s c) set.toNat).length < 16 ∧
    ((List.range 8).map fun sl => (getLane s s.curRow c sl).land.length).sum < 256)
include hcore hwest hcycles hruns hfree hroom

/-- Aligned landing loads whose addresses translate take a slot at every core and send their loads (R166). -/
theorem landings_sent (hsize : align = size ∧ size ∣ 8 ∨ size = 128 ∧ align = 8)
    (hok : ∀ c < 16, align ∣ (landAddr (laneAt s c) a off scale).toNat ∧
      ∃ x, spanXlate s s.curRow c .read (landAddr (laneAt s c) a off scale) size (BitVec.allOnes 32) = .ok x) :
    CoreRelNew s (issueLane i s) (goOn (me s)) fun c l l' _ k' =>
      LandedAt s (issueLane i s) c (landAddr l a off scale) size set.toNat ((rdG l t).toNat % 65536) l' k' := by
  obtain ⟨hr, hsrcs⟩ := hruns
  obtain ⟨st, hswept, hstamp, hlanded, hissue⟩ := sweeps hr hwest hcycles (inv := fun st => st.memStamp = s.memStamp)
    (q := fun k st => LandedAt s st k (landAddr (laneAt s k) a off scale) size set.toNat ((rdG (laneAt s k) t).toNat % 65536)
      (getLane st s.curRow k s.curSlot) (getCore st (coreIx s.curRow k))) rfl
    fun c hc st hswept ha hstamp => by
      obtain ⟨hwatch, hqueue, hclaims⟩ := hfree c hc
      obtain ⟨hslots, hphys⟩ := hroom c hc
      obtain ⟨hal, hxlate⟩ := hok c hc
      have hbelow := spanXlate_below hxlate.choose_spec (by
        obtain ⟨h, h8⟩ | ⟨h, h8⟩ := hsize
        · exact .inl ⟨h ▸ hal, h8⟩
        · exact .inr ⟨h, h8 ▸ hal⟩)
      obtain ⟨u, det, hgrant, hstep⟩ := landGrant_sends (tag := (rdG (laneAt s c) t).toNat % 65536) hr hc ha hclaims hqueue hslots hal hbelow
        (by rw [hswept.frame]; exact ⟨rfl, rfl, rfl, rfl, rfl, rfl, rfl⟩) (by rw [hswept.frame]; rfl) hxlate
      refine ⟨u, ?_, hstep.column, hstep.stamp.trans hstamp, ?_, fun k hk hkept => ?_⟩
      · rw [hcore, landLoad_grants hr hc ha (hsrcs c hc) hwatch hqueue hslots hphys, hgrant]
      · obtain ⟨r, hmem, hid, hsent⟩ := hstep.sent
        exact ⟨_, ⟨det, rfl⟩, hstep.lane, hstep.core, r, hmem, by rw [hid, hstep.fresh]; omega, hsent⟩
      · rw [hstep.column.lanes _ k _ (by omega) hr.slot (by omega), hstep.column.cores _ (by unfold coreIx; omega)]
        exact hkept.kept hstep
  rw [hissue]
  refine hswept.coreRelNew hr.slot hstamp _ fun c hc => hlanded c hc

/-- Misaligned landing loads leave their slots poisoned at once and send nothing (R166). -/
theorem landings_poisoned (hmis : ∀ c < 16, ¬ align ∣ (landAddr (laneAt s c) a off scale).toNat) :
    (issueLane i s).reqs = s.reqs ∧ CoreRelNew s (issueLane i s) (goOn (me s)) fun _ l l' k k' =>
      l' = { l with land := l.land ++ [poisonedSlot (newSlot l set.toNat ((rdG l t).toNat % 65536) k) .memAlign
        (landAddr l a off scale) k.arriveCtr] } ∧ k' = { k with issueCtr := k.issueCtr + 1, arriveCtr := k.arriveCtr + 1 } := by
  obtain ⟨hr, hsrcs⟩ := hruns
  obtain ⟨st, hswept, ⟨hstamp, hreqs⟩, hlanded, hissue⟩ := sweeps hr hwest hcycles (inv := fun st => st.memStamp = s.memStamp ∧ st.reqs = s.reqs)
    (q := fun c st => getLane st s.curRow c s.curSlot = { laneAt s c with land := (laneAt s c).land ++
        [poisonedSlot (newSlot (laneAt s c) set.toNat ((rdG (laneAt s c) t).toNat % 65536) (coreAt s c)) .memAlign
          (landAddr (laneAt s c) a off scale) (coreAt s c).arriveCtr] } ∧ getCore st (coreIx s.curRow c) =
        { coreAt s c with issueCtr := (coreAt s c).issueCtr + 1, arriveCtr := (coreAt s c).arriveCtr + 1 }) ⟨rfl, rfl⟩
    fun c hc st hswept ha ⟨hstamp, hreqs⟩ => by
      obtain ⟨hwatch, hqueue, hclaims⟩ := hfree c hc
      obtain ⟨hslots, hphys⟩ := hroom c hc
      obtain ⟨u, hgrant, hcolumn, hreqs', hstamp', hlane, hcore'⟩ := landGrant_misaligned (size := size)
        (tag := (rdG (laneAt s c) t).toNat % 65536) hr hc ha hclaims hqueue hslots (hmis c hc)
      refine ⟨u, ?_, hcolumn, ⟨hstamp'.trans hstamp, hreqs'.trans hreqs⟩, ⟨hlane, hcore'⟩, fun k hk hkept => ?_⟩
      · rw [hcore, landLoad_grants hr hc ha (hsrcs c hc) hwatch hqueue hslots hphys, hgrant]
      · obtain ⟨hlane, hcore⟩ := hkept
        rw [hcolumn.lanes _ k _ (by omega) hr.slot (by omega), hcolumn.cores _ (by unfold coreIx; omega)]
        exact ⟨hlane, hcore⟩
  rw [hissue]
  exact ⟨hreqs, hswept.coreRelNew hr.slot hstamp _ hlanded⟩

end

/-! LCNT and LDROP (R170). -/

/-- The slots of a set in a state, of a strand without claims. -/
theorem landCount_eq {l : Lane} (hclaims : l.claims = []) (set : Nat) (k : LandState) :
    ((slotsOf l set).countP fun q => q.st == k && !(l.claims.any fun c => c.raised && c.set == q.set && c.pos == some q.pos)) =
      ((slotsOf l set).filter (·.st = k)).length := by
  rw [hclaims, List.countP_eq_length_filter]
  refine congrArg List.length (List.filter_congr fun q _ => ?_)
  rw [List.any_nil, Bool.not_false, Bool.and_true]
  cases q.st <;> cases k <;> rfl

/-- What LDROP leaves of a request (R170). -/
def dropDest (s : State) (c set : Nat) (q : Req) : Req :=
  if q.row == s.curRow && q.col == c && q.strand == s.curSlot && (match q.dest with
    | .slot n _ => n == set
    | _ => false) then { q with dest := .no } else q

theorem dropDest_cases (s : State) (c set : Nat) (q : Req) : dropDest s c set q = q ∨ dropDest s c set q = { q with dest := .no } :=
  (ite_eq_or_eq _ _ _).symm

/-- No request of the strand at the core goes to the set any more. -/
theorem dropDest_dest {s : State} {c set : Nat} {q : Req} (hrow : q.row = s.curRow) (hcol : q.col = c) (hstrand : q.strand = s.curSlot) (x : Nat) :
    (dropDest s c set q).dest ≠ .slot set x := by
  intro hdest
  obtain hkept | hdropped := dropDest_cases s c set q
  · rw [hkept] at hdest
    have hdrop : dropDest s c set q = { q with dest := .no } :=
      if_pos (by rw [hrow, hcol, hstrand, hdest]; simp)
    have hno : q.dest = .no := congrArg Req.dest (hkept.symm.trans hdrop)
    rw [hno] at hdest
    cases hdest
  · rw [hdropped] at hdest
    cases hdest

theorem dropClaims_unclaimed {drop : Claim → Bool} {l : Lane} (hclaims : l.claims = []) : dropClaims drop l = l := by
  cases l
  cases hclaims
  rfl

/-- An instruction that drops a set at every core (R170). -/
theorem drops {s : State} {set : BitVec 2} (hr : LaneReady s (.ldrop set)) (hclaims : ∀ c < 16, (laneAt s c).claims = []) :
    CoreRelNew s (issueLane (.ldrop set) s) (goOn (me s)) fun c l l' k k' =>
      l' = { l with land := l.land.filter fun q => decide (q.set ≠ set.toNat) } ∧ k' = k ∧
      ∀ q ∈ (issueLane (.ldrop set) s).reqs, q.row = s.curRow → q.col = c → q.strand = s.curSlot → ∀ x, q.dest ≠ .slot set.toNat x := by
  obtain ⟨st, hswept, hstamp, hdropped, hissue⟩ := sweeps hr rfl (Nat.zero_le 1) (inv := fun st => st.memStamp = s.memStamp)
    (q := fun c st => getLane st s.curRow c s.curSlot =
        { laneAt s c with land := (laneAt s c).land.filter fun q => decide (q.set ≠ set.toNat) } ∧
      getCore st (coreIx s.curRow c) = coreAt s c ∧
      ∀ q ∈ st.reqs, q.row = s.curRow → q.col = c → q.strand = s.curSlot → ∀ x, q.dest ≠ .slot set.toNat x) rfl
    fun c hc st hswept ha hstamp => by
      have hl : (ctxAt s (.ldrop set) c 0).lane st = laneAt s c := ha.lanes c hc le_rfl _ hr.slot
      have hland : ((laneAt s c).land.filter fun q => q.set != set.toNat) = (laneAt s c).land.filter fun q => decide (q.set ≠ set.toNat) :=
        List.filter_congr fun _ _ => (decide_not (p := _ = _)).symm
      obtain ⟨u, hu⟩ : ∃ u, u = setLane st s.curRow c s.curSlot
        { laneAt s c with land := (laneAt s c).land.filter fun q => decide (q.set ≠ set.toNat) } := ⟨_, rfl⟩
      have hexec : coreExec (.ldrop set) (ctxAt s (.ldrop set) c 0) st = .done { u with reqs := u.reqs.map (dropDest s c set.toNat) } := by
        change coreLdrop (ctxAt s (.ldrop set) c 0) st set = _
        rw [coreLdrop]
        dsimp only
        rw [hl, hclaims c hc, if_neg (by simp), dropClaims_unclaimed (hclaims c hc), hu, ← hland]
        rfl
      have hcolumn : ColumnStep s st u c := hu ▸ columnStep_setLane hc hr.slot (hr.events hc)
      refine ⟨_, hexec, hcolumn.trans (columnStep_requests hcolumn.quiet _ _ _), by rw [hu]; exact hstamp, ⟨?_, ?_, ?_⟩, ?_⟩
      · rw [hu]
        exact getLane_setLane _ _ _ _ _
      · rw [hu]
        exact ha.cores c hc le_rfl
      · intro q' hq' hrow hcol hstrand
        obtain ⟨q, -, rfl⟩ := List.mem_map.1 hq'
        obtain hkept | hdropped := dropDest_cases s c set.toNat q
        · rw [hkept] at hrow hcol hstrand
          exact dropDest_dest hrow hcol hstrand
        · rw [hdropped]
          exact fun x hdest => by cases hdest
      · intro k hk ⟨hlane, hcore, hgone⟩
        refine ⟨(hcolumn.lanes _ k _ (by omega) hr.slot (by omega)).trans hlane, (hcolumn.cores _ (by unfold coreIx; omega)).trans hcore,
          fun q' hq' => ?_⟩
        obtain ⟨q, hq, rfl⟩ := List.mem_map.1 hq'
        rw [hu] at hq
        obtain hkept | hdropped := dropDest_cases s c set.toNat q
        · rw [hkept]
          exact hgone q hq
        · rw [hdropped]
          exact fun _ _ _ x hdest => by cases hdest
  rw [hissue]
  exact hswept.coreRelNew hr.slot hstamp _ hdropped

/-- The slot and the load that an aligned landing load has left at a core, as R166 describes them. -/
theorem LandedAt.slot {s st : State} {c size set : Nat} {addr tag : Word} {l' : Lane} {k' : Core}
    (h : LandedAt s st c addr size set (tag.toNat % 65536) l' k') (hroom : (slotsOf (laneAt s c) set).length < 16) :
    ∃ q : LandSlot, l' = { laneAt s c with land := (laneAt s c).land ++ [q] } ∧
      k' = { coreAt s c with issueCtr := (coreAt s c).issueCtr + 1, tlb := k'.tlb } ∧
      q.set = set ∧ q.st = .pending ∧ q.tag = tag.setWidth 16 ∧ q.iss = (coreAt s c).issueCtr ∧ q.claimed = false ∧
      q.pos < 16 ∧ (∀ r ∈ slotsOf (laneAt s c) set, r.pos ≠ q.pos) ∧ (∀ x < q.pos, ∃ r ∈ slotsOf (laneAt s c) set, r.pos = x) ∧
      ∃ r ∈ st.reqs, LandSent s c addr size set q.pos r := by
  obtain ⟨_, ⟨det, rfl⟩, hlane, ⟨tlb, rfl⟩, r, hr, -, hsent⟩ := h
  obtain ⟨hlt, hfree, hleast⟩ := freePos_spec hroom
  have htag : BitVec.ofNat 16 (tag.toNat % 65536) = tag.setWidth 16 := BitVec.eq_of_toNat_eq (by simp)
  exact ⟨_, hlane, rfl, rfl, rfl, htag, rfl, rfl, hlt, hfree, hleast, r, hr, hsent⟩

/-- Settles O41: each column's core takes a slot and sends its load, or poisons the slot, on its own; the sweep joins the columns. -/
theorem landing : Obligations.Landing := by
  unfold Obligations.Landing
  intro s t a d off sz set hfree
  dsimp only
  have htag (x : Word) : BitVec.ofNat 16 (x.toNat % 65536) = x.setWidth 16 := BitVec.eq_of_toNat_eq (by simp)
  refine ⟨fun hruns hroom => ⟨fun hok => ?_, fun hmis => ?_⟩, fun hruns hroom => ⟨fun hok => ?_, fun hmis => ?_⟩, fun hr hfew => ?_, fun hr => ?_⟩
  · obtain ⟨hframe, hhead, hlanded⟩ := landings_sent (i := .ldl t a off sz set) (fun _ _ => rfl) rfl (Nat.zero_le 1) hruns hfree hroom (.inl ⟨rfl, by cases sz <;> decide⟩) hok
    exact ⟨_, rfl, hframe, hhead, fun c hc => (hlanded c hc).slot (hroom c hc).1⟩
  · obtain ⟨hreqs, hframe, hhead, hpoison⟩ := landings_poisoned (i := .ldl t a off sz set) (size := szBytes sz) (fun _ _ => rfl) rfl (Nat.zero_le 1) hruns hfree hroom hmis
    refine ⟨_, rfl, hreqs, hframe, hhead, fun c hc => ?_⟩
    obtain ⟨hlane, hcore⟩ := hpoison c hc
    exact ⟨_, hlane, hcore, rfl, rfl, htag _, rfl, rfl, rfl, rfl⟩
  · obtain ⟨hframe, hhead, hlanded⟩ := landings_sent (i := .ldlv t a off set) (fun _ _ => rfl) rfl (Nat.zero_le 1) hruns hfree hroom (.inr ⟨rfl, rfl⟩) hok
    exact ⟨_, rfl, hframe, hhead, fun c hc => (hlanded c hc).slot (hroom c hc).1⟩
  · obtain ⟨hreqs, hframe, hhead, hpoison⟩ := landings_poisoned (i := .ldlv t a off set) (size := 128) (fun _ _ => rfl) rfl (Nat.zero_le 1) hruns hfree hroom hmis
    refine ⟨_, rfl, hreqs, hframe, hhead, fun c hc => ?_⟩
    obtain ⟨hlane, hcore⟩ := hpoison c hc
    exact ⟨_, hlane, hcore, rfl, rfl, htag _, rfl, rfl, rfl, rfl⟩
  · refine ⟨_, rfl, laneDone_of_columns hr rfl (Nat.zero_le 1) (fun c hc => (wrG_events _ _ _).trans (hr.events hc)) fun c hc st ha => .inl ?_⟩
    obtain ⟨-, -, hclaims⟩ := hfree c hc
    have hl : (ctxAt s (.lcnt d set) c 0).lane st = laneAt s c := ha.lanes c hc le_rfl _ hr.slot
    change coreLcnt (ctxAt s (.lcnt d set) c 0) st d set = _
    rw [coreLcnt]
    dsimp only
    rw [hl, landCount_eq hclaims, landCount_eq hclaims, landCount_eq hclaims, hclaims]
    rfl
  · exact ⟨_, rfl, drops hr fun c hc => (hfree c hc).2.2⟩

end Sys2Proof.Machine
end

section
/-! PROOFS. The takes of landing slots (O42). -/

namespace Sys2Proof.Machine

/-! Registers that a claim empties and a binding fills (R36, R167). -/

theorem toNat_ne {n : Nat} {x y : BitVec n} (h : x ≠ y) : x.toNat ≠ y.toNat := fun e => h (BitVec.eq_of_toNat_eq e)

theorem wrG_g (l : Lane) (n : BitVec 5) (x : Word) : (wrG l n x).g = if n = 0 then l.g else l.g.set n.toNat x := by
  unfold wrG
  split <;> rfl

theorem wrG_gFill (l : Lane) (n : BitVec 5) (x : Word) : (wrG l n x).gFill = if n = 0 then l.gFill else l.gFill.set n.toNat 0 := by
  unfold wrG
  split <;> rfl

theorem wrG_gFill_ne {l : Lane} {n k : BitVec 5} (hk : k ≠ n) (x : Word) : (wrG l n x).gFill[k.toNat] = l.gFill[k.toNat] := by
  rw [wrG_gFill]
  split
  · rfl
  · exact Vector.getElem_set_ne n.isLt k.isLt (toNat_ne hk).symm

/-- A register that has just been written is full. -/
theorem wrG_full (l : Lane) (n : BitVec 5) (x : Word) : gEmpty (wrG l n x) n = false := by
  unfold gEmpty
  by_cases hn : n = 0
  · rw [hn]
    rfl
  · rw [wrG_gFill, if_neg hn, Vector.getElem_set_self]
    exact Bool.and_false _

/-- A register that awaits the ticket is written. -/
theorem fillG_awaited {l : Lane} {n : BitVec 5} {t : Nat} (h : n ≠ 0 → l.gFill[n.toNat] = t) (x : Word) : fillG l n t x = wrG l n x := by
  by_cases hn : n = 0
  · rw [hn]
    rfl
  · exact if_pos (Bool.and_eq_true_iff.2 ⟨bne_iff_ne.2 hn, beq_iff_eq.2 (h hn)⟩)

theorem fillV_awaited {l : Lane} {n : BitVec 5} {t : Nat} (h : l.vFill[n.toNat] = t) (x : Vec) : fillV l n t x = wrV l n x :=
  if_pos (beq_iff_eq.2 h)

/-! A claim (R167). -/

/-- A lane with one claim more, whose destinations are empty; the slot at the claim's position, where it has one, is claimed. -/
def claimedLane (l : Lane) (m : Claim) (d t : BitVec 5) : Lane :=
  let l := match m.pos with
    | some p => modSlot l m.set p fun q => { q with claimed := true }
    | none => l
  let l := { l with claims := l.claims ++ [m] }
  emptyG (if m.vec then emptyV l d m.ticket else emptyG l d m.ticket) t m.ticket

/-- The claim that a take makes. -/
def takeClaim (x : Ctx) (s : State) (vec : Bool) (d t : BitVec 5) (set : Nat) (pos : Option Nat) : Claim :=
  ⟨set, pos, s.fresh, vec, d.toNat, t.toNat, x.f.pc, x.f.issue, false⟩

/-- The state of a lane with a claim on the only slot of its set, q once the claim is made, and with no other claim. -/
structure OneClaim (l : Lane) (m : Claim) (q : LandSlot) : Prop where
  claims : l.claims = [m]
  slots : slotsOf l m.set = [q]
  open_ : m.raised = false
  fits : m.pos = some q.pos ∨ m.pos = none ∧ q.claimed = false

theorem OneClaim.bindable {l : Lane} {m : Claim} {q : LandSlot} (h : OneClaim l m q) :
    Machine.bindable l m.set = if q.st = .pending then none else some (m, q) := by
  have hmine : (l.claims.filter fun c => c.set == m.set && !c.raised) = [m] := by
    rw [h.claims]
    simp [h.open_]
  rw [Machine.bindable, hmine, h.slots]
  obtain hpos | ⟨hpos, hfree⟩ := h.fits
  · by_cases hpending : q.st = .pending
    · simp [hpos, hpending]
    · simp [hpos, hpending]
  · by_cases hpending : q.st = .pending
    · simp [hpos, hpending, earliest]
    · simp [hpos, hpending, hfree, earliest]

/-- A claim on a slot whose data are not there yet stays. -/
theorem OneClaim.bindSet_pending {l : Lane} {m : Claim} {q : LandSlot} (h : OneClaim l m q) (hq : q.st = .pending) (n : Nat) :
    bindSet m.set n l = (l, none) := by
  cases n with
  | zero => rfl
  | succ n => rw [bindSet, h.bindable, if_pos hq]

theorem fillG_claims_events (l : Lane) (n : BitVec 5) (t : Nat) (x : Word) :
    (fillG l n t x).claims = l.claims ∧ (fillG l n t x).events = l.events := by
  unfold fillG
  split <;> simp

theorem fillV_claims_events (l : Lane) (n : BitVec 5) (t : Nat) (x : Vec) :
    (fillV l n t x).claims = l.claims ∧ (fillV l n t x).events = l.events := by
  unfold fillV
  split <;> simp

theorem bindTo_claims {l : Lane} {m : Claim} {q : LandSlot} (h : l.claims = [m]) : (bindTo l m q).claims = [] := by
  unfold bindTo
  dsimp only
  split <;> simp [fillG_claims_events, fillV_claims_events, h]

theorem bindTo_events (l : Lane) (m : Claim) (q : LandSlot) : (bindTo l m q).events = l.events := by
  unfold bindTo
  dsimp only
  split <;> simp [fillG_claims_events, fillV_claims_events]

/-- A claim on an arrived slot is bound at once. -/
theorem OneClaim.bindSet_arrived {l : Lane} {m : Claim} {q : LandSlot} (h : OneClaim l m q) (hq : q.st = .arrived) (n : Nat) :
    bindSet m.set (n + 1) l = (bindTo l m q, none) := by
  rw [bindSet, h.bindable, if_neg (by rw [hq]; decide)]
  dsimp only
  rw [if_neg (by rw [hq]; decide), bindSet_unclaimed (bindTo_claims h.claims)]

/-- A claim on a poisoned slot traps (R168). -/
theorem OneClaim.bindSet_poisoned {l : Lane} {m : Claim} {q : LandSlot} (h : OneClaim l m q) (hq : q.st = .poisoned) (n : Nat) :
    ∃ land claims, bindSet m.set (n + 1) l = ({ l with land := land, claims := claims },
      some (if q.cause = .poison then .poison else .landFault, landTval q, ⟨m.pc, m.issue, 0⟩)) := by
  rw [bindSet, h.bindable, if_neg (by rw [hq]; decide)]
  dsimp only
  rw [if_pos (by rw [hq]; decide)]
  exact ⟨_, _, rfl⟩

/-- The position that a claim takes at once (R167, R169). -/
def takePos (ordered : Bool) (q : LandSlot) : Option Nat := if ordered || q.det then some q.pos else none

/-- The unclaimed slots of a set (R167). -/
def freeSlots (l : Lane) (set : Nat) : List LandSlot := (slotsOf l set).filter fun q => !q.claimed

/-- What a take does with its claim: it is bound as far as it can be (R167, R168). -/
def takeBinds (x : Ctx) (s : State) (m : Claim) (d t : BitVec 5) : CoreOut :=
  let l := claimedLane (x.lane s) m d t
  let u := x.set { s with fresh := s.fresh + 1 } l
  match bindSet m.set 17 l with
  | (l, some (cause, tval, _)) => .trap (setFilled u x.r x.c x.sl l) cause tval
  | (l, none) => .done (setFilled u x.r x.c x.sl l)

/-- A take without a slot for it reads all ones; another makes a claim. -/
theorem takeOp_eq (x : Ctx) (s : State) (vec ordered : Bool) (d t : BitVec 5) (set : BitVec 2) :
    takeOp x s vec ordered d t set =
      if (freeSlots (x.lane s) set.toNat).length ≤ (x.lane s).claims.countP (fun c => c.set == set.toNat && c.pos.isNone) then
        .done (x.set s (wrG (x.lane s) t (BitVec.allOnes 64)))
      else takeBinds x s (takeClaim x s vec d t set.toNat (if ordered || (freeSlots (x.lane s) set.toNat).any (·.det)
        then (earliest (·.iss) (freeSlots (x.lane s) set.toNat)).map (·.pos) else none)) d t :=
  rfl

/-- A take on a set with one unclaimed slot, of a strand without claims. -/
theorem takeOp_one {x : Ctx} {s : State} {vec ordered : Bool} {d t : BitVec 5} {set : BitVec 2} {q : LandSlot}
    (hclaims : (x.lane s).claims = []) (hslots : slotsOf (x.lane s) set.toNat = [q]) (hfree : q.claimed = false) :
    takeOp x s vec ordered d t set = takeBinds x s (takeClaim x s vec d t set.toNat (takePos ordered q)) d t := by
  have hone : freeSlots (x.lane s) set.toNat = [q] := by
    rw [freeSlots, hslots]
    exact List.filter_cons_of_pos (by rw [hfree]; rfl)
  rw [takeOp_eq, hone, hclaims, List.countP_nil, if_neg (show ¬ [q].length ≤ 0 from Nat.not_succ_le_zero 0), takePos, List.any_cons, List.any_nil, Bool.or_false]
  rfl

/-- The slots of a strand once a claim has taken the position that it stands on. -/
def slotsClaimed (l : Lane) (set : Nat) (pos : Option Nat) : List LandSlot :=
  match pos with
  | some p => l.land.map fun q => if q.set = set && q.pos = p then { q with claimed := true } else q
  | none => l.land

theorem claimedLane_eq (l : Lane) (m : Claim) (d t : BitVec 5) :
    claimedLane l m d t = emptyG (if m.vec then emptyV { l with land := slotsClaimed l m.set m.pos, claims := l.claims ++ [m] } d m.ticket
      else emptyG { l with land := slotsClaimed l m.set m.pos, claims := l.claims ++ [m] } d m.ticket) t m.ticket := by
  obtain ⟨set, pos, ticket, vec, d', t', pc, issue, raised⟩ := m
  cases pos <;> rfl

/-- A claimed lane differs in its slots, claims and destinations' tickets alone. -/
theorem claimedLane_rest (l : Lane) (m : Claim) (d t : BitVec 5) : claimedLane l m d t =
    { l with land := slotsClaimed l m.set m.pos, claims := l.claims ++ [m], gFill := (claimedLane l m d t).gFill,
             vFill := (claimedLane l m d t).vFill } := by
  rw [claimedLane_eq]
  unfold emptyG emptyV
  split <;> split <;> (try split) <;> rfl

theorem claimedLane_events (l : Lane) (m : Claim) (d t : BitVec 5) : (claimedLane l m d t).events = l.events := by
  rw [claimedLane_rest]

theorem claimedLane_estat (l : Lane) (m : Claim) (d t : BitVec 5) : (claimedLane l m d t).estat = l.estat := by
  rw [claimedLane_rest]

/-! The claimed destinations await the claim's ticket. -/

theorem emptyG_gFill_same {l : Lane} {n : BitVec 5} (hn : n ≠ 0) (t : Nat) : (emptyG l n t).gFill[n.toNat] = t := by
  rw [emptyG, if_neg hn]
  exact Vector.getElem_set_self _

theorem emptyG_gFill_ne {l : Lane} {n k : BitVec 5} (hk : k ≠ n) (t : Nat) : (emptyG l n t).gFill[k.toNat] = l.gFill[k.toNat] := by
  unfold emptyG
  split
  · rfl
  · exact Vector.getElem_set_ne n.isLt k.isLt (toNat_ne hk).symm

theorem emptyG_vFill (l : Lane) (n : BitVec 5) (t : Nat) : (emptyG l n t).vFill = l.vFill := by
  unfold emptyG
  split <;> rfl

section
variable {l : Lane} {m : Claim} {d t : BitVec 5}

theorem claimedLane_awaits_t (ht : t ≠ 0) : (claimedLane l m d t).gFill[t.toNat] = m.ticket := by
  rw [claimedLane_eq]
  exact emptyG_gFill_same ht _

theorem claimedLane_awaits_g (hvec : m.vec = false) (hd : d ≠ 0) : (claimedLane l m d t).gFill[d.toNat] = m.ticket := by
  by_cases hsame : d = t
  · rw [hsame]
    exact claimedLane_awaits_t (hsame ▸ hd)
  · rw [claimedLane_eq, emptyG_gFill_ne hsame, hvec]
    exact emptyG_gFill_same hd _

theorem claimedLane_awaits_v (hvec : m.vec = true) : (claimedLane l m d t).vFill[d.toNat] = m.ticket := by
  rw [claimedLane_eq, emptyG_vFill, hvec]
  exact Vector.getElem_set_self _

end

/-! The one slot of a set. -/

theorem slotsClaimed_takePos {l : Lane} {set : Nat} {q : LandSlot} (hslots : slotsOf l set = [q]) (hfree : q.claimed = false) (ordered : Bool) :
    (slotsClaimed l set (takePos ordered q)).filter (fun p => p.set == set) = [{ q with claimed := (takePos ordered q).isSome }] := by
  unfold takePos
  split
  · have hset : q.set = set := by
      have hq : q ∈ slotsOf l set := by rw [hslots]; exact List.mem_singleton_self q
      exact beq_iff_eq.1 (List.mem_filter.1 hq).2
    rw [slotsClaimed, List.filter_map]
    have hsame : ((fun p : LandSlot => p.set == set) ∘ fun p => if p.set = set && p.pos = q.pos then { p with claimed := true } else p) =
        fun p => p.set == set := by
      funext p
      dsimp only [Function.comp]
      split <;> rfl
    rw [hsame]
    refine (congrArg (List.map _) hslots).trans ?_
    rw [List.map_singleton, if_pos (by simp [hset])]
    rfl
  · refine hslots.trans ?_
    cases q
    cases hfree
    rfl

/-- A slot that alone stands in its set goes with the whole set. -/
theorem slotsClaimed_without {l : Lane} {set : Nat} {q : LandSlot} (hslots : slotsOf l set = [q]) (pos : Option Nat) :
    ((slotsClaimed l set pos).filter fun p => !(p.set == q.set && p.pos == q.pos)) = l.land.filter fun p => decide (p.set ≠ set) := by
  have hmem {p : LandSlot} (hp : p ∈ l.land) (hset : p.set = set) : p = q := by
    have hp' : p ∈ slotsOf l set := List.mem_filter.2 ⟨hp, beq_iff_eq.2 hset⟩
    rw [hslots] at hp'
    exact List.mem_singleton.1 hp'
  have hq : q.set = set := by
    have hq : q ∈ slotsOf l set := by rw [hslots]; exact List.mem_singleton_self q
    exact beq_iff_eq.1 (List.mem_filter.1 hq).2
  have hwithout : (l.land.filter fun p => !(p.set == q.set && p.pos == q.pos)) = l.land.filter fun p => decide (p.set ≠ set) :=
    List.filter_congr fun p hp => by
      by_cases hset : p.set = set
      · rw [hmem hp hset]
        simp [hq]
      · simp [hset, hq]
  cases pos with
  | none => exact hwithout
  | some x =>
    have hsame : ((fun p : LandSlot => !(p.set == q.set && p.pos == q.pos)) ∘
        fun p => if p.set = set && p.pos = x then { p with claimed := true } else p) = fun p => !(p.set == q.set && p.pos == q.pos) := by
      funext p
      dsimp only [Function.comp]
      split <;> rfl
    rw [slotsClaimed, List.filter_map, hsame, hwithout]
    refine (List.map_congr_left fun p hp => ?_).trans (List.map_id _)
    have hother : p.set ≠ set := of_decide_eq_true (List.mem_filter.1 hp).2
    exact if_neg (by simp [hother])

section
variable {l : Lane} {m : Claim} {d t : BitVec 5} {q : LandSlot} {ordered : Bool}
  (hclaims : l.claims = []) (hslots : slotsOf l m.set = [q]) (hfree : q.claimed = false)
  (hopen : m.raised = false) (hpos : m.pos = takePos ordered q)
include hclaims hslots hfree hopen hpos

theorem oneClaim_claimedLane : OneClaim (claimedLane l m d t) m { q with claimed := (takePos ordered q).isSome } where
  claims := by
    rw [claimedLane_rest, hclaims]
    rfl
  slots := by
    rw [claimedLane_rest, hpos]
    exact slotsClaimed_takePos hslots hfree ordered
  open_ := hopen
  fits := by
    rw [hpos]
    unfold takePos
    split
    · exact .inl rfl
    · exact .inr ⟨rfl, rfl⟩

omit hclaims hfree hopen hpos in
/-- A claim bound to an arrived slot: value and tag stand in the destinations, and the set is free (R167). -/
theorem bindTo_claimedLane (hd : m.d = d.toNat) (ht : m.t = t.toNat) (hne : m.vec = false → d = t → d = 0) (claimed : Bool) :
    bindTo (claimedLane l m d t) m { q with claimed := claimed } =
      { wrG (if m.vec then wrV (claimedLane l m d t) d q.value else wrG (claimedLane l m d t) d (q.value.setWidth 64)) t (q.tag.setWidth 64) with
        land := l.land.filter (fun p => decide (p.set ≠ m.set)), claims := (claimedLane l m d t).claims.filter fun c => c.ticket != m.ticket } := by
  have hfilled : (if m.vec then fillV (claimedLane l m d t) d m.ticket q.value else fillG (claimedLane l m d t) d m.ticket (q.value.setWidth 64)) =
      if m.vec then wrV (claimedLane l m d t) d q.value else wrG (claimedLane l m d t) d (q.value.setWidth 64) := by
    split
    next hvec => exact fillV_awaited (claimedLane_awaits_v hvec) _
    next hvec => exact fillG_awaited (claimedLane_awaits_g (Bool.eq_false_iff.2 hvec)) _
  obtain ⟨x, hx⟩ : ∃ x, x = if m.vec then wrV (claimedLane l m d t) d q.value else wrG (claimedLane l m d t) d (q.value.setWidth 64) := ⟨_, rfl⟩
  have hkept : x.land = slotsClaimed l m.set m.pos ∧ x.claims = (claimedLane l m d t).claims := by
    rw [hx, claimedLane_rest]
    split <;> simp
  have hawaits : t ≠ 0 → x.gFill[t.toNat] = m.ticket := fun ht0 => by
    have hawaits := claimedLane_awaits_t (l := l) (m := m) (d := d) ht0
    rw [hx]
    split
    next => exact hawaits
    next hvec =>
      have hd0 : d = 0 ∨ d ≠ t := by
        by_cases hsame : d = t
        · exact .inl (hne (Bool.eq_false_iff.2 hvec) hsame)
        · exact .inr hsame
      obtain rfl | hdt := hd0
      · exact hawaits
      · rw [wrG_gFill_ne (Ne.symm hdt)]
        exact hawaits
  obtain ⟨hland, hclaims⟩ := hkept
  have hset : q.set = m.set := by
    have hq : q ∈ slotsOf l m.set := by rw [hslots]; exact List.mem_singleton_self q
    exact beq_iff_eq.1 (List.mem_filter.1 hq).2
  rw [bindTo, hd, ht, BitVec.ofNat_toNat, BitVec.ofNat_toNat, BitVec.setWidth_eq, BitVec.setWidth_eq]
  dsimp only
  rw [hfilled, ← hx, fillG_awaited hawaits, wrG_land, wrG_claims, hland, hclaims, slotsClaimed_without hslots]

end

/-! A take at a core. -/

/-- A core without poison in its pool keeps nothing of a fill but the strand's lane (R262). -/
theorem setFilled_sound {s : State} {r c : Nat} (h : (getCore s (coreIx r c)).poolPoison = []) (sl : Nat) (l : Lane) :
    setFilled s r c sl l = setLane s r c sl l := by
  have hcore : (getCore (setLane s r c sl l) (coreIx r c)).poolPoison.isEmpty = true := by
    rw [show getCore (setLane s r c sl l) (coreIx r c) = getCore s (coreIx r c) from rfl, h]
    rfl
  unfold setFilled
  exact if_pos hcore

/-- The state in which a take has set the strand's lane, with one identifier taken. -/
def takeLeft (x : Ctx) (s : State) (l l' : Lane) : State := setLane (x.set { s with fresh := s.fresh + 1 } l) x.r x.c x.sl l'

theorem setFilled_takeLeft {x : Ctx} {s : State} (hpoison : (getCore s x.core).poolPoison = []) (l l' : Lane) :
    setFilled (x.set { s with fresh := s.fresh + 1 } l) x.r x.c x.sl l' = takeLeft x s l l' :=
  setFilled_sound (s := x.set { s with fresh := s.fresh + 1 } l) hpoison _ _

section
variable {s st : State} {i : Instr} {c : Nat} {l' : Lane}
  (hr : LaneReady s i) (hc : c < 16) (ha : Reaches s st c)
include hr hc

theorem takeLeft_column (l : Lane) (hevents : l'.events = []) : ColumnStep s st (takeLeft (ctxAt s i c 0) st l l') c where
  frame := rfl
  lanes r k sl hk hsl hne := by
    have hne' := lane_ne hc hk hr.slot hsl hne
    exact (getLane_setLane_ne _ _ hne').trans (getLane_setLane_ne _ _ hne')
  cores _ _ := rfl
  quiet := (congrArg Lane.events (getLane_setLane _ _ _ _ _)).trans hevents

end

section
variable {x : Ctx} {s : State} {vec ordered : Bool} {d t : BitVec 5} {set : Nat} {q : LandSlot}
  (hclaims : (x.lane s).claims = []) (hslots : slotsOf (x.lane s) set = [q]) (hfree : q.claimed = false)
  (hpoison : (getCore s x.core).poolPoison = [])
include hclaims hslots hfree hpoison

theorem takeBinds_pending (hq : q.st = .pending) :
    let m := takeClaim x s vec d t set (takePos ordered q)
    takeBinds x s m d t = .done (takeLeft x s (claimedLane (x.lane s) m d t) (claimedLane (x.lane s) m d t)) := by
  intro m
  have hone : OneClaim (claimedLane (x.lane s) m d t) m _ := oneClaim_claimedLane hclaims hslots hfree rfl rfl
  unfold takeBinds
  dsimp only
  rw [hone.bindSet_pending hq]
  exact congrArg CoreOut.done (setFilled_takeLeft hpoison _ _)

theorem takeBinds_arrived (hq : q.st = .arrived) :
    let m := takeClaim x s vec d t set (takePos ordered q)
    takeBinds x s m d t = .done (takeLeft x s (claimedLane (x.lane s) m d t)
      (bindTo (claimedLane (x.lane s) m d t) m { q with claimed := (takePos ordered q).isSome })) := by
  intro m
  have hone : OneClaim (claimedLane (x.lane s) m d t) m _ := oneClaim_claimedLane hclaims hslots hfree rfl rfl
  unfold takeBinds
  dsimp only
  rw [hone.bindSet_arrived hq]
  exact congrArg CoreOut.done (setFilled_takeLeft hpoison _ _)

theorem takeBinds_poisoned (hq : q.st = .poisoned) :
    let m := takeClaim x s vec d t set (takePos ordered q)
    ∃ land claims, takeBinds x s m d t = .trap (takeLeft x s (claimedLane (x.lane s) m d t)
      { claimedLane (x.lane s) m d t with land := land, claims := claims }) (if q.cause = .poison then .poison else .landFault) (landTval q) := by
  intro m
  have hone : OneClaim (claimedLane (x.lane s) m d t) m _ := oneClaim_claimedLane hclaims hslots hfree rfl rfl
  obtain ⟨land, claims, hbind⟩ := hone.bindSet_poisoned hq 16
  refine ⟨land, claims, ?_⟩
  unfold takeBinds
  dsimp only
  rw [hbind]
  rw [← setFilled_takeLeft hpoison]
  rfl

end

/-- A take that every core does by setting the strand's lane, with one identifier taken. -/
theorem takes_of_columns {s : State} {i : Instr} {P : Lane → Lane → Prop} (hr : LaneReady s i) (hwest : westReg i = none) (hcycles : vecCycles i ≤ 1)
    (hstep : ∀ c < 16, ∀ st, Reaches s st c → s.fresh ≤ st.fresh → ∃ l l', coreExec i (ctxAt s i c 0) st = .done (takeLeft (ctxAt s i c 0) st l l') ∧
      l'.events = [] ∧ P (laneAt s c) l') :
    CoreRelNew s (issueLane i s) (goOn (me s)) fun _ l l' k k' => k' = k ∧ P l l' := by
  obtain ⟨st, hswept, ⟨hstamp, -⟩, htaken, hissue⟩ := sweeps hr hwest hcycles (inv := fun st => st.memStamp = s.memStamp ∧ s.fresh ≤ st.fresh)
    (q := fun c st => getCore st (coreIx s.curRow c) = coreAt s c ∧ P (laneAt s c) (getLane st s.curRow c s.curSlot)) ⟨rfl, le_rfl⟩
    fun c hc st _ ha ⟨hstamp, hfresh⟩ => by
      obtain ⟨l, l', hexec, hevents, hp⟩ := hstep c hc st ha hfresh
      have hcolumn : ColumnStep s st (takeLeft (ctxAt s i c 0) st l l') c := takeLeft_column hr hc l hevents
      refine ⟨_, hexec, hcolumn, ⟨hstamp, hfresh.trans (Nat.le_succ _)⟩, ⟨ha.cores c hc le_rfl, ?_⟩, fun k hk ⟨hcore, hlane⟩ => ⟨hcore, ?_⟩⟩
      · rw [show getLane (takeLeft (ctxAt s i c 0) st l l') s.curRow c s.curSlot = l' from getLane_setLane _ _ _ _ _]
        exact hp
      · rw [hcolumn.lanes _ k _ (by omega) hr.slot (by omega)]
        exact hlane
  rw [hissue]
  exact hswept.coreRelNew hr.slot hstamp _ htaken

/-- A trap at core 0 of an instruction that has set the strand's lane there, its flags kept. -/
theorem trapsAt0_of_column {s t : State} {i : Instr} {cause : Cause} {v : Word} (hr : LaneReady s i) (hcan : CanTrap s) (hcycles : vecCycles i ≤ 1)
    (hexec : exec i s = .next (issueLane i s)) (hcore : coreExec i (ctxAt s i 0 0) (leftState s i) = .trap t cause v)
    (hcolumn : ColumnStep s (leftState s i) t 0) (hestat : (getLane t s.curRow 0 s.curSlot).estat = (laneAt s 0).estat) : TrapsAt0 s i cause v := by
  have ha := reaches_left hr 0
  have hhead : getHead t s.curRow s.curSlot = headLeft s i := by
    rw [hcolumn.frame]
    exact getHead_setHead _ _ _ _
  have hlanes (k : Nat) (hk : k < 16) (hne : k ≠ 0) : getLane t s.curRow k s.curSlot = laneAt s k :=
    hcolumn.lanes _ k _ hk hr.slot (by omega)
  have hquiet (k : Nat) (hk : k < 16) : (getLane t s.curRow k s.curSlot).events = [] := by
    by_cases hne : k = 0
    · rw [hne]
      exact hcolumn.quiet
    · rw [hlanes k hk hne]
      exact hr.events hk
  have hflags : rowFlags t s.curRow s.curSlot = flagsOf s := by
    rw [← flagsOf_eq]
    refine rowFlags_congr _ _ _ _ fun k hk => ?_
    have hk : k < 16 := by simpa [upTo] using hk
    by_cases hne : k = 0
    · rw [hne, hestat]
      rfl
    · rw [hlanes k hk hne]
      rfl
  have hissue : issueLane i s = takeTrap t s.curRow s.curSlot cause 0 v (instrAddr (me s)) := by
    rw [issueLane_ready hr, ← leftState, runFlight_reaches hr ha (by decide) 15, flightTurn_reaches hr ha (by decide),
      coreStep_short hr hcycles ha (by decide), hcore]
    dsimp only
    rw [takeFirst, earliestTrap_none _ _ _ _ _ hquiet]
    rfl
  obtain ⟨hhandler, htvec, hsound⟩ := hcan
  have hready := hr
  obtain ⟨-, -, -, hwait, -⟩ := hready
  have hleft := headLeft_goOn (i := i) hwait
  have htv : (headLeft s i).tvec = (me s).tvec := (congrArg Head.tvec hleft :)
  have hpo : (headLeft s i).poison = (goOn (me s)).poison := (congrArg Head.poison hleft :)
  have hent (fl : BitVec 5) (tpc : VAddr) : entered (headLeft s i) fl cause 0 v tpc = entered (goOn (me s)) fl cause 0 v tpc :=
    (congrArg (fun h : Head => entered h fl cause 0 v tpc) hleft :)
  obtain ⟨hentered, -, -, hmem, -⟩ := takeTrap_spec t s.curRow s.curSlot cause 0 v (instrAddr (me s)) hr.slot
    (by rw [hhead, headLeft_level hr, hhandler]) (by rwa [hhead, htv]) (by rw [hhead, hpo]; exact isIn_loopHealed _ hsound)
  rw [hhead, hent, hflags] at hentered
  refine ⟨_, hexec.trans (congrArg Host.Outcome.next hissue), fun hoff => ?_, hentered⟩
  rw [hmem (by rw [hcolumn.frame]; exact hoff), hcolumn.frame]
  rfl

/-! The takes in a free row (R167, R168). -/

/-- A lane whose take has been given the slot q at once. -/
def TakenAtOnce (vec : Bool) (d t : BitVec 5) (set : Nat) (q : LandSlot) (l l' : Lane) : Prop :=
  l'.land = l.land.filter (fun r => decide (r.set ≠ set)) ∧ l'.claims = [] ∧
    l'.g = (wrG (if vec then l else wrG l d (q.value.setWidth 64)) t (q.tag.setWidth 64)).g ∧
    l'.v = (if vec then wrV l d q.value else l).v ∧ l'.m = l.m ∧ gEmpty l' t = false ∧
    (if vec then vEmpty l' d = false else gEmpty l' d = false)

/-- A lane whose take waits for its slot. -/
def TakePending (vec : Bool) (d t : BitVec 5) (set : Nat) (l l' : Lane) : Prop :=
  l'.g = l.g ∧ l'.v = l.v ∧ l'.m = l.m ∧ (t ≠ 0 → gEmpty l' t = true) ∧ (if vec then vEmpty l' d = true else d ≠ 0 → gEmpty l' d = true) ∧
    ∃ m, l'.claims = [m] ∧ m.set = set ∧ m.d = d.toNat ∧ m.t = t.toNat ∧ m.vec = vec

section
variable {l : Lane} {m : Claim} {d t : BitVec 5} {q : LandSlot}
  (hclaims : l.claims = []) (hd : m.d = d.toNat) (ht : m.t = t.toNat)
include hclaims hd ht

theorem bindTo_takenAtOnce (hslots : slotsOf l m.set = [q]) (hne : m.vec = false → d = t → d = 0) (claimed : Bool) :
    TakenAtOnce m.vec d t m.set q l (bindTo (claimedLane l m d t) m { q with claimed := claimed }) := by
  rw [bindTo_claimedLane hslots hd ht hne claimed]
  obtain ⟨x, hx⟩ : ∃ x, x = claimedLane l m d t := ⟨_, rfl⟩
  have hrest : x.g = l.g ∧ x.v = l.v ∧ x.m = l.m ∧ x.claims = [m] := by
    rw [hx, claimedLane_rest, hclaims]
    exact ⟨rfl, rfl, rfl, rfl⟩
  obtain ⟨hg, hv, hm, hone⟩ := hrest
  rw [← hx]
  refine ⟨rfl, ?_, ?_, ?_, ?_, wrG_full _ _ _, ?_⟩
  · rw [hone]
    simp
  · have hsame : (if m.vec then wrV x d q.value else wrG x d (q.value.setWidth 64)).g = (if m.vec then l else wrG l d (q.value.setWidth 64)).g := by
      split
      · exact hg
      · rw [wrG_g, wrG_g, hg]
    refine (wrG_g _ _ _).trans ?_
    rw [hsame, wrG_g]
  · refine (wrG_v _ _ _).trans ?_
    split
    · exact congrArg (fun v => v.set d.toNat q.value) hv
    · rw [wrG_v, hv]
  · refine (wrG_m _ _ _).trans ?_
    split
    · exact hm
    · rw [wrG_m, hm]
  · split
    next hvec =>
      have hfull : vEmpty (wrV x d q.value) d = false := by
        rw [vEmpty, wrV, Vector.getElem_set_self]
        rfl
      rw [← hfull]
      exact congrArg (fun v => v[d.toNat] != 0) (wrG_vFill _ _ _)
    next hvec =>
      by_cases hsame : d = t
      · rw [hsame]
        exact wrG_full _ _ _
      · have hfull := wrG_full x d (q.value.setWidth 64)
        rw [gEmpty, ← wrG_gFill_ne hsame (q.tag.setWidth 64)] at hfull
        exact hfull

theorem claimedLane_takePending (hticket : 0 < m.ticket) : TakePending m.vec d t m.set l (claimedLane l m d t) := by
  have hrest : (claimedLane l m d t).g = l.g ∧ (claimedLane l m d t).v = l.v ∧ (claimedLane l m d t).m = l.m ∧ (claimedLane l m d t).claims = [m] := by
    rw [claimedLane_rest, hclaims]
    exact ⟨rfl, rfl, rfl, rfl⟩
  obtain ⟨hg, hv, hm, hone⟩ := hrest
  refine ⟨hg, hv, hm, fun ht0 => ?_, ?_, m, hone, rfl, hd, ht, rfl⟩
  · rw [gEmpty, claimedLane_awaits_t ht0]
    exact Bool.and_eq_true_iff.2 ⟨bne_iff_ne.2 ht0, bne_iff_ne.2 hticket.ne'⟩
  · split
    next hvec =>
      rw [vEmpty, claimedLane_awaits_v hvec]
      exact bne_iff_ne.2 hticket.ne'
    next hvec =>
      intro hd0
      rw [gEmpty, claimedLane_awaits_g (Bool.eq_false_iff.2 hvec) hd0]
      exact Bool.and_eq_true_iff.2 ⟨bne_iff_ne.2 hd0, bne_iff_ne.2 hticket.ne'⟩

end

section
variable {s : State} {i : Instr} {vec ordered : Bool} {d t : BitVec 5} {set : BitVec 2}
  (hcore : ∀ c st, coreExec i (ctxAt s i c 0) st = takeOp (ctxAt s i c 0) st vec ordered d t set)
  (hwest : westReg i = none) (hcycles : vecCycles i ≤ 1) (hr : LaneReady s i)
  (hfree : ∀ c < 16, (laneAt s c).claims = [] ∧ (coreAt s c).poolPoison = [])
include hcore hwest hcycles hr

theorem takes_none (hnone : ∀ c < 16, slotsOf (laneAt s c) set.toNat = []) :
    LaneDone s (issueLane i s) fun c => wrG (laneAt s c) t (BitVec.allOnes 64) := by
  refine laneDone_of_columns hr hwest hcycles (fun c hc => (wrG_events _ _ _).trans (hr.events hc)) fun c hc st ha => .inl ?_
  have hl : (ctxAt s i c 0).lane st = laneAt s c := ha.lanes c hc le_rfl _ hr.slot
  rw [hcore, takeOp_eq, hl, freeSlots, hnone c hc]
  exact if_pos (Nat.zero_le _)

include hfree

theorem takes_arrived (hne : vec = false → d = t → d = 0)
    (harrived : ∀ c < 16, ∃ q, slotsOf (laneAt s c) set.toNat = [q] ∧ q.st = .arrived ∧ q.claimed = false) :
    CoreRelNew s (issueLane i s) (goOn (me s)) fun _ l l' k k' =>
      k' = k ∧ ∀ q, slotsOf l set.toNat = [q] → TakenAtOnce vec d t set.toNat q l l' := by
  refine takes_of_columns hr hwest hcycles (P := fun l l' => ∀ q, slotsOf l set.toNat = [q] → TakenAtOnce vec d t set.toNat q l l')
    fun c hc st ha _ => ?_
  obtain ⟨q, hslots, hst, hclaimed⟩ := harrived c hc
  obtain ⟨hclaims, hpoison⟩ := hfree c hc
  have hl : (ctxAt s i c 0).lane st = laneAt s c := ha.lanes c hc le_rfl _ hr.slot
  have hpoison' : (getCore st (ctxAt s i c 0).core).poolPoison = [] := by
    rw [show getCore st (ctxAt s i c 0).core = coreAt s c from ha.cores c hc le_rfl, hpoison]
  rw [← hl] at hclaims hslots
  have htaken := bindTo_takenAtOnce (m := takeClaim (ctxAt s i c 0) st vec d t set.toNat (takePos ordered q)) hclaims rfl rfl hslots hne
    (takePos ordered q).isSome
  refine ⟨_, _, ((hcore c st).trans (takeOp_one hclaims hslots hclaimed)).trans (takeBinds_arrived hclaims hslots hclaimed hpoison' hst), ?_, ?_⟩
  · rw [bindTo_events, claimedLane_events, hl]
    exact hr.events hc
  · rw [← hl]
    intro q' hq'
    obtain rfl : q = q' := by
      rw [hslots] at hq'
      exact List.singleton_inj.1 hq'
    exact htaken

theorem takes_pending (hfresh : 0 < s.fresh)
    (hpending : ∀ c < 16, ∃ q, slotsOf (laneAt s c) set.toNat = [q] ∧ q.st = .pending ∧ q.claimed = false) :
    CoreRelNew s (issueLane i s) (goOn (me s)) fun _ l l' k k' => k' = k ∧ TakePending vec d t set.toNat l l' := by
  refine takes_of_columns hr hwest hcycles (P := TakePending vec d t set.toNat) fun c hc st ha hlater => ?_
  obtain ⟨q, hslots, hst, hclaimed⟩ := hpending c hc
  obtain ⟨hclaims, hpoison⟩ := hfree c hc
  have hl : (ctxAt s i c 0).lane st = laneAt s c := ha.lanes c hc le_rfl _ hr.slot
  have hpoison' : (getCore st (ctxAt s i c 0).core).poolPoison = [] := by
    rw [show getCore st (ctxAt s i c 0).core = coreAt s c from ha.cores c hc le_rfl, hpoison]
  rw [← hl] at hclaims hslots
  refine ⟨_, _, ((hcore c st).trans (takeOp_one hclaims hslots hclaimed)).trans (takeBinds_pending hclaims hslots hclaimed hpoison' hst), ?_, ?_⟩
  · rw [claimedLane_events, hl]
    exact hr.events hc
  · rw [← hl]
    exact claimedLane_takePending (m := takeClaim (ctxAt s i c 0) st vec d t set.toNat (takePos ordered q)) hclaims rfl rfl (by
      show 0 < st.fresh
      omega)

omit hwest in
theorem takes_poisoned (hexec : exec i s = .next (issueLane i s)) {q : LandSlot} (hslots : slotsOf (laneAt s 0) set.toNat = [q]) (hst : q.st = .poisoned)
    (hclaimed : q.claimed = false) (hcan : CanTrap s) :
    TrapsAt0 s i (if q.cause = .poison then .poison else .landFault) (landTval q) := by
  obtain ⟨hclaims, hpoison⟩ := hfree 0 (by decide)
  obtain ⟨land, claims, hbinds⟩ := takeBinds_poisoned (x := ctxAt s i 0 0) (s := leftState s i) (vec := vec) (ordered := ordered) (d := d) (t := t)
    hclaims hslots hclaimed hpoison hst
  have htrap := ((hcore 0 _).trans (takeOp_one (x := ctxAt s i 0 0) (s := leftState s i) hclaims hslots hclaimed)).trans hbinds
  refine trapsAt0_of_column hr hcan hcycles hexec htrap (takeLeft_column (c := 0) (l' := _) hr (Nat.zero_lt_succ 15) _ ?_) ?_
  · exact (claimedLane_events _ _ _ _).trans (hr.events (Nat.zero_lt_succ 15))
  · exact (congrArg Lane.estat (getLane_setLane _ _ _ _ _)).trans (claimedLane_estat _ _ _ _)

end

/-- The destinations of a take into g registers differ, or the value goes nowhere (R167). -/
theorem takeSame_of_wellFormed {s : State} {i : Instr} {d t : BitVec 5} {set : BitVec 2} (hr : LaneReady s i)
    (hi : i = .take d t set ∨ i = .takeo d t set) : d = t → d = 0 := by
  obtain ⟨-, -, -, -, -, -, -, hlegal, -⟩ := hr
  have hwf : i.wellFormed = true := by
    simp only [laneLegal, Bool.and_eq_true] at hlegal
    obtain ⟨⟨⟨hwf, -⟩, -⟩, -⟩ := hlegal
    exact hwf
  have hnone : (if d = t && d != 0 then some IllFormed.takeSame else none) = none := by
    obtain rfl | rfl := hi
    · exact Option.isNone_iff_eq_none.1 hwf
    · exact Option.isNone_iff_eq_none.1 hwf
  intro hsame
  by_contra hd
  rw [if_pos (Bool.and_eq_true_iff.2 ⟨decide_eq_true hsame, bne_iff_ne.2 hd⟩)] at hnone
  cases hnone

/-- Settles O42: a take on the one slot of its set makes its claim, which is bound, stays or traps by the slot's state; the sweep joins the
columns. -/
theorem takes : Obligations.Takes := by
  unfold Obligations.Takes
  intro s t d set hfresh hfree slots hd takes
  have htakes {i : Instr} {vec ordered : Bool} (hexec : exec i s = .next (issueLane i s)) (hwest : westReg i = none) (hcycles : vecCycles i ≤ 1)
      (hcore : ∀ c st, coreExec i (ctxAt s i c 0) st = takeOp (ctxAt s i c 0) st vec ordered d t set)
      (hne : LaneReady s i → vec = false → d = t → d = 0) : takes i vec := fun hr =>
    ⟨fun hnone => ⟨_, hexec, takes_none hcore hwest hcycles hr hnone⟩,
      fun harrived => ⟨_, hexec, takes_arrived hcore hwest hcycles hr hfree (hne hr) harrived⟩,
      fun hpending => ⟨_, hexec, takes_pending hcore hwest hcycles hr hfree hfresh hpending⟩,
      fun _ hslots hst hclaimed hcan => takes_poisoned hcore hcycles hr hfree hexec hslots hst hclaimed hcan⟩
  exact ⟨htakes (ordered := false) rfl rfl (Nat.zero_le 1) (fun _ _ => rfl) fun hr _ => takeSame_of_wellFormed hr (.inl rfl),
    htakes (ordered := true) rfl rfl (Nat.zero_le 1) (fun _ _ => rfl) fun hr _ => takeSame_of_wellFormed hr (.inr rfl),
    htakes (ordered := false) rfl rfl (Nat.zero_le 1) (fun _ _ => rfl) fun _ hvec => nomatch hvec⟩

end Sys2Proof.Machine
end

section
/-! PROOFS. Accesses, atomics and releases at their homes (O50). -/

namespace Sys2Proof.Machine

/-! Stamps (R323). -/

/-- A state that differs in what memory and the observers have of device ordering alone. -/
structure StampsOnly (s t : State) : Prop where
  frame : t = { s with heads := t.heads, lanes := t.lanes, memStamp := t.memStamp }
  heads : ∀ r sl, ∃ stamp hold, getHead t r sl = { getHead s r sl with stamp := stamp, hold := hold }
  lanes : ∀ r c sl, ∃ stamp hold, getLane t r c sl = { getLane s r c sl with stamp := stamp, hold := hold }

theorem StampsOnly.refl (s : State) : StampsOnly s s := ⟨rfl, fun _ _ => ⟨_, _, rfl⟩, fun _ _ _ => ⟨_, _, rfl⟩⟩

theorem StampsOnly.trans {s t u : State} (hst : StampsOnly s t) (htu : StampsOnly t u) : StampsOnly s u where
  frame := htu.frame.trans (congrArg (fun v : State => { v with heads := u.heads, lanes := u.lanes, memStamp := u.memStamp }) hst.frame :)
  heads r sl := by
    obtain ⟨_, _, ht⟩ := hst.heads r sl
    obtain ⟨x, y, hu⟩ := htu.heads r sl
    exact ⟨x, y, by rw [hu, ht]⟩
  lanes r c sl := by
    obtain ⟨_, _, ht⟩ := hst.lanes r c sl
    obtain ⟨x, y, hu⟩ := htu.lanes r c sl
    exact ⟨x, y, by rw [hu, ht]⟩

theorem stampsOnly_learnStamp (s : State) (q : Req) (st : Vector Nat 4) : StampsOnly s (learnStamp s q st) := by
  unfold learnStamp
  split
  · exact .refl s
  · dsimp only
    split
    · refine ⟨rfl, fun _ _ => ⟨_, _, rfl⟩, fun r c sl => ?_⟩
      by_cases hsame : coreIx r c * 8 + sl = coreIx q.row q.col * 8 + q.strand
      · have hlane (x : State) : getLane x r c sl = getLane x q.row q.col q.strand := by rw [getLane, getLane, hsame]
        rw [hlane, hlane, modLane, getLane_setLane]
        exact ⟨_, _, rfl⟩
      · rw [modLane, getLane_setLane_ne _ _ hsame]
        exact ⟨_, _, rfl⟩
    · refine ⟨rfl, fun r sl => ?_, fun _ _ _ => ⟨_, _, rfl⟩⟩
      by_cases hsame : 8 * r + sl = 8 * q.row + q.strand
      · have hhead (x : State) : getHead x r sl = getHead x q.row q.strand := by rw [getHead, getHead, hsame]
        rw [hhead, hhead, modHead, getHead_setHead]
        exact ⟨_, _, rfl⟩
      · rw [modHead, getHead_setHead_ne _ _ hsame]
        exact ⟨_, _, rfl⟩

/-- What an observer at a core learns stands at the core. -/
theorem learnStamp_heads {q : Req} (hcol : q.col < 16) (s : State) (st : Vector Nat 4) : (learnStamp s q st).heads = s.heads := by
  unfold learnStamp
  split
  · rfl
  · rfl

theorem learnStamp_zero (s : State) (q : Req) : learnStamp s q (Vector.replicate 4 0) = s := if_pos rfl

theorem stampsOnly_leaveStamp (s : State) (ws : List Nat) (st : Vector Nat 4) : StampsOnly s (leaveStamp s ws st) := by
  obtain ⟨m, hm⟩ := leaveStamp_eq s ws st
  rw [hm]
  exact ⟨rfl, fun _ _ => ⟨_, _, rfl⟩, fun _ _ _ => ⟨_, _, rfl⟩⟩

theorem stampsOnly_noteWrite (s : State) (q : Req) : StampsOnly s (noteWrite s q) :=
  (stampsOnly_leaveStamp _ _ _).trans (stampsOnly_learnStamp _ _ _)

theorem stampsOnly_noteRead (s : State) (q : Req) : StampsOnly s (noteRead s q) := by
  unfold noteRead
  split
  · exact .refl s
  · exact stampsOnly_learnStamp _ _ _

/-- A write of no number leaves the observers as they are. -/
theorem noteWrite_unnumbered {q : Req} (hx : q.xnum = 0) (s : State) : (noteWrite s q).heads = s.heads ∧ (noteWrite s q).lanes = s.lanes := by
  rw [noteWrite, if_pos hx, learnStamp_zero]
  obtain ⟨m, hm⟩ := leaveStamp_eq s (writtenWords q) (ownStamp q)
  rw [hm]
  exact ⟨rfl, rfl⟩

/-! Answers (R333). -/

/-- A home's answer replaces the request and takes a packet number at most. -/
theorem answerReq_eq (s : State) (q : Req) : ∃ b pkts, answerReq s q =
    { s with reqs := s.reqs.map (fun p => if p.id = q.id then { q with back := b } else p), pkts := pkts } := by
  unfold answerReq
  split
  · exact ⟨_, s.pkts, rfl⟩
  · exact ⟨_, _, rfl⟩

/-! Bytes of an access. -/

/-- The memory once the first n bytes of an access have been written, those that are active, each at its place. -/
def writeBytes (place : Nat → Nat) (byte : Nat → Byte) (act : Nat → Bool) (n : Nat) (m : List Host.Cell) : List Host.Cell :=
  (List.range n).foldl (fun m o => if act o then memWr m (place o) (byte o) else m) m

section
variable (place : Nat → Nat) (byte : Nat → Byte) (act : Nat → Bool) (m : List Host.Cell)

theorem writeBytes_succ (n : Nat) : writeBytes place byte act (n + 1) m =
    if act n then memWr (writeBytes place byte act n m) (place n) (byte n) else writeBytes place byte act n m := by
  rw [writeBytes, List.range_succ, List.foldl_append]
  rfl

theorem memRd_writeBytes_out {n x : Nat} (hx : ∀ o < n, act o = true → x ≠ place o) : memRd (writeBytes place byte act n m) x = memRd m x := by
  induction n with
  | zero => rfl
  | succ n ih =>
    have hrest := ih fun o ho => hx o (by omega)
    rw [writeBytes_succ]
    split
    next hact => rw [memRd_memWr_ne _ _ (hx n (Nat.lt_succ_self n) hact), hrest]
    next => exact hrest

theorem memRd_writeBytes_in {n o : Nat} (hplace : ∀ i < n, ∀ j < n, place i = place j → i = j) (ho : o < n) (hact : act o = true) :
    memRd (writeBytes place byte act n m) (place o) = byte o := by
  induction n with
  | zero => omega
  | succ n ih =>
    rw [writeBytes_succ]
    by_cases hlast : o = n
    · rw [← hlast, if_pos hact, memRd_memWr_same]
    · have hrest := ih (fun i hi j hj => hplace i (by omega) j (by omega)) (by omega)
      split
      · rw [memRd_memWr_ne _ _ fun h => hlast (hplace o (by omega) n (by omega) h), hrest]
      · exact hrest

end

/-- The bytes of a number built from its digits. -/
theorem digit_of_foldr (n : Nat) : ∀ d : Nat → Nat, (∀ i, d i < 256) → ∀ o < n,
    (List.range n).foldr (fun i acc => d i + 256 * acc) 0 / 2 ^ (8 * o) % 256 = d o := by
  induction n with
  | zero => intro d _ o ho; omega
  | succ n ih =>
    intro d hd o ho
    rw [List.range_succ_eq_map, List.foldr_cons, List.foldr_map]
    cases o with
    | zero =>
      rw [Nat.mul_zero, Nat.pow_zero, Nat.div_one, Nat.add_mul_mod_self_left, Nat.mod_eq_of_lt (hd 0)]
    | succ o =>
      have hpow : 2 ^ (8 * (o + 1)) = 256 * 2 ^ (8 * o) := by
        rw [Nat.mul_succ, Nat.pow_add, Nat.mul_comm]
      rw [hpow, ← Nat.div_div_eq_div_mul, Nat.add_mul_div_left _ _ (by decide : 0 < 256), Nat.div_eq_of_lt (hd 0), Nat.zero_add]
      exact ih (fun i => d (i + 1)) (fun i => hd (i + 1)) o (by omega)

/-- Where the bytes of a short range stand no two coincide, in host windows too: a page of the host stands in one piece (R338). -/
theorem hostAt_inj {s : State} {rid pa : Nat} {i j : Nat} (hi : i < 128) (hj : j < 128) (h : hostAt s rid (pa + i) = hostAt s rid (pa + j)) : i = j := by
  have hmod (a : Nat) : hostAt s rid a % 4096 = a % 4096 := by
    have hpa (b : Nat) : hostPa b % 4096 = b % 4096 := by
      unfold hostPa
      split <;> omega
    unfold hostAt
    split
    next hhost =>
      rw [busAt, hpa]
      have hbig : 2 ^ 50 ≤ a := by
        by_contra hsmall
        have hcellar : regionOf a = .cellar := if_pos (Nat.div_eq_of_lt (by omega))
        rw [hcellar] at hhost
        cases hhost
      omega
    · rfl
  have hi' := hmod (pa + i)
  have hj' := hmod (pa + j)
  rw [h] at hi'
  omega

/-! An access to a location that no key and no poison touch, its others done. -/

theorem foldl_mem {s : State} {f : State → Nat → State} {g : List Host.Cell → Nat → List Host.Cell} : ∀ {l : List Nat},
    (∀ m, ∀ o ∈ l, f { s with mem := m } o = { s with mem := g m o }) → ∀ m, l.foldl f { s with mem := m } = { s with mem := l.foldl g m }
  | [], _, _ => rfl
  | o :: l, h, m => by
    rw [List.foldl_cons, h m o List.mem_cons_self, List.foldl_cons]
    exact foldl_mem (fun m o ho => h m o (List.mem_cons_of_mem _ ho)) _

/-- The only request with an identifier, in one piece at pa, of a memory without keys and poison, while every other request is done. -/
structure AtHome (s : State) (pa : Nat) (q : Req) : Prop where
  found : findReq s q.id = some q
  segs : q.segs = [(pa, q.size)]
  some_ : 0 < q.size
  fits : q.size ≤ 128
  sound : s.memPoison = []
  unkeyed : s.memKeys = []
  plain : q.attr.enc = false
  single : s.reqs.filter (fun p => decide (p.id = q.id)) = [q]
  others : ∀ p ∈ s.reqs, p.id ≠ q.id → p.st = .performed ∧ p.acq = false

section
variable {s : State} {pa : Nat} {q : Req} (ha : AtHome s pa q)
include ha

theorem AtHome.only {p : Req} (hp : p ∈ s.reqs) (hid : p.id = q.id) : p = q := by
  have hmem : p ∈ s.reqs.filter fun p => decide (p.id = q.id) := List.mem_filter.2 ⟨hp, decide_eq_true hid⟩
  rw [ha.single] at hmem
  exact List.mem_singleton.1 hmem

theorem AtHome.firstPa : firstPa q = pa := by
  rw [Machine.firstPa, ha.segs]
  rfl

theorem AtHome.older {p : Req} (hp : p ∈ olderReqs s q.id) : p.st = .performed ∧ p.acq = false := by
  have hmem : p ∈ s.reqs := (List.takeWhile_sublist _).subset hp
  have hid : (p.id != q.id) = true := List.mem_takeWhile_imp (p := fun p : Req => p.id != q.id) hp
  exact ha.others p hmem (bne_iff_ne.1 hid)

/-- Where byte o of the access stands. -/
theorem AtHome.bytePa {o : Nat} (ho : o < q.size) : bytePa s q o = hostAt s q.vf (pa + o) := by
  rw [Machine.bytePa, ha.segs, segPa, if_pos ho]

theorem AtHome.keyAt {o : Nat} (ho : o < q.size) : keyAt q (reqKeys s q) o = none := by
  have hkey : attrKey s q.attr = none := if_neg (by rw [ha.plain]; decide)
  rw [Machine.keyAt, ha.segs, reqKeys, hkey]
  exact if_pos ho

theorem AtHome.byteActive_iff (o : Nat) : byteActive q o = true ↔ (q.size = 128 → q.mask.getLsbD (o / 4) = true) := by
  have := ha.fits
  rw [byteActive, Bool.or_eq_true, decide_eq_true_eq]
  constructor
  · rintro (h | h) h128
    · omega
    · exact h
  · intro h
    by_cases h128 : q.size = 128
    · exact .inr (h h128)
    · exact .inl (by omega)

/-- A write changes the active bytes of its location and nothing else. -/
theorem AtHome.writeReq : Machine.writeReq s q = { s with
    mem := writeBytes (fun o => hostAt s q.vf (pa + o)) (fun o => BitVec.ofNat 8 (q.data.toNat / 2 ^ (8 * o))) (byteActive q) q.size s.mem } := by
  have hfold := foldl_mem (s := s) (g := fun m o => if byteActive q o then memWr m (hostAt s q.vf (pa + o)) (BitVec.ofNat 8 (q.data.toNat / 2 ^ (8 * o)))
      else m) (f := fun s' o => if byteActive q o then physWr s' (Machine.keyAt q (reqKeys s q) o) (Machine.bytePa s' q o)
      (BitVec.ofNat 8 (q.data.toNat / 2 ^ (8 * o))) else s') (l := List.range q.size) (fun m o ho => by
    have ho := List.mem_range.1 ho
    split
    · rw [ha.keyAt ho, show Machine.bytePa { s with mem := m } q o = Machine.bytePa s q o from rfl, ha.bytePa ho]
      simp [physWr, ha.unkeyed, tdel]
    · rfl) s.mem
  rw [Machine.writeReq]
  refine (if_pos ?_).trans hfold
  exact (congrArg (fun x : State => x.memPoison.isEmpty) hfold).trans (by rw [ha.sound]; rfl)

theorem AtHome.physRd {o : Nat} (ho : o < q.size) :
    Machine.physRd s (Machine.keyAt q (reqKeys s q) o) (Machine.bytePa s q o) = memRd s.mem (hostAt s q.vf (pa + o)) := by
  rw [ha.keyAt ho, ha.bytePa ho, physRd_none ha.unkeyed]

/-- What a read returns, byte by byte. -/
theorem AtHome.readReq {o : Nat} (ho : o < q.size) : BitVec.ofNat 8 ((Machine.readReq s q).toNat / 2 ^ (8 * o)) =
    if byteActive q o then memRd s.mem (hostAt s q.vf (pa + o)) else BitVec.ofNat 8 (q.data.toNat / 2 ^ (8 * o)) := by
  have hfits := ha.fits
  have hdigits : (Machine.readReq s q).toNat = (List.range q.size).foldr (fun i acc => (if byteActive q i then
      (memRd s.mem (hostAt s q.vf (pa + i))).toNat else q.data.toNat / 2 ^ (8 * i) % 256) + 256 * acc) 0 % 2 ^ (8 * 128) := by
    rw [Machine.readReq, BitVec.toNat_ofNat]
    refine congrArg (· % _) (List.foldr_ext _ _ _ fun i hi acc => ?_)
    rw [ha.physRd (List.mem_range.1 hi)]
  rw [hdigits, byte_of_truncated (by omega)]
  refine BitVec.eq_of_toNat_eq ?_
  rw [BitVec.toNat_ofNat, digit_of_foldr q.size _ (fun i => ?_) o ho]
  · split
    · rfl
    · rw [BitVec.toNat_ofNat]
  · split
    · exact BitVec.isLt _
    · exact Nat.mod_lt _ (by decide)

/-- Nothing older holds an access back (R160, R318). -/
theorem AtHome.mayPerform (hrows : rowsUnread s q.row q.col q.strand q.id = [])
    (hread : readsToo q = true → stampApplied s (issuerHold s q) = true) : Machine.mayPerform s q = true := by
  have hdone {p : Req} (hp : p ∈ olderReqs s q.id) : reqDone p = true ∧ acqOpen p = false := by
    obtain ⟨hst, hacq⟩ := ha.older hp
    rw [reqDone, acqOpen, hst, hacq]
    exact ⟨rfl, rfl⟩
  have hall : ((olderReqs s q.id).all fun p =>
      !(sameObserver p q && plainKind p.kind && (acqOpen p || (!reqDone p && overlaps p q && !setAside s q.handler p))) &&
        (reqDone p || !isIn p.id q.after)) = true := by
    refine List.all_eq_true.2 fun p hp => ?_
    obtain ⟨hreq, hacq⟩ := hdone hp
    rw [hreq, hacq]
    simp
  have hstamps : (!readsToo q || stampApplied s (issuerHold s q)) = true := by
    cases hr : readsToo q
    · rfl
    · exact hread hr
  rw [Machine.mayPerform, hall, hrows, hstamps]
  simp

theorem AtHome.stampOk : Machine.stampOk s q = true := by
  have hall : ((olderReqs s q.id).all fun p => p.xnum == 0 || reqDone p || (q.stamp.toList.getD (srcDie p) 0) < p.xnum) = true := by
    refine List.all_eq_true.2 fun p hp => ?_
    obtain ⟨hst, -⟩ := ha.older hp
    have hdone : reqDone p = true := by rw [reqDone, hst]
    rw [hdone]
    simp
  rw [Machine.stampOk, hall]
  exact Bool.or_true _

/-- An access on its way, its packets' way open, within its bound, that no row to be read stands before. -/
def OnWay (s : State) (q : Req) : Prop :=
  q.st = .sent ∧ reachable s q = true ∧ expired s q = false ∧ rowsUnread s q.row q.col q.strand q.id = []

theorem AtHome.ready (hway : OnWay s q) (hread : readsToo q = true → stampApplied s (issuerHold s q) = true) : Machine.ready s q = true := by
  obtain ⟨hst, hreach, hexp, hrows⟩ := hway
  rw [Machine.ready, hst, ha.mayPerform hrows hread, hreach, hexp]
  rfl

/-! A plain access is performed (R248, R317). -/

/-- The request's place among the requests is taken by another, with what the home's answer takes. -/
def Becomes (s t : State) (q q' : Req) : Prop := ∃ b, t.reqs = s.reqs.map fun p => if p.id = q.id then { q' with back := b } else p

/-- No register changes. -/
def RegsKept (s t : State) : Prop :=
  t.cores = s.cores ∧ (∀ r sl, (getHead t r sl).h = (getHead s r sl).h ∧ (getHead t r sl).pc = (getHead s r sl).pc) ∧
    ∀ r c sl, (getLane t r c sl).g = (getLane s r c sl).g ∧ (getLane t r c sl).v = (getLane s r c sl).v ∧
      (getLane t r c sl).m = (getLane s r c sl).m

omit ha in
/-- A state that a home's answer and stamps have made of another. -/
theorem regsKept_of_stamps {u t : State} (hheads : u.heads = s.heads) (hlanes : u.lanes = s.lanes) (hcores : u.cores = s.cores)
    (h : StampsOnly u t) : RegsKept s t := by
  have hhead (r sl : Nat) : getHead u r sl = getHead s r sl := by rw [getHead, getHead, hheads]
  have hlane (r c sl : Nat) : getLane u r c sl = getLane s r c sl := by rw [getLane, getLane, hlanes]
  refine ⟨?_, fun r sl => ?_, fun r c sl => ?_⟩
  · rw [h.frame]
    exact hcores
  · obtain ⟨_, _, ht⟩ := h.heads r sl
    rw [ht, hhead]
    exact ⟨rfl, rfl⟩
  · obtain ⟨_, _, ht⟩ := h.lanes r c sl
    rw [ht, hlane]
    exact ⟨rfl, rfl, rfl⟩

/-- A read at its home, not of a peer. -/
theorem AtHome.performPlain_read (hkind : isWriteKind q.kind = false) (hregion : regionOf pa ≠ .peer) :
    let t := performPlain s q
    t.mem = s.mem ∧ RegsKept s t ∧ (s.memStamp = [] → t.heads = s.heads ∧ t.lanes = s.lanes) ∧
      Becomes s t q { q with st := .performed, data := Machine.readReq s q } := by
  intro t
  have hbad : firstBad s q = none := if_pos (by rw [ha.sound]; rfl)
  obtain ⟨b, pkts, hanswer⟩ := answerReq_eq s { q with st := .performed, data := Machine.readReq s q }
  have ht : t = noteRead (answerReq s { q with st := .performed, data := Machine.readReq s q }) q := by
    show performPlain s q = _
    unfold performPlain
    dsimp only
    rw [ha.firstPa, hkind, hbad]
    simp [hregion]
  have hstamps := stampsOnly_noteRead (answerReq s { q with st := .performed, data := Machine.readReq s q }) q
  rw [← ht] at hstamps
  have hframe := hstamps.frame
  rw [hanswer] at hframe
  refine ⟨?_, ?_, fun hnone => ?_, b, ?_⟩
  · rw [hframe]
  · exact regsKept_of_stamps (by rw [hanswer]) (by rw [hanswer]) (by rw [hanswer]) hstamps
  · have hplain : t = answerReq s { q with st := .performed, data := Machine.readReq s q } := by
      rw [ht, noteRead]
      exact if_pos (by rw [hanswer]; exact List.isEmpty_iff.2 hnone)
    rw [hplain, hanswer]
    exact ⟨rfl, rfl⟩
  · rw [hframe]

/-- A write at its home, not of a peer. -/
theorem AtHome.performPlain_write (hkind : isWriteKind q.kind = true) (hregion : regionOf pa ≠ .peer) :
    let t := performPlain s q
    t.mem = (Machine.writeReq s q).mem ∧ RegsKept s t ∧ (q.xnum = 0 → t.heads = s.heads ∧ t.lanes = s.lanes) ∧ Becomes s t q { q with st := .performed } := by
  intro t
  have hnarrow : narrowPoison s q = false := by
    rw [narrowPoison, ha.sound]
    rfl
  obtain ⟨b, pkts, hanswer⟩ := answerReq_eq (Machine.writeReq s q) { q with st := .performed }
  have ht : t = noteWrite (answerReq (Machine.writeReq s q) { q with st := .performed }) q := by
    show performPlain s q = _
    unfold performPlain
    dsimp only
    rw [ha.firstPa, hkind, hnarrow]
    simp [hregion]
  rw [ha.writeReq] at hanswer ht
  have hstamps := stampsOnly_noteWrite (answerReq (Machine.writeReq s q) { q with st := .performed }) q
  rw [ha.writeReq] at hstamps
  rw [← ht] at hstamps
  have hframe := hstamps.frame
  rw [hanswer] at hframe
  refine ⟨?_, ?_, fun hx => ?_, b, ?_⟩
  · rw [hframe, ha.writeReq]
  · exact regsKept_of_stamps (by rw [hanswer]) (by rw [hanswer]) (by rw [hanswer]) hstamps
  · obtain ⟨hheads, hlanes⟩ := noteWrite_unnumbered hx _
    rw [ht, hheads, hlanes, hanswer]
    exact ⟨rfl, rfl⟩
  · rw [hframe]

/-! The events of plain accesses (R248, R322, R344). -/

/-- An access of the load and store path but PUBLISH. -/
def PlainAccess (k : ReqKind) : Prop := k = .load ∨ k = .landing ∨ k = .headLoad ∨ k = .store ∨ k = .headStore

theorem AtHome.exec_vaultAccess (hkind : PlainAccess q.kind) (hregion : regionOf pa = .cellar) (hdie : crossDie q = false)
    (hready : Machine.ready s q = true) : exec (.vaultAccess q.id) s = .next (performPlain s q) := by
  change execVaultAccess q.id s = _
  rw [execVaultAccess, ha.found]
  dsimp only
  rw [ha.firstPa, hregion, hdie, hready, if_neg (by decide), if_neg (by decide)]
  obtain h | h | h | h | h := hkind <;> rw [h] <;> rfl

theorem AtHome.exec_vaultAccess_reserved (hregion : regionOf pa = .reserved) : exec (.vaultAccess q.id) s = .fault (.reservedPhysical pa) := by
  change execVaultAccess q.id s = _
  rw [execVaultAccess, ha.found]
  dsimp only
  rw [ha.firstPa]
  exact if_pos hregion

theorem AtHome.exec_crossDieWrite (hkind : q.kind = .store ∨ q.kind = .headStore) (hdie : crossDie q = true) (hready : Machine.ready s q = true) :
    exec (.crossDieWrite q.id) s = .next (performPlain s q) := by
  change execCrossDieWrite q.id s = _
  rw [execCrossDieWrite, ha.found]
  dsimp only
  rw [hdie, hready, ha.stampOk]
  obtain h | h := hkind <;> rw [h] <;> rfl

theorem AtHome.exec_deviceHostWrite (hkind : q.kind = .store ∨ q.kind = .headStore) (hregion : regionOf pa = .host)
    (hready : Machine.ready s q = true) : exec (.deviceHostWrite q.id) s = .next (performPlain s q) := by
  change execDeviceHostWrite q.id s = _
  rw [execDeviceHostWrite, ha.found]
  dsimp only
  rw [ha.firstPa, hregion, hready, if_neg (by decide)]
  obtain h | h := hkind <;> rw [h] <;> rfl

theorem AtHome.exec_deviceHostRead (hkind : q.kind = .load ∨ q.kind = .landing ∨ q.kind = .headLoad) (hregion : regionOf pa = .host)
    (hready : Machine.ready s q = true) (hbefore : hostReadsBefore s (pa / 2 ^ 30 % 4) q.since (olderReqs s q.id) < 256) :
    exec (.deviceHostRead q.id) s = .next (performPlain s q) := by
  change execDeviceHostRead q.id s = _
  rw [execDeviceHostRead, ha.found]
  dsimp only
  rw [ha.firstPa, hregion, hready, if_neg (by decide), decide_eq_true hbefore]
  obtain h | h | h := hkind <;> rw [h] <;> rfl

/-- PUBLISH increments its counter in host memory (R137). -/
theorem AtHome.exec_publish (hkind : q.kind = .publish) (hregion : regionOf pa = .host) (hready : Machine.ready s q = true) :
    Completes (exec (.deviceHostWrite q.id) s) fun t =>
      t.mem = memWrN s.mem (hostAt s q.vf pa) 8 (memRdN s.mem (hostAt s q.vf pa) 8 + 1) ∧ Becomes s t q { q with st := .performed } := by
  have hplace : Machine.bytePa s q 0 = hostAt s q.vf pa := ha.bytePa ha.some_
  have hwrite : physWrN s none (hostAt s q.vf pa) 8 (physRdN s none (hostAt s q.vf pa) 8 + 1) =
      { s with mem := memWrN s.mem (hostAt s q.vf pa) 8 (memRdN s.mem (hostAt s q.vf pa) 8 + 1) } := by
    rw [physWrN_none ha.unkeyed, physRdN_none ha.unkeyed]
  obtain ⟨b, pkts, hanswer⟩ := answerReq_eq (physWrN s none (hostAt s q.vf pa) 8 (physRdN s none (hostAt s q.vf pa) 8 + 1)) { q with st := .performed }
  refine ⟨noteWrite (answerReq (physWrN s none (hostAt s q.vf pa) 8 (physRdN s none (hostAt s q.vf pa) 8 + 1)) { q with st := .performed }) q, ?_, ?_⟩
  · change execDeviceHostWrite q.id s = _
    rw [execDeviceHostWrite, ha.found]
    dsimp only
    rw [ha.firstPa, hregion, hready, hkind, if_neg (by decide)]
    dsimp only
    rw [hplace]
    rfl
  · have hframe := (stampsOnly_noteWrite (answerReq (physWrN s none (hostAt s q.vf pa) 8 (physRdN s none (hostAt s q.vf pa) 8 + 1)) { q with st := .performed }) q).frame
    rw [hanswer, hwrite] at hframe
    rw [hanswer, hwrite, hframe]
    exact ⟨rfl, b, rfl⟩

/-! Atomic operations and reductions (R172 to R174, R312). -/

/-- What an operation reads at its home. -/
def atomOld (s : State) (pa : Nat) (q : Req) : Nat := memRdN s.mem pa q.size

/-- The operand of an operation. -/
def atomArg (q : Req) : Nat := q.data.toNat % 2 ^ (8 * q.size)

/-- Does an operation write (R173)? -/
def atomHits (s : State) (pa : Nat) (q : Req) : Bool := q.kind != .cas || atomOld s pa q == q.expect.toNat % 2 ^ (8 * q.size)

/-- What an operation writes (R172). -/
def atomNew (s : State) (pa : Nat) (q : Req) : Nat :=
  if q.kind = .cas then atomArg q else amoNew q.op q.size (atomOld s pa q) (atomArg q)

omit ha in
theorem atomHits_cas (h : q.kind = .cas) : atomHits s pa q = (atomOld s pa q == q.expect.toNat % 2 ^ (8 * q.size)) := by
  rw [atomHits, h]
  rfl

omit ha in
theorem atomHits_other (h : q.kind ≠ .cas) : atomHits s pa q = true := by
  rw [atomHits, bne_iff_ne.2 h]
  rfl

omit ha in
theorem unitEnter_eq (u : State) (q : Req) (w : Word) : ∃ cores peerWin, unitEnter u q w = { u with cores := cores, peerWin := peerWin } := by
  unfold unitEnter
  split
  · exact ⟨_, u.peerWin, rfl⟩
  · exact ⟨_, u.peerWin, rfl⟩
  · exact ⟨u.cores, _, rfl⟩
  · exact ⟨u.cores, u.peerWin, rfl⟩

omit ha in
theorem stampsOnly_noteAtom (u : State) (q : Req) (wrote : Bool) : StampsOnly u (noteAtom u q wrote) := by
  have hread : StampsOnly u (if q.kind = .red then u else noteRead u q) := by
    split
    · exact .refl u
    · exact stampsOnly_noteRead u q
  unfold noteAtom
  dsimp only
  split
  · exact hread.trans (stampsOnly_noteWrite _ q)
  · exact hread

omit ha in
theorem noteAtom_heads (hcol : q.col < 16) (u : State) (wrote : Bool) : (noteAtom u q wrote).heads = u.heads := by
  have hread : (if q.kind = .red then u else noteRead u q).heads = u.heads := by
    unfold noteRead
    split
    · rfl
    · split
      · rfl
      · exact learnStamp_heads hcol _ _
  have hwrite (v : State) : (noteWrite v q).heads = v.heads := by
    obtain ⟨m, hm⟩ := leaveStamp_eq v (writtenWords q) (ownStamp q)
    rw [noteWrite, learnStamp_heads hcol, hm]
  unfold noteAtom
  dsimp only
  split
  · rw [hwrite, hread]
  · exact hread

omit ha in
/-- The last column's acceptance ends the commit: the region ends, and the head goes on (R165). -/
theorem acceptHead_only {h : Head} {k : Commit} {c : Nat} (hcommit : h.commit = some k) (hcol : k.flight.col = 16) (hleft : k.left = [c])
    (hwait : h.wait = .no) :
    let h' := { h with commit := none }
    acceptHead c h = { acceptedHead h' with flights := h'.flights, detSeq := h'.detSeq + if isReduction k.flight.instr then 1 else 0 } := by
  intro h'
  have hleft' : (k.left.filter (· != c)).isEmpty = true := by
    rw [hleft]
    simp
  have haccept : acceptHead c h = finishCommit { h with commit := some { k with left := k.left.filter (· != c) } } := by
    rw [acceptHead, hcommit]
    exact if_pos (by rw [hcol, hleft']; rfl)
  have hgo := acceptedHead_eq (h := h') hwait h'.why
  obtain ⟨r, hr⟩ : ∃ r, r = openRegion (seqNext h') := ⟨_, rfl⟩
  have hkept : r.flights = h'.flights ∧ r.detSeq = h'.detSeq := by
    rw [hr]
    unfold seqNext endLoop
    dsimp only
    split
    · split <;> exact ⟨rfl, rfl⟩
    · exact ⟨rfl, rfl⟩
  obtain ⟨hflights, hseq⟩ := hkept
  have hfinish : finishCommit { h with commit := some { k with left := k.left.filter (· != c) } } =
      { r with why := 0, stepDue := r.stepMode && !r.handler, detSeq := r.detSeq + if isReduction k.flight.instr then 1 else 0 } := by
    rw [hr]
    rfl
  have hgo' : acceptedHead h' = { r with why := 0, stepDue := r.stepMode && !r.handler } := by
    rw [hr]
    exact hgo
  rw [haccept, hfinish, hgo', ← hflights, ← hseq]

/-- An operation at its unit that has not been there. -/
theorem AtHome.applyAtom (hregion : regionOf pa = .cellar) (hnew : unitSeen s q = none) (hdet : q.kind = .red → q.attr.det = false) :
    Machine.applyAtom s q = noteAtom (answered (unitEnter { s with
      mem := if atomHits s pa q then memWrN s.mem pa q.size (atomNew s pa q) else s.mem } q (BitVec.ofNat 64 (atomOld s pa q))) q
        (BitVec.ofNat 64 (atomOld s pa q))) q (atomHits s pa q) := by
  have hplace : Machine.bytePa s q 0 = pa := by
    rw [ha.bytePa ha.some_, hostAt, Nat.add_zero, hregion]
    exact if_neg (by decide)
  have hbad : physBad s pa q.size = none := by
    rw [physBad, ha.sound]
    exact Option.map_eq_none_iff.2 (List.find?_eq_none.2 fun _ _ => Bool.false_ne_true)
  have hkey : attrKey s q.attr = none := if_neg (by rw [ha.plain]; decide)
  have hheld : ¬ (q.kind = .red && q.attr.det && q.task != noTask) = true := by
    by_cases hred : q.kind = .red
    · simp [hdet hred]
    · simp [hred]
  rw [Machine.applyAtom, hnew, hplace]
  dsimp only
  rw [hregion, if_neg (show ¬ (decide (Region.cellar = .peer) && _) = true from Bool.false_ne_true), hbad]
  dsimp only
  rw [if_neg hheld, hkey, physRdN_none ha.unkeyed, physWrN_none ha.unkeyed]
  have hmem (c : Prop) [Decidable c] (m : List Host.Cell) : (if c then { s with mem := m } else s) = { s with mem := if c then m else s.mem } := by
    split <;> rfl
  rw [hmem]
  rfl

/-- An operation at its unit is applied once, answered with the old value, and accepted (R172 to R174, R312). -/
theorem AtHome.exec_reductionApply (hway : OnWay s q) (hcol : q.col < 16) (hregion : regionOf pa = .cellar) (hsize : q.size ≤ 8)
    (hkind : q.kind = .amo ∨ q.kind = .cas ∨ q.kind = .red) (hread : readsToo q = true → stampApplied s (issuerHold s q) = true)
    (hport : portFree s (coreIx q.row q.col) q.port q.seq = true) (hnew : unitSeen s q = none) (hdet : q.kind = .red → q.attr.det = false)
    {k : Commit} (hcommit : (getHead s q.row q.strand).commit = some k) (hcolumn : k.left = [q.col]) (hops : tget k.ops q.col [] = [q.id]) :
    Completes (exec (.reductionApply q.id) s) fun t =>
      t.mem = (if atomHits s pa q then memWrN s.mem pa q.size (atomNew s pa q) else s.mem) ∧
      Becomes s t q { q with st := .performed, data := BitVec.ofNat 1024 (atomOld s pa q) } ∧
      getHead t q.row q.strand = acceptHead q.col (getHead s q.row q.strand) := by
  have hexec : exec (.reductionApply q.id) s = .next (Machine.applyAtom s q) := by
    have hready := ha.ready hway hread
    obtain ⟨hst, -⟩ := hway
    change execReductionApply q.id s = _
    rw [execReductionApply, ha.found]
    dsimp only
    rw [hready, ha.stampOk, seqTurn, hport, hst]
    obtain h | h | h := hkind <;> rw [h] <;> rfl
  rw [ha.applyAtom hregion hnew hdet] at hexec
  refine ⟨_, hexec, ?_⟩
  have hsmall : (BitVec.ofNat 64 (atomOld s pa q)).setWidth 1024 = BitVec.ofNat 1024 (atomOld s pa q) := by
    have hlt : atomOld s pa q < 2 ^ 64 := (memRdN_lt _ _ _).trans_le (Nat.pow_le_pow_right (by decide) (by omega))
    exact BitVec.eq_of_toNat_eq (by rw [BitVec.toNat_setWidth, BitVec.toNat_ofNat, BitVec.toNat_ofNat, Nat.mod_eq_of_lt hlt])
  obtain ⟨cores, peerWin, hunit⟩ := unitEnter_eq { s with mem := if atomHits s pa q then memWrN s.mem pa q.size (atomNew s pa q) else s.mem } q
    (BitVec.ofNat 64 (atomOld s pa q))
  rw [hunit, answered, hsmall]
  obtain ⟨b, pkts, hanswer⟩ := answerReq_eq { s with
    mem := if atomHits s pa q then memWrN s.mem pa q.size (atomNew s pa q) else s.mem, cores := cores, peerWin := peerWin }
    { q with st := .performed, data := BitVec.ofNat 1024 (atomOld s pa q) }
  rw [hanswer]
  obtain ⟨u, hu⟩ : ∃ u, u = ({ s with
    mem := if atomHits s pa q then memWrN s.mem pa q.size (atomNew s pa q) else s.mem, cores := cores, peerWin := peerWin,
    reqs := s.reqs.map fun p => if p.id = q.id then { q with st := .performed, data := BitVec.ofNat 1024 (atomOld s pa q), back := b } else p,
    pkts := pkts } : State) := ⟨_, rfl⟩
  have hhead : getHead u q.row q.strand = getHead s q.row q.strand := by
    rw [hu]
    rfl
  have haccept : acceptReq u q = setHead u q.row q.strand (acceptHead q.col (getHead s q.row q.strand)) := by
    rw [acceptReq, modHead, hhead, hcommit]
    dsimp only
    rw [hcolumn, hops, if_pos (by simp [isIn])]
  have hframe := (stampsOnly_noteAtom (acceptReq u q) q (atomHits s pa q)).frame
  have hheads := noteAtom_heads hcol (acceptReq u q) (atomHits s pa q)
  have ht : getHead (noteAtom (acceptReq u q) q (atomHits s pa q)) q.row q.strand = acceptHead q.col (getHead s q.row q.strand) := by
    rw [getHead, hheads, haccept]
    exact getHead_setHead u q.row q.strand _
  change _ ∧ _ ∧ _
  rw [← hu]
  refine ⟨?_, ⟨b, ?_⟩, ht⟩
  · rw [hframe, haccept, hu]
    rfl
  · rw [hframe, haccept, hu]
    rfl

/-! Releases (R324). -/

omit ha in
theorem list_all_congr {α : Type} {l : List α} {f g : α → Bool} (h : ∀ x ∈ l, f x = g x) : l.all f = l.all g := by
  rw [Bool.eq_iff_iff, List.all_eq_true, List.all_eq_true]
  exact forall₂_congr fun x hx => by rw [h x hx]

omit ha in
theorem list_any_congr {α : Type} {l : List α} {f g : α → Bool} (h : ∀ x ∈ l, f x = g x) : l.any f = l.any g := by
  rw [List.any_eq_not_all_not, List.any_eq_not_all_not, list_all_congr fun x hx => congrArg (!·) (h x hx)]

omit ha in
/-- The only request with an identifier is replaced by one that a property holds of alike. -/
theorem all_replaced {q' : Req} {l : List Req} (honly : ∀ p ∈ l, p.id = q.id → p = q) {f : Req → Bool} (hsame : f q' = f q) :
    (l.map fun p => if p.id = q.id then q' else p).all f = l.all f := by
  rw [List.all_map]
  refine list_all_congr fun p hp => (apply_ite f _ _ _).trans ?_
  split
  next hid => rw [honly p hp hid, hsame]
  next => rfl

omit ha in
/-- The requests older than one stay as they are where it is replaced. -/
theorem takeWhile_replaced {q' : Req} (hid : q'.id = q.id) (l : List Req) :
    (l.map fun p => if p.id = q.id then q' else p).takeWhile (fun p => p.id != q.id) = l.takeWhile fun p => p.id != q.id := by
  induction l with
  | nil => rfl
  | cons p ps ih =>
    rw [List.map_cons, List.takeWhile_cons, List.takeWhile_cons, ih]
    by_cases hp : p.id = q.id
    · simp [hp, hid]
    · simp [hp]

omit ha in
theorem setAside_performed {p : Req} (hst : p.st = .performed) (s : State) (handler : Bool) : setAside s handler p = false := by
  rw [setAside, parked, hst]
  simp

/-- Two states that differ in the groups that writes have touched, in requests and packet numbers alone. -/
structure TouchedOnly (s t : State) : Prop where
  frame : t = { s with lanes := t.lanes, reqs := t.reqs, pkts := t.pkts }
  lanes : ∀ r c sl, ∃ touched, getLane t r c sl = { getLane s r c sl with touched := touched }

/-- A release waits for the same accesses once its probes are under way. -/
theorem AtHome.releaseWaits_probing {t : State} {st : ReqState} {since : Nat} {probes : Tbl Pkt} (h : TouchedOnly s t)
    (hreqs : t.reqs = s.reqs.map fun p => if p.id = q.id then { q with st := st, since := since, probes := probes } else p)
    (hopen : reqDone q = false) (hopen' : reqDone { q with st := st, since := since, probes := probes } = false) :
    releaseWaits t { q with st := st, since := since, probes := probes } = releaseWaits s q := by
  have hframe := h.frame
  have holder : olderReqs t q.id = olderReqs s q.id := by
    rw [olderReqs, hreqs]
    exact takeWhile_replaced (q := q) (q' := { q with st := st, since := since, probes := probes }) rfl _
  have hrows : rowsUnread t q.row q.col q.strand q.id = rowsUnread s q.row q.col q.strand q.id := by
    rw [hframe]
    rfl
  obtain ⟨touched, hlane⟩ := h.lanes q.row q.col q.strand
  have hissuer : issuerStamp t q = issuerStamp s q := by
    have hhead : getHead t q.row q.strand = getHead s q.row q.strand := by
      rw [hframe]
      rfl
    rw [issuerStamp, issuerStamp, hlane, hhead]
  have hrecord : recordHolds t q = recordHolds s q := by
    rw [recordHolds, recordHolds, hlane]
  have hstamp (x : Vector Nat 4) : stampApplied t x = stampApplied s x := by
    rw [stampApplied, stampApplied, hreqs]
    refine all_replaced (fun p => ha.only) ?_
    rw [hopen, hopen']
    rfl
  have hwaits : releaseWaits t { q with st := st, since := since, probes := probes } = releaseWaits t q := rfl
  rw [hwaits, releaseWaits, releaseWaits, holder, hrows, hissuer, hrecord, hstamp]
  refine congrArg (fun b => b || _ || _ || _) (list_any_congr fun p hp => ?_)
  obtain ⟨hst, -⟩ := ha.older hp
  rw [setAside_performed hst, setAside_performed hst]

omit ha in
theorem touch_eq (s : State) (q : Req) : ∃ lanes, touch s q = { s with lanes := lanes } := by
  unfold touch
  split
  · exact ⟨_, rfl⟩
  · exact ⟨s.lanes, rfl⟩

omit ha in
/-- A request that leaves is on its way, and memory stays as it is. -/
theorem sendReq_sent {u : State} (hq : ∃ p ∈ u.reqs, p.id = q.id) :
    (sendReq u q).mem = u.mem ∧ ∃ q' ∈ (sendReq u q).reqs, q'.id = q.id ∧ q'.st = .sent := by
  obtain ⟨p, hp, hid⟩ := hq
  obtain ⟨sx, n, hnumber⟩ := numberX_eq u { q with stamp := issuerStamp u q }
  obtain ⟨pk, o, hpkt⟩ := numberPkt_eq { u with sentX := sx } { q with stamp := issuerStamp u q, xnum := n }
  have hsent (v : State) (q' : Req) (hreqs : v.reqs = u.reqs) (hid' : q'.id = q.id) :
      ∃ x ∈ (putReq (if isWriteKind q'.kind then touch v q' else v) { q' with st := .sent }).reqs, x.id = q.id ∧ x.st = .sent := by
    obtain ⟨lanes, htouch⟩ := touch_eq v q'
    refine ⟨_, mem_putReq (p := p) ?_ (hid.trans hid'.symm), hid', rfl⟩
    rw [htouch]
    split <;> exact hreqs ▸ hp
  have hmem (v : State) (q' : Req) : (putReq (if isWriteKind q'.kind then touch v q' else v) { q' with st := .sent }).mem = v.mem := by
    obtain ⟨lanes, htouch⟩ := touch_eq v q'
    rw [htouch]
    split <;> rfl
  rw [sendReq, stampReq, hnumber]
  dsimp only
  rw [hpkt]
  dsimp only
  split
  · exact ⟨hmem _ _, hsent _ _ rfl rfl⟩
  · exact ⟨hmem _ _, hsent _ _ rfl rfl⟩

/-- A probed release goes once nothing that it waits for is outstanding. -/
theorem AtHome.pushReleases {t : State} {q' : Req}
    (hreqs : t.reqs = s.reqs.map fun p => if p.id = q.id then q' else p) :
    Machine.pushReleases t = if q'.st = .probing [] ∧ releaseWaits t q' = false then sendReq t q' else t := by
  have hprobed : (t.reqs.filter fun p => p.st == .probing []) = if q'.st = .probing [] then [q'] else [] := by
    rw [hreqs, List.filter_map]
    by_cases hst : q'.st = .probing []
    · have hmine : (s.reqs.filter ((fun p : Req => p.st == .probing []) ∘ fun p => if p.id = q.id then q' else p)) =
          s.reqs.filter fun p => decide (p.id = q.id) := by
        refine List.filter_congr fun p hp => (apply_ite (fun x : Req => x.st == .probing []) _ _ _).trans ?_
        by_cases hid : p.id = q.id
        · rw [if_pos hid, hst, decide_eq_true hid]
          rfl
        · obtain ⟨hdone, -⟩ := ha.others p hp hid
          rw [if_neg hid, hdone, decide_eq_false hid]
          rfl
      rw [hmine, ha.single, List.map_singleton, if_pos rfl, if_pos hst]
    · have hnone : (s.reqs.filter ((fun p : Req => p.st == .probing []) ∘ fun p => if p.id = q.id then q' else p)) = [] := by
        refine List.filter_eq_nil_iff.2 fun p hp => ?_
        dsimp only [Function.comp]
        by_cases hid : p.id = q.id
        · rw [if_pos hid, beq_iff_eq]
          exact hst
        · obtain ⟨hdone, -⟩ := ha.others p hp hid
          rw [if_neg hid, hdone]
          decide
      rw [hnone, if_neg hst]
      rfl
  rw [Machine.pushReleases, hprobed]
  by_cases hst : q'.st = .probing []
  · rw [if_pos hst, List.foldl_cons, List.foldl_nil]
    cases hwaits : releaseWaits t q'
    · rw [if_neg (by decide), if_pos ⟨hst, rfl⟩]
    · rw [if_pos rfl, if_neg fun h => by cases h.2]
  · rw [if_neg hst, if_neg fun h => hst h.1]
    rfl

/-- A release whose probes are under way: it goes where none is left and nothing that it waits for is outstanding. -/
theorem AtHome.pushReleases_probing {t : State} {gs : List Nat} {since : Nat} {probes : Tbl Pkt} (h : TouchedOnly s t)
    (hreqs : t.reqs = s.reqs.map fun p => if p.id = q.id then { q with st := .probing gs, since := since, probes := probes } else p)
    (hopen : reqDone q = false) :
    (Machine.pushReleases t).mem = s.mem ∧ ∃ q' ∈ (Machine.pushReleases t).reqs, q'.id = q.id ∧
      q'.st = if gs = [] ∧ releaseWaits s q = false then .sent else .probing gs := by
  have hwaits := ha.releaseWaits_probing h hreqs hopen rfl
  have hmem : t.mem = s.mem := by
    rw [h.frame]
  have hin : { q with st := .probing gs, since := since, probes := probes } ∈ t.reqs := by
    have hq : q ∈ s.reqs := List.mem_of_find?_eq_some ha.found
    rw [hreqs]
    exact List.mem_map.2 ⟨q, hq, if_pos rfl⟩
  rw [ha.pushReleases hreqs, hwaits]
  by_cases hgo : gs = [] ∧ releaseWaits s q = false
  · obtain ⟨hsame, q', hq', hid, hst⟩ := sendReq_sent (u := t) (q := { q with st := .probing gs, since := since, probes := probes }) ⟨_, hin, rfl⟩
    rw [if_pos hgo, if_pos ⟨congrArg ReqState.probing hgo.1, hgo.2⟩]
    exact ⟨hsame.trans hmem, q', hq', hid, hst⟩
  · rw [if_neg hgo, if_neg fun h => hgo ⟨ReqState.probing.inj h.1, h.2⟩]
    exact ⟨hmem, _, hin, rfl, rfl⟩

theorem AtHome.olderWrites : Machine.olderWrites s q = [] := by
  refine List.filter_eq_nil_iff.2 fun p hp => ?_
  obtain ⟨hst, -⟩ := ha.older hp
  have hdone : reqDone p = true := by rw [reqDone, hst]
  rw [hdone]
  simp

omit ha in
/-- Packets that leave a source take numbers alone. -/
theorem foldl_newPkt (code : Nat) (gs : List Nat) : ∀ (u : State) (t : Tbl Pkt), ∃ pkts probes,
    gs.foldl (fun (s, t) g =>
      let (s, p) := newPkt s code
      (s, tput t g p)) (u, t) = ({ u with pkts := pkts }, probes) := by
  induction gs with
  | nil => exact fun u t => ⟨u.pkts, t, rfl⟩
  | cons g gs ih =>
    intro u t
    obtain ⟨pkts, probes, h⟩ := ih (newPkt u code).1 (tput t g (newPkt u code).2)
    exact ⟨pkts, probes, h⟩

omit ha in
theorem touchedOnly_untouched (u : State) (r c sl : Nat) (reqs : List Req) (pkts) :
    TouchedOnly u { modLane u r c sl fun l => { l with touched := 0 } with reqs := reqs, pkts := pkts } where
  frame := rfl
  lanes r' c' sl' := by
    show ∃ touched, getLane (modLane u r c sl fun l => { l with touched := 0 }) r' c' sl' = _
    by_cases hsame : coreIx r' c' * 8 + sl' = coreIx r c * 8 + sl
    · have hlane (x : State) : getLane x r' c' sl' = getLane x r c sl := by rw [getLane, getLane, hsame]
      rw [hlane, hlane, modLane, getLane_setLane]
      exact ⟨_, rfl⟩
    · rw [modLane, getLane_setLane_ne _ _ hsame]
      exact ⟨_, rfl⟩

/-- A held release sends its probes, and goes at once where it has none to send and nothing to wait for (R324). -/
theorem AtHome.exec_releaseProbe (hst : q.st = .held) (hcol : q.col < 16) :
    let groups := (List.range 64).filter fun g => (getLane s q.row q.col q.strand).touched.getLsbD g
    Completes (exec (.releaseProbe q.id) s) fun t => t.mem = s.mem ∧ ∃ q' ∈ t.reqs, q'.id = q.id ∧
      q'.st = if groups = [] ∧ releaseWaits s q = false then .sent else .probing groups := by
  intro groups
  have hgroups : probeGroups s q = groups := if_pos hcol
  have hopen : reqDone q = false := by rw [reqDone, hst]
  obtain ⟨pkts, probes, hfold⟩ := foldl_newPkt (srcCode q) groups (modLane s q.row q.col q.strand fun l => { l with touched := 0 }) []
  refine ⟨Machine.pushReleases (putReq { modLane s q.row q.col q.strand fun l => { l with touched := 0 } with pkts := pkts }
    { q with st := .probing groups, since := s.now, probes := probes }), ?_, ?_⟩
  · change execReleaseProbe q.id s = _
    rw [execReleaseProbe, ha.found]
    dsimp only
    rw [ha.olderWrites, hst, hgroups, if_pos hcol, hfold]
    rfl
  · exact ha.pushReleases_probing (touchedOnly_untouched s q.row q.col q.strand _ pkts) rfl hopen

/-- A group's answer to a release: it goes with the last one, where nothing that it waits for is outstanding (R324). -/
theorem AtHome.exec_probeAnswer {g : Nat} {gs : List Nat} (hst : q.st = .probing gs) (hlost : (tget q.probes g Pkt.new).lost = false)
    (hroute : routeOpen s (srcCode q) (groupRouter g) = true) (hexp : expired s q = false) :
    Completes (exec (.probeAnswer q.id g) s) fun t => t.mem = s.mem ∧ ∃ q' ∈ t.reqs, q'.id = q.id ∧
      q'.st = if gs.filter (· != g) = [] ∧ releaseWaits s q = false then .sent else .probing (gs.filter (· != g)) := by
  have hopen : reqDone q = false := by rw [reqDone, hst]
  refine ⟨Machine.pushReleases (putReq s { q with st := .probing (gs.filter (· != g)) }), ?_, ?_⟩
  · change execProbeAnswer q.id g s = _
    rw [execProbeAnswer, ha.found]
    dsimp only
    rw [hst]
    dsimp only
    rw [hlost, hroute, hexp, ha.olderWrites]
    rfl
  · exact ha.pushReleases_probing (since := q.since) (probes := q.probes) ⟨rfl, fun _ _ _ => ⟨_, rfl⟩⟩ rfl hopen

/-- The bytes that a read returns: those that stand there, and where an element is inactive its own. -/
theorem AtHome.readReq_byte {o : Nat} (ho : o < q.size) : BitVec.ofNat 8 ((Machine.readReq s q).toNat / 2 ^ (8 * o)) =
    if q.size = 128 ∧ q.mask.getLsbD (o / 4) = false then BitVec.ofNat 8 (q.data.toNat / 2 ^ (8 * o)) else memRd s.mem (hostAt s q.vf (pa + o)) := by
  rw [ha.readReq ho]
  by_cases hinactive : q.size = 128 ∧ q.mask.getLsbD (o / 4) = false
  · obtain ⟨hsize, hbit⟩ := hinactive
    rw [if_neg fun hact => by simp [(ha.byteActive_iff o).1 hact hsize] at hbit, if_pos ⟨hsize, hbit⟩]
  · rw [if_pos ((ha.byteActive_iff o).2 fun hsize => by simpa [hsize] using hinactive), if_neg hinactive]

/-- A write changes exactly its active bytes, each at its place. -/
theorem AtHome.writeReq_bytes :
    (∀ o, o < q.size ∧ (q.size = 128 → q.mask.getLsbD (o / 4) = true) →
      memRd (Machine.writeReq s q).mem (hostAt s q.vf (pa + o)) = BitVec.ofNat 8 (q.data.toNat / 2 ^ (8 * o))) ∧
    ∀ x, (∀ o, o < q.size ∧ (q.size = 128 → q.mask.getLsbD (o / 4) = true) → x ≠ hostAt s q.vf (pa + o)) →
      memRd (Machine.writeReq s q).mem x = memRd s.mem x := by
  have hfits := ha.fits
  rw [ha.writeReq]
  refine ⟨fun o ⟨ho, hact⟩ => ?_, fun x hx => ?_⟩
  · exact memRd_writeBytes_in (fun o => hostAt s q.vf (pa + o)) _ _ _ (fun i hi j hj h => hostAt_inj (by omega) (by omega) h) ho
      ((ha.byteActive_iff o).2 hact)
  · exact memRd_writeBytes_out _ _ _ _ fun o ho hact => hx o ⟨ho, (ha.byteActive_iff o).1 hact⟩

omit ha in
/-- What an operation leaves at its location. -/
theorem atom_memory {m : List Host.Cell}
    (hm : m = if atomHits s pa q then memWrN s.mem pa q.size (atomNew s pa q) else s.mem) :
    memRdN m pa q.size = (if atomHits s pa q then atomNew s pa q else atomOld s pa q) % 2 ^ (8 * q.size) ∧
      ∀ x, x < pa ∨ pa + q.size ≤ x → memRd m x = memRd s.mem x := by
  rw [hm]
  split
  · exact ⟨memRdN_memWrN_same _ _ _ _, fun x hx => memRd_memWrN_out _ _ _ _ _ hx⟩
  · exact ⟨(Nat.mod_eq_of_lt (memRdN_lt _ _ _)).symm, fun _ _ => rfl⟩

end

/-- The new value of an operation, kept to its bytes (R172). -/
theorem amoNew_mod (op : AmoOp) (n old b : Nat) : amoNew op n old b % 2 ^ (8 * n) = (match op with
    | .add => old + b
    | .and => old &&& b
    | .or => old ||| b
    | .xor => old ^^^ b
    | .min => if sext old (8 * n) ≤ sext b (8 * n) then old else b
    | .max => if sext b (8 * n) ≤ sext old (8 * n) then old else b
    | .minn => min old b
    | .maxn => max old b
    | .swap => b
    | .fadd => (Fmt.f32.round .rne (vadd false (Fmt.f32.decode old) (Fmt.f32.decode b)).1).1) % 2 ^ (8 * n) := by
  cases op
  case add => exact Nat.mod_mod _ _
  case minn => exact congrArg (· % _) Nat.min_def.symm
  case maxn =>
    refine congrArg (· % _) ?_
    show (if b ≤ old then old else b) = _
    rw [Nat.max_comm, Nat.max_def]
  all_goals rfl

/-- Settles O50: a home performs an access whose turn has come; what stands there is read or replaced byte by byte, and a release goes with
its last probe. -/
theorem homes : Obligations.Homes := by
  unfold Obligations.Homes
  intro s id pa q hfound hsingle hsegs hsome hfits hsound hunkeyed hplain hothers active byte becomes place kept reads written writes onWay plain store
  obtain rfl : q.id = id := by simpa using List.find?_some hfound
  have ha : AtHome s pa q := ⟨hfound, hsegs, hsome, hfits, hsound, hunkeyed, hplain, hsingle, hothers⟩
  have hcellar (h : regionOf pa = .cellar) : regionOf pa ≠ .peer := by rw [h]; decide
  have hhost (h : regionOf pa = .host) : regionOf pa ≠ .peer := by rw [h]; decide
  have hloads (h : plain) : isWriteKind q.kind = false := by obtain h | h | h := h <;> rw [h] <;> rfl
  have hstores (h : store) : isWriteKind q.kind = true ∧ readsToo q = false := by obtain h | h := h <;> rw [readsToo, h] <;> exact ⟨rfl, rfl⟩
  have hreads {i : Instr} (hkind : plain) (hregion : regionOf pa ≠ .peer)
      (hexec : stampApplied s (issuerHold s q) = true → exec i s = .next (performPlain s q)) : reads i := fun hstamp => by
    obtain ⟨hmem, hregs, hquiet, hbecomes⟩ := ha.performPlain_read (hloads hkind) hregion
    exact ⟨_, hexec hstamp, hmem, hregs, hquiet, _, hbecomes, fun o ho => ha.readReq_byte ho⟩
  have hwrites {i : Instr} (hkind : store) (hregion : regionOf pa ≠ .peer) (hexec : exec i s = .next (performPlain s q)) : writes i := by
    obtain ⟨hmem, hregs, hquiet, hbecomes⟩ := ha.performPlain_write (hstores hkind).1 hregion
    refine ⟨_, hexec, ?_, hbecomes, hregs, hquiet⟩
    show (∀ o, active o → memRd (performPlain s q).mem (place o) = byte q.data o) ∧ _
    rw [hmem]
    exact ha.writeReq_bytes
  have hready (hway : onWay) (hkind : store) : Machine.ready s q = true :=
    ha.ready hway fun hread => by simp [(hstores hkind).2] at hread
  refine ⟨fun hway hregion => ⟨fun hkind => ?_, fun hkind hdie => ?_, fun hkind hdie => ?_⟩, fun hway hregion => ⟨fun hkind hbefore => ?_,
    fun hkind => ?_, fun hkind _ => ?_⟩, ha.exec_vaultAccess_reserved, ?_, fun hst _ hcol _ _ => ha.exec_releaseProbe hst hcol, ?_⟩
  · refine hreads hkind (hcellar hregion) fun hstamp => ha.exec_vaultAccess ?_ hregion ?_ (ha.ready hway fun _ => hstamp)
    · obtain h | h | h := hkind <;> simp [PlainAccess, h]
    · rw [crossDie, hloads hkind]
      rfl
  · refine hwrites hkind (hcellar hregion) (ha.exec_vaultAccess ?_ hregion hdie (hready hway hkind))
    obtain h | h := hkind <;> simp [PlainAccess, h]
  · exact hwrites hkind (hcellar hregion) (ha.exec_crossDieWrite hkind hdie (hready hway hkind))
  · exact hreads hkind (hhost hregion) fun hstamp => ha.exec_deviceHostRead hkind hregion (ha.ready hway fun _ => hstamp) hbefore
  · exact hwrites hkind (hhost hregion) (ha.exec_deviceHostWrite hkind hregion (hready hway hkind))
  · obtain ⟨t, hexec, hmem, hbecomes⟩ := ha.exec_publish hkind hregion (ha.ready hway fun hread => by simp [readsToo, hkind, isWriteKind] at hread)
    refine ⟨t, hexec, ?_, fun x hx => ?_, hbecomes⟩
    · rw [hmem]
      exact memRdN_memWrN_same _ _ _ _
    · rw [hmem]
      exact memRd_memWrN_out _ _ _ _ _ hx
  · intro hway hcol hregion hsize hnew hport hstamp k hcommit hflight hleft hops hwait
    have happlies (hkind : q.kind = .amo ∨ q.kind = .cas ∨ q.kind = .red) (hdet : q.kind = .red → q.attr.det = false) :=
      ha.exec_reductionApply hway hcol hregion (by omega) hkind (fun hread => hstamp.resolve_left fun hred => by
        simp [readsToo, hred, isWriteKind] at hread) hport hnew hdet hcommit hleft hops
    have hhead := acceptHead_only hcommit hflight hleft hwait
    intro w old b h applies
    have hgives {new : Nat} (hkind : q.kind = .amo ∨ q.kind = .cas ∨ q.kind = .red) (hdet : q.kind = .red → q.attr.det = false)
        (hvalue : (if atomHits s pa q then atomNew s pa q else atomOld s pa q) % 2 ^ w = new % 2 ^ w) : applies new := by
      obtain ⟨t, hexec, hmem, hbecomes, haccepted⟩ := happlies hkind hdet
      obtain ⟨hin, hout⟩ := atom_memory hmem
      exact ⟨t, hexec, hin.trans hvalue, hout, hbecomes, haccepted.trans hhead⟩
    refine ⟨fun hcas => hgives (.inr (.inl hcas)) (fun hred => by rw [hcas] at hred; cases hred) ?_, fun hkind => ?_⟩
    · rw [atomHits_cas hcas, atomNew, if_pos hcas]
      simp only [beq_iff_eq]
      rfl
    · have hnot : q.kind ≠ .cas := by obtain h | ⟨h, -⟩ := hkind <;> rw [h] <;> decide
      refine hgives (hkind.imp_right fun h => .inr h.1) (fun hred => ?_) ?_
      · obtain h | ⟨-, hdet⟩ := hkind
        · rw [h] at hred
          cases hred
        · exact hdet
      · rw [atomHits_other hnot, if_pos rfl, atomNew, if_neg hnot]
        exact amoNew_mod _ _ _ _
  · intro g gs hst hlost hroute hexp _ _ _ _
    obtain ⟨t, hexec, hmem, q', hq', hid, hst'⟩ := ha.exec_probeAnswer hst hlost hroute hexp
    have hfilter : gs.filter (· != g) = gs.filter fun x => decide (x ≠ g) := List.filter_congr fun _ _ => (decide_not (p := _ = _)).symm
    have hlast : gs.filter (fun x => decide (x ≠ g)) = [] ↔ (gs.all fun x => x == g) = true := by simp
    refine ⟨t, hexec, hmem, q', hq', hid, hst'.trans ?_⟩
    rw [hfilter]
    simp only [hlast]

end Sys2Proof.Machine
end
